-- ==== Sys2Proof/Word.lean ====
section
/-!
DEFINITION. The word types of the Glearo G4 and the names of its register classes (spec/02 R27, spec/11 R229).
-/

namespace Sys2Proof

/-- A scalar register's content (R27): 64 bits. -/
abbrev Word := BitVec 64

/-- One byte of memory. -/
abbrev Byte := BitVec 8

/-- One 16-bit word of the instruction stream (R220). -/
abbrev Half := BitVec 16

/-- A scalar register number, s0 to s15 (R229). -/
abbrev SReg := BitVec 4

/-- A vector register number v0 to v31, or a shape record k0 to k31 (R229, R308). -/
abbrev VNum := BitVec 5

/-- A predicate p0 to p7 or a lane mask m0 to m7 (R229). -/
abbrev PNum := BitVec 3

/-- A handle h0 to h63 (R308). -/
abbrev HNum := BitVec 6

end Sys2Proof
end

