-- ==== Sys2Proof/Config.lean ====
section
/-!
DEFINITION. What an implementation fixes, and the free values: constants with no body, of which nothing can be proved.
Times are in twelfths of a nanosecond (spec/01 R2): a core cycle is 5 of them at the nominal 2.4 GHz and a tick of the time base 12.
-/

namespace Sys2Proof.Config

/-- One core cycle at the nominal clock (R2). -/
def cycle : Nat := 5

/-- One tick of the time base, 1 ns (R352). -/
def tick : Nat := 12

/-- One microsecond. -/
def us : Nat := 12000

/-- One millisecond. -/
def ms : Nat := 12000000

/-- The first unused core number above a package's cores, hub included. -/
def coresPerDevice : Nat := 8192

/-- The flits a spawn takes. DESIGN CHOICE: R339 gives only the maximum (log 7). -/
def spawnFlits : Nat := 3

/-- The flits an active message takes. DESIGN CHOICE: R339 gives only the maximum (log 7). -/
def amsgFlits : Nat := 3

/-- The device identity private key of a part (R359): free. Log 5. -/
opaque identityKey : Nat → Nat

/-- The attestation private key that the boot ROM derives from the identity key of a part and measurement 0 (R360): free. Log 5. -/
opaque attestationKey : Nat → BitVec 384 → Nat

/-- The secret number of the n-th signature made (R361): free. Log 5. -/
opaque signatureNonce : Nat → Nat

end Sys2Proof.Config
end

