-- ==== Sys2Proof/Syntax.lean ====
section
/-!
DEFINITION. The instructions and events of the Glearo G4 as data: operand forms (spec/11 R221 to R229), what an event
carries, and the one inductive of steps.
-/

namespace Sys2Proof

/-- A guard (PFX.P, R226): which predicate or lane mask, and whether it is inverted. -/
structure Guard where
  neg : Bool
  idx : PNum
  deriving DecidableEq, Repr

/-- What every instruction may carry: the switch marker S (R26) and a guard (R226). -/
structure Mods where
  sw : Bool := false
  guard : Option Guard := none
  deriving DecidableEq, Repr

/-- The element types of PFX.X[9:7] (R56), in the order of their codes 0 to 7. -/
inductive ElemTy where
  | f32 | f16 | bf16 | i32 | i16 | i8 | u8 | u32
  deriving DecidableEq, Repr

/-- The rounding modes of PFX.X[5:4] (R57), in the order of their codes 0 to 3. -/
inductive Rnd where
  | rne | rz | ru | rd
  deriving DecidableEq, Repr

/-- The arithmetic layout of PFX.X (R227). -/
structure ArithX where
  ty : ElemTy
  sat : Bool := false
  rnd : Rnd := .rne
  deriving DecidableEq, Repr

/-- The memory layout of PFX.X (R227, R119); an absent PFX.X is all zero. -/
structure MemX where
  /-- observer mask: bit 0 C, 1 E, 2 M, 3 P, 4 H -/
  mask : BitVec 5 := 0
  ord : BitVec 2 := 0
  rx : Bool := false
  mig : Bool := false
  bv : Bool := false
  deriving DecidableEq, Repr

/-- `op sa, sb`: two scalar fields a and b, with the synchronised read of b. -/
structure OpAB where
  a : SReg
  b : SReg
  q : Bool := false
  deriving DecidableEq, Repr

/-- A binary scalar form (R249): two-address without c, three-address with it. -/
structure OpBin where
  a : SReg
  b : SReg
  q : Bool := false
  c : Option SReg := none
  deriving DecidableEq, Repr

/-- A form that requires PFX.R and reads field c as a scalar. -/
structure OpABC where
  a : SReg
  b : SReg
  q : Bool := false
  c : SReg
  deriving DecidableEq, Repr

/-- Format I: a register and an immediate of at most 45 bits (R224). -/
structure OpImm where
  a : SReg
  imm : BitVec 45
  deriving DecidableEq, Repr

/-- An I-form shift: its amount, 0 to 63 (R255). -/
structure OpShift where
  a : SReg
  n : BitVec 6
  deriving DecidableEq, Repr

/-- `sext` and `zext`: their width n, 1 to 64 (R256). -/
structure OpExt where
  a : SReg
  n : BitVec 7
  deriving DecidableEq, Repr

/-- `lea` (R257). -/
structure OpLea where
  a : SReg
  b : SReg
  q : Bool := false
  c : Option SReg := none
  off : BitVec 40
  deriving DecidableEq, Repr

/-- `sel` (R259). -/
structure OpSel where
  a : SReg
  b : SReg
  q : Bool := false
  c : Option SReg := none
  p : PNum
  neg : Bool := false
  deriving DecidableEq, Repr

/-- `plog` (R260). -/
structure OpPlog where
  a : PNum
  b : PNum
  c : Option PNum := none
  tt : BitVec 4
  deriving DecidableEq, Repr

/-- A form whose only register is the destination (or subject) sa. -/
structure OpA where
  a : SReg
  deriving DecidableEq, Repr

/-- A form whose only register is the source sb. -/
structure OpB where
  b : SReg
  q : Bool := false
  deriving DecidableEq, Repr

/-- Format C on scalars (R258, R276). -/
structure OpCmp where
  p : PNum
  neg : Bool := false
  a : SReg
  b : SReg
  q : Bool := false
  deriving DecidableEq, Repr

/-- Format CI (R258). -/
structure OpCmpI where
  p : PNum
  neg : Bool := false
  a : SReg
  imm : BitVec 45
  deriving DecidableEq, Repr

/-- Format J: a branch offset in words (R230). -/
structure OpJ where
  off : BitVec 39
  deriving DecidableEq, Repr

/-- Format P: a predicate and a branch offset (R262). -/
structure OpP where
  p : PNum
  neg : Bool := false
  off : BitVec 35
  deriving DecidableEq, Repr

/-- `ld` and `st`: a size (0 b, 1 h, 2 w, 3 d), data a, base b, and the view entry c of `.bv` (R267). -/
structure OpLd where
  sz : BitVec 2
  a : SReg
  b : SReg
  q : Bool := false
  off : BitVec 40
  c : Option SReg := none
  x : MemX := {}
  deriving DecidableEq, Repr

/-- `ldt`: as a load, with the tag destination c (R269). -/
structure OpLdt where
  sz : BitVec 2
  a : SReg
  b : SReg
  q : Bool := false
  off : BitVec 40
  c : SReg
  x : MemX := {}
  deriving DecidableEq, Repr

/-- `ldf`, `ldfe`, `stef` (R267). -/
structure OpLdf where
  sz : BitVec 2
  a : SReg
  b : SReg
  q : Bool := false
  off : BitVec 40
  x : MemX := {}
  deriving DecidableEq, Repr

/-- `setf`, `sete` (R267). -/
structure OpSet where
  b : SReg
  q : Bool := false
  off : BitVec 40
  x : MemX := {}
  deriving DecidableEq, Repr

/-- `fence` (R271): the mask of its PFX.X, if it has one. -/
structure OpFence where
  mask : Option (BitVec 5) := none
  deriving DecidableEq, Repr

/-- `amo.swap` (R270). -/
structure OpAmo where
  a : SReg
  b : SReg
  q : Bool := false
  off : BitVec 40
  x : MemX := {}
  deriving DecidableEq, Repr

/-- `cas` (R270): c holds the new value. -/
structure OpCas where
  a : SReg
  b : SReg
  q : Bool := false
  off : BitVec 40
  c : SReg
  x : MemX := {}
  deriving DecidableEq, Repr

/-- `amo.op`: which operation (R235: 0 add, 1 and, 2 or, 3 xor, 4 min, 5 max, 6 minu, 7 maxu) and the size d or w. -/
structure OpAmoOp where
  op : BitVec 3
  dbl : Bool
  a : SReg
  b : SReg
  q : Bool := false
  off : BitVec 40
  x : MemX := {}
  deriving DecidableEq, Repr

/-- `fcvt` (R278). -/
structure OpCvt where
  a : SReg
  b : SReg
  q : Bool := false
  tgt : BitVec 4
  src : BitVec 4
  deriving DecidableEq, Repr

/-- Field c of a page 3 form: absent, a vector register, or a scalar broadcast to the lanes (R225). -/
inductive VSrc where
  | absent
  | vec (v : VNum)
  | scal (s : SReg)
  deriving DecidableEq, Repr

/-- A binary vector form, or vfma (R291, R292). -/
structure OpVBin where
  a : VNum
  b : VNum
  q : Bool := false
  c : VSrc := .absent
  deriving DecidableEq, Repr

/-- A unary vector form (R291). -/
structure OpVUn where
  a : VNum
  b : VNum
  q : Bool := false
  deriving DecidableEq, Repr

/-- `vcmp` (R295): the mask written and whether it is negated. -/
structure OpVCmp where
  m : PNum
  neg : Bool := false
  a : VNum
  b : VNum
  q : Bool := false
  deriving DecidableEq, Repr

/-- `vsel` (R294). -/
structure OpVSel where
  a : VNum
  b : VNum
  q : Bool := false
  c : VSrc := .absent
  m : PNum
  neg : Bool := false
  deriving DecidableEq, Repr

/-- `vcvt`, `vcvtn` (R296). -/
structure OpVCvt where
  a : VNum
  b : VNum
  q : Bool := false
  tgt : BitVec 4
  src : BitVec 4
  deriving DecidableEq, Repr

/-- A scalar written from a vector: the reductions (R299). -/
structure OpSV where
  a : SReg
  b : VNum
  q : Bool := false
  deriving DecidableEq, Repr

/-- A vector written from a scalar: `vbcast` (R299). -/
structure OpVS where
  a : VNum
  b : SReg
  q : Bool := false
  deriving DecidableEq, Repr

/-- `vext` (R299). -/
structure OpVExt where
  a : SReg
  b : VNum
  q : Bool := false
  idx : BitVec 7
  deriving DecidableEq, Repr

/-- `vins` (R299). -/
structure OpVIns where
  a : VNum
  b : SReg
  q : Bool := false
  idx : BitVec 7
  deriving DecidableEq, Repr

/-- A vector block access (R301). -/
structure OpVMem where
  a : VNum
  b : SReg
  q : Bool := false
  off : BitVec 40
  x : MemX := {}
  deriving DecidableEq, Repr

/-- `vgath`, `vscat`: c is the index register (R301, R302). -/
structure OpVGat where
  a : VNum
  b : SReg
  q : Bool := false
  off : BitVec 40
  c : VNum
  x : MemX := {}
  deriving DecidableEq, Repr

/-- A form whose only register is the vector va. -/
structure OpV where
  a : VNum
  deriving DecidableEq, Repr

/-- A binary lane-mask form (R307). -/
structure OpMBin where
  a : PNum
  b : PNum
  c : Option PNum := none
  deriving DecidableEq, Repr

/-- `mnot` (R307). -/
structure OpMUn where
  a : PNum
  b : PNum
  deriving DecidableEq, Repr

/-- `mset` (R307). -/
structure OpMSet where
  a : PNum
  b : SReg
  q : Bool := false
  deriving DecidableEq, Repr

/-- `mget`, `mpopc`, `mfirst` (R307). -/
structure OpMGet where
  a : SReg
  b : PNum
  deriving DecidableEq, Repr

/-- `shape` (R310). -/
structure OpShape where
  k : VNum
  b : SReg
  q : Bool := false
  off : BitVec 40
  esz : BitVec 3
  deriving DecidableEq, Repr

/-- `cp`, `cp.d` (R311). -/
structure OpCp where
  kd : VNum
  ks : VNum
  h : HNum
  deriving DecidableEq, Repr

/-- `cp.bv`, `cpx`, `cpx.d` (R311): c is the view entry or the descriptor offset. -/
structure OpCpc where
  kd : VNum
  ks : VNum
  h : HNum
  c : SReg
  deriving DecidableEq, Repr

/-- `stream` into a scalar register (R312). -/
structure OpStrS where
  a : SReg
  ks : VNum
  h : HNum
  deriving DecidableEq, Repr

/-- `stream` into a vector register (R312). -/
structure OpStrV where
  a : VNum
  ks : VNum
  h : HNum
  deriving DecidableEq, Repr

/-- A handle form with an operand sb (R313). -/
structure OpHb where
  b : SReg
  q : Bool := false
  h : HNum
  deriving DecidableEq, Repr

/-- A handle form without one (R313). -/
structure OpH where
  h : HNum
  deriving DecidableEq, Repr

/-- `link` (R325): index bits [1:0] DIR, [3:2] SENSE. -/
structure OpLink where
  a : SReg
  idx : BitVec 4
  deriving DecidableEq, Repr

/-- `fwd` (R335): sources b and c. -/
structure OpBC where
  b : SReg
  q : Bool := false
  c : SReg
  deriving DecidableEq, Repr

/-- `hdead`, `hcomp` (R336). -/
structure OpABH where
  a : SReg
  b : SReg
  q : Bool := false
  h : HNum
  deriving DecidableEq, Repr

/-- `trap` (R332). -/
structure OpTrap where
  imm : BitVec 45
  deriving DecidableEq, Repr

/-! ## What an event carries

Cores are named by one number: device × 8192 + core id, with supervisor core n of a package at core id 4096 + n and its hub
at 8191. -/

/-- Who asked, and for which access: where an answer goes. -/
structure Asker where
  core : Nat
  slot : Nat
  id : Nat
  deriving DecidableEq, Repr

/-- The operations of the atomics (R270). -/
inductive AmoKind where
  | swap | add | and | or | xor | min | max | minu | maxu
  deriving DecidableEq, Repr

/-- The parts of a view-table entry that a line controller reads (R137, R139, R143). -/
structure ViewRef where
  core : Nat
  entry : Nat
  name : Nat
  serial : Nat
  sp : Bool
  /-- address of the commit record -/
  record : Word
  deriving DecidableEq, Repr

/-- What an access does at its home (R95, R270, R139, R143); n is its width in bytes. -/
inductive MemOp where
  | load (n : Nat)
  | loadFull (n : Nat)
  | loadFullClear (n : Nat)
  | loadTag (n : Nat)
  | store (n : Nat) (v : Word)
  | storeEmpty (n : Nat) (v : Word)
  | setFull
  | setEmpty
  | amo (k : AmoKind) (n : Nat) (v : Word)
  | cas (n : Nat) (old new : Word)
  /-- a 16-byte write of a drain or of the hub (R87) -/
  | granule (lo hi : Word)
  /-- the next granule or group of the vector form the access names (R303, R304) -/
  | vector
  | viewLoad (n : Nat) (v : ViewRef)
  | bundleStore (n : Nat) (x : Word) (v : ViewRef)
  /-- `crd`, `cwr` and the accesses of supervisor cores to control registers and windows (R94, R331) -/
  | ctlRead
  | ctlWrite (v : Word)
  deriving DecidableEq, Repr

/-- A request on its way to its home (R100, R110). -/
structure Req where
  src : Asker
  asid : Nat
  /-- the supervisor mark (R100) -/
  sup : Bool
  addr : Word
  op : MemOp
  /-- a posted store (R116) -/
  posted : Bool := false
  /-- ordering epoch and path of a posted store to another device (R349) -/
  epoch : Nat := 0
  path : Nat := 0
  /-- a drain write or another engine's write, with no journal entry -/
  engine : Bool := false
  /-- an ordered store that its device has let go on (R350) -/
  ordered : Bool := false
  deriving DecidableEq, Repr

/-- One thing that a fill writes. -/
inductive FillPart where
  /-- a scalar register, with its fill sequence (R30) -/
  | scalar (reg : Nat) (seq : Nat) (v : Word)
  /-- a vector register at its place in the banks, with its fill sequence and the groups written (R303) -/
  | vector (place : Nat) (seq : Nat) (v : BitVec 2048) (groups : Word)
  /-- the view-table entry that a bundle instruction fills (R138) -/
  | entry (i : Nat) (image : BitVec 128)
  /-- the view-table entry that a bundle instruction frees -/
  | free (i : Nat)
  deriving DecidableEq, Repr

/-- A fill on its way to the core that asked (R30). -/
structure FillMsg where
  asker : Asker
  parts : List FillPart
  deriving DecidableEq, Repr

/-- A spawn on its way (R41, R322). -/
structure SpawnMsg where
  src : Asker
  core : Nat
  pc : Nat
  nbank : Nat
  handler : Bool
  asid : Nat
  flush : Bool
  sup : Bool
  args : List Word
  deriving DecidableEq, Repr

/-- A `tenq` on its way to the home core of its TCB (R199). -/
structure TaskArm where
  src : Asker
  reg : Nat
  seq : Nat
  tcb : Word
  asid : Nat
  sup : Bool
  deriving DecidableEq, Repr

/-- Where a decrement comes from (R196). -/
inductive DecrSource where
  | quit | tdep | drain | snap | gang
  deriving DecidableEq, Repr

/-- A decrement on its way to a TCB (R196). -/
structure Decr where
  src : Asker
  kind : DecrSource
  tcb : Word
  asid : Nat
  sup : Bool
  deriving DecidableEq, Repr

/-- The bundle instructions (R138, R143, R144), with the joins and releases that `snap` makes (R147). -/
inductive BundleKind where
  | view | vclose | bopen | bopenJ | bcommit | babort
  deriving DecidableEq, Repr

/-- A bundle operation on its way to the core of its commit record (R135). -/
structure BundleReq where
  src : Asker
  reg : Nat
  seq : Nat
  kind : BundleKind
  record : Word
  /-- the entry named, or the one reserved for the result -/
  entry : Nat
  serial : Nat
  fr : Nat
  opener : Bool
  write : Bool
  asid : Nat
  sup : Bool
  /-- a closing by `quit`, kill or the age rule, which fills no register (R144, R145) -/
  quiet : Bool := false
  deriving DecidableEq, Repr

/-- A context image on its way (R32, R43). -/
structure ImageMsg where
  src : Asker
  core : Nat
  img : List Byte
  gang : Bool
  /-- what the image has no place for: FAULT that the task takes at quit (R391), and NSUCC as its dispatch read it (R194) -/
  fault : Nat
  succs : Option Nat
  deriving DecidableEq, Repr

/-- An active message on its way (R209). -/
structure ActiveMsg where
  src : Asker
  core : Nat
  off : Nat
  args : List Word
  asid : Nat
  sup : Bool
  deriving DecidableEq, Repr

/-- A `wake` on its way (R323); `posted` when it has a journal entry. -/
structure WakeMsg where
  src : Asker
  core : Nat
  slot : Nat
  asid : Nat
  sup : Bool
  posted : Bool
  deriving DecidableEq, Repr

/-- One change of a handle (R172, R336, R156, R415). -/
inductive HandleChange where
  | arrive
  | expect (n : Nat)
  | arriveExpect (n : Nat)
  | subtract (n : Nat)
  | dead
  | complete
  deriving DecidableEq, Repr

/-- A transfer line on its way to its destination (R156): its output bytes and the place of the first of them in the destination's byte stream, the
faults met so far, by FC and address, whether bytes kept from an earlier line of a compression are poisoned, and whether it still fits. -/
structure LineData where
  start : Nat
  bytes : List Byte
  faults : List (Nat × Word)
  bad : Bool := false
  fits : Bool := true
  deriving DecidableEq, Repr

/-- An arrival or a supervisor's change on its way to a handle (R415, R336). -/
structure HandleMsg where
  src : Asker
  core : Nat
  h : Nat
  change : HandleChange
  asid : Nat
  sup : Bool
  /-- the register that `hdead` or `hcomp` fills with its status -/
  reply : Option (Nat × Nat) := none
  /-- the population record of a manager's arrival (R183), for a refusal's trap record -/
  pop : Option Nat := none
  deriving DecidableEq, Repr

/-- What a thread asks its hub (R188, R189, R331, R334 to R337). -/
inductive HubAsk where
  | crd (off : Nat)
  | cwr (off : Nat) (v : Word)
  | xinv (va : Word) (asid : Nat) (all global : Bool)
  | snap (desc : Word)
  | evac (src tgt : Word)
  | glaunch (record : Word) (tick : Nat)
  | popcfg (desc : Word) (idx : Nat)
  | popstep (idx : Nat) (cancel : Bool)
  | popq (idx : Nat)
  | popmig (desc : List Byte)
  | attest (area : Word)
  | bankpw (core : Nat) (ctl : Word)
  | fwd (core : Nat) (entry : Nat) (image : Word)
  deriving DecidableEq, Repr

/-- A request to a hub (R331); `dest` is the register its answer fills, with its fill sequence. -/
structure HubMsg where
  src : Asker
  dev : Nat
  asid : Nat
  sup : Bool
  ask : HubAsk
  dest : Option (Nat × Nat)
  deriving DecidableEq, Repr

/-- A matrix command in the queue (R85, R314): its packet, and the thread that pushed it. -/
structure MatCmd where
  pkt : List Byte
  slot : Nat
  asid : Nat
  sup : Bool
  /-- the pushing thread still runs, and holds the bank the command names (R321) -/
  alive : Bool := true
  /-- restored from a saved queue image, and whether another thread held its bank then (R321, R397) -/
  restored : Bool := false
  orphan : Bool := false
  deriving DecidableEq, Repr

/-- What a busy answer sends back for a retry (R342). -/
inductive BusyWhat where
  | req (r : Req)
  | spawn (m : SpawnMsg)
  | image (m : ImageMsg)
  | amsg (m : ActiveMsg)
  | wake (m : WakeMsg)
  | openMsg (token : Nat) (src dst : Nat)
  | ordered (dev : Nat) (r : Req) (counts : List Nat)
  | fill (f : FillMsg)
  deriving DecidableEq, Repr


/-- One step of the part (spec/opcode_table.json): the 209 instructions of the opcode map (R234 to R241), with their
operands decoded, and after them the events that the part performs without an instruction, with what each carries. -/
inductive Instr where
  -- Page 0: scalar integer and control (R234)
  | nop (m : Mods)
  | mov (m : Mods) (o : OpAB)
  | movi (m : Mods) (o : OpImm)
  | add (m : Mods) (x : Option ArithX) (o : OpBin)
  | addi (m : Mods) (x : Option ArithX) (o : OpImm)
  | sub (m : Mods) (x : Option ArithX) (o : OpBin)
  | mul (m : Mods) (x : Option ArithX) (o : OpBin)
  | mulh (m : Mods) (x : Option ArithX) (o : OpBin)
  | mulhu (m : Mods) (x : Option ArithX) (o : OpBin)
  | div (m : Mods) (x : Option ArithX) (o : OpBin)
  | divu (m : Mods) (x : Option ArithX) (o : OpBin)
  | rem (m : Mods) (x : Option ArithX) (o : OpBin)
  | remu (m : Mods) (x : Option ArithX) (o : OpBin)
  | and (m : Mods) (o : OpBin)
  | andi (m : Mods) (o : OpImm)
  | or (m : Mods) (o : OpBin)
  | ori (m : Mods) (o : OpImm)
  | xor (m : Mods) (o : OpBin)
  | xori (m : Mods) (o : OpImm)
  | not (m : Mods) (o : OpAB)
  | neg (m : Mods) (x : Option ArithX) (o : OpAB)
  | shl (m : Mods) (o : OpBin)
  | shli (m : Mods) (o : OpShift)
  | shr (m : Mods) (o : OpBin)
  | shri (m : Mods) (o : OpShift)
  | sar (m : Mods) (o : OpBin)
  | sari (m : Mods) (o : OpShift)
  | rol (m : Mods) (o : OpBin)
  | min (m : Mods) (x : Option ArithX) (o : OpBin)
  | max (m : Mods) (x : Option ArithX) (o : OpBin)
  | minu (m : Mods) (x : Option ArithX) (o : OpBin)
  | maxu (m : Mods) (x : Option ArithX) (o : OpBin)
  | clz (m : Mods) (o : OpAB)
  | ctz (m : Mods) (o : OpAB)
  | popc (m : Mods) (o : OpAB)
  | sext (m : Mods) (o : OpExt)
  | zext (m : Mods) (o : OpExt)
  | bfx (m : Mods) (o : OpABC)
  | bfi (m : Mods) (o : OpABC)
  | lea (m : Mods) (o : OpLea)
  | sel (m : Mods) (o : OpSel)
  | plog (m : Mods) (o : OpPlog)
  | rdp (m : Mods) (o : OpA)
  | wrp (m : Mods) (o : OpAB)
  | cmpEq (m : Mods) (o : OpCmp)
  | cmpLt (m : Mods) (o : OpCmp)
  | cmpLtu (m : Mods) (o : OpCmp)
  | cmpiEq (m : Mods) (o : OpCmpI)
  | cmpiLt (m : Mods) (o : OpCmpI)
  | cmpiLtu (m : Mods) (o : OpCmpI)
  | cmpiLe (m : Mods) (o : OpCmpI)
  | cmpiLeu (m : Mods) (o : OpCmpI)
  | br (m : Mods) (o : OpJ)
  | brp (m : Mods) (o : OpP)
  | call (m : Mods) (o : OpJ)
  | ret (m : Mods)
  | jmpr (m : Mods) (o : OpB)
  | loop (m : Mods) (o : OpImm)
  | clr (m : Mods) (o : OpA)
  -- Page 1: scalar memory, atomics and bundles (R235)
  | ld (m : Mods) (o : OpLd)
  | st (m : Mods) (o : OpLd)
  | ldt (m : Mods) (o : OpLdt)
  | ldf (m : Mods) (o : OpLdf)
  | ldfe (m : Mods) (o : OpLdf)
  | stef (m : Mods) (o : OpLdf)
  | setf (m : Mods) (o : OpSet)
  | sete (m : Mods) (o : OpSet)
  | fence (m : Mods) (o : OpFence)
  | amoSwapW (m : Mods) (o : OpAmo)
  | amoSwapD (m : Mods) (o : OpAmo)
  | casW (m : Mods) (o : OpCas)
  | casD (m : Mods) (o : OpCas)
  | amoOp (m : Mods) (o : OpAmoOp)
  | view (m : Mods) (o : OpAB)
  | vclose (m : Mods) (o : OpAB)
  | bopen (m : Mods) (o : OpAB)
  | bopenJ (m : Mods) (o : OpAB)
  | bcommit (m : Mods) (o : OpAB)
  | babort (m : Mods) (o : OpAB)
  -- Page 2: scalar float (R236)
  | fadd (m : Mods) (x : Option ArithX) (o : OpBin)
  | fsub (m : Mods) (x : Option ArithX) (o : OpBin)
  | fmul (m : Mods) (x : Option ArithX) (o : OpBin)
  | fdiv (m : Mods) (x : Option ArithX) (o : OpBin)
  | fsqrt (m : Mods) (x : Option ArithX) (o : OpAB)
  | fma (m : Mods) (x : Option ArithX) (o : OpABC)
  | fmin (m : Mods) (x : Option ArithX) (o : OpBin)
  | fmax (m : Mods) (x : Option ArithX) (o : OpBin)
  | fabs (m : Mods) (x : Option ArithX) (o : OpAB)
  | fneg (m : Mods) (x : Option ArithX) (o : OpAB)
  | fcmpEq (m : Mods) (x : Option ArithX) (o : OpCmp)
  | fcmpLt (m : Mods) (x : Option ArithX) (o : OpCmp)
  | fcmpLe (m : Mods) (x : Option ArithX) (o : OpCmp)
  | fcmpUn (m : Mods) (x : Option ArithX) (o : OpCmp)
  | fcvt (m : Mods) (x : Option ArithX) (o : OpCvt)
  | fround (m : Mods) (x : Option ArithX) (o : OpAB)
  | fsin (m : Mods) (x : Option ArithX) (o : OpAB)
  | fcos (m : Mods) (x : Option ArithX) (o : OpAB)
  | fexp2 (m : Mods) (x : Option ArithX) (o : OpAB)
  | flog2 (m : Mods) (x : Option ArithX) (o : OpAB)
  | frcp (m : Mods) (x : Option ArithX) (o : OpAB)
  | fclass (m : Mods) (o : OpAB)
  | fbit (m : Mods) (o : OpBin)
  -- Page 3: vector arithmetic (R237)
  | vadd (m : Mods) (x : Option ArithX) (o : OpVBin)
  | vsub (m : Mods) (x : Option ArithX) (o : OpVBin)
  | vmul (m : Mods) (x : Option ArithX) (o : OpVBin)
  | vfma (m : Mods) (x : Option ArithX) (o : OpVBin)
  | vdiv (m : Mods) (x : Option ArithX) (o : OpVBin)
  | vsqrt (m : Mods) (x : Option ArithX) (o : OpVUn)
  | vmin (m : Mods) (x : Option ArithX) (o : OpVBin)
  | vmax (m : Mods) (x : Option ArithX) (o : OpVBin)
  | vabs (m : Mods) (x : Option ArithX) (o : OpVUn)
  | vneg (m : Mods) (x : Option ArithX) (o : OpVUn)
  | vmulh (m : Mods) (x : Option ArithX) (o : OpVBin)
  | vand (m : Mods) (o : OpVBin)
  | vor (m : Mods) (o : OpVBin)
  | vxor (m : Mods) (o : OpVBin)
  | vnot (m : Mods) (o : OpVUn)
  | vshl (m : Mods) (o : OpVBin)
  | vshr (m : Mods) (o : OpVBin)
  | vsar (m : Mods) (o : OpVBin)
  | vcmpEq (m : Mods) (x : Option ArithX) (o : OpVCmp)
  | vcmpLt (m : Mods) (x : Option ArithX) (o : OpVCmp)
  | vcmpLe (m : Mods) (x : Option ArithX) (o : OpVCmp)
  | vcmpUn (m : Mods) (x : Option ArithX) (o : OpVCmp)
  | vsel (m : Mods) (o : OpVSel)
  | vcvt (m : Mods) (x : Option ArithX) (o : OpVCvt)
  | vcvtn (m : Mods) (x : Option ArithX) (o : OpVCvt)
  | vredadd (m : Mods) (x : Option ArithX) (o : OpSV)
  | vredmin (m : Mods) (x : Option ArithX) (o : OpSV)
  | vredmax (m : Mods) (x : Option ArithX) (o : OpSV)
  | vperm (m : Mods) (o : OpVBin)
  | vrot (m : Mods) (o : OpVBin)
  | vbcast (m : Mods) (o : OpVS)
  | vext (m : Mods) (o : OpVExt)
  | vins (m : Mods) (o : OpVIns)
  | vexp2 (m : Mods) (x : Option ArithX) (o : OpVUn)
  | vrcp (m : Mods) (x : Option ArithX) (o : OpVUn)
  | vmov (m : Mods) (o : OpVUn)
  -- Page 4: vector memory and masks (R238)
  | vld (m : Mods) (o : OpVMem)
  | vst (m : Mods) (o : OpVMem)
  | vldf (m : Mods) (o : OpVMem)
  | vldfe (m : Mods) (o : OpVMem)
  | vstef (m : Mods) (o : OpVMem)
  | vgath (m : Mods) (o : OpVGat)
  | vscat (m : Mods) (o : OpVGat)
  | vclr (m : Mods) (o : OpV)
  | mand (m : Mods) (o : OpMBin)
  | mor (m : Mods) (o : OpMBin)
  | mxor (m : Mods) (o : OpMBin)
  | mnot (m : Mods) (o : OpMUn)
  | mset (m : Mods) (o : OpMSet)
  | mget (m : Mods) (o : OpMGet)
  | mpopc (m : Mods) (o : OpMGet)
  | mfirst (m : Mods) (o : OpMGet)
  -- Page 5: engines, handles and matrix (R239)
  | shape (m : Mods) (o : OpShape)
  | cp (m : Mods) (o : OpCp)
  | cpD (m : Mods) (o : OpCp)
  | cpBv (m : Mods) (o : OpCpc)
  | cpx (m : Mods) (o : OpCpc)
  | cpxD (m : Mods) (o : OpCpc)
  | streamScalar (m : Mods) (o : OpStrS)
  | streamVector (m : Mods) (o : OpStrV)
  | unstreamScalar (m : Mods) (o : OpA)
  | unstreamVector (m : Mods) (o : OpV)
  | hcfg (m : Mods) (o : OpHb)
  | hexpect (m : Mods) (o : OpHb)
  | hexpectA (m : Mods) (o : OpHb)
  | harr (m : Mods) (o : OpH)
  | hwaitP (m : Mods) (o : OpHb)
  | hwaitS (m : Mods) (o : OpHb)
  | hacq (m : Mods) (o : OpH)
  | hrel (m : Mods) (o : OpH)
  | mxs (m : Mods)
  | mxr (m : Mods) (o : OpA)
  -- Page 6: threads, tasks, links and population (R240)
  | spawn (m : Mods) (o : OpAB)
  | quit (m : Mods)
  | yield (m : Mods)
  | park (m : Mods)
  | wake (m : Mods) (o : OpB)
  | mig (m : Mods) (o : OpB)
  | link (m : Mods) (o : OpLink)
  | amsg (m : Mods) (o : OpB)
  | tenq (m : Mods) (o : OpAB)
  | tdep (m : Mods) (o : OpB)
  | bar (m : Mods)
  | fitw (m : Mods) (o : OpB)
  | popq (m : Mods) (o : OpAB)
  | tick (m : Mods) (o : OpA)
  | selfid (m : Mods) (o : OpA)
  | popmig (m : Mods) (o : OpAB)
  | rdsw (m : Mods) (o : OpA)
  | wrsw (m : Mods) (o : OpB)
  -- Page 7: privileged system (R241)
  | crd (m : Mods) (o : OpAB)
  | cwr (m : Mods) (o : OpAB)
  | trap (m : Mods) (o : OpTrap)
  | tret (m : Mods)
  | halt (m : Mods)
  | bankpw (m : Mods) (o : OpAB)
  | xinv (m : Mods) (o : OpAB)
  | snap (m : Mods) (o : OpAB)
  | evac (m : Mods) (o : OpABC)
  | fwd (m : Mods) (o : OpBC)
  | glaunch (m : Mods) (o : OpABC)
  | popcfg (m : Mods) (o : OpABC)
  | popstep (m : Mods) (o : OpAB)
  | hdead (m : Mods) (o : OpABH)
  | hcomp (m : Mods) (o : OpABH)
  | attest (m : Mods) (o : OpAB)
  | asid (m : Mods) (o : OpAB)
  -- Events: no encoding; what an event carries stands in the state
  | matrixPushAcceptance
  | mm
  | ldb
  | drain
  | drainWakeUp
  | accZero
  | ldacc
  | setfmt
  | mfence
  | matrixCommandCompletion
  | copyAcceptance
  | copyTransferLine
  | handleSubtraction
  | streamRefill
  | handleEvaluation
  | remoteHandleArrival
  | snapshotBlockCopy
  | commitRecordOperation
  | bundleStore
  | viewLoad
  | viewAgeExpiry
  | popConsume
  | popChildCommit
  | popLineageAppend
  | popStepClose
  | spawnRequest
  | taskArmRequest
  | decrement
  | dispatch
  | spawnThrottleExpiry
  | bankRiseComplete
  | bankClearComplete
  | clockGate
  | gangReserve
  | gangConfirmation
  | gangConfirmDeadline
  | gangGo
  | gangCancel
  | gangMemberStart
  | barrierArrival
  | contextImage
  | migrationResend
  | activeMessage
  | serviceHandlerStart
  | serviceBuiltinAccess
  | serviceHandlerLimit
  | bankAccess
  | remoteRead
  | remoteWrite
  | remoteAtomic
  | fill
  | acknowledgement
  | refusal
  | trapRecordEntry
  | busy
  | wakeMessage
  | orderedStore
  | orderedStoreRelease
  | hubRequest
  | hubAnswer
  | fabricOpen
  | fabricGrant
  | routerCycle
  | linkWord
  | linkCreditReturn
  | ucieFlit
  | linkFrame
  | deviceAcknowledgement
  | retransmitTimeout
  | creditSyncDue
  | creditSync
  | linkRetrain
  | linkUp
  | linkDown
  | routeRefusalTimeout
  | timeBaseTick
  | timeExchangePeriod
  | timeExchange
  | translationRequest
  | translationWalkComplete
  | hbmChannelRequest
  | bulkBufferInvalidationAck
  | capacityExpansion
  | poolExhaustedTimeout
  | parityRebuild
  | hbmRefresh
  | hbmScrub
  | notLiveLineExpiry
  | tileScrub
  | stateStorageError
  | journalReplay
  | journalCancel
  | contextSave
  | saveFillTimeout
  | contextRestore
  | contextDiscard
  | contextKill
  | vwinWrite
  | routeWrite
  | tmasterWrite
  | linkstWrite
  | registerWrite
  | governorSample
  | junctionOverTemperature
  | packageResetRelease
  | computeDieReset
  | coreReset
  | powerLoss
  | measurementReportRequest
  | windowMetadataClearingEnd
  deriving DecidableEq, Repr

/-- An event with what it carries (spec/opcode_table.json rows without an encoding). Events wait in the state; the step that performs one is the
constructor of `Instr` of the same name. -/
inductive Event where
  /-- MATRIX_PUSH_ACCEPTANCE (R314): The matrix unit accepts a held push once the queue has room and the release is met. -/
  | matrixPushAcceptance (c slot : Nat)
  /-- MM (R318): Accumulates A times a resident B set into an accumulator bank. -/
  | mm (c : Nat) (k : MatCmd)
  /-- LDB (R318): Loads a B set and its column correction registers. -/
  | ldb (c : Nat) (k : MatCmd)
  /-- DRAIN (R87): Writes an accumulator bank to a named core with remote writes. -/
  | drain (c : Nat) (k : MatCmd)
  /-- DRAIN_WAKE_UP (R87): After every drain write is acknowledged, sends the wake-up decrement. -/
  | drainWakeUp (c id : Nat)
  /-- ZERO (R84): Sets an accumulator bank to +0 and marks it full. -/
  | accZero (c : Nat) (k : MatCmd)
  /-- LDACC (R320): Loads an accumulator bank from the tile store. -/
  | ldacc (c : Nat) (k : MatCmd)
  /-- SETFMT (R74): Sets the A and B formats and INT group size. -/
  | setfmt (c : Nat) (k : MatCmd)
  /-- MFENCE (R84): Completes after every earlier matrix command has completed. -/
  | mfence (c : Nat) (k : MatCmd)
  /-- MATRIX_COMMAND_COMPLETION (R86): A command's status record enters the status FIFO when it has room. -/
  | matrixCommandCompletion (c : Nat) (status : Word) (k : MatCmd)
  /-- COPY_ACCEPTANCE (R311): A held copy or stream push is accepted into the copy queue. -/
  | copyAcceptance (c slot : Nat)
  /-- COPY_TRANSFER_LINE (R156): The engine reads one transfer line, transforms and checks it, and writes it. `ok` is the outcome of the line's checks (R162); `data` is what has been read, where the line arrives at its destination. -/
  | copyTransferLine (c id line : Nat) (ok : Bool) (data : Option LineData)
  /-- HANDLE_SUBTRACTION (R156): A performed line's bytes are subtracted from the handle's PEND. -/
  | handleSubtraction (c h n : Nat) (src : Asker) (asid : Nat)
  /-- STREAM_REFILL (R166): The engine places the next stream element in the stream FIFO. -/
  | streamRefill (c id : Nat)
  /-- HANDLE_EVALUATION (R171): The handle table applies one cycle's changes and evaluates the handle once. -/
  | handleEvaluation (c h : Nat)
  /-- REMOTE_HANDLE_ARRIVAL (R415): An arrival from another core or the hub reaches a handle. -/
  | remoteHandleArrival (m : HandleMsg)
  /-- SNAPSHOT_BLOCK_COPY (R147): The snapshot copies one pending block as bundle stores. -/
  | snapshotBlockCopy (c : Nat)
  /-- COMMIT_RECORD_OPERATION (R135): The record's core performs one bundle operation against the record. -/
  | commitRecordOperation (m : BundleReq)
  /-- BUNDLE_STORE (R139): A line controller performs a store under a write entry. -/
  | bundleStore (r : Req)
  /-- VIEW_LOAD (R143): A line controller reads a line under a view entry. -/
  | viewLoad (r : Req)
  /-- VIEW_AGE_EXPIRY (R144): After 10 ms a view is marked fractured by age and its pin released. -/
  | viewAgeExpiry (c entry tick : Nat)
  /-- POP_CONSUME (R180): Once every FIT is full, the manager consumes them in member order. -/
  | popConsume (d idx : Nat)
  /-- POP_CHILD_COMMIT (R183): After the child's copy completes, the manager commits or aborts it. -/
  | popChildCommit (d idx j : Nat)
  /-- POP_LINEAGE_APPEND (R187): The manager writes a lineage record and arrives at the child's handle. -/
  | popLineageAppend (d idx j : Nat)
  /-- POP_STEP_CLOSE (R180): After every loser, arrivals go to non-losers and the generation advances. -/
  | popStepClose (d idx : Nat)
  /-- SPAWN_REQUEST (R41): A spawn arrives at its target core and takes a slot or a spawn-queue entry. -/
  | spawnRequest (m : SpawnMsg)
  /-- TASK_ARM_REQUEST (R199): The home core performs a tenq on a TCB and returns its status. -/
  | taskArmRequest (m : TaskArm)
  /-- DECREMENT (R196): A decrement is performed at a TCB's bank, possibly making it Ready. -/
  | decrement (m : Decr)
  /-- DISPATCH (R190): The core fills an open user slot from its spawn or ready queue. -/
  | dispatch (c : Nat)
  /-- SPAWN_THROTTLE_EXPIRY (R193): The 16-cycle hold after a depth-first spawn or tenq ends. -/
  | spawnThrottleExpiry (c slot : Nat)
  /-- BANK_RISE_COMPLETE (R36): A Retain bank reaches On after 40 cycles. -/
  | bankRiseComplete (c bank : Nat)
  /-- BANK_CLEAR_COMPLETE (R36): A newly allocated bank finishes clearing after 8 cycles. -/
  | bankClearComplete (c slot : Nat)
  /-- CLOCK_GATE (R40): A core with no Ready slot and no service work gates its clocks. -/
  | clockGate (c : Nat)
  /-- GANG_RESERVE (R202): A member core reserves the named slot and configures the barrier handle. -/
  | gangReserve (d launch member : Nat)
  /-- GANG_CONFIRMATION (R202): A reservation's confirmation or refusal reaches the issuing hub. -/
  | gangConfirmation (d launch member code : Nat)
  /-- GANG_CONFIRM_DEADLINE (R202): At T − 2,000 the issuing hub sends go or cancel. -/
  | gangConfirmDeadline (d launch : Nat)
  /-- GANG_GO (R203): A hub's cores receive go for a launch. -/
  | gangGo (d launch hub : Nat)
  /-- GANG_CANCEL (R202): Reservations are released and the record takes state 3. -/
  | gangCancel (d launch hub : Nat)
  /-- GANG_MEMBER_START (R203): When the core's time copy reaches T, the reserved slot becomes Ready. -/
  | gangMemberStart (c slot launch : Nat)
  /-- BARRIER_ARRIVAL (R204): A bar arrival reaches the record's core, completing the barrier at M. -/
  | barrierArrival (src : Asker) (record : Word) (asid : Nat)
  /-- CONTEXT_IMAGE (R43): A migrating context image reaches its target, which accepts, refuses or answers busy. -/
  | contextImage (m : ImageMsg)
  /-- MIGRATION_RESEND (R43): A busy-answered image is resent every 1 µs. -/
  | migrationResend (m : ImageMsg)
  /-- ACTIVE_MESSAGE (R209): An active message enters the target's service queue. -/
  | activeMessage (m : ActiveMsg)
  /-- SERVICE_HANDLER_START (R209): The service slot starts the handler at the head of its queue. -/
  | serviceHandlerStart (c : Nat)
  /-- SERVICE_BUILTIN_ACCESS (R208): The service slot sends a queued remote access to its bank. -/
  | serviceBuiltinAccess (c : Nat)
  /-- SERVICE_HANDLER_LIMIT (R210): A handler reaching its 257th instruction is abandoned. -/
  | serviceHandlerLimit (c : Nat)
  /-- BANK_ACCESS (R218): A tile-store bank grants and performs one access, re-examining held waits. -/
  | bankAccess (c bank : Nat)
  /-- REMOTE_READ (R110): A read request flit arrives at its home. -/
  | remoteRead (c : Nat) (r : Req)
  /-- REMOTE_WRITE (R110): A write request flit arrives at its home. -/
  | remoteWrite (c : Nat) (r : Req)
  /-- REMOTE_ATOMIC (R270): An atomic request flit arrives at its home. -/
  | remoteAtomic (c : Nat) (r : Req)
  /-- FILL (R30): A fill arrives and takes effect if its sequence matches a pending fill. -/
  | fill (f : FillMsg)
  /-- ACKNOWLEDGEMENT (R110): A store or request acknowledgement completes the access at its issuer. -/
  | acknowledgement (t : Asker)
  /-- REFUSAL (R100): A refusal arrives at the issuer and is reported by the access's kind. -/
  | refusal (t : Asker) (cause : Nat)
  /-- TRAP_RECORD_ENTRY (R386): A record waiting at its source enters the trap queue when an entry frees. -/
  | trapRecordEntry (c : Nat)
  /-- BUSY (R342): A busy answer arrives and the sender retries. -/
  | busy (b : BusyWhat)
  /-- WAKE_MESSAGE (R323): A wake arrives at a slot, ending a park or setting the wake bit. -/
  | wakeMessage (m : WakeMsg)
  /-- ORDERED_STORE (R350): An ordered store with per-path counts arrives at its device. -/
  | orderedStore (d : Nat) (r : Req) (counts : List Nat)
  /-- ORDERED_STORE_RELEASE (R350): A held ordered store is performed once every path count is met. -/
  | orderedStoreRelease (d : Nat) (r : Req) (counts : List Nat)
  /-- HUB_REQUEST (R331): A request reaches the hub and is served. -/
  | hubRequest (m : HubMsg)
  /-- HUB_ANSWER (R331): The hub's answer fills the requester's register. `cause` is the exact trap of a request that is refused. -/
  | hubAnswer (m : HubMsg) (v : Word) (cause : Option Nat)
  /-- OPEN (R342): An open asks the destination to reserve a reassembly buffer. -/
  | fabricOpen (token src dst : Nat)
  /-- GRANT (R342): A grant lets the sender send the message's flits. -/
  | fabricGrant (token src dst : Nat)
  /-- ROUTER_CYCLE (R340): A router ejects, routes or deflects the flits that arrive in a cycle. -/
  | routerCycle (c : Nat)
  /-- LINK_WORD (R207): A neighbour-link word arrives, checked against the admit list. -/
  | linkWord (c dir : Nat) (v : Word) (asid : Nat) (src : Asker)
  /-- LINK_CREDIT_RETURN (R205): A neighbour-link credit returns to the writer's core. -/
  | linkCreditReturn (c dir : Nat)
  /-- UCIE_FLIT (R345): A 256-byte UCIe flit crosses a bridge, checked and replayed by the adapter. Bridge n (R354), its direction, and whether the CRC passes. -/
  | ucieFlit (d n : Nat) (fwd ok : Bool)
  /-- LINK_FRAME (R346): A run of chip-link frames arrives, CRC-checked and replayed on mismatch. Link n of the sending device d, and whether the CRC passes. -/
  | linkFrame (d n : Nat) (ok : Bool)
  /-- DEVICE_ACKNOWLEDGEMENT (R348): A destination device's acknowledgement frees a retransmit buffer entry. -/
  | deviceAcknowledgement (d peer seq : Nat)
  /-- RETRANSMIT_TIMEOUT (R348): A message unacknowledged after 20 µs is resent on another path. -/
  | retransmitTimeout (d peer seq : Nat)
  /-- CREDIT_SYNC_DUE (R344): After 256 forward flits or a retrain, the receiver sends a credit sync. -/
  | creditSyncDue (d n ch : Nat) (fwd : Bool)
  /-- CREDIT_SYNC (R344): A credit sync arrives and sets ACR to RET. -/
  | creditSync (d n ch : Nat) (fwd : Bool) (ret crinc : Nat) (ok : Bool)
  /-- LINK_RETRAIN (R344): A buffered link retrains and counts RETRAIN. -/
  | linkRetrain (d n m : Nat)
  /-- LINK_UP (R430): A link or module trains and sets UP, with a hub notice. -/
  | linkUp (d n : Nat)
  /-- LINK_DOWN (R430): A link failing to retrain in 1 ms or retraining too often clears UP. -/
  | linkDown (d n : Nat)
  /-- ROUTE_REFUSAL_TIMEOUT (R431): 1 ms after the last path fails, unacknowledged messages are refused with the route cause. -/
  | routeRefusalTimeout (d peer : Nat)
  /-- TIME_BASE_TICK (R352): The hub's 1 GHz time base advances. -/
  | timeBaseTick (d : Nat)
  /-- TIME_EXCHANGE_PERIOD (R352): Every 1 ms each chip link exchanges time-exchange flits. -/
  | timeExchangePeriod (d : Nat)
  /-- TIME_EXCHANGE (R352): A time exchange arrives and the hub slews toward the master. What a peer's exchange carries: the acting master it knows of, its time, and whether several hubs have TMASTER. -/
  | timeExchange (d : Nat) (master : Option Nat) (time : Nat) (many : Bool)
  /-- TRANSLATION_REQUEST (R104): A station looks up an HBM request in its translation buffer. -/
  | translationRequest (r : Req)
  /-- TRANSLATION_WALK_COMPLETE (R105): A table walk ends with a translation or a fault. -/
  | translationWalkComplete (r : Req)
  /-- HBM_CHANNEL_REQUEST (R110): A channel controller serves an HBM request at its home. -/
  | hbmChannelRequest (r : Req) (pa : Nat) (leaf : Word)
  /-- BULK_BUFFER_INVALIDATION_ACK (R111): A line buffer's invalidation acknowledgement reaches the controller. -/
  | bulkBufferInvalidationAck (t : Asker) (line : Nat)
  /-- CAPACITY_EXPANSION (R108): A station finishes expanding a compressed capacity page. Page at physical address pa; whether its image fails to decode. -/
  | capacityExpansion (d pa : Nat) (err : Bool)
  /-- POOL_EXHAUSTED_TIMEOUT (R109): Without a frame for 64 µs, held requests take translation faults. -/
  | poolExhaustedTimeout (d pa : Nat)
  /-- PARITY_REBUILD (R424): An uncorrectable HBM line is rebuilt and its request completes with delay. Whether a rebuild source exists. -/
  | parityRebuild (d line : Nat) (source : Bool)
  /-- HBM_REFRESH (R219): A channel performs refresh on its fixed schedule. -/
  | hbmRefresh (d channel : Nat)
  /-- HBM_SCRUB (R219): A channel scrubs a line, rebuilding or poisoning it. Whether the line is uncorrectable, and whether a rebuild source exists. -/
  | hbmScrub (d line : Nat) (err source : Bool)
  /-- NOT_LIVE_LINE_EXPIRY (R426): A not-live line is lost 32 ms after its last write. -/
  | notLiveLineExpiry (d line since : Nat)
  /-- TILE_SCRUB (R422): The scrub reads and corrects one granule of a bank. `err`: 0 none, 1 a single-bit error, 2 a double-bit error. -/
  | tileScrub (c granule : Nat) (err : Nat)
  /-- STATE_STORAGE_ERROR (R389): An uncorrectable error in core state storage raises a fatal record. -/
  | stateStorageError (c : Nat) (slot : Option Nat) (structure_ : Nat)
  /-- JOURNAL_REPLAY (R391): Writing ST 2 to a refused journal entry resends the access. -/
  | journalReplay (c j : Nat)
  /-- JOURNAL_CANCEL (R391): Writing ST 3 sends a count-only message and frees the entry. -/
  | journalCancel (c j : Nat)
  /-- CONTEXT_SAVE (R395): CTXCTL OP 1 saves a slot's context and accumulators to the save area. -/
  | contextSave (c : Nat)
  /-- SAVE_FILL_TIMEOUT (R395): A save still waiting after 64 µs stops with ST 2 and a cause-30 record. -/
  | saveFillTimeout (c : Nat)
  /-- CONTEXT_RESTORE (R397): CTXCTL OP 2 restores a saved context into its slot. -/
  | contextRestore (c : Nat)
  /-- CONTEXT_DISCARD (R398): CTXCTL OP 3 frees a saved slot and drops its records. -/
  | contextDiscard (c : Nat)
  /-- CONTEXT_KILL (R398): CTXCTL OP 4 stops a slot and releases its resources without decrements. -/
  | contextKill (c : Nat)
  /-- VWIN_WRITE (R133): A write to VWIN0 or VWIN1 sets a window and clears its metadata. -/
  | vwinWrite (c i : Nat) (v : Word)
  /-- ROUTE_WRITE (R351): A write to ROUTEd updates every core's ROUTEV within 1 µs. -/
  | routeWrite (d peer : Nat) (v : Word)
  /-- TMASTER_WRITE (R353): A write to TMASTER changes the domain's time master and TSTAT. -/
  | tmasterWrite (d : Nat) (v : Word)
  /-- LINKST_WRITE (R355): A write to LINKSTn enables training or clears counters. -/
  | linkstWrite (d n : Nat) (v : Word)
  /-- REGISTER_WRITE (R93): A write to a control register or window without behaviour of its own. -/
  | registerWrite (c off : Nat) (v : Word)
  /-- GOVERNOR_SAMPLE (R364): Every 10 µs the governor samples power and steps the matrix clock. Package power in watts, and whether a junction is above 100 °C. -/
  | governorSample (d : Nat) (power : Nat) (hot : Bool)
  /-- JUNCTION_OVER_TEMPERATURE (R365): Above 115 °C the hub stops every compute die and enters Standby. -/
  | junctionOverTemperature (d : Nat)
  /-- PACKAGE_RESET_RELEASE (R358): The hub self-tests, boots, measures, trains bridges and starts supervisor core 0. -/
  | packageResetRelease (d step : Nat)
  /-- COMPUTE_DIE_RESET (R363): The hub resets the compute dies, losing their state. -/
  | computeDieReset (d : Nat)
  /-- CORE_RESET (R332): The hub resets one core, clearing a halted or fatal state. -/
  | coreReset (c : Nat)
  /-- POWER_LOSS (R434): Package power is removed and everything on it is lost. -/
  | powerLoss (d : Nat)
  /-- MEASUREMENT_REPORT_REQUEST (R362): A management-port datagram requests a signed measurement report. -/
  | measurementReportRequest (d source port : Nat) (payload : List Byte)
  /-- WINDOW_METADATA_CLEARING_END (R133): The metadata clearing started by a VWIN0 or VWIN1 write ends after 1 cycle for every 16 lines, and the accesses held at the banks proceed. -/
  | windowMetadataClearingEnd (c i : Nat)
  deriving DecidableEq, Repr

/-- The step that performs an event. -/
def Event.step : Event → Instr
  | .matrixPushAcceptance _ _ => .matrixPushAcceptance
  | .mm _ _ => .mm
  | .ldb _ _ => .ldb
  | .drain _ _ => .drain
  | .drainWakeUp _ _ => .drainWakeUp
  | .accZero _ _ => .accZero
  | .ldacc _ _ => .ldacc
  | .setfmt _ _ => .setfmt
  | .mfence _ _ => .mfence
  | .matrixCommandCompletion _ _ _ => .matrixCommandCompletion
  | .copyAcceptance _ _ => .copyAcceptance
  | .copyTransferLine _ _ _ _ _ => .copyTransferLine
  | .handleSubtraction _ _ _ _ _ => .handleSubtraction
  | .streamRefill _ _ => .streamRefill
  | .handleEvaluation _ _ => .handleEvaluation
  | .remoteHandleArrival _ => .remoteHandleArrival
  | .snapshotBlockCopy _ => .snapshotBlockCopy
  | .commitRecordOperation _ => .commitRecordOperation
  | .bundleStore _ => .bundleStore
  | .viewLoad _ => .viewLoad
  | .viewAgeExpiry _ _ _ => .viewAgeExpiry
  | .popConsume _ _ => .popConsume
  | .popChildCommit _ _ _ => .popChildCommit
  | .popLineageAppend _ _ _ => .popLineageAppend
  | .popStepClose _ _ => .popStepClose
  | .spawnRequest _ => .spawnRequest
  | .taskArmRequest _ => .taskArmRequest
  | .decrement _ => .decrement
  | .dispatch _ => .dispatch
  | .spawnThrottleExpiry _ _ => .spawnThrottleExpiry
  | .bankRiseComplete _ _ => .bankRiseComplete
  | .bankClearComplete _ _ => .bankClearComplete
  | .clockGate _ => .clockGate
  | .gangReserve _ _ _ => .gangReserve
  | .gangConfirmation _ _ _ _ => .gangConfirmation
  | .gangConfirmDeadline _ _ => .gangConfirmDeadline
  | .gangGo _ _ _ => .gangGo
  | .gangCancel _ _ _ => .gangCancel
  | .gangMemberStart _ _ _ => .gangMemberStart
  | .barrierArrival _ _ _ => .barrierArrival
  | .contextImage _ => .contextImage
  | .migrationResend _ => .migrationResend
  | .activeMessage _ => .activeMessage
  | .serviceHandlerStart _ => .serviceHandlerStart
  | .serviceBuiltinAccess _ => .serviceBuiltinAccess
  | .serviceHandlerLimit _ => .serviceHandlerLimit
  | .bankAccess _ _ => .bankAccess
  | .remoteRead _ _ => .remoteRead
  | .remoteWrite _ _ => .remoteWrite
  | .remoteAtomic _ _ => .remoteAtomic
  | .fill _ => .fill
  | .acknowledgement _ => .acknowledgement
  | .refusal _ _ => .refusal
  | .trapRecordEntry _ => .trapRecordEntry
  | .busy _ => .busy
  | .wakeMessage _ => .wakeMessage
  | .orderedStore _ _ _ => .orderedStore
  | .orderedStoreRelease _ _ _ => .orderedStoreRelease
  | .hubRequest _ => .hubRequest
  | .hubAnswer _ _ _ => .hubAnswer
  | .fabricOpen _ _ _ => .fabricOpen
  | .fabricGrant _ _ _ => .fabricGrant
  | .routerCycle _ => .routerCycle
  | .linkWord _ _ _ _ _ => .linkWord
  | .linkCreditReturn _ _ => .linkCreditReturn
  | .ucieFlit _ _ _ _ => .ucieFlit
  | .linkFrame _ _ _ => .linkFrame
  | .deviceAcknowledgement _ _ _ => .deviceAcknowledgement
  | .retransmitTimeout _ _ _ => .retransmitTimeout
  | .creditSyncDue _ _ _ _ => .creditSyncDue
  | .creditSync _ _ _ _ _ _ _ => .creditSync
  | .linkRetrain _ _ _ => .linkRetrain
  | .linkUp _ _ => .linkUp
  | .linkDown _ _ => .linkDown
  | .routeRefusalTimeout _ _ => .routeRefusalTimeout
  | .timeBaseTick _ => .timeBaseTick
  | .timeExchangePeriod _ => .timeExchangePeriod
  | .timeExchange _ _ _ _ => .timeExchange
  | .translationRequest _ => .translationRequest
  | .translationWalkComplete _ => .translationWalkComplete
  | .hbmChannelRequest _ _ _ => .hbmChannelRequest
  | .bulkBufferInvalidationAck _ _ => .bulkBufferInvalidationAck
  | .capacityExpansion _ _ _ => .capacityExpansion
  | .poolExhaustedTimeout _ _ => .poolExhaustedTimeout
  | .parityRebuild _ _ _ => .parityRebuild
  | .hbmRefresh _ _ => .hbmRefresh
  | .hbmScrub _ _ _ _ => .hbmScrub
  | .notLiveLineExpiry _ _ _ => .notLiveLineExpiry
  | .tileScrub _ _ _ => .tileScrub
  | .stateStorageError _ _ _ => .stateStorageError
  | .journalReplay _ _ => .journalReplay
  | .journalCancel _ _ => .journalCancel
  | .contextSave _ => .contextSave
  | .saveFillTimeout _ => .saveFillTimeout
  | .contextRestore _ => .contextRestore
  | .contextDiscard _ => .contextDiscard
  | .contextKill _ => .contextKill
  | .vwinWrite _ _ _ => .vwinWrite
  | .routeWrite _ _ _ => .routeWrite
  | .tmasterWrite _ _ => .tmasterWrite
  | .linkstWrite _ _ _ => .linkstWrite
  | .registerWrite _ _ _ => .registerWrite
  | .governorSample _ _ _ => .governorSample
  | .junctionOverTemperature _ => .junctionOverTemperature
  | .packageResetRelease _ _ => .packageResetRelease
  | .computeDieReset _ => .computeDieReset
  | .coreReset _ => .coreReset
  | .powerLoss _ => .powerLoss
  | .measurementReportRequest _ _ _ _ => .measurementReportRequest
  | .windowMetadataClearingEnd _ _ => .windowMetadataClearingEnd

end Sys2Proof
end

