-- ==== Sys2Proof/Machine/State.lean ====
section
/-!
DEFINITION. The machine's state, as plain data: every piece of state that spec/ names, for one load-store domain of packages. A
table lists only the entries that differ from what an unlisted key reads as. INVENTORY.md names the rule of each field.
-/

namespace Sys2Proof.Machine

/-- A table of entries by number: at most one entry a key, keys rising. -/
abbrev Table (α : Type) := List (Nat × α)

/-- What an unlisted byte of any memory reads as: zero (R97; for HBM a DESIGN CHOICE, log 4). -/
def unlistedByte : Byte := 0

/-! ## Threads -/

/-- A scalar register (R27, R29, R30, R31, R101). -/
structure XReg where
  v : Word := 0
  full : Bool := true
  /-- 0 normal, 1 stream, 2 link-in, 3 link-out -/
  mode : Nat := 0
  failed : Bool := false
  /-- pending-fill sequence, modulo 8 -/
  seq : Nat := 0
  /-- a fill is pending -/
  pend : Bool := false
  /-- link direction of a bound register (R206) -/
  dir : Nat := 0
  deriving DecidableEq, Repr

/-- A slot's state (R22). -/
inductive SlotSt where
  | free | ready | waiting | held | departing
  deriving DecidableEq, Repr

/-- Why a slot does not issue, with the codes of WHY (R217). -/
inductive Why where
  | none
  /-- empty register: number, and whether a vector register -/
  | reg (n : Nat) (vec : Bool)
  /-- empty link -/
  | link (n : Nat)
  | handle (h : Nat)
  | park
  /-- marker, outstanding accesses, a push or a queue -/
  | access
  /-- the banks that the instruction makes rise (R36), or a bank being cleared -/
  | rise (banks : List Nat)
  | throttle
  deriving DecidableEq, Repr

/-- Where an access's home lies (R110, R120). -/
inductive Home where
  | own
  /-- another core of the issuing device -/
  | device
  | other (dev : Nat)
  | hbm
  deriving DecidableEq, Repr

/-- What becomes of the thread when a non-posted access is acknowledged: where it goes on, and what the instruction then consumes. -/
structure Hold where
  next : Nat
  addr : Nat
  takes : List (Nat × Bool)
  /-- the destination as it was: a refused access leaves no effect (R100) -/
  old : Option (Nat × XReg) := none
  deriving DecidableEq, Repr

/-- An outstanding access of a thread (R110, R113, R115). -/
structure Acc where
  id : Nat
  addr : Word
  home : Home
  relaxed : Bool := false
  store : Bool := false
  /-- an acquire's mask, 0 for none (R122) -/
  acq : BitVec 5 := 0
  /-- destination registers: number or bank place, fill sequence, whether a vector register, and the number a record shows -/
  regs : List (Nat × Nat × Bool × Nat) := []
  /-- journal entry of a posted access (R116), and the second one of an `amsg` (R390) -/
  jrn : Option Nat := none
  jrn2 : Option Nat := none
  /-- a non-posted access that holds its thread -/
  hold : Option Hold := none
  /-- completed, but its bulk-path point is not reached: invalidations still owed (R111) -/
  done : Bool := false
  owed : Nat := 0
  /-- a wait form that may be held at its home (R404) -/
  waits : Bool := false
  /-- the ASID it was issued with (R338), and the supervisor mark (R100) -/
  asid : Nat := 0
  sup : Bool := false
  /-- the address of its instruction -/
  pc : Nat := 0
  /-- the counts that an ordered store to another device carries (R349) -/
  counts : List Nat := []
  /-- the granules or words it touches, by number (R115) -/
  cells : List Nat := []
  deriving DecidableEq, Repr

/-- A push that is held until its queue takes it (R124, R311, R314). -/
inductive Push where
  | matrix | copy
  deriving DecidableEq, Repr

/-- Ordering counts towards one destination device (R349). -/
structure OrdDev where
  dev : Nat
  epoch : Nat
  counts : List Nat
  deriving DecidableEq, Repr

/-- A gang launch's hold on a slot (R202, R203). -/
structure Reservation where
  launch : Nat
  hub : Nat
  tick : Nat
  pc : Nat
  args : List Word
  nbank : Nat
  hb : Nat
  asid : Nat
  flush : Bool
  record : Word
  deriving DecidableEq, Repr

/-- One of a core's 16 slots with its thread's context (R19, R22, R27). -/
structure Slot where
  st : SlotSt := .free
  why : Why := .none
  stopped : Bool := false
  regs : Table XReg := []
  pred : BitVec 16 := 0
  pc : Nat := 0
  asid : Nat := 0
  status : BitVec 32 := 0
  banks : BitVec 8 := 0
  /-- lane masks; unlisted reads as all ones (R35) -/
  masks : Table Word := []
  wake : Bool := false
  work : Word := 0
  hb : Nat := 0
  barSeq : Option Nat := none
  out : List Acc := []
  push : Option Push := none
  /-- when the held push issued (R124, R314), and its instruction with the address after it, as it was fetched (R232) -/
  pushSince : Nat := 0
  pushed : Option (Instr × Nat) := none
  /-- the switch marker holds the slot (R26) -/
  marker : Bool := false
  rsv : Option Reservation := none
  saved : Bool := false
  /-- FAULT that a task takes at quit, 0 for none (R391, R392) -/
  faultAtQuit : Nat := 0
  /-- NSUCC of a task's TCB as it was read at dispatch (R194) -/
  succs : Option Nat := none
  yielded : Bool := false
  throttled : Bool := false
  orders : List OrdDev := []
  /-- the image in transit of a Departing slot, and the operand that named its target (R43) -/
  transit : Option (ImageMsg × Word) := none
  /-- deferred by R287 since this time -/
  deferred : Option Nat := none
  /-- the address of an instruction that has waited for banks in Retain: it issues alone (R402) -/
  rose : Option Nat := none
  /-- a program counter outside the code slice that a control transfer has set: its fetch traps (R230, R406) -/
  strayed : Option Nat := none
  /-- a save, a kill or an evacuation has stopped the slot's issue (R213, R395, R404) -/
  saving : Bool := false
  /-- posted accesses of before a restore, which hold the thread's accesses (R118) -/
  prior : List Nat := []
  /-- where a thread goes on when its wait ends, and whether the waiting instruction carries the switch marker -/
  resume : Option (Nat × Bool) := none
  /-- until when results are not yet produced, by the register's code; unlisted: produced (R250, R287) -/
  due : Table Nat := []
  deriving DecidableEq, Repr

/-! ## A core's resources -/

/-- A vector register in its bank (R19, R29, R35). -/
structure VReg where
  v : BitVec 2048 := 0
  full : Bool := false
  stream : Bool := false
  failed : Bool := false
  seq : Nat := 0
  pend : Bool := false
  deriving DecidableEq, Repr

/-- A vector bank's power state (R36). -/
inductive Power where
  | on | retain | off
  deriving DecidableEq, Repr

/-- A vector bank: its holder, its power state, when the rise that is under way ends, and until when it is being cleared for its holder (R36). -/
structure Bank where
  holder : Option Nat := none
  power : Power := .off
  rising : Option Nat := none
  clears : Option Nat := none
  deriving DecidableEq, Repr

/-- A handle (R169). -/
structure Handle where
  buffer : Bool := false
  f : Bool := false
  fc : Nat := 0
  /-- 0 free, 1 filling, 2 full, 3 draining -/
  bst : Nat := 0
  tgt : Nat := 0
  arr : Nat := 0
  pend : Int := 0
  seq : BitVec 32 := 0
  hslot : Nat := 0
  hv : Bool := false
  deriving DecidableEq, Repr

/-- A thread waiting on a handle (R173, R175), in arrival order. -/
structure HWaiter where
  h : Nat
  slot : Nat
  /-- the value of `hwait.p` (0), `hwait.s` or `bar` (1), or `hacq` (2) -/
  kind : Nat
  v : BitVec 32
  /-- what the instruction consumes when its wait ends -/
  takes : List (Nat × Bool) := []
  deriving DecidableEq, Repr

/-- A change of a handle in the current cycle (R415). -/
structure HPending where
  h : Nat
  /-- 0 the instruction of the cycle, 1 other cores, the hub and the supervisor, 2 copy subtractions -/
  rank : Nat
  change : HandleChange
  slot : Option Nat
  asid : Nat
  reply : Option (Asker × Nat × Nat)
  /-- the core that takes the record of a change turned away, where that is not the handle's own: the one that pushed the copy (R158) -/
  owner : Option Nat := none
  deriving DecidableEq, Repr

/-- A shape record (R151) and its element size (R152). -/
structure Shape where
  image : BitVec 256 := 0
  esz : Nat := 7
  deriving DecidableEq, Repr

/-- A copy in the engine (R149, R155, R159). -/
structure Copy where
  id : Nat
  slot : Nat
  asid : Nat
  sup : Bool
  kd : Shape
  ks : Shape
  h : Nat
  /-- core whose handle table holds h, and whether a `.d` form named it as the destination's -/
  hcore : Nat
  onDest : Bool := false
  /-- write entry of `cp.bv` or of a manager's copy -/
  view : Option ViewRef := none
  /-- transform descriptor: its offset and its 64 bytes (R159) -/
  desc : Option (Nat × List Byte) := none
  /-- the next transfer line to read, how many there are, and how many are done with at their destination -/
  next : Nat := 0
  lines : Nat := 0
  landed : Nat := 0
  /-- source bytes consumed or output bytes written so far (R160) -/
  outlen : Nat := 0
  /-- of those, output bytes that a fault kept from being written (R158, R160) -/
  unwritten : Nat := 0
  /-- output bytes of an HBM word that the next block completes, and whether they are to be written poisoned (R131) -/
  tail : List Byte := []
  tailBad : Bool := false
  /-- the running CRC-32C of the output (R161) -/
  crc : Nat := 0xFFFFFFFF
  /-- a codec error has ended a transform (R160) -/
  failed : Bool := false
  /-- device, population record and child of a manager's copy (R183) -/
  pop : Option (Nat × Nat × Nat) := none
  /-- the first fault: code and line address (R158) -/
  fault : Option (Nat × Word) := none
  deriving DecidableEq, Repr

/-- A stream (R166). -/
structure Stream where
  id : Nat
  slot : Nat
  reg : Nat
  vec : Bool
  shape : Shape
  h : Nat
  asid : Nat
  sup : Bool
  fifo : List (BitVec 2048) := []
  /-- elements or 256-byte runs placed in the FIFO, and popped from it -/
  fetched : Nat := 0
  popped : Nat := 0
  dead : Bool := false
  deriving DecidableEq, Repr

/-- A held matrix B set (R82). -/
structure BSet where
  loaded : Bool := false
  fmt : Nat := 0
  steps : Nat := 0
  gsz : Nat := 0
  /-- the 32 columns: low plane, high plane and scale bytes of each -/
  low : List (List Byte) := []
  high : List (List Byte) := []
  scale : List (List Byte) := []
  poisoned : List Nat := []
  deriving DecidableEq, Repr

/-- An accumulator bank (R83). -/
structure AccBank where
  full : Bool := false
  holder : Option Nat := none
  /-- element (m, n) at 32 m + n; unlisted reads as zero -/
  vals : Table (BitVec 32) := []
  deriving DecidableEq, Repr

/-- A drain with writes, or its wake-up's acknowledgement, still owed (R87), and the bank's values as it read them. -/
structure Drain where
  id : Nat
  cmd : MatCmd
  left : Nat
  refused : Bool := false
  waking : Bool := false
  vals : Table (BitVec 32) := []
  deriving DecidableEq, Repr

/-- A capture of a cell's group sums (R89): how many groups, and the window, 8 bytes an entry by index. -/
structure Capture where
  groups : Nat
  window : Table Word
  deriving DecidableEq, Repr

/-- How far a queued command is (R85): not started, executing, a drain with answers owed, or executed, with the status that it completes with and
the capture that its completion shows. -/
inductive MatSt where
  | waiting
  | busy
  | draining (id : Nat)
  | done (status : Word) (capture : Option Capture)
  deriving DecidableEq, Repr

/-- A command in the queue, which it leaves when it completes. -/
structure MatEntry where
  cmd : MatCmd
  st : MatSt := .waiting
  deriving DecidableEq, Repr

/-- The matrix unit (R82 to R89, R320). -/
structure Matrix where
  afmt : Nat := 0
  bfmt : Nat := 0
  gsz : Nat := 0
  bset0 : BSet := {}
  bset1 : BSet := {}
  accs : Table AccBank := []
  queue : List MatEntry := []
  fifo : List Word := []
  /-- waiting `mxr` requests: who, register, fill sequence -/
  asks : List (Asker × Nat × Nat) := []
  drains : List Drain := []
  /-- MXI_CTL (R88) and the capture window, 8 bytes an entry by index (R89) -/
  ctl : Word := 0
  capture : Table Word := []
  deriving DecidableEq, Repr

/-- The trap queue (R386). -/
structure TrapQueue where
  /-- the 32 entries of the window, by index; unlisted reads as zero -/
  ring : Table (BitVec 256) := []
  head : Nat := 0
  count : Nat := 0
  reserve : Bool := false
  fatal : Bool := false
  waits : Nat := 0
  /-- records waiting at their source, in the order raised -/
  waiting : List (BitVec 256) := []
  deriving DecidableEq, Repr

/-- An entry of the service queue (R208). -/
inductive Service where
  | access (r : Req)
  | message (m : ActiveMsg)
  deriving DecidableEq, Repr

/-- A vector memory form in progress (R303, R304). -/
structure VecForm where
  id : Nat
  slot : Nat
  load : Bool
  /-- wait condition and presence change: 0 plain, 1 wait-full, 2 wait-full-clear, 3 wait-empty-set-full, 4 per group (gather, scatter) -/
  kind : Nat
  place : Nat
  seq : Nat
  data : BitVec 2048
  groups : Word
  /-- steps to go: local offset of the granule or group, and the lowest group it carries -/
  steps : List (Nat × Nat)
  reg : Nat
  deriving DecidableEq, Repr

/-- A request at a bank (R218); with `ev` it stands for an event that is performed once the bank grants it, and `req` then says only who asks
and where. -/
structure BankReq where
  req : Req
  prio : Nat
  since : Nat
  ev : Option Event := none
  deriving DecidableEq, Repr

/-- A spawn waiting in the spawn queue (R191). -/
structure Queued where
  pc : Nat
  nbank : Nat
  asid : Nat
  flush : Bool
  sup : Bool
  args : List Word
  deriving DecidableEq, Repr

/-- The scheduler's own state (R192, R193, R197, R216). -/
structure Sched where
  spawns : List Queued := []
  /-- the ready queue, oldest first: TCB offset, time it became Ready, source core -/
  ready : List (Nat × Nat × Nat) := []
  depthFirst : Bool := false
  lastReady : Bool := false
  spawnRun : Nat := 0
  readyRun : Nat := 0
  deriving DecidableEq, Repr

/-- A message of several flits waiting for its grant (R342). -/
structure OutMsg where
  token : Nat
  dst : Nat
  flits : Nat
  ev : Event
  deriving DecidableEq, Repr

/-- A reassembly buffer (R342). -/
structure Reasm where
  token : Nat
  src : Nat
  got : List Nat := []
  deriving DecidableEq, Repr

/-- A neighbour link's receiving FIFO and the writer's credits, by direction 0 north, 1 east, 2 south, 3 west (R205). -/
structure LinkEnd where
  fifo : List Word := []
  /-- words in flight or queued at the neighbour -/
  used : Nat := 0
  /-- words that came while the core was frozen, each with its ASID and writer (R213) -/
  late : List (Word × Nat × Asker) := []
  deriving DecidableEq, Repr

/-- A snapshot in progress (R147). -/
structure Snapshot where
  pending : List Nat
  image : Word
  view : ViewRef
  wake : Word
  asid : Nat
  deriving DecidableEq, Repr

/-- A context operation in progress (R394): who wrote CTXCTL, when the operation stopped the slot's issue, and the commands that have left the
queue for the queue image (R395). -/
structure CtxOp where
  asker : Option Asker
  since : Option Nat := none
  cmds : List MatEntry := []
  deriving DecidableEq, Repr

/-- What a view-table entry keeps beside its image: reserved for an operation under way, its pin released by age (R144), a `vclose` of it under
way, its serial lost (R433), and the ASID and supervisor mark it was opened under (R100). -/
structure EntryNote where
  pending : Bool := false
  released : Bool := false
  closing : Bool := false
  lost : Bool := false
  asid : Nat := 0
  sup : Bool := false
  deriving DecidableEq, Repr

/-- A request that its core holds back: the accesses whose acknowledgement it waits for (R128), those whose completion or refusal it waits for (R115), and
the counts of an ordered store to another device (R349). -/
structure HeldReq where
  req : Req
  acks : List Nat
  ends : List Nat
  counts : Option (List Nat) := none
  deriving DecidableEq, Repr

/-- One core with everything it holds (R19). -/
structure Core where
  slots : Table Slot := []
  vregs : Table VReg := []
  banks : Table Bank := []
  retainCtl : Bool := false
  links : Table LinkEnd := []
  handles : Table Handle := []
  hwaiters : List HWaiter := []
  hpending : List HPending := []
  shapes : Table Shape := []
  journal : Table (BitVec 256) := []
  traps : TrapQueue := {}
  trapctl : Word := 0
  ctxarea : Word := 0
  ctxctl : Word := 0
  ctxop : Option CtxOp := none
  fit : BitVec 33 := 0
  admitList : Table Word := []
  vwin : Table Word := []
  clearing : List Nat := []
  dirty : Table Word := []
  views : Table (BitVec 128) := []
  notes : Table EntryNote := []
  matrix : Matrix := {}
  sched : Sched := {}
  fwds : Table Word := []
  overflow : List (Nat × Event) := []
  errcnt : Table Nat := []
  service : List Service := []
  /-- the handler running in slot 15: its message, and how many instructions it has issued -/
  handler : Option (ActiveMsg × Nat) := none
  bankq : Table (List BankReq) := []
  waiting : List Req := []
  vecs : List VecForm := []
  /-- the copy queue's entries in use, by copy (R149) -/
  copyq : List Nat := []
  copies : List Copy := []
  streams : List Stream := []
  /-- fills that take effect when a bank has risen, by its number (R402) -/
  atRise : List (Nat × Event) := []
  snapshot : Option Snapshot := none
  /-- posted accesses whose thread has left (R398) -/
  orphans : List Acc := []
  /-- requests of accesses that have issued, held behind earlier ones of their thread (R115, R128) -/
  heldBack : List HeldReq := []
  outbox : List OutMsg := []
  reasm : List Reasm := []
  /-- the clock runs, as opposed to gated (R40) -/
  running : Bool := false
  halted : Bool := false
  frozen : Bool := false
  /-- an evacuation from this core: when it began, and its request (R213) -/
  evac : Option (Nat × Nat) := none
  cycles : Nat := 0
  /-- the service slot took the scalar port in the previous cycle, and in this one (R24) -/
  served : Bool := false
  serving : Bool := false
  /-- the slots that have had their turn in the current cycle (R24) -/
  issued : List Nat := []
  /-- the vector unit is occupied until this time (R287) -/
  vbusy : Nat := 0
  deriving DecidableEq, Repr

/-! ## The package -/

/-- A flit, with the event its message makes at the destination (R339). -/
structure Flit where
  dst : Nat
  /-- router the flit heads for: the destination's, or the hub port's (R343) -/
  router : Nat
  src : Nat
  age : Nat := 0
  hub : Bool := false
  /-- its message, index and the number of flits of a message of several -/
  part : Option (Nat × Nat × Nat) := none
  /-- TYPE, and the header's bits that must be zero -/
  type : Nat := 1
  zeros : Nat := 0
  ev : Event
  deriving DecidableEq, Repr

/-- A router: flits at its inputs (0 north, 1 east, 2 south, 3 west; 4 more for those of an odd cycle), flits that no output has taken yet,
flits at its injection port, and whether its next cycle is on the agenda (R340). -/
structure Router where
  inputs : Table Flit := []
  kept : List Flit := []
  inject : List Flit := []
  armed : Bool := false
  deriving DecidableEq, Repr

/-- A flit on a chip link, with its envelope (R346). -/
structure Frame where
  src : Nat
  dst : Nat
  seq : Nat
  path : Nat
  ev : Event
  /-- the reassembly buffer that its message fills (R342) -/
  token : Option Nat
  /-- its index, and the flits of its message -/
  part : Nat × Nat := (0, 1)
  /-- the device-level acknowledgement of a SEQ (R347), or a flit of the link itself: a credit sync or a time exchange (R344, R352) -/
  ack : Bool := false
  /-- when it arrives, once it is on the wire -/
  due : Nat := 0
  deriving DecidableEq, Repr

/-- A flit that crosses a bridge: the router it comes to × 4 + the input there, and when it arrives (R341, R345). -/
structure Crossing where
  at_ : Nat
  due : Nat
  flit : Flit
  deriving DecidableEq, Repr

/-- One direction of one channel of a buffered link (R344). -/
structure Channel where
  sent : Nat := 0
  acr : Nat := 0
  ret : Nat := 0
  /-- releases not yet reported in CRINC -/
  unreported : Nat := 0
  /-- forward flits since the last credit sync -/
  forward : Nat := 0
  /-- credit syncs on their way -/
  syncing : Nat := 0
  /-- a bridge's flits, in order -/
  flits : List Crossing := []
  /-- a chip link's frames, queued and on the wire, in order -/
  frames : List Frame := []
  wire : List Frame := []
  deriving DecidableEq, Repr

/-- A chip link or a bridge: its register LINKSTn (R355), and its channels by 2 × number + 1 for the forward direction. A chip link has channel 0,
whose forward direction leaves the package. -/
structure Link where
  up : Bool := false
  en : Bool := false
  resync : Nat := 0
  retry : Nat := 0
  retrain : Nat := 0
  chans : Table Channel := []
  /-- a bridge's modules that have failed (R345) -/
  lost : Nat := 0
  /-- modules that have retrained of late, with the times (R430) -/
  recent : List (Nat × Nat) := []
  training : Bool := false
  deriving DecidableEq, Repr

/-- A message kept until its device acknowledges it (R348). -/
structure Unacked where
  seq : Nat
  path : Nat
  ev : Event
  dst : Nat
  since : Nat
  /-- on a link, as opposed to waiting for one -/
  sentOn : Option Nat
  token : Option Nat
  flits : Nat := 1
  deriving DecidableEq, Repr

/-- A message for another device that waits for a place in the retransmit buffer (R348). -/
structure Outgoing where
  ev : Event
  token : Option Nat
  path : Option Nat
  flits : Nat
  deriving DecidableEq, Repr

/-- What a package keeps for a peer device (R347, R348). -/
structure Peer where
  nextSeq : Nat := 0
  unacked : List Unacked := []
  /-- messages beyond the 256 that may be unacknowledged -/
  held : List Outgoing := []
  /-- acknowledgements that wait for a link -/
  acks : List Nat := []
  robin : Nat := 0
  highest : Option Nat := none
  window : List Nat := []
  /-- the flits that have come of messages not yet complete: SEQ and index -/
  got : List (Nat × Nat) := []
  lostAt : Option Nat := none
  deriving DecidableEq, Repr

/-- A member of a population, with the fitness consumed and whether it is replaced in this step (R178, R180). -/
structure PopMember where
  core : Nat
  fit : BitVec 32 := 0
  loser : Bool := false
  deriving DecidableEq, Repr

/-- One replacement under way (R183). -/
structure PopChild where
  child : Nat
  parent : Nat
  pfit : BitVec 32
  cfit : BitVec 32
  serial : Nat
  kind : Nat
  seed : Word
  sigma : BitVec 32
  gen : Nat
  /-- the descriptor and the ASID of the population record when the replacement began: `popcfg` may replace the record under a migration -/
  desc : List Byte := []
  asid : Nat := 0
  skip : Bool := false
  crc : Nat := 0
  /-- the first fault of its copy -/
  fault : Option (Nat × Word) := none
  /-- it has failed, and its serial is being aborted, or reverted where the flag says that it was lost (R183) -/
  abort : Option Bool := none
  /-- committed or failed, and waiting for its lineage turn -/
  ready : Bool := false
  /-- its open waits for a page of the record's manifest (R109) -/
  opening : Bool := false
  deriving DecidableEq, Repr

/-- A population record of the manager (R178). -/
structure Pop where
  configured : Bool := false
  desc : List Byte := []
  members : List PopMember := []
  asid : Nat := 0
  gen : BitVec 32 := 0
  head : Nat := 0
  /-- 0 idle, 1 wait, 2 consume or rank, 3 replace -/
  phase : Nat := 0
  children : Table PopChild := []
  /-- the number of the next child, and of the next one to append a lineage record for (R187) -/
  nextChild : Nat := 0
  nextLog : Nat := 0
  deriving DecidableEq, Repr

/-- A member entry of a gang record (R201). -/
structure Member where
  core : Nat := 0
  slot : Nat := 0
  nbank : Nat := 0
  pc : Nat := 0
  args : List Word := []
  deriving DecidableEq, Repr

/-- A gang launch that this hub issued, with what its staging read of the record (R202). -/
structure Launch where
  record : Word
  tick : Nat
  asid : Nat
  flush : Bool
  hb : Nat
  /-- the completion TCB, 0 for none -/
  wake : Word
  members : List Member
  /-- confirmation codes by member: 0 confirmed, else the failure code -/
  answers : Table Nat := []
  decided : Bool := false
  failed : Bool := false
  deriving DecidableEq, Repr

/-- The power state of a package (R363). -/
inductive PowerState where
  | off | standby | active
  deriving DecidableEq, Repr

/-- An entry of the ordering table (R350). -/
structure OrdEntry where
  dev : Nat
  core : Nat
  slot : Nat
  epoch : Nat
  path : Nat
  n : Nat
  deriving DecidableEq, Repr

/-- A buffered translation (R104, R106): its station and ASID, the number of the page it maps, whether that page is one of 2 MiB, the leaf, and
the leaf's physical address. -/
structure Buffered where
  station : Nat
  asid : Nat
  page : Nat
  big : Bool
  leaf : Word
  at_ : Nat
  deriving DecidableEq, Repr

/-- A page that a walk has met mapped (R97): the physical address of its leaf, its frame, its size there in bytes, and the ASID and an offset
that the walk was for. -/
structure PageUse where
  at_ : Nat
  frame : Nat
  span : Nat
  asid : Nat
  va : Nat
  deriving DecidableEq, Repr

/-- Requests that wait for the expansion of a capacity page (R109): the frame of its image by number, the leaf's address, the first request's
core, station, ASID and address, since when the pool has had no frame for it, and the events to perform after the expansion. -/
structure Stall where
  frame : Nat
  at_ : Nat
  core : Nat
  station : Nat
  asid : Nat
  addr : Word
  starved : Option Nat := none
  evs : List Event
  deriving DecidableEq, Repr

/-- A 64-byte line buffer of the bulk path (R111): its station, its physical line and bytes, and the accesses whose invalidation of it is on
its way. -/
structure LineBuf where
  station : Nat
  line : Nat
  bytes : List Byte
  stale : List Nat := []
  deriving DecidableEq, Repr

/-- A datagram that the management port has sent (R362): the source of the request that it answers, and its payload. -/
structure Datagram where
  dest : Nat
  payload : List Byte
  deriving DecidableEq, Repr

/-- A hub with its registers and the units on its die (R354, R356). -/
structure Hub where
  /-- which part it is, with its fused identity key (R359), and whether the package is of the form GL4-4096-M, else GL4-4096-P (R366) -/
  part : Nat := 0
  formM : Bool := false
  hubdev : Nat := 0
  time : Nat := 0
  tmaster : Bool := false
  tstat : Nat := 0
  /-- ticks that the time base has yet to gain or lose (R352) -/
  slew : Int := 0
  /-- ROUTEV as the package's cores see it (R351) -/
  routev : Word := 0
  xltRoot : Word := 0
  routes : Table Word := []
  links : Table Link := []
  peers : Table Peer := []
  notices : Table Nat := []
  pops : Table Pop := []
  launches : Table Launch := []
  nextLaunch : Nat := 0
  orders : List OrdEntry := []
  /-- the epoch of the next ordered store of a slot, by source core × 16 + slot, once one is known (R128, R350; log 88) -/
  epochs : Table Nat := []
  heldOrders : List (Req × List Nat) := []
  power : PowerState := .active
  matrixMHz : Nat := 2400
  /-- the governor's samples of the last millisecond, the latest first, and how many samples in a row have been below 95 % of the limit, or hot
  (R364) -/
  samples : List Nat := []
  belowFor : Nat := 0
  hotFor : Nat := 0
  /-- the last boot step that has finished (R358) -/
  boot : Nat := 0
  flash : List Byte := []
  /-- the first bytes of the 4 KiB configuration block; the others are zero -/
  config : List Byte := []
  flashLog : List Nat := []
  /-- measurement 0 and 1, valid once `measured` (R358, R361) -/
  meas0 : BitVec 384 := 0
  meas1 : BitVec 384 := 0
  measured : Bool := false
  /-- which signature it was that the identity key made at boot (R360) -/
  certified : Nat := 0
  datagrams : List Datagram := []
  machineChecks : List Nat := []
  /-- the stations' translation buffers, newest first (R104, R106) -/
  tlb : List Buffered := []
  /-- pages that walks have met, newest first (R97) -/
  pages : List PageUse := []
  /-- bulk-path line buffers that stations and the hub hold (R111) -/
  lineBufs : List LineBuf := []
  /-- requests held at the channel controllers, in arrival order, with their physical address and leaf (R96) -/
  hbmWaiting : List (Req × Nat × Word) := []
  /-- 64 KiB frames, by number: those that hold a compressed page, those expanded whose image is still kept, and the uncompressed pool (R108,
  R109, R425) -/
  compressed : List Nat := []
  retained : List Nat := []
  pool : List Nat := []
  /-- what waits for the expansion of a page -/
  expanding : List Stall := []
  /-- not-live lines whose content is lost, and the time of the last write of each live one (R426) -/
  lost : List Nat := []
  lastWrite : Table Nat := []
  deriving DecidableEq, Repr

/-! ## The whole -/

/-- Which turn of the issue rule comes next in the current cycle (R24). -/
inductive TurnKind where
  | deferred | owner | pair | service | fillScalar | fillWide
  deriving DecidableEq, Repr

/-- One issue turn left in the current cycle; `slot` is the owner of the cycle. -/
structure Turn where
  core : Nat
  kind : TurnKind
  slot : Nat
  deriving DecidableEq, Repr

/-- An event and the time at which it is due. -/
structure Due where
  at_ : Nat
  ev : Event
  deriving DecidableEq, Repr

/-- The instruction being issued: its core, slot, address and the address after it (R220). -/
structure Issue where
  core : Nat
  slot : Nat
  addr : Nat
  next : Nat
  deriving DecidableEq, Repr

/-- The machine. -/
structure State where
  mem : List Host.Cell
  /-- presence bits that differ from what an unlisted location has (R95) -/
  pres : Table Bool
  /-- poisoned granules and words (R422, R424) -/
  poison : List Nat
  cores : Table Core
  hubs : Table Hub
  routers : Table Router
  cur : Issue
  turns : List Turn
  agenda : List Due
  /-- the event that the step performs, taken from the agenda -/
  event : Option Event
  /-- events on the agenda whose bank has granted them (R218) -/
  granted : List Event
  delays : List Nat
  now : Nat
  nextId : Nat
  freeCtr : Nat
  /-- which link of which package each chip link reaches: device × 16 + link to device × 16 + link -/
  wiring : Table Nat
  deriving DecidableEq, Repr

/-- Why a step stops for good: none of the machine's behaviours does. Raised by no meaning; it stands for a word chain the decoder
refuses without the fetch having taken the trap, which `step` never does. Safe: a stop proves nothing. -/
inductive Fault where
  /-- unreachable: kept so that the type has a value -/
  | none
  deriving DecidableEq, Repr

/-- Why there is no meaning. -/
inductive Refusal where
  /-- an instruction without a meaning; raised by `exec`'s arms that name it. Safe: nothing runs. -/
  | notModelled (mnemonic : String)
  deriving DecidableEq, Repr

/-- Supervisor core 0 of device 0, where firmware starts (R358). -/
def bootCore : Nat := 4096

/-- The first thread (R358, step 5): every scalar register zero and full, SUP set, ASID 0, work address zero; its program counter is the
image's entry offset, 0 here (DESIGN CHOICE, log 2). -/
def bootSlot : Slot := { st := .ready, status := 2 }

/-- The hub after boot step 4: bridges trained (R355, R358). -/
def bootLinks : Table Link := (List.range 16).map fun i => (16 + i, { up := true, en := true })

/-- The SHA-384 digest of no bytes: the measurement of an empty image (R358, step 3; log 2). -/
def emptyDigest : BitVec 384 := 0x38B060A751AC96384CD9327EB1B1E36A21FDB71114BE07434C0CC7BF63F6E1DA274EDEBFE76F65FBD51AD2F14898B95B

/-- The SHA-384 digest of 4,096 zero bytes: the measurement of a configuration block of zeros (R358, step 3; log 2). -/
def zeroBlockDigest : BitVec 384 := 0xC0E59A3E3FFBD3B5C75428FB36432FACABC745944296FF515F737C4FEF4EFC64586809F7A16F56354A1EAECF2AA8D774

/-- The machine right after boot step 5 of R358, with one package, an empty boot image, and a configuration block of zeros, whose granules in supervisor
core 0's tile store are full (log 2). -/
def State.reset : State where
  mem := []
  pres := (List.range 256).map fun i => (2 ^ 28 + 0xFE00 + i, true)
  poison := []
  cores := [(bootCore, { slots := [(0, bootSlot)], running := true })]
  hubs := [(0, { links := bootLinks, boot := 5, measured := true, meas0 := emptyDigest, meas1 := zeroBlockDigest })]
  routers := []
  cur := ⟨bootCore, 0, 0, 0⟩
  turns := []
  agenda := []
  event := none
  granted := []
  delays := []
  now := 0
  nextId := 1
  freeCtr := 0
  wiring := []

end Sys2Proof.Machine
end

