-- ==== Sys2Proof/Machine/Table.lean ====
section
/-!
DEFINITION. Tables by number, and the byte memory: a list of cells in one canonical form, addresses strictly rising and no cell that
holds what an unlisted address reads as.
-/

namespace Sys2Proof.Machine

variable {α : Type}

/-- What a table holds at a key, `d` where it lists nothing. -/
def Table.get (d : α) : Table α → Nat → α
  | [], _ => d
  | (k, v) :: t, n => if k = n then v else if n < k then d else Table.get d t n

/-- A table with one entry set; keys stay rising. -/
def Table.put : Table α → Nat → α → Table α
  | [], n, x => [(n, x)]
  | (k, v) :: t, n, x => if n = k then (n, x) :: t else if n < k then (n, x) :: (k, v) :: t else (k, v) :: Table.put t n x

/-- A table without an entry. -/
def Table.drop (t : Table α) (n : Nat) : Table α := t.filter fun e => e.1 != n

/-- A table with every listed entry changed. -/
def Table.mapVals (f : α → α) : Table α → Table α
  | [] => []
  | (k, v) :: t => (k, f v) :: Table.mapVals f t

/-- Whether a table lists a key. -/
def Table.has (t : Table α) (n : Nat) : Bool := t.any fun e => e.1 == n

/-- An entry placed behind those of its key and below. -/
def insertOn (key : α → Nat) (x : α) : List α → List α
  | [] => [x]
  | y :: ys => if key x < key y then x :: y :: ys else y :: insertOn key x ys

/-- A list in the order of a key; entries of one key keep their order. -/
def sortOn (key : α → Nat) (xs : List α) : List α := xs.foldl (fun acc x => insertOn key x acc) []

/-! ## Memory -/

/-- The byte at an address. -/
def memByte : List Host.Cell → Nat → Byte
  | [], _ => unlistedByte
  | (k, v) :: m, n => if k = n then v else if n < k then unlistedByte else memByte m n

/-- Memory with one byte written: writing what an unlisted address reads as removes the cell. -/
def memPut : List Host.Cell → Nat → Byte → List Host.Cell
  | [], n, x => if x = unlistedByte then [] else [(n, x)]
  | (k, v) :: m, n, x =>
    if n = k then (if x = unlistedByte then m else (n, x) :: m)
    else if n < k then (if x = unlistedByte then (k, v) :: m else (n, x) :: (k, v) :: m)
    else (k, v) :: memPut m n x

/-- The canonical form from an address up: addresses strictly rising, at or above `lo`, no cell equal to the unlisted byte. -/
def memWfFrom : Nat → List Host.Cell → Bool
  | _, [] => true
  | lo, (k, v) :: m => decide (lo ≤ k) && decide (v ≠ unlistedByte) && memWfFrom (k + 1) m

/-- The canonical form of a memory. -/
def Memory.wf (m : List Host.Cell) : Bool := memWfFrom 0 m

/-- The n bytes from an address up. -/
def memRead (m : List Host.Cell) (a : Nat) : Nat → List Byte
  | 0 => []
  | n + 1 => memByte m a :: memRead m (a + 1) n

/-- Memory with bytes written from an address up. -/
def memWrite (m : List Host.Cell) (a : Nat) : List Byte → List Host.Cell
  | [] => m
  | x :: xs => memWrite (memPut m a x) (a + 1) xs

/-- Memory with every byte from `a` up to, not including, `b` back to the unlisted byte. -/
def memClear (m : List Host.Cell) (a b : Nat) : List Host.Cell := m.filter fun e => decide (e.1 < a) || decide (b ≤ e.1)

/-! ## Little-endian values (R5) -/

/-- The number that bytes form, least significant first. -/
def leNat : List Byte → Nat
  | [] => 0
  | x :: xs => x.toNat + 256 * leNat xs

/-- The n low bytes of a number, least significant first. -/
def natLe : Nat → Nat → List Byte
  | 0, _ => []
  | n + 1, v => BitVec.ofNat 8 v :: natLe n (v / 256)

/-- A bit field of a number: bits [lo + w − 1 : lo]. -/
def bitsOf (v lo w : Nat) : Nat := v / 2 ^ lo % 2 ^ w

/-- A number with a bit field replaced. -/
def setBits (v lo w x : Nat) : Nat := v - bitsOf v lo w * 2 ^ lo + x % 2 ^ w * 2 ^ lo

/-- 1 or 0. -/
def b2n (b : Bool) : Nat := if b then 1 else 0

/-- Whether bit i of a number is set. -/
def bitAt (v i : Nat) : Bool := v / 2 ^ i % 2 == 1

end Sys2Proof.Machine
end

