-- ==== Sys2Proof/Machine/Ops.lean ====
section
/-!
DEFINITION. The named operations that every meaning is written in: reaching a core, a slot or a register; putting an event on the agenda;
ending waits; taking an exception (spec/19) and returning from one.
-/

namespace Sys2Proof.Machine

/-! ## Names of cores -/

def devOf (c : Nat) : Nat := c / Config.coresPerDevice
def idOf (c : Nat) : Nat := c % Config.coresPerDevice
def coreOf (d i : Nat) : Nat := d * Config.coresPerDevice + i
def hubOf (d : Nat) : Nat := coreOf d 8191

/-- A supervisor core (R356). -/
def isSuper (c : Nat) : Bool := decide (4096 ≤ idOf c) && decide (idOf c < 4104)

/-- A compute core (R12). -/
def isCompute (c : Nat) : Bool := decide (idOf c < 4096)

/-- The die of a compute core: x = id mod 64, y = id div 64, four dies of 16 columns by two of 32 rows (R12). -/
def dieOf (c : Nat) : Nat := idOf c % 64 / 16 + 4 * (idOf c / 64 / 32)

/-- The fabric-direct address of an offset of a compute core (R90). -/
def fabricAddr (c off : Nat) : Word := BitVec.ofNat 64 (2 ^ 63 + devOf c * 2 ^ 57 + idOf c % 4096 * 2 ^ 45 + off)

/-! ## Reaching state -/

def State.core (s : State) (c : Nat) : Core := s.cores.get {} c
def State.setCore (s : State) (c : Nat) (k : Core) : State := { s with cores := s.cores.put c k }
def State.modCore (s : State) (c : Nat) (f : Core → Core) : State := s.setCore c (f (s.core c))

def Core.slot (k : Core) (n : Nat) : Slot := k.slots.get {} n
def Core.setSlot (k : Core) (n : Nat) (t : Slot) : Core := { k with slots := k.slots.put n t }

def State.slot (s : State) (c n : Nat) : Slot := (s.core c).slot n
def State.setSlot (s : State) (c n : Nat) (t : Slot) : State := s.modCore c fun k => k.setSlot n t
def State.modSlot (s : State) (c n : Nat) (f : Slot → Slot) : State := s.setSlot c n (f (s.slot c n))

def State.hub (s : State) (d : Nat) : Hub := s.hubs.get {} d
def State.setHub (s : State) (d : Nat) (h : Hub) : State := { s with hubs := s.hubs.put d h }
def State.modHub (s : State) (d : Nat) (f : Hub → Hub) : State := s.setHub d (f (s.hub d))

/-- The slot of the instruction being issued. -/
def State.me (s : State) : Slot := s.slot s.cur.core s.cur.slot
def State.myCore (s : State) : Core := s.core s.cur.core
/-- ROUTEV of the issuing core (R351). -/
def State.myRoutes (s : State) : Word := (s.hub (devOf s.cur.core)).routev
def State.modMe (s : State) (f : Slot → Slot) : State := s.modSlot s.cur.core s.cur.slot f
def State.modMyCore (s : State) (f : Core → Core) : State := s.modCore s.cur.core f

def Slot.reg (t : Slot) (n : Nat) : XReg := t.regs.get {} n
def Slot.setReg (t : Slot) (n : Nat) (r : XReg) : Slot := { t with regs := t.regs.put n r }
def Slot.modReg (t : Slot) (n : Nat) (f : XReg → XReg) : Slot := t.setReg n (f (t.reg n))
def Slot.mask (t : Slot) (n : Nat) : Word := t.masks.get (BitVec.allOnes 64) n

def Core.vreg (k : Core) (p : Nat) : VReg := k.vregs.get {} p
def Core.setVreg (k : Core) (p : Nat) (v : VReg) : Core := { k with vregs := k.vregs.put p v }
def Core.bank (k : Core) (b : Nat) : Bank := k.banks.get {} b
def Core.setBank (k : Core) (b : Nat) (x : Bank) : Core := { k with banks := k.banks.put b x }
def Core.handle (k : Core) (h : Nat) : Handle := k.handles.get {} h
def Core.setHandle (k : Core) (h : Nat) (x : Handle) : Core := { k with handles := k.handles.put h x }
def Core.shape (k : Core) (n : Nat) : Shape := k.shapes.get {} n
def Core.jrn (k : Core) (n : Nat) : BitVec 256 := k.journal.get 0 n
def Core.setJrn (k : Core) (n : Nat) (x : BitVec 256) : Core := { k with journal := k.journal.put n x }
def Core.view (k : Core) (n : Nat) : BitVec 128 := k.views.get 0 n
def Core.setView (k : Core) (n : Nat) (x : BitVec 128) : Core := { k with views := k.views.put n x }
def Core.acc (k : Core) (n : Nat) : AccBank := k.matrix.accs.get {} n
def Core.modMatrix (k : Core) (f : Matrix → Matrix) : Core := { k with matrix := f k.matrix }
def Core.setAcc (k : Core) (n : Nat) (x : AccBank) : Core := k.modMatrix fun m => { m with accs := m.accs.put n x }

/-! ## The status word (R34) -/

def Slot.flush (t : Slot) : Bool := t.status.getLsbD 0
def Slot.sup (t : Slot) : Bool := t.status.getLsbD 1
def Slot.task (t : Slot) : Bool := t.status.getLsbD 2
def Slot.gang (t : Slot) : Bool := t.status.getLsbD 3
def Slot.nbank (t : Slot) : Nat := (t.status.extractLsb' 4 2).toNat
def Slot.traph (t : Slot) : Bool := t.status.getLsbD 6

/-- The number of banks of an NBANK code (R34). -/
def bankCount (code : Nat) : Nat := if code = 3 then 4 else code

/-- A status word from its fields (R34). -/
def statusOf (flush sup task gang : Bool) (nbank : Nat) (traph : Bool) : BitVec 32 :=
  BitVec.ofNat 32 (b2n flush + 2 * b2n sup + 4 * b2n task + 8 * b2n gang + 16 * (nbank % 4) + 64 * b2n traph)

/-! ## Time and the agenda -/

/-- An event placed at its time, behind those already due then. -/
def agendaAdd (e : Due) : List Due → List Due
  | [] => [e]
  | x :: xs => if e.at_ < x.at_ then e :: x :: xs else x :: agendaAdd e xs

/-- An event due at a time. -/
def State.due (s : State) (t : Nat) (ev : Event) : State := { s with agenda := agendaAdd ⟨t, ev⟩ s.agenda }

/-- An event due after a while. -/
def State.after (s : State) (d : Nat) (ev : Event) : State := s.due (s.now + d) ev

/-- Events due now, in the order listed. -/
def State.soon (s : State) (evs : List Event) : State := evs.foldl (fun s e => s.after 0 e) s

/-- The next extra delay of a message (R342: the torus keeps no order; log 8). -/
def State.delay (s : State) : Nat × State :=
  match s.delays with
  | [] => (0, s)
  | d :: ds => (d, { s with delays := ds })

/-- A fresh name for an access, a copy or a message. -/
def State.fresh (s : State) : Nat × State := (s.nextId, { s with nextId := s.nextId + 1 })

/-- The hub's time base, in ticks (R352). -/
def State.timeOf (s : State) (d : Nat) : Nat := (s.hub d).time

/-- An error counter, saturating (R421). -/
def Core.count (k : Core) (i : Nat) : Core :=
  { k with errcnt := k.errcnt.put i (min (k.errcnt.get 0 i + 1) (2 ^ 32 - 1)) }

/-! ## Ready, waiting and held (R22, R38, R40) -/

/-- The clock of a core runs (R40). -/
def Core.ungate (k : Core) : Core := if k.halted then k else { k with running := true }

/-- Whether the thread's accesses keep its marker or its end waiting: those not completed (R26, R117). -/
def Slot.pendingAccess (t : Slot) : Bool := (t.out.any fun a => !a.done) || t.push.isSome

/-- A resident slot that nothing holds any more becomes Ready; a switch marker holds it while accesses are outstanding (R26), and a stopped
slot stays stopped (R383). -/
def Slot.release (t : Slot) : Slot :=
  if t.stopped || t.saving || t.st == .free || t.st == .departing || t.saved then t
  else if (t.marker && t.pendingAccess) || (t.out.any fun a => a.hold.isSome && !a.done) || t.push.isSome || t.throttled
  then { t with st := .held, why := if t.throttled then .throttle else .access }
  else { t with st := .ready, why := .none, marker := false }

/-- A Held slot looks again whether it may issue; a Waiting slot waits on (R22). -/
def Slot.kick (t : Slot) : Slot := if t.st == .held then t.release else t

/-- The wait of an instruction that ends by its wait's end is over: the thread goes on behind it (R38). -/
def Slot.endWait (t : Slot) : Slot :=
  match t.resume with
  | none => if t.st == .waiting then ({ t with st := .held }).release else t
  | some (pc, sw) => ({ t with pc := pc, resume := none, marker := sw, st := .held, barSeq := none }).release

/-- The acceptance of a slot's held push is due. -/
def Slot.pushEvent (c n : Nat) (t : Slot) : Option Event :=
  match t.push with
  | some .copy => some (.copyAcceptance c n)
  | some .matrix => some (.matrixPushAcceptance c n)
  | none => none

/-- Every slot of a core looks again, and its held pushes with them, in the order in which they issued (R150, R314). -/
def State.kickAll (s : State) (c : Nat) : State :=
  let s := s.modCore c fun k => ({ k with slots := Table.mapVals Slot.kick k.slots }).ungate
  s.soon ((sortOn (fun e => e.2.pushSince) (s.core c).slots).filterMap fun e => e.2.pushEvent c e.1)

/-- What the retry of a held push leaves: a push that is held on keeps the time of its issue, and `cur` is what it was. -/
def State.afterRetry (x s : State) (c n : Nat) : State :=
  { x.modSlot c n fun t => if t.push.isSome then { t with pushSince := (s.slot c n).pushSince } else t with cur := s.cur }

/-! ## Trap records (R384 to R389) -/

/-- What a trap record says (R385). -/
structure Rec where
  cause : Nat
  /-- 0 exact, 1 asynchronous, 2 scheduler, 3 fatal (R382) -/
  cls : Nat
  slot : Option Nat
  stop : Bool := false
  asid : Nat
  pc : Nat := 0
  addr : Word := 0
  aux : Nat := 0
  /-- routed to the supervisor whatever the routing says (R183, R196, R198) -/
  toSup : Bool := false
  deriving DecidableEq, Repr

/-- Whether slot 14 takes the record (R387). -/
def Core.handlerTakes (k : Core) (r : Rec) : Bool :=
  k.trapctl.getLsbD 0 && (k.slot 14).st != .free && (k.slot 14).traph && (k.slot 14).asid == r.asid && decide (r.cls ≤ 1) &&
  !r.toSup

/-- The 32 bytes of a record (R385); SUP is bit 13, TICK is filled when it enters the queue. -/
def Rec.image (r : Rec) (sup : Bool) : BitVec 256 :=
  BitVec.ofNat 256
    (r.cause % 64 + r.cls % 4 * 2 ^ 6 + r.slot.getD 0 % 16 * 2 ^ 8 + b2n r.stop * 2 ^ 12 + b2n sup * 2 ^ 13 +
     b2n r.slot.isNone * 2 ^ 14 + r.asid % 2 ^ 14 * 2 ^ 16 + r.pc % 2 ^ 48 * 2 ^ 32 + r.addr.toNat * 2 ^ 128 +
     r.aux % 2 ^ 32 * 2 ^ 192)

/-- A field of a record or of another wide register. -/
def field {w : Nat} (x : BitVec w) (lo n : Nat) : Nat := bitsOf x.toNat lo n

/-- A field of a wide register replaced. -/
def setField {w : Nat} (x : BitVec w) (lo n v : Nat) : BitVec w := BitVec.ofNat w (setBits x.toNat lo n v)

/-- A wake reaches a resident slot (R38, R323): it ends a park, or sets the wake bit. -/
def Slot.woken (t : Slot) : Slot := if t.st == .waiting && t.why == .park then t.endWait else { t with wake := true }

/-- A local wake of a slot by its own core or by the hub. -/
def wakeOf (c n : Nat) : WakeMsg := ⟨⟨c, n, 0⟩, c, n, 0, true, false⟩

/-- A request to a bank of a core, behind those already there (R218). `bankAccess` is due when the bank serves its next request. -/
def State.atBank (s : State) (c : Nat) (x : BankReq) : State :=
  let b := x.req.addr.toNat % 2 ^ 20 / 2 ^ 16
  let q := (s.core c).bankq.get [] b
  let s := s.modCore c fun k => { k with bankq := k.bankq.put b (q ++ [x]) }
  if q.isEmpty then s.due ((s.now / Config.cycle + 1) * Config.cycle) (.bankAccess c b) else s

/-- An access presented at its bank. -/
def State.toBank (s : State) (c : Nat) (r : Req) (prio : Nat) : State := s.atBank c { req := r, prio := prio, since := s.now }

/-- The name of an offset of a supervisor core's tile store in the hub's own writes (log 9: the manual gives programs no form). -/
def superAddr (c off : Nat) : Word :=
  BitVec.ofNat 64 (2 ^ 63 + devOf c * 2 ^ 57 + idOf c % 4096 * 2 ^ 45 + 3 * 2 ^ 43 + off)

/-- The hub writes a notice into a supervisor core's ring, and wakes a slot of it when it is written (R387, R427). -/
def State.notice (s : State) (d score sslot : Nat) (v : Nat) : State :=
  let k := (s.hub d).notices.get 0 score
  let s := s.modHub d fun h => { h with notices := h.notices.put score (k + 1) }
  let c := coreOf d (4096 + score)
  s.toBank c ⟨⟨hubOf d, sslot, 0⟩, 0, true, superAddr c (0xFF000 + 16 * (k % 256)), .storeEmpty 8 (BitVec.ofNat 64 v), false, 0, 0, true, false⟩ 2

/-- A notice of a core's record (R387). -/
def State.coreNotice (s : State) (c idx cls : Nat) : State :=
  let ctl := (s.core c).trapctl
  s.notice (devOf c) (field ctl 1 3) (field ctl 4 4)
    (idOf c % 4096 + devOf c * 2 ^ 12 + idx * 2 ^ 18 + cls * 2 ^ 23)

/-- A hub notice (R427). -/
def State.hubNotice (s : State) (d kind hi lo : Nat) : State :=
  s.notice d 0 0 (d * 2 ^ 12 + kind * 2 ^ 18 + 2 * 2 ^ 23 + 2 ^ 25 + hi * 2 ^ 26 + lo * 2 ^ 32)

/-- The core stops issue and dispatch and gates its clock (R332, R389). -/
def Core.halt (k : Core) : Core := { k with halted := true, running := false }

/-- A fatal record stops the slot it names, or every slot (R389). -/
def Core.fatalStop (k : Core) (img : BitVec 256) : Core :=
  let stop (t : Slot) : Slot := if t.st == .free then t else { t with st := .held, why := .none, stopped := true, deferred := none }
  if field img 14 1 = 0 then k.setSlot (field img 8 4) (stop (k.slot (field img 8 4)))
  else { k with slots := Table.mapVals stop k.slots }

/-- Whether a fatal record stands in the queue (R389). -/
def TrapQueue.hasFatal (q : TrapQueue) : Bool :=
  (List.range q.count).any fun i => field (q.ring.get 0 ((q.head + i) % 32)) 6 2 == 3

/-- A record enters the trap queue, and its receiver hears of it: the handler in slot 14 by a wake, or a supervisor core by a notice
(R386, R387). A second fatal record while one stands halts the core (R389). -/
def State.enterRecord (s : State) (c : Nat) (img : BitVec 256) : State :=
  let k := s.core c
  let q := k.traps
  let idx := (q.head + q.count) % 32
  let img := setField img 224 32 (s.timeOf (devOf c))
  let fatal := field img 6 2 == 3
  let second := fatal && q.hasFatal
  let q := { q with ring := q.ring.put idx img, count := q.count + 1, reserve := q.reserve || (fatal && q.count == 31),
                    fatal := q.fatal || second }
  let k := { k with traps := q }
  let k := if fatal then k.fatalStop img else k
  let s := s.setCore c (if second then k.halt else k)
  let s := if second then s.modHub (devOf c) fun h => { h with machineChecks := h.machineChecks ++ [c] } else s
  if field img 13 1 = 1 then s.coreNotice c idx (field img 6 2)
  else s.modCore c fun k => (k.setSlot 14 (k.slot 14).woken).ungate

/-- A record waits at its source for an entry (R386). -/
def Core.awaitEntry (k : Core) (img : BitVec 256) : Core :=
  { k with traps := { k.traps with waiting := k.traps.waiting ++ [img], waits := min (k.traps.waits + 1) 65535 } }

/-- A fatal record finds all 32 entries held, a fatal one in the reserve among them: it waits, and as a second fatal one it halts the core, with a machine
check and a notice of class 3 (R386, R389). The notice's index is that of the oldest entry (DESIGN CHOICE, log 100). -/
def State.fatalWaits (s : State) (c : Nat) (img : BitVec 256) : State :=
  let halted (k : Core) : Core := (({ k with traps := { k.traps with fatal := true } } : Core).fatalStop img).halt
  let s := s.modCore c fun k => halted (k.awaitEntry img)
  (s.modHub (devOf c) fun h => { h with machineChecks := h.machineChecks ++ [c] }).coreNotice c (s.core c).traps.head 3

/-- A record is raised: it enters the queue, or waits at its source while only the reserve is free, which takes fatal ones (R386). -/
def State.raise (s : State) (c : Nat) (r : Rec) : State :=
  let k := s.core c
  let img := r.image (!k.handlerTakes r)
  if r.cls = 3 then (if k.traps.count < 32 then s.enterRecord c img else s.fatalWaits c img)
  else if k.traps.count < 31 ∧ k.traps.waiting.isEmpty then s.enterRecord c img
  else s.modCore c fun k => k.awaitEntry img

/-- An arrival for a slot that keeps a saved context is parked; the slot's first one raises a scheduler trap (R211). -/
def State.parkArrival (s : State) (c n : Nat) (ev : Event) : State :=
  let first := !((s.core c).overflow.any fun x => x.1 == n)
  let s := s.modCore c fun k => { k with overflow := k.overflow ++ [(n, ev)] }
  if first then s.raise c { cause := 38, cls := 2, slot := some n, asid := (s.slot c n).asid } else s

/-- The overflow store is full (R211). -/
def Core.overflowFull (k : Core) : Bool := decide (512 ≤ k.overflow.length)

/-- When a message that was answered busy by its own core goes out again (DESIGN CHOICE, log 8). -/
def busyTime : Nat := 16 * Config.cycle

/-- A wake at a slot (R323, R211): dropped at a Free slot and counted, parked at a slot that keeps a saved context, or tried again later while the
overflow store is full. -/
def State.wakeSlot (s : State) (m : WakeMsg) : State :=
  let t := s.slot m.core m.slot
  if t.saved then (if (s.core m.core).overflowFull then s.after busyTime (.wakeMessage m) else s.parkArrival m.core m.slot (.wakeMessage m))
  else if t.st == .free then s.modCore m.core fun k => k.count 7
  else s.modCore m.core fun k => (k.setSlot m.slot t.woken).ungate

/-- Taking an exact trap (R382, R383, R385): the slot stops at the instruction, which has no effect, and a record is raised. A trap of the
job's trap handler itself is fatal (R388, cause 41). -/
def State.takeTrap (s : State) (c n pc : Nat) (cause : Nat) (addr : Word) (aux : Nat) : State :=
  let t := s.slot c n
  let s := s.setSlot c n { t with st := .held, why := .none, stopped := true, pc := pc, resume := none, marker := false }
  if n = 14 ∧ t.traph then
    s.raise c { cause := 41, cls := 3, slot := some n, stop := true, asid := t.asid, pc := pc, aux := cause }
  else s.raise c { cause := cause, cls := 0, slot := some n, stop := true, asid := t.asid, pc := pc, addr := addr, aux := aux }

/-- An asynchronous record charged to a slot (R382, R385). -/
def State.asyncRec (s : State) (c n asid cause : Nat) (addr : Word) (aux : Nat) : State :=
  s.raise c { cause := cause, cls := 1, slot := some n, asid := asid, addr := addr, aux := aux }

/-- A record that no slot of the core caused (R385), routed to the supervisor. -/
def State.coreRec (s : State) (c asid cause cls : Nat) (addr : Word) (aux : Nat) : State :=
  s.raise c { cause := cause, cls := cls, slot := none, asid := asid, addr := addr, aux := aux, toSup := true }

/-- A stopped slot resumes at a program counter (R332). -/
def Slot.resumeAt (t : Slot) (pc : Nat) : Slot := ({ t with stopped := false, pc := pc, st := .held }).release

/-- Returning from an exception (R332, R388): the record at the head leaves the queue, and the slot it names resumes if STOP says that it is stopped at
an exact trap, one of the handler itself among them; of two records whose STOP names a slot the later one speaks of the thread that is there, and the
other is history (R398). An empty queue changes nothing. The reserve is free again, and a waiting record enters (R386). -/
def State.returnFromTrap (s : State) (c : Nat) : State :=
  let k := s.core c
  let q := k.traps
  if q.count = 0 then s
  else
    let img := q.ring.get 0 q.head
    let q := { q with head := (q.head + 1) % 32, count := q.count - 1, reserve := false }
    let n := field img 8 4
    let later : List (BitVec 256) := ((List.range q.count).map fun i => q.ring.get 0 ((q.head + i) % 32)) ++ q.waiting
    let k := { k with traps := q }
    let k :=
      if field img 12 1 == 1 && (k.slot n).stopped && !(later.any fun e => field e 12 1 == 1 && field e 8 4 == n) then
        k.setSlot n ((k.slot n).resumeAt (field img 32 48)) else k
    let s := s.setCore c k
    if q.waiting.isEmpty then s else s.after 0 (.trapRecordEntry c)

/-! ## How an instruction ends -/

/-- Why an instruction does not issue now: an exact trap (its cause, ADDR and AUX, R384), or a wait (R28, R38). -/
inductive Stop where
  | trap (cause : Nat) (addr : Word) (aux : Nat)
  | wait (w : Why)
  deriving DecidableEq, Repr

/-- What an instruction's body answers. -/
abbrev Try (α : Type) := Except Stop α

/-- Go on if a check holds, else take the exact trap. -/
def ensure {α : Type} (ok : Bool) (cause : Nat) (addr : Word) (aux : Nat) (k : Try α) : Try α :=
  if ok then k else .error (.trap cause addr aux)

/-- Go on if a condition holds, else wait. -/
def hold {α : Type} (ok : Bool) (w : Why) (k : Try α) : Try α := if ok then k else .error (.wait w)

/-- The state of a slot that waits (R38) or is Held (R28) for a reason. -/
def Why.st : Why → SlotSt
  | .reg _ _ | .link _ | .handle _ | .park => .waiting
  | _ => .held

/-- Banks in Retain begin to rise: 40 cycles (R36). -/
def State.startRise (s : State) (c : Nat) : List Nat → State
  | [] => s
  | b :: bs =>
    let x := (s.core c).bank b
    let s :=
      if x.power == .retain && x.rising.isNone then
        (s.modCore c fun k => k.setBank b { x with rising := some (s.now + 40 * Config.cycle) }).after (40 * Config.cycle) (.bankRiseComplete c b)
      else s
    s.startRise c bs

/-- An event waits for the end of a bank's rise, which begins if it has not (R402). -/
def State.afterRise (s : State) (c b : Nat) (ev : Event) : State :=
  (s.modCore c fun k => { k with atRise := k.atRise ++ [(b, ev)] }).startRise c [b]

/-- What waited for a bank's rise happens now (R402). -/
def State.risen (s : State) (c b : Nat) : State :=
  let evs := ((s.core c).atRise.filter fun e => e.1 == b).map (·.2)
  (s.modCore c fun k => { k with atRise := k.atRise.filter fun e => e.1 != b }).soon evs

/-- The instruction waits: it has not issued, and its slot shows why (R22, R217). -/
def State.suspend (s : State) (w : Why) : State :=
  let s := s.modMe fun t => { t with st := w.st, why := w }
  match w with
  | .rise (b :: bs) => (s.modMe fun t => { t with rose := some s.cur.addr }).startRise s.cur.core (b :: bs)
  | _ => s

/-- The service slot is empty again; posted accesses of its handler are still awaited (R116), and its ordering counts stay (R349). -/
def Core.endHandler (k : Core) : Core :=
  { k with handler := none, orphans := k.orphans ++ (k.slot 15).out.filter (fun a => a.jrn.isSome),
           slots := k.slots.put 15 { orders := (k.slot 15).orders } }

/-- A handler in the service slot that breaks R210 is abandoned: a record names its message, and the slot takes its next entry. -/
def State.abandon (s : State) (c : Nat) : State :=
  match (s.core c).handler with
  | none => s
  | some (m, _) =>
    let s := s.modCore c Core.endHandler
    let s := s.raise c { cause := 27, cls := 0, slot := some 15, asid := m.asid, pc := s.cur.addr, addr := fabricAddr m.src.core 0, aux := m.off }
    if (s.core c).service.isEmpty then s else s.modCore c Core.ungate

/-- The instruction is about to issue: the program counter already names the next one, which a control transfer overrides (R220). -/
def State.advance (s : State) : State := s.modMe fun t => { t with pc := s.cur.next }

/-- The instruction has issued: a switch marker holds the slot until its accesses have completed (R26). -/
def State.retire (s : State) (sw : Bool) : State :=
  if sw then s.modMe fun t =>
    if t.st == .ready then ({ t with marker := true }).release
    else if t.st == .free || t.st == .departing then t
    else { t with marker := true }
  else s

/-- Issuing one instruction by its body. In the service slot a read of an empty register or link, and naming a
vector register or lane mask, abandon the handler (R210). -/
def State.issue (s : State) (m : Mods) (body : State → Try State) : Host.Outcome State Fault Refusal :=
  match body s.advance with
  | .ok s' => .next (s'.retire m.sw)
  | .error (.trap cause addr aux) =>
    if s.cur.slot = 15 ∧ cause = 4 then .next (s.abandon s.cur.core)
    else .next (s.takeTrap s.cur.core s.cur.slot s.cur.addr cause addr aux)
  | .error (.wait w) =>
    if s.cur.slot = 15 ∧ w.st = .waiting then .next (s.abandon s.cur.core) else .next (s.suspend w)

/-- Performing the event the step has taken from the agenda. A state that holds no such event is left as it is: nothing happens. -/
def State.perform (s : State) (f : State → Event → Option State) : Host.Outcome State Fault Refusal :=
  match s.event with
  | none => .next s
  | some e => .next ((f { s with event := none } e).getD s)

/-- What a service-slot handler may not execute (R210). -/
def notInService (s : State) (k : Try State) : Try State :=
  if s.cur.slot = 15 then .ok (s.abandon s.cur.core) else k

/-- Whether the guard of an instruction outside pages 3 and 4 holds (R226). -/
def guardHolds (m : Mods) (t : Slot) : Bool :=
  match m.guard with
  | none => true
  | some g => t.pred.getLsbD g.idx.toNat != g.neg

/-- An instruction of pages 0, 1, 2, 5, 6 and 7: a false guard makes it a nop (R226). -/
def State.guarded (s : State) (m : Mods) (body : State → Try State) : Host.Outcome State Fault Refusal :=
  s.issue m fun s => if guardHolds m s.me then body s else .ok s

/-- A page 7 form other than `trap`: the privilege trap comes before the guard (R241, R243). -/
def State.privileged (s : State) (m : Mods) (body : State → Try State) : Host.Outcome State Fault Refusal :=
  s.issue m fun s => ensure s.me.sup 3 0 0 <| if guardHolds m s.me then body s else .ok s

end Sys2Proof.Machine
end

