-- ==== Sys2Proof/Machine/Flags.lean ====
section
/-!
DEFINITION. The predicate word (spec/02 R33): the flags Z, N, C and V, the sticky flags, the predicates, and how a result sets them.
-/

namespace Sys2Proof.Machine

/-- What an instruction writes of Z, N, C and V; `none` leaves the flag as it was (R252). -/
structure FlagSet where
  z : Option Bool := none
  n : Option Bool := none
  c : Option Bool := none
  v : Option Bool := none
  deriving DecidableEq, Repr

/-- A bit of the predicate word set to a value. -/
def withBit (p : BitVec 16) (i : Nat) (b : Bool) : BitVec 16 :=
  if b then p ||| (1#16 <<< i) else p &&& ~~~(1#16 <<< i)

/-- A bit written where there is a value for it. -/
def withOpt (p : BitVec 16) (i : Nat) : Option Bool → BitVec 16
  | none => p
  | some b => withBit p i b

/-- The flags of a result, in the predicate word. -/
def FlagSet.apply (f : FlagSet) (p : BitVec 16) : BitVec 16 := withOpt (withOpt (withOpt (withOpt p 8 f.z) 9 f.n) 10 f.c) 11 f.v

/-- The sticky flags FI, FZ, FO and FX that an operation raises (R33). -/
structure Sticky where
  fi : Bool := false
  fz : Bool := false
  fo : Bool := false
  fx : Bool := false
  deriving DecidableEq, Repr

/-- Two operations' sticky flags together. -/
def Sticky.or (a b : Sticky) : Sticky := ⟨a.fi || b.fi, a.fz || b.fz, a.fo || b.fo, a.fx || b.fx⟩

/-- The sticky flags as bits of the predicate word. -/
def Sticky.bits (k : Sticky) : BitVec 16 :=
  BitVec.ofNat 16 (b2n k.fi * 2 ^ 12 + b2n k.fz * 2 ^ 13 + b2n k.fo * 2 ^ 14 + b2n k.fx * 2 ^ 15)

/-- An instruction only sets the sticky flags (R33). -/
def Sticky.raise (k : Sticky) (p : BitVec 16) : BitVec 16 := p ||| k.bits

/-- Z and N of a value written on w bits (R252). -/
def znOf (w : Nat) (v : Word) : FlagSet := { z := some (bitsOf v.toNat 0 w == 0), n := some (bitAt v.toNat (w - 1)) }

/-- Predicate pi of a slot. -/
def Slot.pread (t : Slot) (i : PNum) : Bool := t.pred.getLsbD i.toNat

/-- Predicate pi of the issuing thread written. -/
def State.pwrite (s : State) (i : PNum) (b : Bool) : State := s.modMe fun t => { t with pred := withBit t.pred i.toNat b }

/-- The issuing thread's predicate word changed. -/
def State.modPred (s : State) (f : BitVec 16 → BitVec 16) : State := s.modMe fun t => { t with pred := f t.pred }

end Sys2Proof.Machine
end

