-- ==== Sys2Proof/Machine/Operands.lean ====
section
/-!
DEFINITION. Reading and writing registers (spec/02 R29 to R31, R35, R36, spec/12 R249): presence, modes, streams, links and vector banks. An
instruction first looks at all its registers, and consumes and writes only once nothing can stop it any more (R400).
-/

namespace Sys2Proof.Machine

/-! ## Neighbour links (R205) -/

/-- The core next to a core: 0 north (y + 1), 1 east (x + 1), 2 south, 3 west, modulo 64. -/
def neighbour (c dir : Nat) : Nat :=
  let x := idOf c % 64
  let y := idOf c / 64
  let x' := if dir = 1 then (x + 1) % 64 else if dir = 3 then (x + 63) % 64 else x
  let y' := if dir = 0 then (y + 1) % 64 else if dir = 2 then (y + 63) % 64 else y
  coreOf (devOf c) (64 * y' + x')

/-- The direction as the neighbour sees it. -/
def opposite (dir : Nat) : Nat := (dir + 2) % 4

/-- Whether the link from a core crosses the edge of a die. -/
def crossesDie (c dir : Nat) : Bool := dieOf c != dieOf (neighbour c dir)

def Core.linkEnd (k : Core) (dir : Nat) : LinkEnd := k.links.get {} dir
def Core.setLinkEnd (k : Core) (dir : Nat) (e : LinkEnd) : Core := { k with links := k.links.put dir e }

/-- A word written to a link goes to the neighbour: 3 cycles, or 20 across a die edge. -/
def State.pushLink (s : State) (c n dir : Nat) (v : Word) : State :=
  let asid := (s.slot c n).asid
  let s := s.modCore c fun k => k.setLinkEnd dir { k.linkEnd dir with used := (k.linkEnd dir).used + 1 }
  s.after ((if crossesDie c dir then 20 else 3) * Config.cycle) (.linkWord (neighbour c dir) (opposite dir) v asid ⟨c, n, 0⟩)

/-- A word popped from a link's FIFO gives a credit back to the writer: 1 cycle, or 4 across a die edge. -/
def State.popLink (s : State) (c dir : Nat) : State :=
  let s := s.modCore c fun k => k.setLinkEnd dir { k.linkEnd dir with fifo := (k.linkEnd dir).fifo.tail }
  s.after ((if crossesDie c dir then 4 else 1) * Config.cycle) (.linkCreditReturn (neighbour c dir) (opposite dir))

/-! ## Streams (R166, R167) -/

/-- The stream bound to a register of a slot. -/
def Core.streamAt (k : Core) (slot reg : Nat) (vec : Bool) : Option Stream :=
  k.streams.find? fun x => x.slot == slot && x.reg == reg && x.vec == vec

/-- The values a stream's FIFO holds. -/
def Stream.depth (x : Stream) : Nat := if x.vec then 2 else 8

/-- A stream's record changed. -/
def Core.modStream (k : Core) (id : Nat) (f : Stream → Stream) : Core :=
  { k with streams := k.streams.map fun x => if x.id == id then f x else x }

/-- The head of a stream's FIFO is popped; the engine refills behind it. -/
def State.popStream (s : State) (c : Nat) (x : Stream) : State :=
  let s := s.modCore c fun k => k.modStream x.id fun y => { y with fifo := y.fifo.tail, popped := y.popped + 1 }
  if x.fifo.length = x.depth then s.after Config.cycle (.streamRefill c x.id) else s

/-- What a read of a stream register gets, or the trap of the first element that is not delivered. -/
def streamHead (x : Option Stream) (faultOf : Nat → Nat) (w : Why) : Try (BitVec 2048) :=
  match x with
  | none => .error (.wait w)
  | some x =>
    match x.fifo with
    | v :: _ => .ok v
    | [] => if x.dead then .error (.trap 16 0 (x.h + 256 * faultOf x.h)) else .error (.wait w)

/-- A stream that is to go on from its position: what was fetched and not yet read is fetched again (R395). -/
def Stream.rewind (x : Stream) : Stream := { x with fifo := [], fetched := x.popped }

/-! ## Scalar registers -/

/-- The value a read of sn would get: waits while it is empty; a failed bit traps (R29, R31, R101). -/
def State.peek (s : State) (n : SReg) : Try Word :=
  let r := s.me.reg n.toNat
  let k := s.myCore
  if r.mode = 0 then
    if r.failed then .error (.trap 42 0 n.toNat) else if r.full then .ok r.v else .error (.wait (.reg n.toNat false))
  else if r.mode = 1 then
    match streamHead (k.streamAt s.cur.slot n.toNat false) (fun h => (k.handle h).fc) (.reg n.toNat false) with
    | .ok v => .ok (v.setWidth 64)
    | .error e => .error e
  else if r.mode = 2 then
    match (k.linkEnd r.dir).fifo with
    | v :: _ => .ok v
    | [] => .error (.wait (.link n.toNat))
  else .error (.trap 5 0 n.toNat)

/-- A source must not be in link-out mode (R31). -/
def State.readable {α : Type} (s : State) (n : SReg) (k : Try α) : Try α := ensure ((s.me.reg n.toNat).mode != 3) 5 0 n.toNat k

/-- Modes of several sources, in order (R400). -/
def State.readableAll {α : Type} (s : State) : List SReg → Try α → Try α
  | [], k => k
  | r :: rs, k => s.readable r (s.readableAll rs k)

/-- A destination must be in normal or link-out mode (R31, R249). -/
def State.writable {α : Type} (s : State) (n : SReg) (k : Try α) : Try α :=
  ensure ((s.me.reg n.toNat).mode == 0 || (s.me.reg n.toNat).mode == 3) 5 0 n.toNat k

/-- A destination of a fill must be in normal mode (R265, R308). -/
def State.fillable {α : Type} (s : State) (n : SReg) (k : Try α) : Try α := ensure ((s.me.reg n.toNat).mode == 0) 5 0 n.toNat k

/-- A write to a link whose FIFO holds 4 words is Held (R31, R38). -/
def State.room {α : Type} (s : State) (n : SReg) (k : Try α) : Try α :=
  let r := s.me.reg n.toNat
  hold (r.mode != 3 || decide ((s.myCore.linkEnd r.dir).used < 4)) .access k

/-- sn after it is emptied: its value is unchanged (R29). -/
def XReg.empty (r : XReg) : XReg := { r with full := false }

/-- What one read leaves of sn: a stream or link register pops; a normal one is emptied if the read is synchronised (R29, R31). -/
def State.consume1 (s : State) (n : SReg) (q : Bool) : State :=
  let r := s.me.reg n.toNat
  if r.mode = 0 then (if q then s.modMe fun t => t.modReg n.toNat XReg.empty else s)
  else if r.mode = 1 then
    match s.myCore.streamAt s.cur.slot n.toNat false with
    | none => s
    | some x => s.popStream s.cur.core x
  else if r.mode = 2 then s.popLink s.cur.core r.dir
  else s

/-- The reads of an instruction, each with its q bit: a register named twice is emptied or popped at most once (R29). -/
def State.consumeFrom (seen : List SReg) (s : State) : List (SReg × Bool) → State
  | [] => s
  | (n, q) :: rest =>
    if seen.contains n && (s.me.reg n.toNat).mode != 0 then s.consumeFrom seen rest
    else (s.consume1 n q).consumeFrom (n :: seen) rest

def State.consume (s : State) (ns : List (SReg × Bool)) : State := s.consumeFrom [] ns

/-- A register as an instruction's write leaves it: full, no failed bit, a pending fill cancelled (R29, R30, R101). -/
def XReg.write (r : XReg) (v : Word) : XReg := { r with v := v, full := true, failed := false, pend := false }

/-- swrite: a normal register takes the value; a link-out register pushes it (R31, R249). -/
def State.swrite (s : State) (n : SReg) (v : Word) : State :=
  let r := s.me.reg n.toNat
  if r.mode = 3 then s.pushLink s.cur.core s.cur.slot r.dir v
  else s.modMe fun t => t.modReg n.toNat fun r => r.write v

/-- A register that a load will fill: empty, its fill sequence advanced (R29, R30). -/
def XReg.await (r : XReg) : XReg := { r with full := false, seq := (r.seq + 1) % 8, pend := true }

/-- start_load: sn awaits a fill; answers its sequence. -/
def State.startLoad (s : State) (n : SReg) : Nat × State :=
  (((s.me.reg n.toNat).seq + 1) % 8, s.modMe fun t => t.modReg n.toNat XReg.await)

/-- The values of two reads. -/
def State.peek2 (s : State) (a b : SReg) : Try (Word × Word) :=
  match s.peek a with
  | .error e => .error e
  | .ok x =>
    match s.peek b with
    | .error e => .error e
    | .ok y => .ok (x, y)

/-- The values of three reads. -/
def State.peek3 (s : State) (a b c : SReg) : Try (Word × Word × Word) :=
  match s.peek a with
  | .error e => .error e
  | .ok x =>
    match s.peek2 b c with
    | .error e => .error e
    | .ok y => .ok (x, y)

/-- What an operation writes: a value, flags, and sticky flags. -/
structure Res where
  v : Word
  flags : FlagSet := {}
  sticky : Sticky := {}
  deriving DecidableEq, Repr

/-- A result written to sa once nothing can stop the instruction: its reads are consumed first (R29). -/
def State.result (s : State) (a : SReg) (reads : List (SReg × Bool)) (r : Res) : State :=
  ((s.consume reads).modPred fun p => r.sticky.raise (r.flags.apply p)).swrite a r.v

/-- A binary form (R249): x and y from a and b, or from b and c with PFX.R; the result goes to a. -/
def State.binary (s : State) (o : OpBin) (f : Word → Word → Res) : Try State :=
  let x := match o.c with | none => o.a | some _ => o.b
  let y := match o.c with | none => o.b | some c => c
  let reads := match o.c with | none => [(o.a, false), (o.b, o.q)] | some c => [(o.b, o.q), (c, false)]
  s.writable o.a <| s.readable x <| s.readable y <|
    match s.peek2 x y with
    | .error e => .error e
    | .ok (u, w) => s.room o.a <| .ok (s.result o.a reads (f u w))

/-- A unary form (R249): x from b; the result goes to a. -/
def State.unary (s : State) (o : OpAB) (f : Word → Res) : Try State :=
  s.writable o.a <| s.readable o.b <|
    match s.peek o.b with
    | .error e => .error e
    | .ok x => s.room o.a <| .ok (s.result o.a [(o.b, o.q)] (f x))

/-- A form that reads a and writes a. -/
def State.inPlace (s : State) (a : SReg) (f : Word → Res) : Try State :=
  s.writable a <| s.readable a <|
    match s.peek a with
    | .error e => .error e
    | .ok x => .ok (s.result a [(a, false)] (f x))

/-- A form that reads a, b and c and writes a. -/
def State.ternary (s : State) (o : OpABC) (f : Word → Word → Word → Res) : Try State :=
  s.writable o.a <| s.readable o.a <| s.readable o.b <| s.readable o.c <|
    match s.peek3 o.a o.b o.c with
    | .error e => .error e
    | .ok (x, y, z) => .ok (s.result o.a [(o.a, false), (o.b, o.q), (o.c, false)] (f x y z))

/-- A form that only writes a. -/
def State.produce (s : State) (a : SReg) (r : Res) : Try State := s.writable a <| s.room a <| .ok (s.result a [] r)

/-- A form that reads one scalar b and goes on with its value; the read is consumed when the rest succeeds. -/
def State.reading (s : State) (b : SReg) (q : Bool) (f : Word → State → Try State) : Try State :=
  s.readable b <|
    match s.peek b with
    | .error e => .error e
    | .ok x => f x (s.consume [(b, q)])

/-! ## Vector registers (R35, R36) -/

/-- The numbers of the set bits of a bank-holding mask, lowest first. -/
def Slot.heldBanks (t : Slot) : List Nat := (List.range 8).filter fun b => t.banks.getLsbD b

/-- The place of vj in the core's banks: bank × 8 + position; none where the thread does not hold it. -/
def Slot.place (t : Slot) (j : Nat) : Option Nat :=
  match t.heldBanks[j / 8]? with
  | none => none
  | some b => some (8 * b + j % 8)

/-- The check of R243, step 4: every vector register named is held, and a lane mask is named only by a thread that holds banks. -/
def State.holdsAll {α : Type} (s : State) (vs : List VNum) (ms : List PNum) (k : Try α) : Try α :=
  match vs.find? fun v => (s.me.place v.toNat).isNone with
  | some v => .error (.trap 4 0 v.toNat)
  | none =>
    match ms with
    | [] => k
    | m :: _ => ensure (s.me.banks != 0) 4 0 m.toNat k

/-- The banks that vector registers lie in. -/
def State.banksOf (s : State) (vs : List VNum) : List Nat :=
  vs.filterMap fun v => (s.me.place v.toNat).map fun p => p / 8

/-- The first access to a bank in Retain is Held until it has risen, and one to a bank being cleared until it is clear (R36, R402). -/
def State.banksUp {α : Type} (s : State) (vs : List VNum) (k : Try α) : Try α :=
  let bs := (s.banksOf vs).filter fun b => (s.myCore.bank b).power == .retain
  hold (bs.isEmpty && !((s.banksOf vs).any fun b => (s.myCore.bank b).clears.isSome)) (.rise bs) k

def State.vregAt (s : State) (v : VNum) : VReg := s.myCore.vreg ((s.me.place v.toNat).getD 0)

def State.modVreg (s : State) (v : VNum) (f : VReg → VReg) : State :=
  s.modMyCore fun k => let p := ((k.slot s.cur.slot).place v.toNat).getD 0; k.setVreg p (f (k.vreg p))

/-- The value a read of vj would get (R29, R31, R101). -/
def State.vpeek (s : State) (v : VNum) : Try (BitVec 2048) :=
  let r := s.vregAt v
  let k := s.myCore
  let place := (s.me.place v.toNat).getD 0
  if r.stream then
    streamHead (k.streamAt s.cur.slot place true) (fun h => (k.handle h).fc) (.reg v.toNat true)
  else if r.failed then .error (.trap 42 0 (v.toNat + 32))
  else if r.full then .ok r.v
  else .error (.wait (.reg v.toNat true))

/-- A destination must be in normal mode: a vector register has the normal and stream modes only (R31). -/
def State.vwritable {α : Type} (s : State) (v : VNum) (k : Try α) : Try α := ensure (!(s.vregAt v).stream) 5 0 (v.toNat + 32) k

def VReg.empty (r : VReg) : VReg := { r with full := false }

/-- What one read leaves of vj. -/
def State.vconsume1 (s : State) (v : VNum) (q : Bool) : State :=
  if (s.vregAt v).stream then
    match s.myCore.streamAt s.cur.slot ((s.me.place v.toNat).getD 0) true with
    | none => s
    | some x => s.popStream s.cur.core x
  else if q then s.modVreg v VReg.empty
  else s

/-- The vector reads of an instruction: a register named twice is emptied or popped at most once (R29). -/
def State.vconsumeFrom (seen : List VNum) (s : State) : List (VNum × Bool) → State
  | [] => s
  | (v, q) :: rest =>
    if seen.contains v && (s.vregAt v).stream then s.vconsumeFrom seen rest
    else (s.vconsume1 v q).vconsumeFrom (v :: seen) rest

def State.vconsume (s : State) (vs : List (VNum × Bool)) : State := s.vconsumeFrom [] vs

def VReg.write (r : VReg) (x : BitVec 2048) : VReg := { r with v := x, full := true, failed := false, pend := false }

/-- A vector register written whole. -/
def State.vwrite (s : State) (v : VNum) (x : BitVec 2048) : State := s.modVreg v fun r => r.write x

def VReg.await (r : VReg) : VReg := { r with full := false, seq := (r.seq + 1) % 8, pend := true }

/-- vj awaits a fill; answers its place and sequence. -/
def State.vstartLoad (s : State) (v : VNum) : Nat × Nat × State :=
  ((s.me.place v.toNat).getD 0, ((s.vregAt v).seq + 1) % 8, s.modVreg v VReg.await)

/-- The lane mask of a guard: all groups active without one (R226, R286). -/
def State.lanes (s : State) (m : Mods) : Word :=
  match m.guard with
  | none => BitVec.allOnes 64
  | some g => if g.neg then ~~~(s.me.mask g.idx.toNat) else s.me.mask g.idx.toNat

/-- The lane masks a guard names, for R243, step 4. -/
def guardMasks (m : Mods) : List PNum := (m.guard.map fun g => g.idx).toList

end Sys2Proof.Machine
end

