-- ==== Sys2Proof/Machine/Integer.lean ====
section
/-!
DEFINITION. Integer arithmetic of page 0 (spec/12 R251 to R257): operands and results under a type, and the flags.
-/

namespace Sys2Proof.Machine

/-- An integer type: its width and whether it is signed (R251). -/
structure IntTy where
  w : Nat
  sgn : Bool
  deriving DecidableEq, Repr

/-- The type of an element-type code of page 0 (R56). -/
def elemInt (t : ElemTy) : IntTy :=
  match t with
  | .i16 => ⟨16, true⟩
  | .i8 => ⟨8, true⟩
  | .u8 => ⟨8, false⟩
  | .u32 => ⟨32, false⟩
  | _ => ⟨32, true⟩

/-- The type of a form: PFX.X's, or 64 bits with the mnemonic's signedness (R251). -/
def intTy (x : Option ArithX) (sgn : Bool) : IntTy :=
  match x with
  | none => ⟨64, sgn⟩
  | some x => elemInt x.ty

def satOf (x : Option ArithX) : Bool :=
  match x with
  | none => false
  | some x => x.sat

/-- The signed value of the low w bits of a number. -/
def sval (w n : Nat) : Int := if n % 2 ^ w < 2 ^ (w - 1) then (n % 2 ^ w : Nat) else (n % 2 ^ w : Nat) - (2 ^ w : Nat)

def IntTy.minVal (t : IntTy) : Int := if t.sgn then -(2 ^ (t.w - 1) : Nat) else 0
def IntTy.maxVal (t : IntTy) : Int := if t.sgn then (2 ^ (t.w - 1) : Nat) - 1 else (2 ^ t.w : Nat) - 1

/-- An operand's low w bits as an integer of the type (R251). -/
def IntTy.read (t : IntTy) (v : Word) : Int := if t.sgn then sval t.w v.toNat else (v.toNat % 2 ^ t.w : Nat)

/-- An exact result held to the type's range (R50). -/
def IntTy.clamp (t : IntTy) (r : Int) : Int := if r < t.minVal then t.minVal else if t.maxVal < r then t.maxVal else r

/-- ires: the exact result written under the type (R251). -/
def IntTy.write (t : IntTy) (sat : Bool) (r : Int) : Word :=
  let r := if sat then t.clamp r else r
  let n := (r % (2 ^ t.w : Nat)).toNat
  if t.sgn then BitVec.ofInt 64 (sval t.w n) else BitVec.ofNat 64 n

/-- Whether a signed result lies outside w-bit two's complement (R252). -/
def outside (w : Nat) (r : Int) : Bool := decide (r < -(2 ^ (w - 1) : Nat)) || decide ((2 ^ (w - 1) : Nat) ≤ r)

/-- Sums and differences: Z, N, C and V (R252, R253). -/
def addRes (t : IntTy) (sat : Bool) (x y : Word) : Res :=
  let v := t.write sat (t.read x + t.read y)
  { v := v, flags := { znOf t.w v with
      c := some (decide (2 ^ t.w ≤ x.toNat % 2 ^ t.w + y.toNat % 2 ^ t.w)),
      v := some (outside t.w (sval t.w x.toNat + sval t.w y.toNat)) } }

def subRes (t : IntTy) (sat : Bool) (x y : Word) : Res :=
  let v := t.write sat (t.read x - t.read y)
  { v := v, flags := { znOf t.w v with
      c := some (decide (y.toNat % 2 ^ t.w ≤ x.toNat % 2 ^ t.w)),
      v := some (outside t.w (sval t.w x.toNat - sval t.w y.toNat)) } }

/-- The product (R253): V when it lies outside the type's range. -/
def mulRes (t : IntTy) (sat : Bool) (x y : Word) : Res :=
  let r := t.read x * t.read y
  let v := t.write sat r
  { v := v, flags := { znOf t.w v with v := some (decide (r < t.minVal) || decide (t.maxVal < r)) } }

/-- The upper half of the product. -/
def mulhRes (t : IntTy) (sat : Bool) (x y : Word) : Res :=
  let v := t.write sat (t.read x * t.read y / (2 ^ t.w : Nat))
  { v := v, flags := znOf t.w v }

/-- Whether a division is one of the corner cases of R254. -/
def divCorner (t : IntTy) (x y : Int) : Bool := y == 0 || (t.sgn && x == t.minVal && y == -1)

/-- The quotient, truncated toward zero (R253, R254). -/
def divRes (t : IntTy) (sat : Bool) (x y : Word) : Res :=
  let a := t.read x
  let b := t.read y
  let v := if b = 0 then t.write false (-1) else t.write sat (Int.tdiv a b)
  { v := v, flags := { znOf t.w v with v := some (divCorner t a b) } }

/-- The remainder (R253, R254). -/
def remRes (t : IntTy) (sat : Bool) (x y : Word) : Res :=
  let a := t.read x
  let b := t.read y
  let v := t.write sat (if b = 0 then a else Int.tmod a b)
  { v := v, flags := { znOf t.w v with v := some (divCorner t a b) } }

def minRes (t : IntTy) (sat : Bool) (x y : Word) : Res :=
  let v := t.write sat (min (t.read x) (t.read y))
  { v := v, flags := znOf t.w v }

def maxRes (t : IntTy) (sat : Bool) (x y : Word) : Res :=
  let v := t.write sat (max (t.read x) (t.read y))
  { v := v, flags := znOf t.w v }

/-- A 64-bit result that writes Z and N (R255). -/
def logicRes (v : Word) : Res := { v := v, flags := znOf 64 v }

/-- Shifts (R255): C is the last bit shifted out, 0 for an amount of 0. -/
def shlRes (x : Word) (n : Nat) : Res :=
  let v := x <<< n
  { v := v, flags := { znOf 64 v with c := some (n != 0 && x.getLsbD (64 - n)) } }

def shrRes (x : Word) (n : Nat) : Res :=
  let v := x >>> n
  { v := v, flags := { znOf 64 v with c := some (n != 0 && x.getLsbD (n - 1)) } }

def sarRes (x : Word) (n : Nat) : Res :=
  let v := x.sshiftRight n
  { v := v, flags := { znOf 64 v with c := some (n != 0 && x.getLsbD (n - 1)) } }

/-- A shift amount in a register: bits [5:0] (R255). -/
def amount (y : Word) : Nat := y.toNat % 64

/-- Leading zero bits of the low n bits. -/
def leadingZeros (x : Word) : Nat → Nat
  | 0 => 0
  | n + 1 => if x.getLsbD n then 0 else leadingZeros x n + 1

/-- Trailing zero bits of the n bits from bit i up. -/
def trailingZeros (x : Word) (i : Nat) : Nat → Nat
  | 0 => 0
  | n + 1 => if x.getLsbD i then 0 else trailingZeros x (i + 1) n + 1

/-- The number of one bits among the low n bits. -/
def onesBelow (x : Word) : Nat → Nat
  | 0 => 0
  | n + 1 => onesBelow x n + b2n (x.getLsbD n)

/-- bfx (R256): len = c[13:8] + 1 bits of b from lo = c[5:0] up. -/
def bfxVal (b c : Word) : Word := BitVec.ofNat 64 (bitsOf b.toNat (bitsOf c.toNat 0 6) (bitsOf c.toNat 8 6 + 1))

/-- bfi (R256): a with bits [lo + len − 1 : lo] replaced by the low len bits of b; bits above 63 are dropped. -/
def bfiVal (a b c : Word) : Word :=
  let lo := bitsOf c.toNat 0 6
  let len := bitsOf c.toNat 8 6 + 1
  let hole : Word := BitVec.ofNat 64 ((2 ^ len - 1) * 2 ^ lo)
  (a &&& ~~~hole) ||| (BitVec.ofNat 64 (b.toNat % 2 ^ len * 2 ^ lo))

/-- The low n bits of a register, zero- or sign-extended (R8, R256). -/
def zextVal (n : Nat) (v : Word) : Word := BitVec.ofNat 64 (v.toNat % 2 ^ n)
def sextVal (n : Nat) (v : Word) : Word := BitVec.ofInt 64 (sval n v.toNat)

/-- An immediate (R224): sign-extended to 64 bits. -/
def immWord {n : Nat} (v : BitVec n) : Word := v.signExtend 64

end Sys2Proof.Machine
end

