-- ==== Sys2Proof/Machine/Float.lean ====
section
/-!
DEFINITION. Floating point (spec/03 R47 to R66, spec/12 R273 to R278): formats, exact values, rounding into a format, and the correctly rounded
operations. A code is a number below 2 to the format's width; a finite value is m × 2^e, exact.
-/

namespace Sys2Proof.Machine

/-- Which codes are not numbers (R47): as IEEE, E4M3's one NaN, or none. -/
inductive FKind where
  | ieee | e4m3 | plain
  deriving DecidableEq, Repr

/-- A format: exponent and mantissa widths, and bias (R47). -/
structure Fmt where
  eb : Nat
  mb : Nat
  bias : Nat
  kind : FKind := .ieee
  deriving DecidableEq, Repr

def fp32 : Fmt := ⟨8, 23, 127, .ieee⟩
def bf16 : Fmt := ⟨8, 7, 127, .ieee⟩
def fp16 : Fmt := ⟨5, 10, 15, .ieee⟩
def e5m2 : Fmt := ⟨5, 2, 15, .ieee⟩
def e4m3 : Fmt := ⟨4, 3, 7, .e4m3⟩
def e3m2 : Fmt := ⟨3, 2, 3, .plain⟩
def e2m3 : Fmt := ⟨2, 3, 1, .plain⟩
def e2m1 : Fmt := ⟨2, 1, 1, .plain⟩

/-- The width of a format's codes. -/
def Fmt.width (f : Fmt) : Nat := 1 + f.eb + f.mb

/-- FLUSH acts on FP32 and BF16 (R58, R66). -/
def Fmt.flushes (f : Fmt) : Bool := f.eb == 8

/-- The exponent of the smallest normal. -/
def Fmt.emin (f : Fmt) : Int := 1 - f.bias

/-- The code of +∞ where there is one. -/
def Fmt.infCode (f : Fmt) : Nat := (2 ^ f.eb - 1) * 2 ^ f.mb

/-- The code of the largest finite value (R48). -/
def Fmt.maxCode (f : Fmt) : Nat :=
  match f.kind with
  | .ieee => f.infCode - 1
  | .e4m3 => 2 ^ (f.eb + f.mb) - 2
  | .plain => 2 ^ (f.eb + f.mb) - 1

/-- The sign bit over a magnitude. -/
def Fmt.signed (f : Fmt) (neg : Bool) (mag : Nat) : Nat := b2n neg * 2 ^ (f.eb + f.mb) + mag

/-- The canonical NaN (R48). -/
def Fmt.canon (f : Fmt) : Nat :=
  match f.kind with
  | .ieee => if f.mb = 2 then 127 else f.infCode + 2 ^ (f.mb - 1)
  | .e4m3 => 127
  | .plain => 0

/-- A value: a NaN with its mantissa, an infinity, or (−1)^neg × m × 2^e. -/
inductive FVal where
  | nan (neg : Bool) (man : Nat)
  | inf (neg : Bool)
  | num (neg : Bool) (m : Nat) (e : Int)
  deriving DecidableEq, Repr

/-- The value of a code (R47); a subnormal FP32 or BF16 input reads as zero under FLUSH (R66). -/
def Fmt.dec (f : Fmt) (flush : Bool) (c : Nat) : FVal :=
  let neg := bitAt c (f.eb + f.mb)
  let ex := bitsOf c f.mb f.eb
  let man := bitsOf c 0 f.mb
  if f.kind = .ieee ∧ ex = 2 ^ f.eb - 1 then (if man = 0 then .inf neg else .nan neg man)
  else if f.kind = .e4m3 ∧ ex = 2 ^ f.eb - 1 ∧ man = 2 ^ f.mb - 1 then .nan neg man
  else if ex = 0 then .num neg (if flush && f.flushes then 0 else man) (f.emin - f.mb)
  else .num neg (man + 2 ^ f.mb) (ex - f.bias - f.mb)

/-- How an operation rounds: the mode, saturation and FLUSH (R57, R58, R34). -/
structure FEnv where
  rnd : Rnd := .rne
  sat : Bool := false
  flush : Bool := false
  deriving DecidableEq, Repr

/-- m × 2^−sh rounded to an integer under a mode, and whether it was inexact (R57). -/
def roundMag (rnd : Rnd) (neg : Bool) (m : Nat) (sh : Int) : Nat × Bool :=
  if sh ≤ 0 then (m * 2 ^ (-sh).toNat, false)
  else
    let d := 2 ^ sh.toNat
    let n := m / d
    let r := m % d
    let up :=
      match rnd with
      | .rne => decide (d < 2 * r) || (2 * r == d && n % 2 == 1)
      | .rz => false
      | .ru => r != 0 && !neg
      | .rd => r != 0 && neg
    (n + b2n up, r != 0)

/-- The overflow result (R59). -/
def Fmt.overflow (f : Fmt) (v : FEnv) (neg : Bool) : Nat :=
  let big := f.signed neg (if f.kind = .e4m3 then 127 else f.infCode)
  let mx := f.signed neg f.maxCode
  if v.sat || f.kind == .plain then mx
  else
    match v.rnd with
    | .rne => big
    | .rz => mx
    | .ru => if neg then mx else big
    | .rd => if neg then big else mx

/-- round_to_format of (−1)^neg × m × 2^e (R58, steps 3 to 7). -/
def Fmt.round (f : Fmt) (v : FEnv) (neg : Bool) (m : Nat) (e : Int) : Nat × Sticky :=
  if m = 0 then (f.signed neg 0, {})
  else
    let top := max (Nat.log2 m + e) f.emin
    let (n, inexact) := roundMag v.rnd neg m (top - f.mb - e)
    -- n lies in units of 2^(top − M): a carry into the next binade is exact
    let code := (top - f.emin).toNat * 2 ^ f.mb + n
    if f.maxCode < code then (f.overflow v neg, { fo := true, fx := true })
    else if f.flushes && v.flush && decide (code < 2 ^ f.mb) && code != 0 then (f.signed neg 0, { fx := true })
    else (f.signed neg code, { fx := inexact })

/-- An infinity converted into a format (R62). -/
def Fmt.infinity (f : Fmt) (sat : Bool) (neg : Bool) : Nat × Sticky :=
  if sat then (f.signed neg f.maxCode, {})
  else
    match f.kind with
    | .ieee => (f.signed neg f.infCode, {})
    | .e4m3 => (f.signed neg 127, { fi := true })
    | .plain => (f.signed neg f.maxCode, { fi := true })

/-- Whether a NaN of a format is signalling (R48). -/
def Fmt.signalling (f : Fmt) (man : Nat) : Bool := f.kind == .ieee && !bitAt man (f.mb - 1)

/-- A NaN of format g as a quiet NaN of format f (R61). -/
def Fmt.quiet (f g : Fmt) (neg : Bool) (man : Nat) : Nat × Sticky :=
  let fi := g.signalling man
  if f.kind = .plain then (0, { fi := true })
  else if f.eb + f.mb = 7 ∧ f ≠ g then (f.signed neg 127, { fi := fi })
  else
    let m := if g.mb ≤ f.mb then man * 2 ^ (f.mb - g.mb) else man / 2 ^ (g.mb - f.mb)
    (f.signed neg (f.infCode + (if bitAt m (f.mb - 1) then m else m + 2 ^ (f.mb - 1))), { fi := fi })

/-- The NaN operands of an operation, in operand order. -/
def nansOf : List FVal → List (Bool × Nat)
  | [] => []
  | .nan neg man :: vs => (neg, man) :: nansOf vs
  | _ :: vs => nansOf vs

/-- The NaN chosen among operands: the smallest mantissa below the quiet bit, the first of equals (R61). -/
def Fmt.chosen (f : Fmt) : List (Bool × Nat) → Bool × Nat
  | [] => (false, 0)
  | [x] => x
  | x :: y :: rest =>
    let b := f.chosen (y :: rest)
    if bitsOf b.2 0 (f.mb - 1) < bitsOf x.2 0 (f.mb - 1) then b else x

/-- The NaN result of an operation in one format: FI if any operand is signalling (R60, R61). -/
def Fmt.nanOf (f : Fmt) (ns : List (Bool × Nat)) : Nat × Sticky :=
  let c := f.chosen ns
  ((f.quiet f c.1 c.2).1, { fi := ns.any fun x => f.signalling x.2 })

/-- An invalid operation without a NaN operand (R60). -/
def Fmt.invalid (f : Fmt) : Nat × Sticky := (f.canon, { fi := true })

/-- An exact infinite result of arithmetic, which step 2 of R58 sends to R62 (DEDUCED, log 80). -/
def Fmt.infRes (f : Fmt) (v : FEnv) (neg : Bool) : Nat × Sticky := f.infinity v.sat neg

/-- The signed significand at an exponent not above e. -/
def scaled (neg : Bool) (m : Nat) (e e0 : Int) : Int :=
  let v : Int := (m * 2 ^ (e - e0).toNat : Nat)
  if neg then -v else v

/-- The exact sum of two finite values, rounded once; an exact zero has the sign of R60. -/
def Fmt.sum (f : Fmt) (v : FEnv) (n1 : Bool) (m1 : Nat) (e1 : Int) (n2 : Bool) (m2 : Nat) (e2 : Int) : Nat × Sticky :=
  let e := min e1 e2
  let t := scaled n1 m1 e1 e + scaled n2 m2 e2 e
  if t = 0 then (f.signed (if n1 == n2 then n1 else v.rnd == .rd) 0, {})
  else f.round v (decide (t < 0)) t.natAbs e

/-- x + y on values, no NaN among them. -/
def Fmt.addVal (f : Fmt) (v : FEnv) (x y : FVal) : Nat × Sticky :=
  match x, y with
  | .inf a, .inf b => if a == b then f.infRes v a else f.invalid
  | .inf a, _ => f.infRes v a
  | _, .inf b => f.infRes v b
  | .num a m e, .num b n d => f.sum v a m e b n d
  | _, _ => f.invalid

def FVal.negate : FVal → FVal
  | .nan s m => .nan s m
  | .inf s => .inf (!s)
  | .num s m e => .num (!s) m e

def FVal.isNan : FVal → Bool
  | .nan _ _ => true
  | _ => false

/-- An operation on two operands: NaNs first (R61). -/
def Fmt.op2 (f : Fmt) (v : FEnv) (g : FVal → FVal → Nat × Sticky) (x y : Nat) : Nat × Sticky :=
  let a := f.dec v.flush x
  let b := f.dec v.flush y
  match nansOf [a, b] with
  | [] => g a b
  | ns => f.nanOf ns

def Fmt.add (f : Fmt) (v : FEnv) : Nat → Nat → Nat × Sticky := f.op2 v (f.addVal v)
def Fmt.sub (f : Fmt) (v : FEnv) : Nat → Nat → Nat × Sticky := f.op2 v fun a b => f.addVal v a b.negate

/-- x × y on values. -/
def Fmt.mulVal (f : Fmt) (v : FEnv) (x y : FVal) : Nat × Sticky :=
  match x, y with
  | .inf a, .inf b => f.infRes v (a != b)
  | .inf a, .num b n _ => if n = 0 then f.invalid else f.infRes v (a != b)
  | .num a m _, .inf b => if m = 0 then f.invalid else f.infRes v (a != b)
  | .num a m e, .num b n d => f.round v (a != b) (m * n) (e + d)
  | _, _ => f.invalid

def Fmt.mul (f : Fmt) (v : FEnv) : Nat → Nat → Nat × Sticky := f.op2 v (f.mulVal v)

/-- x / y on values (R60): the quotient is taken to more bits than the format has, with the rest as a sticky bit. A finite number by zero gives the
infinity of R60's words under sat as well, and not the largest number of R62 (DEDUCED, log 80). -/
def Fmt.divVal (f : Fmt) (v : FEnv) (x y : FVal) : Nat × Sticky :=
  match x, y with
  | .inf _, .inf _ => f.invalid
  | .inf a, .num b _ _ => f.infRes v (a != b)
  | .num a _ _, .inf b => (f.signed (a != b) 0, {})
  | .num a m e, .num b n d =>
    if n = 0 then (if m = 0 then f.invalid else (f.signed (a != b) f.infCode, { fz := true }))
    else
      let k := f.mb + 4 + Nat.log2 n
      let q := m * 2 ^ k / n
      f.round v (a != b) (2 * q + b2n (m * 2 ^ k % n != 0)) (e - d - k - 1)
  | _, _ => f.invalid

def Fmt.div (f : Fmt) (v : FEnv) : Nat → Nat → Nat × Sticky := f.op2 v (f.divVal v)

/-- An operation on one operand. -/
def Fmt.op1 (f : Fmt) (v : FEnv) (g : FVal → Nat × Sticky) (x : Nat) : Nat × Sticky :=
  match f.dec v.flush x with
  | .nan s m => f.nanOf [(s, m)]
  | a => g a

/-- 1 / x, as fdiv with dividend 1.0 (R274). -/
def Fmt.rcp (f : Fmt) (v : FEnv) : Nat → Nat × Sticky := f.op1 v fun a => f.divVal v (.num false 1 0) a

/-- The integer square root of n, from k bits. -/
def isqrt (n : Nat) : Nat → Nat → Nat
  | 0, r => r
  | k + 1, r => let t := r + 2 ^ k; isqrt n k (if t * t ≤ n then t else r)

/-- √x on a value (R60). -/
def Fmt.sqrtVal (f : Fmt) (v : FEnv) (x : FVal) : Nat × Sticky :=
  match x with
  | .inf neg => if neg then f.invalid else f.infRes v false
  | .num neg m e =>
    if m = 0 then (f.signed neg 0, {})
    else if neg then f.invalid
    else
      let odd := e % 2 == 1
      let m := if odd then 2 * m else m
      let e := if odd then e - 1 else e
      let k := f.mb + 3
      let n := m * 2 ^ (2 * k)
      let r := isqrt n (Nat.log2 n / 2 + 1) 0
      f.round v false (2 * r + b2n (r * r != n)) (e / 2 - k - 1)
  | _ => f.invalid

def Fmt.sqrt (f : Fmt) (v : FEnv) : Nat → Nat × Sticky := f.op1 v (f.sqrtVal v)

/-- a + b × c on values, with one rounding (R274). -/
def Fmt.fmaVal (f : Fmt) (v : FEnv) (a b c : FVal) : Nat × Sticky :=
  match b, c with
  | .inf s, .inf t => f.addVal v a (.inf (s != t))
  | .inf s, .num t n _ => if n = 0 then f.invalid else f.addVal v a (.inf (s != t))
  | .num s m _, .inf t => if m = 0 then f.invalid else f.addVal v a (.inf (s != t))
  | .num s m e, .num t n d => f.addVal v a (.num (s != t) (m * n) (e + d))
  | _, _ => f.invalid

/-- Whether a product is 0 × ∞ (R60). -/
def zeroTimesInf : FVal → FVal → Bool
  | .inf _, .num _ n _ => n == 0
  | .num _ m _, .inf _ => m == 0
  | _, _ => false

/-- fma (R274): 0 × ∞ is invalid even when a is a quiet NaN. -/
def Fmt.fma (f : Fmt) (v : FEnv) (x y z : Nat) : Nat × Sticky :=
  let a := f.dec v.flush x
  let b := f.dec v.flush y
  let c := f.dec v.flush z
  match nansOf [a, b, c] with
  | [] => f.fmaVal v a b c
  | ns => let r := f.nanOf ns; (r.1, { r.2 with fi := r.2.fi || zeroTimesInf b c })

/-- Whether x < y, on values without NaN; −0 equals +0. -/
def FVal.lt (x y : FVal) : Bool :=
  match x, y with
  | .inf a, .inf b => a && !b
  | .inf a, _ => a
  | _, .inf b => !b
  | .num a m e, .num b n d => decide (scaled a m e (min e d) < scaled b n d (min e d))
  | _, _ => false

/-- Whether x = y, on values without NaN. -/
def FVal.eq (x y : FVal) : Bool := !x.isNan && !y.isNan && !x.lt y && !y.lt x

def FVal.neg : FVal → Bool
  | .nan s _ => s
  | .inf s => s
  | .num s _ _ => s

/-- An operand as read: a flushed subnormal is zero of its sign (R274). -/
def Fmt.asRead (f : Fmt) (flush : Bool) (x : Nat) : Nat :=
  match f.dec flush x with
  | .num neg 0 _ => f.signed neg 0
  | _ => x

/-- fmin and fmax (R274): −0 below +0; one quiet NaN gives the other operand. -/
def Fmt.minMax (f : Fmt) (v : FEnv) (isMin : Bool) (x y : Nat) : Nat × Sticky :=
  let a := f.dec v.flush x
  let b := f.dec v.flush y
  match nansOf [a, b] with
  | [] =>
    let below := a.lt b || (!b.lt a && a.neg && !b.neg)
    (f.asRead v.flush (if below == isMin then x else y), {})
  | [n] =>
    if f.signalling n.2 then f.nanOf [n] else (f.asRead v.flush (if a.isNan then y else x), {})
  | ns => f.nanOf ns

/-- The comparisons of R276. -/
inductive FCond where
  | eq | lt | le | un
  deriving DecidableEq, Repr

/-- fcmp (R276): a signalling NaN sets FI always; lt and le set FI on any NaN. -/
def Fmt.cmp (f : Fmt) (flush : Bool) (k : FCond) (x y : Nat) : Bool × Sticky :=
  let a := f.dec flush x
  let b := f.dec flush y
  let ns := nansOf [a, b]
  let sn := ns.any fun n => f.signalling n.2
  let un := !ns.isEmpty
  match k with
  | .un => (un, { fi := sn })
  | .eq => (a.eq b, { fi := sn })
  | .lt => (!un && a.lt b, { fi := un })
  | .le => (!un && !b.lt a, { fi := un })

/-- fround (R277): an integral value in its own format; no FX. -/
def Fmt.integral (f : Fmt) (v : FEnv) (x : Nat) : Nat × Sticky :=
  match f.dec v.flush x with
  | .nan s m => f.nanOf [(s, m)]
  | .inf _ => (x, {})
  | .num neg m e =>
    if m = 0 then (f.signed neg 0, {})
    else if 0 ≤ e then (x, {})
    else ((f.round {} neg (roundMag v.rnd neg m (-e)).1 0).1, {})

/-- round_to_format of a value of format g (R58, R61, R62). -/
def Fmt.ofVal (g f : Fmt) (v : FEnv) (x : FVal) : Nat × Sticky :=
  match x with
  | .nan s m => f.quiet g s m
  | .inf s => f.infinity v.sat s
  | .num s m e => f.round v s m e

/-- A conversion between formats (R58, R61, R62, R66). -/
def Fmt.convert (g f : Fmt) (v : FEnv) (x : Nat) : Nat × Sticky := g.ofVal f v (g.dec v.flush x)

/-- A conversion to an integer type (R63): always saturates. -/
def Fmt.toInt (g : Fmt) (v : FEnv) (t : IntTy) (x : Nat) : Int × Sticky :=
  match g.dec v.flush x with
  | .nan _ _ => (0, { fi := true })
  | .inf s => (if s then t.minVal else t.maxVal, { fi := true })
  | .num s m e =>
    let (n, inexact) := roundMag v.rnd s m (-e)
    let r : Int := if s then -(n : Int) else n
    if r < t.minVal then (t.minVal, { fi := true })
    else if t.maxVal < r then (t.maxVal, { fi := true })
    else (r, { fx := inexact })

/-- A conversion from an integer (R63). -/
def Fmt.ofInt (f : Fmt) (v : FEnv) (r : Int) : Nat × Sticky := f.round v (decide (r < 0)) r.natAbs 0

/-- fclass (R277): the class mask of an FP32 code. -/
def fclassMask (c : Nat) : Nat :=
  match fp32.dec false c with
  | .nan _ man => if fp32.signalling man then 2 ^ 8 else 2 ^ 9
  | .inf neg => if neg then 1 else 2 ^ 7
  | .num neg m _ =>
    if m = 0 then (if neg then 2 ^ 3 else 2 ^ 4)
    else if m < 2 ^ 23 then (if neg then 2 ^ 2 else 2 ^ 5)
    else (if neg then 2 else 2 ^ 6)

/-! ## Fixed function sequences (R279 to R282): FP32, RNE at every step -/

def f32add (x y : Nat) : Nat := (fp32.add {} x y).1
def f32sub (x y : Nat) : Nat := (fp32.sub {} x y).1
def f32mul (x y : Nat) : Nat := (fp32.mul {} x y).1
def f32div (x y : Nat) : Nat := (fp32.div {} x y).1

/-- fma(u, v, w) = u × v + w. -/
def f32fma (u v w : Nat) : Nat := (fp32.fma {} w u v).1

/-- The sign inverted. -/
def f32neg (x : Nat) : Nat := if bitAt x 31 then x - 2 ^ 31 else x + 2 ^ 31

/-- The integer value of an integral FP32 code. -/
def f32int (x : Nat) : Int := (fp32.toInt {} ⟨400, true⟩ x).1

/-- The reduction and the two polynomials of R280: q, sn, cn. Constants are the FP32 values nearest to those the rule names. -/
def sinCos (x : Nat) : Nat × Nat × Nat :=
  let k := (fp32.integral {} (f32mul x 0x3F22F983)).1
  let t := f32fma (f32neg k) 0x3FC90FDB x
  let t := f32fma (f32neg k) 0xB33BBD2E t
  let t := f32fma (f32neg k) 0xA6F72CED t
  let s := f32mul t t
  let ps := f32fma s 0x3638EF1D 0xB9500D01
  let ps := f32fma s ps 0x3C088889
  let ps := f32fma s ps 0xBE2AAAAB
  let sn := f32fma (f32mul t s) ps t
  let pc := f32fma s 0xB493F27E 0x37D00D01
  let pc := f32fma s pc 0xBAB60B61
  let pc := f32fma s pc 0x3D2AAAAB
  let pc := f32fma s pc 0xBF000000
  let cn := f32fma s pc 0x3F800000
  ((f32int k % 4).toNat, sn, cn)

/-- fsin of an FP32 value (R280). -/
def f32sin (x : Nat) : Nat × Sticky :=
  match fp32.dec false x with
  | .nan s m => fp32.nanOf [(s, m)]
  | .inf _ => fp32.invalid
  | .num neg m _ =>
    if m = 0 then (fp32.signed neg 0, {})
    else
      let (q, sn, cn) := sinCos x
      ((if q = 0 then sn else if q = 1 then cn else if q = 2 then f32neg sn else f32neg cn), { fx := true })

/-- fcos of an FP32 value (R280). -/
def f32cos (x : Nat) : Nat × Sticky :=
  match fp32.dec false x with
  | .nan s m => fp32.nanOf [(s, m)]
  | .inf _ => fp32.invalid
  | .num _ m _ =>
    if m = 0 then (0x3F800000, {})
    else
      let (q, sn, cn) := sinCos x
      ((if q = 0 then cn else if q = 1 then f32neg sn else if q = 2 then f32neg cn else sn), { fx := true })

/-- fexp2 of an FP32 value (R281). -/
def f32exp2 (x : Nat) : Nat × Sticky :=
  match fp32.dec false x with
  | .nan s m => fp32.nanOf [(s, m)]
  | .inf neg => (if neg then 0 else 0x7F800000, {})
  | v =>
    if (FVal.num false 128 0).lt v then (0x7F800000, { fo := true, fx := true })
    else if v.lt (.num true 150 0) then (0, { fx := true })
    else
      let m := (fp32.integral {} x).1
      let f := f32sub x m
      let p := f32fma f 0x39218489 0x3AAEC3FF
      let p := f32fma f p 0x3C1D955B
      let p := f32fma f p 0x3D635847
      let p := f32fma f p 0x3E75FDF0
      let p := f32fma f p 0x3F317218
      let p := f32fma f p 0x3F800000
      match fp32.dec false p with
      | .num neg n e =>
        let r := fp32.round {} neg n (e + f32int m)
        (r.1, { r.2 with fx := r.2.fx || (f != 0 && f != 2 ^ 31) })
      | _ => fp32.invalid

/-- flog2 of an FP32 value (R282): x = g × 2^e with 0.75 ≤ g < 1.5. -/
def f32log2 (x : Nat) : Nat × Sticky :=
  match fp32.dec false x with
  | .nan s m => fp32.nanOf [(s, m)]
  | .inf neg => if neg then fp32.invalid else (0x7F800000, {})
  | .num neg m ex =>
    if m = 0 then (0xFF800000, { fz := true })
    else if neg then fp32.invalid
    else
      let l := Nat.log2 m
      let up := decide (3 * 2 ^ l ≤ 2 * m)
      let e := (l : Int) + ex + b2n up
      let g := (fp32.round {} false m (ex - e)).1
      let f := f32div (f32sub g 0x3F800000) (f32add g 0x3F800000)
      let s := f32mul f f
      let p := f32fma s 0x3EA4258A 0x3ED30BB1
      let p := f32fma s p 0x3F13BB63
      let p := f32fma s p 0x3F76384F
      let p := f32fma s p 0x4038AA3B
      (f32add (fp32.ofInt {} e).1 (f32mul f p), { fx := m != 2 ^ l })

/-- A fixed sequence in a format (R279): the input widened to FP32, the FP32 result rounded once under RNE; FLUSH acts on the result there, in
step 6 of R58. -/
def Fmt.fixed (f : Fmt) (v : FEnv) (g : Nat → Nat × Sticky) (x : Nat) : Nat × Sticky :=
  let w := f.convert fp32 { flush := v.flush } x
  let r := g w.1
  let o := fp32.ofVal f { v with rnd := .rne } (fp32.dec false r.1)
  (o.1, (w.2.or r.2).or o.2)

end Sys2Proof.Machine
end

