-- ==== Sys2Proof/Machine/Codec.lean ====
section
/-!
DEFINITION. The block codec (spec/08 R163 to R165) and the noise of mutation (spec/09 R184, R185), as functions on bytes.
-/

namespace Sys2Proof.Machine

/-! ## The block codec -/

/-- Fields of w bits packed least significant first. -/
def packFields (w : Nat) : List Nat → Nat
  | [] => 0
  | x :: xs => x % 2 ^ w + 2 ^ w * packFields w xs

/-- n fields of w bits. -/
def unpackFields (w v : Nat) : Nat → List Nat
  | 0 => []
  | n + 1 => v % 2 ^ w :: unpackFields w (v / 2 ^ w) n

/-- The 16-bit elements of a block. -/
def halvesOf : List Byte → List Nat
  | a :: b :: r => (a.toNat + 256 * b.toNat) :: halvesOf r
  | _ => []

/-- The payload length of a method, none for a reserved method or a PAR out of range. -/
def codecLen (mth par : Nat) : Option Nat :=
  if mth = 0 ∧ par = 0 then some 64
  else if mth = 1 ∧ par = 0 then some 0
  else if mth = 2 ∧ par = 0 then some 4
  else if mth = 3 ∧ par ≤ 8 then some (1 + 8 * par)
  else if mth = 4 ∧ 1 ≤ par ∧ par ≤ 16 then some (2 + (31 * par + 7) / 8)
  else none

/-- The bits that a number needs. -/
def bitsNeeded (n : Nat) : Nat := if n = 0 then 0 else Nat.log2 n + 1

/-- A chain of exclusive ors from a first element. -/
def xorChain (e : Nat) : List Nat → List Nat
  | [] => []
  | d :: ds => (e ^^^ d) :: xorChain (e ^^^ d) ds

/-- The differences of a list of 16-bit elements. -/
def xorDeltas : List Nat → List Nat
  | a :: b :: r => (a ^^^ b) :: xorDeltas (b :: r)
  | _ => []

/-- The block of a method's payload (R164). -/
def codecBlock (mth par : Nat) (p : List Byte) : List Byte :=
  match mth with
  | 0 => p
  | 1 => List.replicate 64 0
  | 2 => (List.range 64).map fun j => p.getD (j % 4) 0
  | 3 =>
    let b := (p.getD 0 0).toNat
    (unpackFields par (leNat (p.drop 1)) 64).map fun d => BitVec.ofNat 8 (b + d)
  | _ =>
    let e0 := leNat (p.take 2)
    (e0 :: xorChain e0 (unpackFields par (leNat (p.drop 2)) 31)).flatMap fun e => natLe 2 e

/-- A coded block at the head of bytes: the block and the bytes it took; none is a codec error (R164). -/
def decodeBlock (bs : List Byte) : Option (List Byte × Nat) :=
  if bs.length < 2 then none
  else
    let h := leNat (bs.take 2)
    match codecLen (bitsOf h 0 3) (bitsOf h 3 5) with
    | none => none
    | some n =>
      if bitsOf h 8 8 ≠ n ∨ bs.length < 2 + n then none
      else some (codecBlock (bitsOf h 0 3) (bitsOf h 3 5) ((bs.drop 2).take n), 2 + n)

/-- The codings that hold a block, as method, PAR and payload, in method order. -/
def codings (b : List Byte) : List (Nat × Nat × List Byte) :=
  let ns := b.map (·.toNat)
  let lo := ns.foldl min 255
  let w3 := bitsNeeded (ns.foldl max 0 - lo)
  let hs := halvesOf b
  let ds := xorDeltas hs
  let w4 := max 1 (bitsNeeded (ds.foldl max 0))
  [(0, 0, b)] ++ (if ns.all (· == 0) then [(1, 0, [])] else []) ++
  (if b == (List.range 64).map (fun j => b.getD (j % 4) 0) then [(2, 0, b.take 4)] else []) ++
  [(3, w3, natLe 1 lo ++ natLe (8 * w3) (packFields w3 (ns.map fun n => n - lo)))] ++
  [(4, w4, natLe 2 (hs.headD 0) ++ natLe ((31 * w4 + 7) / 8) (packFields w4 ds))]

/-- The coding of smallest length, the lower method among equals (R165). -/
def encodeBlock (b : List Byte) : List Byte :=
  let best := (codings b).foldl (fun (x : Nat × Nat × List Byte) y => if y.2.2.length < x.2.2.length then y else x) (0, 0, b)
  natLe 2 (best.1 + best.2.1 * 2 ^ 3 + best.2.2.length * 2 ^ 8) ++ best.2.2

/-! ## Mutation -/

/-- What a mutation needs (R159, R184). -/
structure Noise where
  fmt : Nat
  sigma : Nat
  seed : Word
  gen : Nat
  child : Nat
  device : Nat
  deriving DecidableEq, Repr

/-- n of element i (R184). -/
def Noise.draw (p : Noise) (i : Nat) : Int :=
  let k : Word := p.seed ^^^ BitVec.ofNat 64 (p.child * 2 ^ 48) ^^^ BitVec.ofNat 64 (p.gen * 2 ^ 16) ^^^ BitVec.ofNat 64 (p.device * 2 ^ 8)
  let z := k + BitVec.ofNat 64 (i + 1) * 0x8F1BBCDC3A556E27
  let z := (z ^^^ (z >>> 31)) * 0x9A3C5E71D24B86F5
  let z := (z ^^^ (z >>> 29)) * 0xC62F1D937B0EA549
  let z := z ^^^ (z >>> 32)
  ((bitsOf z.toNat 0 16 + bitsOf z.toNat 16 16 + bitsOf z.toNat 32 16 + bitsOf z.toNat 48 16 : Nat) : Int) - 131070

/-- e of element i: sigma × n × 2^−15, rounded once to FP32. -/
def Noise.e (p : Noise) (i : Nat) : Nat :=
  let n := p.draw i
  (fp32.op1 {} (fun x => fp32.mulVal {} x (.num (decide (n < 0)) n.natAbs (-15))) p.sigma).1

/-- The bytes of an element of a mutate format. -/
def mutateBytes (fmt : Nat) : Nat := if fmt = 0 then 4 else if fmt = 3 then 1 else 2

/-- An INT8 weight with noise: the exact sum converted under R63. -/
def mutateInt8 (w : Nat) (e : FVal) : Nat :=
  let x := sval 8 w
  let r : Int :=
    match e with
    | .nan _ _ => 0
    | .inf s => if s then -128 else 127
    | .num s m ex =>
      let e0 := min 0 ex
      let t := scaled (decide (x < 0)) x.natAbs 0 e0 + scaled s m ex e0
      let n : Int := (roundMag .rne (decide (t < 0)) t.natAbs (-e0)).1
      let v := if t < 0 then -n else n
      if v < -128 then -128 else if 127 < v then 127 else v
  (r % 256).toNat

/-- The mutated code of a weight (R184, R185). -/
def Noise.apply (p : Noise) (i w : Nat) : Nat :=
  let e := fp32.dec false (p.e i)
  if p.fmt = 3 then mutateInt8 w e
  else
    let f := if p.fmt = 0 then fp32 else if p.fmt = 1 then fp16 else bf16
    match f.dec false w, e with
    | .nan s m, _ => (f.quiet f s m).1
    | _, .nan s m => (fp32.quiet f s m).1
    | x, y => (f.addVal {} x y).1

end Sys2Proof.Machine
end

