-- ==== Sys2Proof/Machine/Fabric.lean ====
section
/-!
DEFINITION. The Cirrus torus, its bridges and the Krymus chip links (spec/15 R339 to R350, spec/21 R428 to R431): how a message gets from one
core to another, and what the events of the fabric do.
-/

namespace Sys2Proof.Machine

/-! ## Sending -/

/-- Whether a core number names a compute core (R12); hub and supervisor cores lie on the hub. -/
def onTorus (c : Nat) : Bool := isCompute c

/-- The router through which a compute core exchanges its hub traffic (R343). -/
def hubPort (c : Nat) : Nat :=
  let x := idOf c % 64
  let y := idOf c / 64
  let px := if x < 32 then 0 else 8
  let py := (if y < 32 then 0 else 32) + (if y % 32 < 16 then 8 else 24)
  coreOf (devOf c) (64 * py + px)

/-- The next router cycle after now. -/
def State.nextCycle (s : State) : Nat := (s.now / Config.cycle + 1) * Config.cycle

def State.router (s : State) (c : Nat) : Router := s.routers.get {} c
def State.setRouter (s : State) (c : Nat) (r : Router) : State := { s with routers := s.routers.put c r }

/-- A router's next cycle goes on the agenda. -/
def State.armRouter (s : State) (c : Nat) : State :=
  let r := s.router c
  if r.armed then s else (s.setRouter c { r with armed := true }).due s.nextCycle (.routerCycle c)

/-- A flit at a router's injection port. -/
def State.inject (s : State) (c : Nat) (f : Flit) : State :=
  let r := s.router c
  (s.setRouter c { r with inject := r.inject ++ [f] }).armRouter c

/-- A message reaches its endpoint, after the next of the delays that the torus may add: it keeps no order (R342, log 8). -/
def State.arrive (s : State) (ev : Event) : State :=
  let (d, s) := s.delay
  s.after d ev

/-- TYPE of a message's flit (R339). A message that the table does not list travels as a write (DESIGN CHOICE, log 103). -/
def flitType : Event → Nat
  | .remoteRead _ _ => 0
  | .remoteAtomic _ _ => 2
  | .fill _ => 3
  | .acknowledgement _ => 4
  | .refusal _ _ => 5
  | .busy _ => 6
  | .contextImage _ => 7
  | .activeMessage _ => 8
  | .decrement _ => 9
  | .wakeMessage _ => 10
  | .orderedStore _ _ _ => 11
  | .hubRequest _ => 12
  | .hubAnswer _ _ _ => 13
  | .fabricOpen _ _ _ => 16
  | .fabricGrant _ _ _ => 17
  | _ => 1

/-- One flit within a package: from router to router, or from or to the hub by the core's port (R343). -/
def State.sendFlit (s : State) (a b : Nat) (part : Option (Nat × Nat × Nat)) (ev : Event) : State :=
  let f : Flit := { dst := b, router := b, src := a, part := part, type := flitType ev, ev := ev }
  if onTorus a then s.inject a (if onTorus b then f else { f with router := hubPort a, hub := true })
  else if onTorus b then s.inject (hubPort b) f
  else s.arrive ev

/-- The flight time of a frame on a chip link: 300 ns, so that a remote load stays within 800 ns (R17; log 8). -/
def frameTime : Nat := 3600

/-- An answer, or a device-level acknowledgement (R347). -/
def isAnswer : Event → Bool
  | .deviceAcknowledgement _ _ _ => true
  | .fill _ | .acknowledgement _ | .refusal _ _ | .busy _ | .fabricGrant _ _ _ | .hubAnswer _ _ _ => true
  | _ => false

def Hub.link (h : Hub) (n : Nat) : Link := h.links.get {} n
def Hub.setLink (h : Hub) (n : Nat) (l : Link) : Hub := { h with links := h.links.put n l }

/-- One direction of a link's channel. -/
def Link.channel (l : Link) (ch : Nat) (fwd : Bool) : Channel := l.chans.get {} (2 * ch + b2n fwd)
def Link.setChannel (l : Link) (ch : Nat) (fwd : Bool) (c : Channel) : Link := { l with chans := l.chans.put (2 * ch + b2n fwd) c }

/-- The direction of a chip link that leaves the package. -/
abbrev Link.out (l : Link) : Channel := l.channel 0 true
def Link.setOut (l : Link) (c : Channel) : Link := l.setChannel 0 true c

def Hub.peer (h : Hub) (d : Nat) : Peer := h.peers.get {} d
def Hub.setPeer (h : Hub) (d : Nat) (p : Peer) : Hub := { h with peers := h.peers.put d p }

/-- The link of path p to device d (R355). -/
def Hub.pathLink (h : Hub) (d p : Nat) : Nat := field (h.routes.get 0 d) (4 * p) 4

/-- The paths to device d that are valid and whose link is UP (R355). -/
def Hub.livePaths (h : Hub) (d : Nat) : List Nat :=
  (List.range 4).filter fun p => (h.routes.get 0 d).getLsbD (16 + p) && (h.link (h.pathLink d p)).up

/-- The path a message to device d takes (R347): round-robin among idle ones, else the fewest queued, a tie to the lower number. -/
def Hub.choosePath (h : Hub) (d : Nat) : Option Nat :=
  let ps := h.livePaths d
  let queued (p : Nat) : Nat := (h.link (h.pathLink d p)).out.frames.length
  let idle := ps.filter fun p => queued p == 0
  match idle with
  | p :: _ => some ((idle.find? fun q => decide ((h.peer d).robin ≤ q)).getD p)
  | [] => (ps.foldl (fun (b : Option Nat) p =>
      match b with
      | none => some p
      | some q => if queued p < queued q then some p else some q) none)

/-- The local link that an answer to device d may leave on when no path is live: one whose trained peer is that device (R347). -/
def State.peerLink (s : State) (d dst : Nat) : Option Nat :=
  (List.range 16).find? fun n => ((s.hub d).link n).up && s.wiring.has (d * 16 + n) && s.wiring.get 0 (d * 16 + n) / 16 == dst

/-- Flits that a channel's sender may still send, of a buffer's size (R344). -/
def Channel.credit (c : Channel) (size : Nat) : Nat := size - (c.sent + 4096 - c.acr) % 4096

/-- The queued frames that have a credit go onto the wire, in order (R344). -/
def State.pump (s : State) (d n : Nat) : State :=
  let l := (s.hub d).link n
  let c := l.out
  let m := min c.frames.length (c.credit 256)
  if !l.up || m == 0 then s
  else
    let go := (c.frames.take m).map fun f => { f with due := s.now + frameTime }
    let c := { c with frames := c.frames.drop m, wire := c.wire ++ go, sent := (c.sent + m) % 4096 }
    (s.modHub d fun h => h.setLink n (l.setOut c)).after frameTime (.linkFrame d n true)

/-- Frames join a link's queue (R346). -/
def State.queueFrames (s : State) (d n : Nat) (fs : List Frame) : State :=
  let l := (s.hub d).link n
  (s.modHub d fun h => h.setLink n (l.setOut { l.out with frames := l.out.frames ++ fs })).pump d n

/-- A flit of the link itself goes ahead of the frames that wait (R344). -/
def State.queueFirst (s : State) (d n : Nat) (f : Frame) : State :=
  let l := (s.hub d).link n
  (s.modHub d fun h => h.setLink n (l.setOut { l.out with frames := f :: l.out.frames })).pump d n

/-- The other end of a chip link: its device and link. -/
def State.linkPeer (s : State) (d n : Nat) : Option (Nat × Nat) :=
  if n < 16 ∧ s.wiring.has (d * 16 + n) then some (s.wiring.get 0 (d * 16 + n) / 16, s.wiring.get 0 (d * 16 + n) % 16) else none

/-- The link a message leaves on: path and link, none while no way is open. -/
def State.wayTo (s : State) (d dst : Nat) (ev : Event) (path : Option Nat) : Option (Nat × Nat) :=
  let h := s.hub d
  match path, h.choosePath dst with
  | some p, _ => if (h.livePaths dst).contains p then some (p, h.pathLink dst p) else (h.choosePath dst).map fun q => (q, h.pathLink dst q)
  | none, some q => some (q, h.pathLink dst q)
  | none, none => if isAnswer ev then (s.peerLink d dst).map fun n => (0, n) else none

/-- A message's flits, each in a frame of its own: they share a path and a SEQ (R346, R347). -/
def Unacked.frames (u : Unacked) (d path : Nat) : List Frame :=
  (List.range u.flits).map fun i => { src := d, dst := u.dst, seq := u.seq, path := path, ev := u.ev, token := u.token, part := (i, u.flits) }

/-- A message of a gang launch between hubs and members. -/
def isLaunch : Event → Bool
  | .gangReserve _ _ _ | .gangConfirmation _ _ _ _ | .gangGo _ _ _ | .gangCancel _ _ _ => true
  | _ => false

/-- The round-robin of the paths to a device goes on behind a path that a message has taken (R347). Messages of gang launches leave it as it is (DEDUCED
from the run of R379; log 102). -/
def State.pathTaken (s : State) (d dst : Nat) (ev : Event) (path : Nat) : State :=
  if isLaunch ev then s else s.modHub d fun h => h.setPeer dst { h.peer dst with robin := (path + 1) % 4 }

/-- A message to another device takes a SEQ and a place in the retransmit buffer, and leaves (R346 to R348). -/
def State.launchFar (s : State) (d dst : Nat) (x : Outgoing) : State :=
  let seq := ((s.hub d).peer dst).nextSeq
  let way := s.wayTo d dst x.ev x.path
  let pth := (way.map (·.1)).getD 0
  let u : Unacked := { seq := seq, path := pth, ev := x.ev, dst := dst, since := s.now, sentOn := way.map (·.2), token := x.token, flits := x.flits }
  let s := s.modHub d fun h => let p := h.peer dst; h.setPeer dst { p with nextSeq := (seq + 1) % 2 ^ 24, unacked := p.unacked ++ [u] }
  let s := (if x.path.isSome then s else s.pathTaken d dst x.ev pth).after (20 * Config.us) (.retransmitTimeout d dst seq)
  match way with
  | some (pt, n) => s.queueFrames d n (u.frames d pt)
  | none => s

/-- A message to another device (R348): beyond 256 unacknowledged ones it is held; a path that it has been given is taken at once. -/
def State.sendFar (s : State) (d dst : Nat) (ev : Event) (token : Option Nat) (path : Option Nat) (flits : Nat := 1) : State :=
  let x : Outgoing := ⟨ev, token, path, flits⟩
  let s := match path with | none => s | some p => s.pathTaken d dst ev p
  if 256 ≤ ((s.hub d).peer dst).unacked.length then s.modHub d fun h => h.setPeer dst { h.peer dst with held := (h.peer dst).held ++ [x] }
  else s.launchFar d dst x

/-- A message of one flit from core a to core b. -/
def State.send (s : State) (a b : Nat) (ev : Event) : State :=
  if devOf a = devOf b then s.sendFlit a b none ev else s.sendFar (devOf a) (devOf b) ev none none

/-- A message of several flits first asks for a reassembly buffer (R342). -/
def State.sendBig (s : State) (a b flits : Nat) (ev : Event) : State :=
  let (token, s) := s.fresh
  let s := s.modCore a fun k => { k with outbox := k.outbox ++ [⟨token, b, flits, ev⟩] }
  s.send a b (.fabricOpen token a b)

/-! ## The router (R340) -/

/-- Hops left in a coordinate, and whether the productive direction is the positive one. -/
def coordWay (x dst : Nat) : Nat × Bool :=
  let up := (dst + 64 - x) % 64
  if up ≤ 32 then (up, true) else (64 - up, false)

/-- The productive outputs of a flit at a router: x before y. -/
def productive (c dst : Nat) : List Nat :=
  let (dx, px) := coordWay (idOf c % 64) (idOf dst % 64)
  let (dy, py) := coordWay (idOf c / 64) (idOf dst / 64)
  (if dx = 0 then [] else [if px then 1 else 3]) ++ (if dy = 0 then [] else [if py then 0 else 2])

/-- The bridge that an output at a die's edge leads into, with its direction (R354). -/
def bridgeOf (c dir : Nat) : Nat × Bool :=
  let n := neighbour c dir
  match dir with
  | 0 => (24 + dieOf c, true)
  | 1 => (16 + dieOf c, true)
  | 2 => (24 + dieOf n, false)
  | _ => (16 + dieOf n, false)

/-- The channel of a bridge that an output leads into: a row of an east bridge's die, or a column of a north bridge's (R15). -/
def channelAt (c dir : Nat) : Nat := if dir % 2 = 1 then idOf c / 64 % 32 else idOf c % 16

/-- The modules of a link that work: of six for an east bridge, of three for a north one (R15, R345). -/
def Link.modules (l : Link) (n : Nat) : Nat := (if n < 16 then 1 else if n < 24 then 6 else 3) - l.lost

/-- Whether a bridge carries flits: it has trained, and a module is left. A failed module clears UP (R430), and the others carry on (R345; DEDUCED,
log 104). -/
def Link.carries (l : Link) (n : Nat) : Bool := (l.up || decide (0 < l.lost)) && decide (0 < l.modules n)

/-- How long a flit takes over a bridge, and when it comes out of it, so that the next router takes it 16 cycles after this one did (R341). -/
def bridgeTime : Nat := 16 * Config.cycle
def crossTime : Nat := 15 * Config.cycle

/-- The channels that a channel's module carries. Channel ch goes over module ch modulo the number of those that work, also after one has been removed
(DESIGN CHOICE, log 123: R15 and R345 do not say which of a bridge's channels go over which module). -/
def Link.together (l : Link) (n ch : Nat) : List Nat :=
  (List.range (if n < 24 then 32 else 16)).filter fun i => i % l.modules n == ch % l.modules n

/-- The flits of a channel in the UCIe flit that its module sends in this nanosecond (R345). -/
def Link.packed (l : Link) (fwd : Bool) (now ch : Nat) : List Crossing :=
  (l.channel ch fwd).flits.filter fun x => (x.due - crossTime) / Config.tick == now / Config.tick

/-- Whether an output takes a flit now: a bridge needs a credit and room in its next UCIe flit, and each channel keeps the last credit and a place there
for a flit of AGE 63, which therefore always finds room (R341, R345); where more than nine channels share a module, nine places are kept (log 123). -/
def State.outputFree (s : State) (c dir age : Nat) : Bool :=
  if crossesDie c dir then
    let (n, fwd) := bridgeOf c dir
    let l := (s.hub (devOf c)).link n
    let k := (l.channel (channelAt c dir) fwd).credit 64
    let packed := (l.together n (channelAt c dir)).map fun ch => l.packed fwd s.now ch
    let used := (packed.map List.length).sum
    let kept := min 9 (packed.countP fun xs => !xs.any fun (x : Crossing) => x.flit.age == 63)
    l.carries n && ((decide (2 ≤ k) && decide (used + kept < 10)) || (age == 63 && decide (1 ≤ k)))
  else true

/-- A flit in priority order: higher AGE, then the lower source core (R340, step 2). -/
def insertFlit (f : Flit) : List Flit → List Flit
  | [] => [f]
  | g :: gs => if g.age > f.age ∨ (g.age = f.age ∧ idOf g.src ≤ idOf f.src) then g :: insertFlit f gs else f :: g :: gs

def sortFlits (fs : List Flit) : List Flit := fs.foldl (fun acc f => insertFlit f acc) []

/-- A flit leaves by an output: to the neighbour's input for the next cycle, or into a bridge's channel (R344, R345). -/
def State.hop (s : State) (c dir : Nat) (f : Flit) : State :=
  let n := neighbour c dir
  if crossesDie c dir then
    let (b, fwd) := bridgeOf c dir
    let ch := channelAt c dir
    let s := s.modHub (devOf c) fun h =>
      let k := (h.link b).channel ch fwd
      h.setLink b ((h.link b).setChannel ch fwd { k with sent := (k.sent + 1) % 4096, flits := k.flits ++ [⟨n * 4 + opposite dir, s.now + crossTime, f⟩] })
    s.after crossTime (.ucieFlit (devOf c) b fwd true)
  else
    let key := opposite dir + 4 * (s.nextCycle / Config.cycle % 2)
    let r := s.router n
    (s.setRouter n { r with inputs := r.inputs.put key f }).armRouter n

/-- A flit of several enters its reassembly buffer; the whole message is delivered when every flit has come (R342). -/
def State.reassemble (s : State) (f : Flit) (token i n : Nat) : State :=
  let k := s.core f.dst
  match k.reasm.find? fun r => r.token == token with
  | none => s
  | some r =>
    let got := if r.got.contains i then r.got else i :: r.got
    if got.length = n then
      (s.modCore f.dst fun k => { k with reasm := k.reasm.filter fun x => x.token != token }).arrive f.ev
    else s.modCore f.dst fun k => { k with reasm := k.reasm.map fun x => if x.token == token then { x with got := got } else x }

/-- A flit with a reserved TYPE, or with zero bits that are not zero (R339). -/
def Flit.malformed (f : Flit) : Bool := decide (18 ≤ f.type) || f.zeros != 0

/-- A flit ejected at its router reaches the core, or the hub behind the port; a malformed one is discarded and counted (R339, R421). -/
def State.eject (s : State) (f : Flit) : State :=
  if f.malformed then s.modCore f.dst fun k => k.count 5
  else
    match f.part with
    | some (token, i, n) => s.reassemble f token i n
    | none => s.arrive f.ev

/-- The arriving flits of a cycle, in priority order: ejected, or placed on an output; with the outputs claimed and how many were ejected (R340).
A flit for which no output is free, all those left being bridges without room, stays in the router (DESIGN CHOICE, log 105). -/
def State.routeAll (c : Nat) (ejected : Nat) (taken : List Nat) (s : State) : List Flit → State × List Nat × Nat
  | [] => (s, taken, ejected)
  | f :: fs =>
    if f.router = c ∧ ejected < 2 then (s.eject f).routeAll c (ejected + 1) taken fs
    else
      let free (d : Nat) : Bool := !taken.contains d && s.outputFree c d f.age
      let good := if f.router = c then none else (productive c f.router).find? free
      match good with
      | some d => (s.hop c d f).routeAll c ejected (d :: taken) fs
      | none =>
        let g := { f with age := min 63 (f.age + 1) }
        match [0, 1, 2, 3].find? free with
        | some d => (s.hop c d g).routeAll c ejected (d :: taken) fs
        | none => (s.setRouter c { s.router c with kept := (s.router c).kept ++ [g] }).routeAll c ejected taken fs

/-- The core's injection: only on an output that no arriving flit has claimed (R340, step 4), or out at its own router within the cycle's two. -/
def State.injectOne (s : State) (c : Nat) (taken : List Nat) (ejected : Nat) : State :=
  match (s.router c).inject with
  | [] => s
  | f :: fs =>
    let s' := s.setRouter c { s.router c with inject := fs }
    if f.router = c then (if ejected < 2 then s'.eject f else s)
    else
      let free (d : Nat) : Bool := !taken.contains d && s.outputFree c d f.age
      match (productive c f.router ++ [0, 1, 2, 3]).find? free with
      | some d => s'.hop c d f
      | none => s

/-- ROUTER_CYCLE (R340). -/
def execRouterCycle (s : State) : Host.Outcome State Fault Refusal :=
  s.perform fun s e =>
    match e with
    | .routerCycle c =>
      let odd := 4 * (s.now / Config.cycle % 2)
      let r := s.router c
      let mine := [0, 1, 2, 3].filterMap fun i => if r.inputs.has (i + odd) then (r.inputs.find? fun x => x.1 == i + odd).map (·.2) else none
      let s := s.setRouter c
        { r with armed := false, kept := [], inputs := r.inputs.filter fun x => !(decide (odd ≤ x.1) && decide (x.1 < odd + 4)) }
      let (s, taken, ejected) := State.routeAll c 0 [] s (sortFlits (mine ++ r.kept))
      let s := s.injectOne c taken ejected
      let r := s.router c
      some (if r.inputs.isEmpty && r.inject.isEmpty && r.kept.isEmpty then s else s.armRouter c)
    | _ => none

/-! ## Bridges (R344, R345) -/

/-- The first flit of a bridge's channel, if it has arrived, leaves the receive buffer for its router's input, unless that is taken. -/
def State.landFlit (s : State) (d n ch : Nat) (fwd : Bool) : State :=
  let k := ((s.hub d).link n).channel ch fwd
  match k.flits with
  | [] => s
  | x :: rest =>
    let key := x.at_ % 4 + 4 * (s.nextCycle / Config.cycle % 2)
    let r := s.router (x.at_ / 4)
    if s.now < x.due ∨ r.inputs.has key then s
    else
      let k := { k with flits := rest, ret := (k.ret + 1) % 4096, unreported := k.unreported + 1, forward := k.forward + 1 }
      let s := (s.setRouter (x.at_ / 4) { r with inputs := r.inputs.put key x.flit }).armRouter (x.at_ / 4)
      s.modHub d fun h => h.setLink n ((h.link n).setChannel ch fwd k)

/-- The sender learns of the releases that so many reverse flits report, at most 63 each (R344); while a credit sync is on its way the reports wait
behind it. -/
def Channel.report (c : Channel) (flits : Nat) : Channel :=
  if c.syncing ≠ 0 then c
  else { c with acr := (c.acr + min (63 * flits) c.unreported) % 4096, unreported := c.unreported - min (63 * flits) c.unreported }

/-- The channels of one direction of a link. -/
def Link.side (l : Link) (fwd : Bool) : List Nat := (l.chans.filter fun e => e.1 % 2 == b2n fwd).map fun e => e.1 / 2

/-- The channels of a direction changed. -/
def Link.modSide (l : Link) (fwd : Bool) (f : Channel → Channel) : Link :=
  { l with chans := l.chans.map fun e => (e.1, if e.1 % 2 = b2n fwd then f e.2 else e.2) }

/-- More flits of a channel have come than its buffer holds, which marks a hardware fault (R429). -/
def Channel.overrun (c : Channel) (size now : Nat) : Bool :=
  decide (size < c.flits.countP fun x => decide (x.due ≤ now)) || decide (size < c.wire.countP fun x => decide (x.due ≤ now))

/-- The flits beyond the buffer are replayed, and come so much later (R429). -/
def Channel.replayed (c : Channel) (size t : Nat) : Channel :=
  { c with flits := c.flits.take size ++ (c.flits.drop size).map (fun x => { x with due := max x.due t })
           wire := c.wire.take size ++ (c.wire.drop size).map fun x => { x with due := max x.due t } }

/-- UCIE_FLIT (R345): the flits that have crossed leave the buffers; it also carries the other direction's credits. After an error it is replayed, and
what follows it comes no earlier. -/
def execUcieFlit (s : State) : Host.Outcome State Fault Refusal :=
  s.perform fun s e =>
    match e with
    | .ucieFlit d n fwd ok =>
      if !ok then
        let late (c : Channel) : Channel := { c with flits := c.flits.map fun x => { x with due := max x.due (s.now + bridgeTime) } }
        some ((s.modHub d fun h => h.setLink n { (h.link n).modSide fwd late with retry := min 65535 ((h.link n).retry + 1) }).after bridgeTime
          (.ucieFlit d n fwd true))
      else
        let chans := ((s.hub d).link n).side fwd
        let flooded := chans.filter fun ch => (((s.hub d).link n).channel ch fwd).overrun 64 s.now
        let s := flooded.foldl (fun s ch =>
          (s.modHub d fun h => h.setLink n ((h.link n).setChannel ch fwd (((h.link n).channel ch fwd).replayed 64 (s.now + bridgeTime)))).after 0
            (.linkRetrain d n (ch % ((s.hub d).link n).modules n))) s
        let s := chans.foldl (fun s ch => s.landFlit d n ch fwd) s
        let s := s.modHub d fun h => h.setLink n ((h.link n).modSide (!fwd) fun c => c.report 1)
        let has (p : Channel → Bool) : Bool := chans.any fun ch => p (((s.hub d).link n).channel ch fwd)
        let s := if has (fun (c : Channel) => c.flits.head?.any fun x => decide (x.due ≤ s.now)) then s.after Config.cycle (.ucieFlit d n fwd true) else s
        let s := if has (fun (c : Channel) => c.unreported != 0 && c.syncing == 0) then s.after bridgeTime (.ucieFlit d n (!fwd) true) else s
        some (s.soon ((chans.filter fun ch => decide (256 ≤ (((s.hub d).link n).channel ch fwd).forward)).map fun ch => .creditSyncDue d n ch fwd))
    | _ => none

/-- CREDIT_SYNC_DUE (R344): the receiver reports RET, in a flit that carries its own CRINC; on a chip link it goes in a frame, ahead of those that wait
(R346), with SEQ 0 and PATH 0 (DESIGN CHOICE, log 126). -/
def execCreditSyncDue (s : State) : Host.Outcome State Fault Refusal :=
  s.perform fun s e =>
    match e with
    | .creditSyncDue d n ch fwd =>
      let c := ((s.hub d).link n).channel ch fwd
      let s := s.modHub d fun h => h.setLink n ((h.link n).setChannel ch fwd { c with forward := 0, unreported := 0, syncing := c.syncing + 1 })
      let ev : Event := .creditSync d n ch fwd c.ret (min 63 c.unreported) true
      match s.linkPeer d n with
      | some (e, k) => some (s.queueFirst e k { src := e, dst := d, seq := 0, path := 0, ev := ev, token := none, ack := true })
      | none => some (s.after bridgeTime ev)
    | _ => none

/-- CREDIT_SYNC (R344): ACR takes the flit's CRINC, and then RET; a change by RET counts in RESYNC. After an error it is replayed (R429). -/
def execCreditSync (s : State) : Host.Outcome State Fault Refusal :=
  s.perform fun s e =>
    match e with
    | .creditSync d n ch fwd ret crinc ok =>
      let l := (s.hub d).link n
      let c := l.channel ch fwd
      if !ok then
        some ((s.modHub d fun h => h.setLink n { l with retry := min 65535 (l.retry + 1) }).after bridgeTime (.creditSync d n ch fwd ret crinc true))
      else
        let l := if (c.acr + crinc) % 4096 = ret then l else { l with resync := min 65535 (l.resync + 1) }
        let s := s.modHub d fun h => h.setLink n (l.setChannel ch fwd { c with acr := ret, syncing := c.syncing - 1 })
        some (if n < 16 then s.pump d n else if c.unreported ≠ 0 then s.after bridgeTime (.ucieFlit d n (!fwd) true) else s)
    | _ => none

/-- One end of a link retrains in a module: RETRAIN counts, the increments under way there are dropped, and a credit sync of each of its channels
follows at once (R344). -/
def State.retrainEnd (s : State) (d n m : Nat) : State :=
  let l := (s.hub d).link n
  let recent := (l.recent.filter fun x => decide (s.now < x.2 + 1000 * Config.ms)) ++ [(m, s.now)]
  let its (key : Nat) : Bool := key / 2 % l.modules n == m % l.modules n
  let lose (e : Nat × Channel) : Nat × Channel := if its e.1 then (e.1, { e.2 with unreported := 0 }) else e
  let s := s.modHub d fun h => h.setLink n { l with chans := l.chans.map lose, retrain := min 65535 (l.retrain + 1), recent := recent }
  let s := s.soon ((l.chans.filter fun e => its e.1).map fun e => .creditSyncDue d n (e.1 / 2) (e.1 % 2 == 1))
  if 16 < recent.countP fun x => x.1 == m then s.after 0 (.linkDown d n) else s

/-- LINK_RETRAIN (R344, R430): of a bridge's module, or of a chip link at both its ends, whose two directions it concerns. More than 16 of one module in
a second take it down. -/
def execLinkRetrain (s : State) : Host.Outcome State Fault Refusal :=
  s.perform fun s e =>
    match e with
    | .linkRetrain d n m =>
      let s' := s.retrainEnd d n m
      some (match s.linkPeer d n with
        | some (e, k) => s'.retrainEnd e k m
        | none => s')
    | _ => none

/-! ## Chip links (R346 to R348) -/

/-- Whether a SEQ has been received, or lies below the window (R348). -/
def Peer.received (p : Peer) (seq : Nat) : Bool :=
  match p.highest with
  | none => false
  | some hi =>
    let ahead := (seq + 2 ^ 24 - hi) % 2 ^ 24
    ahead == 0 || (decide (2 ^ 23 ≤ ahead) && (decide (256 ≤ 2 ^ 24 - ahead) || p.window.contains seq))

/-- Marks a SEQ as received (R348). -/
def Peer.receive (p : Peer) (seq : Nat) : Peer :=
  match p.highest with
  | none => { p with highest := some seq, window := [seq] }
  | some hi =>
    if (seq + 2 ^ 24 - hi) % 2 ^ 24 < 2 ^ 23 then
      { p with highest := some seq, window := (seq :: p.window).filter fun x => decide ((seq + 2 ^ 24 - x) % 2 ^ 24 < 256) }
    else { p with window := seq :: p.window }

/-- Device d acknowledges a SEQ of device e, on a link that is UP; without one the acknowledgement waits (R347, R348). -/
def State.acknowledgeTo (s : State) (d e seq : Nat) : State :=
  let ev : Event := .deviceAcknowledgement e d seq
  match s.wayTo d e ev none with
  | some (pt, n) => s.queueFrames d n [{ src := d, dst := e, seq := seq, path := pt, ev := ev, token := none, ack := true }]
  | none => s.modHub d fun h => h.setPeer e { h.peer e with acks := (h.peer e).acks ++ [seq] }

/-- A time exchange as its receiver reads it: the exchange goes both ways, so the hub knows how long the flit was under way (R352; DESIGN CHOICE,
log 127). -/
def State.stamped (s : State) (ev : Event) : Event :=
  match ev with
  | .timeExchange e (some m) _ many => .timeExchange e (some m) (s.hub m).time many
  | ev => ev

/-- A flit at its destination device: its message is performed once, when every flit has come, and acknowledged every time (R346 to R348). -/
def State.frameArrives (s : State) (f : Frame) : State :=
  let p := (s.hub f.dst).peer f.src
  if f.ack then s.after 0 (s.stamped f.ev)
  else if p.received f.seq then (if f.part.1 + 1 = f.part.2 then s.acknowledgeTo f.dst f.src f.seq else s)
  else
    let got := if p.got.contains (f.seq, f.part.1) then p.got else (f.seq, f.part.1) :: p.got
    if got.countP (fun x => x.1 == f.seq) < f.part.2 then s.modHub f.dst fun h => h.setPeer f.src { p with got := got }
    else
      let s := s.modHub f.dst fun h => h.setPeer f.src { p.receive f.seq with got := got.filter fun x => x.1 != f.seq }
      let s := (s.acknowledgeTo f.dst f.src f.seq).arrive f.ev
      match f.token with
      | none => s
      | some t => { s with cores := Table.mapVals (fun (k : Core) => { k with reasm := k.reasm.filter fun r => r.token != t }) s.cores }

/-- LINK_FRAME (R346): a run of up to eight frames arrives; a CRC mismatch is replayed, and what follows comes no earlier. The frames report releases
of the other direction (R344). -/
def execLinkFrame (s : State) : Host.Outcome State Fault Refusal :=
  s.perform fun s e =>
    match e with
    | .linkFrame d n ok =>
      let l := (s.hub d).link n
      let c := l.out
      if !l.up then some s
      else if !ok then
        let c := { c with wire := c.wire.map fun f => { f with due := max f.due (s.now + frameTime) } }
        some ((s.modHub d fun h => h.setLink n { l.setOut c with retry := min 65535 (l.retry + 1) }).after frameTime (.linkFrame d n true))
      else
        let flooded := c.overrun 256 s.now
        let s := if flooded then s.after 0 (.linkRetrain d n 0) else s
        let c := if flooded then c.replayed 256 (s.now + frameTime) else c
        let run := (c.wire.takeWhile fun f => decide (f.due ≤ s.now)).take 8
        let m := run.length
        let c := { c with wire := c.wire.drop m, ret := (c.ret + m) % 4096, unreported := c.unreported + m, forward := c.forward + m }
        let s := s.modHub d fun h => h.setLink n (l.setOut c)
        let s :=
          match s.linkPeer d n with
          | none => s
          | some (e, k) => (s.modHub e fun h => h.setLink k ((h.link k).setOut ((h.link k).out.report m))).pump e k
        let s := run.foldl (fun s f => s.frameArrives f) s
        let s := if c.wire.head?.any (fun (f : Frame) => decide (f.due ≤ s.now)) then s.after 0 (.linkFrame d n true) else s
        some (if 256 ≤ c.forward then s.after 0 (.creditSyncDue d n 0 true) else s)
    | _ => none

/-- A message that was held for want of a place in the retransmit buffer goes out. -/
def State.sendHeld (s : State) (d peer : Nat) : State :=
  let p := (s.hub d).peer peer
  match p.held with
  | [] => s
  | x :: rest => (s.modHub d fun h => h.setPeer peer { p with held := rest }).launchFar d peer x

/-- DEVICE_ACKNOWLEDGEMENT (R348): the retransmit entry is freed, and a message that was held takes its place. -/
def execDeviceAcknowledgement (s : State) : Host.Outcome State Fault Refusal :=
  s.perform fun s e =>
    match e with
    | .deviceAcknowledgement d peer seq =>
      let p := (s.hub d).peer peer
      match p.unacked.find? fun u => u.seq == seq with
      | none => some s
      | some _ => some ((s.modHub d fun h => h.setPeer peer { p with unacked := p.unacked.filter fun x => x.seq != seq }).sendHeld d peer)
    | _ => none

/-- A message is sent again with its SEQ, on another path if there is one (R348). -/
def State.resend (s : State) (d peer : Nat) (u : Unacked) : State :=
  let h := s.hub d
  let other := (h.livePaths peer).find? fun p => p != u.path
  match s.wayTo d peer u.ev other with
  | none => s
  | some (pt, n) =>
    let p := h.peer peer
    let s := s.modHub d fun h => h.setPeer peer
      { p with unacked := p.unacked.map fun x => if x.seq == u.seq then { x with path := pt, since := s.now, sentOn := some n } else x }
    s.queueFrames d n (u.frames d pt)

/-- A link has come up: acknowledgements and messages that waited for one leave (R347). -/
def State.leaveWaiting (s : State) (d : Nat) : State :=
  (s.hub d).peers.foldl (fun s p =>
    let s := s.modHub d fun h => h.setPeer p.1 { h.peer p.1 with acks := [] }
    let s := p.2.acks.foldl (fun s seq => s.acknowledgeTo d p.1 seq) s
    (p.2.unacked.filter fun u => u.sentOn.isNone).foldl (fun s u => s.resend d p.1 u) s) s

/-- RETRANSMIT_TIMEOUT (R348): a message not acknowledged in 20 µs is resent. -/
def execRetransmitTimeout (s : State) : Host.Outcome State Fault Refusal :=
  s.perform fun s e =>
    match e with
    | .retransmitTimeout d peer seq =>
      match ((s.hub d).peer peer).unacked.find? fun u => u.seq == seq with
      | none => some s
      | some u => some ((s.resend d peer u).after (20 * Config.us) (.retransmitTimeout d peer seq))
    | _ => none

/-! ## Reassembly (R342) -/

/-- OPEN (R342): a buffer is reserved and granted, or the answer is busy. -/
def execFabricOpen (s : State) : Host.Outcome State Fault Refusal :=
  s.perform fun s e =>
    match e with
    | .fabricOpen token src dst =>
      if (s.core dst).reasm.length < 4 then
        some ((s.modCore dst fun k => { k with reasm := k.reasm ++ [{ token := token, src := src }] }).send dst src (.fabricGrant token src dst))
      else some (s.send dst src (.busy (.openMsg token src dst)))
    | _ => none

/-- GRANT (R342): the message's flits are sent. -/
def execFabricGrant (s : State) : Host.Outcome State Fault Refusal :=
  s.perform fun s e =>
    match e with
    | .fabricGrant token src dst =>
      match (s.core src).outbox.find? fun m => m.token == token with
      | none => some s
      | some m =>
        let s := s.modCore src fun k => { k with outbox := k.outbox.filter fun x => x.token != token }
        if devOf src = devOf dst then
          some ((List.range m.flits).foldl (fun s i => s.sendFlit src dst (some (token, i, m.flits)) m.ev) s)
        else some (s.sendFar (devOf src) (devOf dst) m.ev (some token) none m.flits)
    | _ => none

end Sys2Proof.Machine
end

