-- ==== Sys2Proof/WellFormed.lean ====
section
/-!
DEFINITION. Which instruction terms are instructions: the operand values, qualifiers and combinations that spec/11 R242 and
the forms' own rules admit. The prefix count is checked with the encoder, in Decode.lean.
-/

namespace Sys2Proof

/-- The element types an arithmetic form accepts (R251, R253, R273, R278, R288). -/
inductive ArithClass where
  /-- i32, i16, i8, u8, u32 -/
  | anyInt
  /-- i32, i16, i8 -/
  | signed
  /-- u8, u32 -/
  | unsigned
  /-- f32, f16, bf16 -/
  | float
  /-- all eight -/
  | all8
  /-- the conversions: the type field is zero -/
  | conv
  deriving DecidableEq, Repr

def ElemTy.isFloat : ElemTy → Bool
  | .f32 | .f16 | .bf16 => true
  | _ => false

def ElemTy.isSigned : ElemTy → Bool
  | .i32 | .i16 | .i8 => true
  | _ => false

def ElemTy.isUnsigned : ElemTy → Bool
  | .u8 | .u32 => true
  | _ => false

/-- Whether a form of the class takes this PFX.X: its type is listed, and an integer type has no rounding
(R251, R289, R401). -/
def ArithClass.allows (c : ArithClass) (x : ArithX) : Bool :=
  (x.ty.isFloat || x.rnd == .rne) &&
  (match c with
   | .anyInt => !x.ty.isFloat
   | .signed => x.ty.isSigned
   | .unsigned => x.ty.isUnsigned
   | .float => x.ty.isFloat
   | .all8 => true
   | .conv => x.ty == .f32)

/-- The classes of memory forms by the order codes and qualifiers they take (R119, R266, R302). -/
inductive MemClass where
  /-- `ld` -/
  | ld
  /-- `ldt`, `ldf`, `ldfe` -/
  | load
  /-- `st` -/
  | st
  /-- `stef`, `setf`, `sete` -/
  | store
  /-- atomics -/
  | atomic
  /-- vector loads -/
  | vload
  /-- vector stores -/
  | vstore
  deriving DecidableEq, Repr

def MemClass.isLoad : MemClass → Bool
  | .ld | .load | .vload => true
  | _ => false

def MemClass.isStore : MemClass → Bool
  | .st | .store | .vstore => true
  | _ => false

/-- Whether a form of the class takes this PFX.X: the order code (R119), its mask (R119), and `.mig` and `.bv`
(R266, R302). -/
def MemClass.allows (c : MemClass) (x : MemX) : Bool :=
  (match x.ord.toNat with
   | 0 => x.mask == 0
   | 1 => !c.isStore && x.mask != 0
   | 2 => !c.isLoad && x.mask != 0
   | _ => if c.isStore then x.mask == 0 else !c.isLoad && x.mask != 0) &&
  (!x.bv || c == .ld || c == .st) && (!x.mig || !(c == .vload || c == .vstore))

/-- fcvt's codes (R278): 0 to 8, not equal, not two integer codes. -/
def OpCvt.wf (o : OpCvt) : Bool :=
  o.tgt.toNat ≤ 8 && o.src.toNat ≤ 8 && o.tgt != o.src && (o.tgt.toNat < 3 || o.src.toNat < 3)

/-- The width in bytes of a vcvt code (R283, R296): 9 and 10 are the FP8 formats. -/
def cvtWidth (c : BitVec 4) : Nat :=
  match c.toNat with
  | 0 | 3 | 7 => 4
  | 1 | 2 | 4 => 2
  | 5 | 6 | 9 | 10 => 1
  | _ => 0

/-- An FP8 code of vcvt (R296). -/
def isFp8 (c : BitVec 4) : Bool := c.toNat == 9 || c.toNat == 10

/-- A code that FP8 pairs with: f16 or bf16 (R296). -/
def isHalfFloat (c : BitVec 4) : Bool := c.toNat == 1 || c.toNat == 2

/-- The codes vcvt and vcvtn accept (R296). -/
def OpVCvt.wf (narrow : Bool) (o : OpVCvt) : Bool :=
  let wt := cvtWidth o.tgt
  let ws := cvtWidth o.src
  wt != 0 && ws != 0 && o.tgt != o.src && wt != 4 * ws && ws != 4 * wt &&
  (!isFp8 o.tgt || isHalfFloat o.src) && (!isFp8 o.src || isHalfFloat o.tgt) && (!narrow || wt != ws)

/-- vext and vins: idx[6] only with idx[5:0] zero (R299). -/
def laneIndexOk (i : BitVec 7) : Bool := !i.getLsbD 6 || i.extractLsb' 0 6 == 0

/-- The arithmetic qualifier, if there is one, is one the form takes. -/
def axOk (c : ArithClass) (x : Option ArithX) : Bool :=
  match x with
  | none => true
  | some x => c.allows x

/-- sext, zext: n from 1 to 64 (R256). -/
def OpExt.wf (o : OpExt) : Bool := 1 ≤ o.n.toNat && o.n.toNat ≤ 64

/-- ld, st: the entry register exactly with `.bv` (R266). -/
def OpLd.wf (c : MemClass) (o : OpLd) : Bool := c.allows o.x && o.c.isSome == o.x.bv

/-- A two-address page 3 form names only v0 to v15 (R284). -/
def OpVBin.wf (o : OpVBin) : Bool := o.c != .absent || (o.a.toNat < 16 && o.b.toNat < 16)

/-- vfma names a field c (R292). -/
def OpVBin.wfTer (o : OpVBin) : Bool := o.c != .absent

def OpVSel.wf (o : OpVSel) : Bool := o.c != .absent || (o.a.toNat < 16 && o.b.toNat < 16)

/-- link: SENSE 3 is reserved (R325). -/
def OpLink.wf (o : OpLink) : Bool := o.idx.extractLsb' 2 2 != 3

/-- Whether a term is an instruction of the opcode map, and not an event. -/
def Instr.isCoded (i : Instr) : Bool :=
  match i with
  | .matrixPushAcceptance => false
  | .mm => false
  | .ldb => false
  | .drain => false
  | .drainWakeUp => false
  | .accZero => false
  | .ldacc => false
  | .setfmt => false
  | .mfence => false
  | .matrixCommandCompletion => false
  | .copyAcceptance => false
  | .copyTransferLine => false
  | .handleSubtraction => false
  | .streamRefill => false
  | .handleEvaluation => false
  | .remoteHandleArrival => false
  | .snapshotBlockCopy => false
  | .commitRecordOperation => false
  | .bundleStore => false
  | .viewLoad => false
  | .viewAgeExpiry => false
  | .popConsume => false
  | .popChildCommit => false
  | .popLineageAppend => false
  | .popStepClose => false
  | .spawnRequest => false
  | .taskArmRequest => false
  | .decrement => false
  | .dispatch => false
  | .spawnThrottleExpiry => false
  | .bankRiseComplete => false
  | .bankClearComplete => false
  | .clockGate => false
  | .gangReserve => false
  | .gangConfirmation => false
  | .gangConfirmDeadline => false
  | .gangGo => false
  | .gangCancel => false
  | .gangMemberStart => false
  | .barrierArrival => false
  | .contextImage => false
  | .migrationResend => false
  | .activeMessage => false
  | .serviceHandlerStart => false
  | .serviceBuiltinAccess => false
  | .serviceHandlerLimit => false
  | .bankAccess => false
  | .remoteRead => false
  | .remoteWrite => false
  | .remoteAtomic => false
  | .fill => false
  | .acknowledgement => false
  | .refusal => false
  | .trapRecordEntry => false
  | .busy => false
  | .wakeMessage => false
  | .orderedStore => false
  | .orderedStoreRelease => false
  | .hubRequest => false
  | .hubAnswer => false
  | .fabricOpen => false
  | .fabricGrant => false
  | .routerCycle => false
  | .linkWord => false
  | .linkCreditReturn => false
  | .ucieFlit => false
  | .linkFrame => false
  | .deviceAcknowledgement => false
  | .retransmitTimeout => false
  | .creditSyncDue => false
  | .creditSync => false
  | .linkRetrain => false
  | .linkUp => false
  | .linkDown => false
  | .routeRefusalTimeout => false
  | .timeBaseTick => false
  | .timeExchangePeriod => false
  | .timeExchange => false
  | .translationRequest => false
  | .translationWalkComplete => false
  | .hbmChannelRequest => false
  | .bulkBufferInvalidationAck => false
  | .capacityExpansion => false
  | .poolExhaustedTimeout => false
  | .parityRebuild => false
  | .hbmRefresh => false
  | .hbmScrub => false
  | .notLiveLineExpiry => false
  | .tileScrub => false
  | .stateStorageError => false
  | .journalReplay => false
  | .journalCancel => false
  | .contextSave => false
  | .saveFillTimeout => false
  | .contextRestore => false
  | .contextDiscard => false
  | .contextKill => false
  | .vwinWrite => false
  | .routeWrite => false
  | .tmasterWrite => false
  | .linkstWrite => false
  | .registerWrite => false
  | .governorSample => false
  | .junctionOverTemperature => false
  | .packageResetRelease => false
  | .computeDieReset => false
  | .coreReset => false
  | .powerLoss => false
  | .measurementReportRequest => false
  | .windowMetadataClearingEnd => false
  | _ => true

/-- The operand checks of every instruction (R242 and the rule of its form). An event carries plain data and has no encoding
to check. -/
def Instr.wf (i : Instr) : Bool :=
  match i with
  | .add _ x _ => axOk .anyInt x
  | .addi _ x _ => axOk .anyInt x
  | .sub _ x _ => axOk .anyInt x
  | .mul _ x _ => axOk .anyInt x
  | .mulh _ x _ => axOk .signed x
  | .mulhu _ x _ => axOk .unsigned x
  | .div _ x _ => axOk .signed x
  | .divu _ x _ => axOk .unsigned x
  | .rem _ x _ => axOk .signed x
  | .remu _ x _ => axOk .unsigned x
  | .neg _ x _ => axOk .anyInt x
  | .min _ x _ => axOk .signed x
  | .max _ x _ => axOk .signed x
  | .minu _ x _ => axOk .unsigned x
  | .maxu _ x _ => axOk .unsigned x
  | .sext _ o => o.wf
  | .zext _ o => o.wf
  | .ld _ o => o.wf .ld
  | .st _ o => o.wf .st
  | .ldt _ o => MemClass.allows .load o.x
  | .ldf _ o => MemClass.allows .load o.x
  | .ldfe _ o => MemClass.allows .load o.x
  | .stef _ o => MemClass.allows .store o.x
  | .setf _ o => MemClass.allows .store o.x
  | .sete _ o => MemClass.allows .store o.x
  | .amoSwapW _ o => MemClass.allows .atomic o.x
  | .amoSwapD _ o => MemClass.allows .atomic o.x
  | .casW _ o => MemClass.allows .atomic o.x
  | .casD _ o => MemClass.allows .atomic o.x
  | .amoOp _ o => MemClass.allows .atomic o.x
  | .fadd _ x _ => axOk .float x
  | .fsub _ x _ => axOk .float x
  | .fmul _ x _ => axOk .float x
  | .fdiv _ x _ => axOk .float x
  | .fsqrt _ x _ => axOk .float x
  | .fma _ x _ => axOk .float x
  | .fmin _ x _ => axOk .float x
  | .fmax _ x _ => axOk .float x
  | .fabs _ x _ => axOk .float x
  | .fneg _ x _ => axOk .float x
  | .fcmpEq _ x _ => axOk .float x
  | .fcmpLt _ x _ => axOk .float x
  | .fcmpLe _ x _ => axOk .float x
  | .fcmpUn _ x _ => axOk .float x
  | .fcvt _ x o => axOk .conv x && o.wf
  | .fround _ x _ => axOk .float x
  | .fsin _ x _ => axOk .float x
  | .fcos _ x _ => axOk .float x
  | .fexp2 _ x _ => axOk .float x
  | .flog2 _ x _ => axOk .float x
  | .frcp _ x _ => axOk .float x
  | .vadd _ x o => axOk .all8 x && o.wf
  | .vsub _ x o => axOk .all8 x && o.wf
  | .vmul _ x o => axOk .all8 x && o.wf
  | .vfma _ x o => axOk .all8 x && o.wfTer
  | .vdiv _ x o => axOk .float x && o.wf
  | .vsqrt _ x _ => axOk .float x
  | .vmin _ x o => axOk .all8 x && o.wf
  | .vmax _ x o => axOk .all8 x && o.wf
  | .vabs _ x _ => axOk .all8 x
  | .vneg _ x _ => axOk .all8 x
  | .vmulh _ x o => axOk .anyInt x && o.wf
  | .vand _ o => o.wf
  | .vor _ o => o.wf
  | .vxor _ o => o.wf
  | .vshl _ o => o.wf
  | .vshr _ o => o.wf
  | .vsar _ o => o.wf
  | .vcmpEq _ x _ => axOk .all8 x
  | .vcmpLt _ x _ => axOk .all8 x
  | .vcmpLe _ x _ => axOk .all8 x
  | .vcmpUn _ x _ => axOk .float x
  | .vsel _ o => o.wf
  | .vcvt _ x o => axOk .conv x && o.wf false
  | .vcvtn _ x o => axOk .conv x && o.wf true
  | .vredadd _ x _ => axOk .all8 x
  | .vredmin _ x _ => axOk .all8 x
  | .vredmax _ x _ => axOk .all8 x
  | .vperm _ o => o.wf
  | .vrot _ o => o.wf
  | .vext _ o => laneIndexOk o.idx
  | .vins _ o => laneIndexOk o.idx
  | .vexp2 _ x _ => axOk .float x
  | .vrcp _ x _ => axOk .float x
  | .vld _ o => MemClass.allows .vload o.x
  | .vst _ o => MemClass.allows .vstore o.x
  | .vldf _ o => MemClass.allows .vload o.x
  | .vldfe _ o => MemClass.allows .vload o.x
  | .vstef _ o => MemClass.allows .vstore o.x
  | .vgath _ o => MemClass.allows .vload o.x
  | .vscat _ o => MemClass.allows .vstore o.x
  | .vclr m _ => m.guard.isNone
  | .link _ o => o.wf
  | _ => true

end Sys2Proof
end

