-- ==== Sys2Proof/Decode.lean ====
section
/-!
DEFINITION. From bytes to instructions (spec/11): the decoder, total on any bytes and rejecting by name, and after it the
encoder, written from the same tables.
-/

namespace Sys2Proof

/-- Why a word chain is no instruction (R242), or too short to tell. -/
inductive DecodeError where
  /-- the words end before the base word -/
  | truncated
  /-- a fifth prefix word (R242) -/
  | fifthPrefix
  /-- a second PFX.P, PFX.X or PFX.R (R223) -/
  | secondPrefix
  /-- PFX.P[0] set, or [4] with [5] clear (R226) -/
  | pagePrefixBits
  /-- an op that its page leaves unassigned, or a page above 7 (R233, R401) -/
  | unassignedOp
  /-- a base-word field the form does not use is not zero (R228) -/
  | unusedField
  /-- q set where b is no read source (R229) -/
  | qNotTaken
  /-- a register number outside its class (R229) -/
  | registerClass
  /-- PFX.R absent where required, present where refused, or with a bit the form needs zero (R225, R228) -/
  | registerPrefix
  /-- PFX.X on a form without one, or with a content the form refuses (R227, R119) -/
  | qualifierPrefix
  /-- more PFX.I words than the format takes (R224) -/
  | immediateWords
  /-- an index or an immediate outside the range of the form -/
  | operandRange
  /-- a guard on a form that refuses one (R306) -/
  | guardNotTaken
  deriving DecidableEq, Repr

/-- The payload of PFX.R (R222). -/
structure RegX where
  ah : Bool := false
  bh : Bool := false
  ch : Bool := false
  c : BitVec 4 := 0
  bc : Bool := false
  lo : BitVec 2 := 0
  deriving DecidableEq, Repr

/-- An instruction's words taken apart into the fields of R221 to R224, before they are given a meaning. -/
structure Fields where
  page : BitVec 4 := 0
  guard : Option Guard := none
  x : Option (BitVec 10) := none
  r : Option RegX := none
  imms : List (BitVec 10) := []
  op : BitVec 6
  sw : Bool := false
  a : BitVec 4 := 0
  b : BitVec 4 := 0
  q : Bool := false
  deriving DecidableEq, Repr

/-- The prefixes met so far in a chain (R223). -/
structure Chain where
  p : Option (BitVec 10) := none
  x : Option (BitVec 10) := none
  r : Option (BitVec 10) := none
  imms : List (BitVec 10) := []
  deriving DecidableEq, Repr

/-- Whether a word is a prefix word (R221). -/
def isPfx (w : Half) : Bool := 0x3C ≤ (w.extractLsb' 10 6).toNat

/-- The payload of a prefix word (R222). -/
def payload (w : Half) : BitVec 10 := w.extractLsb' 0 10

/-- One more prefix word on a chain: PFX.P, PFX.X and PFX.R at most once each (R223). -/
def Chain.add (c : Chain) (w : Half) : Except DecodeError Chain :=
  let y := payload w
  match (w.extractLsb' 10 6).toNat with
  | 0x3C => .ok { c with imms := c.imms ++ [y] }
  | 0x3D => if c.r.isSome then .error .secondPrefix else .ok { c with r := some y }
  | 0x3E => if c.p.isSome then .error .secondPrefix else .ok { c with p := some y }
  | _ => if c.x.isSome then .error .secondPrefix else .ok { c with x := some y }

/-- The prefix chain and the base word, with the number of words read (R220, R223). -/
def readChain : Nat → Chain → Nat → List Half → Except DecodeError (Chain × Half × Nat)
  | _, _, _, [] => .error .truncated
  | 0, c, n, w :: _ => if isPfx w then .error .fifthPrefix else .ok (c, w, n + 1)
  | k + 1, c, n, w :: ws =>
    if isPfx w then
      match c.add w with
      | .ok c' => readChain k c' (n + 1) ws
      | .error e => .error e
    else .ok (c, w, n + 1)

/-- PFX.R's payload taken apart (R222). -/
def RegX.ofBits (y : BitVec 10) : RegX :=
  { ah := y.getLsbD 9, bh := y.getLsbD 8, ch := y.getLsbD 7, c := y.extractLsb' 3 4, bc := y.getLsbD 2,
    lo := y.extractLsb' 0 2 }

/-- PFX.R's payload put together (R222). -/
def RegX.bits (r : RegX) : BitVec 10 :=
  BitVec.ofBool r.ah ++ BitVec.ofBool r.bh ++ BitVec.ofBool r.ch ++ r.c ++ BitVec.ofBool r.bc ++ r.lo

/-- PFX.P's guard (R226). -/
def guardOf (y : BitVec 10) : Option Guard :=
  if y.getLsbD 5 then some ⟨y.getLsbD 4, y.extractLsb' 1 3⟩ else none

/-- PFX.P's payload put together (R222). -/
def pageBits (page : BitVec 4) (g : Option Guard) : BitVec 10 :=
  match g with
  | none => page ++ (0 : BitVec 6)
  | some g => page ++ (1 : BitVec 1) ++ BitVec.ofBool g.neg ++ g.idx ++ (0 : BitVec 1)

/-- The fields of a chain and its base word (R221, R222), with PFX.P's own checks (R242). -/
def Fields.of (c : Chain) (w : Half) : Except DecodeError Fields :=
  let y := c.p.getD 0
  if y.getLsbD 0 || (y.getLsbD 4 && !y.getLsbD 5) then .error .pagePrefixBits
  else .ok
    { page := y.extractLsb' 6 4, guard := guardOf y, x := c.x, r := c.r.map RegX.ofBits, imms := c.imms,
      op := w.extractLsb' 10 6, sw := w.getLsbD 9, a := w.extractLsb' 5 4, b := w.extractLsb' 1 4, q := w.getLsbD 0 }

/-- The base word of a set of fields (R221). -/
def Fields.base (f : Fields) : Half := f.op ++ BitVec.ofBool f.sw ++ f.a ++ f.b ++ BitVec.ofBool f.q

/-- A prefix word: its op and its payload (R222). -/
def pfx (op : BitVec 6) (y : BitVec 10) : Half := op ++ y

/-- The words of a set of fields, prefixes in the order of R247. -/
def Fields.words (f : Fields) : List Half :=
  (if f.page = 0 ∧ f.guard = none then [] else [pfx 0x3E (pageBits f.page f.guard)]) ++
  (match f.x with | none => [] | some y => [pfx 0x3F y]) ++
  (match f.r with | none => [] | some r => [pfx 0x3D r.bits]) ++
  f.imms.map (pfx 0x3C) ++ [f.base]

/-- How many prefix words the fields take (R247). -/
def Fields.prefixes (f : Fields) : Nat := f.words.length - 1

/-! ## Immediates (R224) -/

/-- The immediate of n PFX.I words above k base bits, sign-extended from its top bit to w bits. -/
def immOf (w k : Nat) (imms : List (BitVec 10)) (low : Nat) : BitVec w :=
  (BitVec.ofNat (k + 10 * imms.length) (imms.foldl (fun n y => n * 1024 + y.toNat) 0 * 2 ^ k + low)).signExtend w

/-- Whether v is the sign extension of its own low n bits. -/
def fitsIn {w : Nat} (v : BitVec w) (n : Nat) : Bool := (v.setWidth n).signExtend w == v

/-- The fewest PFX.I words whose width holds v (R247), out of at most `m`. -/
def immCount {w : Nat} (k m : Nat) (v : BitVec w) : Nat :=
  ((List.range m).find? (fun n => fitsIn v (k + 10 * n))).getD m

/-- The n payloads above the k base bits of v, most significant first (R224). -/
def immPayloads {w : Nat} (k : Nat) (v : BitVec w) (n : Nat) : List (BitVec 10) :=
  (List.range n).reverse.map fun i => v.extractLsb' (k + 10 * i) 10

/-- The PFX.I words of an immediate in the fewest words (R247). -/
def immWords {w : Nat} (k m : Nat) (v : BitVec w) : List (BitVec 10) := immPayloads k v (immCount k m v)

/-! ## Checks (R242) -/

/-- Go on if the check holds, else refuse by name. -/
def need {α : Type} (c : Bool) (e : DecodeError) (k : Except DecodeError α) : Except DecodeError α :=
  if c then k else .error e

/-- PFX.R absent, or with only the parts that the form takes (R225, R228). -/
def rFits (r : Option RegX) (ah bh ch c bc : Bool) : Bool :=
  match r with
  | none => true
  | some r => (ah || !r.ah) && (bh || !r.bh) && (ch || !r.ch) && (c || r.c == 0) && (bc || !r.bc) && r.lo == 0

/-- Field a with its high bit (R225). -/
def Fields.a5 (f : Fields) : VNum := BitVec.ofBool (match f.r with | none => false | some r => r.ah) ++ f.a

/-- Field b with its high bit (R225). -/
def Fields.b5 (f : Fields) : VNum := BitVec.ofBool (match f.r with | none => false | some r => r.bh) ++ f.b

/-- Field c with its high bit (R225); 0 without PFX.R. -/
def RegX.c5 (r : RegX) : VNum := BitVec.ofBool r.ch ++ r.c

/-- The high bit of a 5-bit register number. -/
def hi (v : VNum) : Bool := v.getLsbD 4

/-- The low field of a 5-bit register number. -/
def lo4 (v : VNum) : BitVec 4 := v.extractLsb' 0 4

/-- PFX.R only when a high bit needs it (R247). -/
def rHigh (ah bh : Bool) : Option RegX := if ah || bh then some { ah := ah, bh := bh } else none

/-- The RN index: at most one payload (R224). -/
def Fields.index (f : Fields) : BitVec 10 :=
  match f.imms with
  | [] => 0
  | y :: _ => y

/-- The PFX.I words of an index: none for 0 (R247). -/
def indexWords (y : BitVec 10) : List (BitVec 10) := if y = 0 then [] else [y]

/-! ## The qualifier prefix (R227) -/

def ElemTy.code : ElemTy → BitVec 3
  | .f32 => 0 | .f16 => 1 | .bf16 => 2 | .i32 => 3 | .i16 => 4 | .i8 => 5 | .u8 => 6 | .u32 => 7

def ElemTy.ofCode (c : BitVec 3) : ElemTy :=
  match c.toNat with
  | 0 => .f32 | 1 => .f16 | 2 => .bf16 | 3 => .i32 | 4 => .i16 | 5 => .i8 | 6 => .u8 | _ => .u32

def Rnd.code : Rnd → BitVec 2
  | .rne => 0 | .rz => 1 | .ru => 2 | .rd => 3

def Rnd.ofCode (c : BitVec 2) : Rnd :=
  match c.toNat with
  | 0 => .rne | 1 => .rz | 2 => .ru | _ => .rd

def ArithX.bits (x : ArithX) : BitVec 10 := x.ty.code ++ BitVec.ofBool x.sat ++ x.rnd.code ++ (0 : BitVec 4)

def ArithX.ofBits (y : BitVec 10) : ArithX := ⟨.ofCode (y.extractLsb' 7 3), y.getLsbD 6, .ofCode (y.extractLsb' 4 2)⟩

def MemX.bits (x : MemX) : BitVec 10 :=
  x.mask ++ x.ord ++ BitVec.ofBool x.rx ++ BitVec.ofBool x.mig ++ BitVec.ofBool x.bv

def MemX.ofBits (y : BitVec 10) : MemX :=
  ⟨y.extractLsb' 5 5, y.extractLsb' 3 2, y.getLsbD 2, y.getLsbD 1, y.getLsbD 0⟩

/-- PFX.X of a memory form: left out when it says nothing (R247). -/
def MemX.word (x : MemX) : Option (BitVec 10) := if x = {} then none else some x.bits

/-- A form whose X column is a dash (R227). -/
def noX (f : Fields) (k : Except DecodeError Instr) : Except DecodeError Instr := need f.x.isNone .qualifierPrefix k

/-- A form whose X column is a: the arithmetic layout, within the types of its class (R227, R242). -/
def withA (cls : ArithClass) (f : Fields) (k : Option ArithX → Except DecodeError Instr) : Except DecodeError Instr :=
  match f.x with
  | none => k none
  | some y =>
    need (y.extractLsb' 0 4 == 0) .qualifierPrefix <|
    need (cls.allows (ArithX.ofBits y)) .qualifierPrefix <| k (some (ArithX.ofBits y))

/-- A form whose X column is m: the memory layout, within the combinations of R119 and R266 (R227, R242). -/
def withM (cls : MemClass) (f : Fields) (k : MemX → Except DecodeError Instr) : Except DecodeError Instr :=
  let x := match f.x with | none => ({} : MemX) | some y => MemX.ofBits y
  need (cls.allows x) .qualifierPrefix (k x)

/-! ## Operand forms: how each reads the fields (R228), and beside it how it is written back -/

def Fields.noImm (f : Fields) : Bool := f.imms.isEmpty
def Fields.imm5 (f : Fields) : Nat := f.b.toNat * 2 + f.q.toNat
def Fields.imm9 (f : Fields) : Nat := f.a.toNat * 32 + f.imm5

/-- Format N: every field zero, no PFX.I, no PFX.R. -/
def decN (f : Fields) (i : Instr) : Except DecodeError Instr :=
  need f.noImm .immediateWords <| need f.r.isNone .registerPrefix <|
  need (f.a == 0 && f.b == 0 && !f.q) .unusedField <| .ok i

def encN (f : Fields) : Fields := f

/-- A unary scalar form, which refuses PFX.R (R249); also the bundle forms (R272). -/
def decUn (f : Fields) (k : OpAB → Instr) : Except DecodeError Instr :=
  need f.noImm .immediateWords <| need f.r.isNone .registerPrefix <| .ok (k ⟨f.a, f.b, f.q⟩)

/-- A form of fields a and b, which takes PFX.R with nothing in it (R228). -/
def decAB (f : Fields) (k : OpAB → Instr) : Except DecodeError Instr :=
  need f.noImm .immediateWords <| need (rFits f.r false false false false false) .registerPrefix <|
  .ok (k ⟨f.a, f.b, f.q⟩)

def encAB (f : Fields) (o : OpAB) : Fields := { f with a := o.a, b := o.b, q := o.q }

def decBin (f : Fields) (k : OpBin → Instr) : Except DecodeError Instr :=
  need f.noImm .immediateWords <| need (rFits f.r false false false true false) .registerPrefix <|
  .ok (k ⟨f.a, f.b, f.q, f.r.map (·.c)⟩)

def encBin (f : Fields) (o : OpBin) : Fields :=
  { f with a := o.a, b := o.b, q := o.q, r := o.c.map fun c => { c := c } }

/-- A form that requires PFX.R for a scalar field c. -/
def decABC (f : Fields) (k : OpABC → Instr) : Except DecodeError Instr :=
  need f.noImm .immediateWords <| need (rFits f.r false false false true false) .registerPrefix <|
  match f.r with
  | none => .error .registerPrefix
  | some r => .ok (k ⟨f.a, f.b, f.q, r.c⟩)

def encABC (f : Fields) (o : OpABC) : Fields := { f with a := o.a, b := o.b, q := o.q, r := some { c := o.c } }

/-- Format I. -/
def decImm (f : Fields) (k : OpImm → Instr) : Except DecodeError Instr :=
  need (f.imms.length ≤ 4) .immediateWords <| need f.r.isNone .registerPrefix <|
  .ok (k ⟨f.a, immOf 45 5 f.imms f.imm5⟩)

/-- The base word of an immediate of k = 5 bits. -/
def low5 {w : Nat} (f : Fields) (v : BitVec w) : Fields := { f with b := v.extractLsb' 1 4, q := v.getLsbD 0 }

def encImm (f : Fields) (o : OpImm) : Fields := { low5 f o.imm with a := o.a, imms := immWords 5 4 o.imm }

/-- A shift by an immediate of 0 to 63 (R255). -/
def decShift (f : Fields) (k : OpShift → Instr) : Except DecodeError Instr :=
  need (f.imms.length ≤ 4) .immediateWords <| need f.r.isNone .registerPrefix <|
  let v := immOf 45 5 f.imms f.imm5
  need (v.toNat < 64) .operandRange <| .ok (k ⟨f.a, v.setWidth 6⟩)

def encShift (f : Fields) (o : OpShift) : Fields :=
  encImm f ⟨o.a, o.n.setWidth 45⟩

/-- sext and zext: n from 1 to 64 (R256). -/
def decExt (f : Fields) (k : OpExt → Instr) : Except DecodeError Instr :=
  need (f.imms.length ≤ 4) .immediateWords <| need f.r.isNone .registerPrefix <|
  let v := immOf 45 5 f.imms f.imm5
  need (1 ≤ v.toNat && v.toNat ≤ 64) .operandRange <| .ok (k ⟨f.a, v.setWidth 7⟩)

def encExt (f : Fields) (o : OpExt) : Fields :=
  encImm f ⟨o.a, o.n.setWidth 45⟩

def Fields.offset (f : Fields) : BitVec 40 := immOf 40 0 f.imms 0

def decLea (f : Fields) (k : OpLea → Instr) : Except DecodeError Instr :=
  need (f.imms.length ≤ 4) .immediateWords <| need (rFits f.r false false false true false) .registerPrefix <|
  .ok (k ⟨f.a, f.b, f.q, f.r.map (·.c), f.offset⟩)

/-- Base, data and offset of a format M form. -/
def encM (f : Fields) (a b : BitVec 4) (q : Bool) (off : BitVec 40) : Fields :=
  { f with a := a, b := b, q := q, imms := immWords 0 4 off }

def encLea (f : Fields) (o : OpLea) : Fields :=
  { encM f o.a o.b o.q o.off with r := o.c.map fun c => { c := c } }

/-- At most one PFX.I word, whose index lies below 2 ^ w (R224). -/
def needIndex (w : Nat) (f : Fields) (k : Except DecodeError Instr) : Except DecodeError Instr :=
  need (f.imms.length ≤ 1) .immediateWords <| need (f.index.toNat < 2 ^ w) .operandRange k

def decSel (f : Fields) (k : OpSel → Instr) : Except DecodeError Instr :=
  needIndex 4 f <| need (rFits f.r false false false true false) .registerPrefix <|
  .ok (k ⟨f.a, f.b, f.q, f.r.map (·.c), f.index.extractLsb' 0 3, f.index.getLsbD 3⟩)

def encSel (f : Fields) (o : OpSel) : Fields :=
  { f with a := o.a, b := o.b, q := o.q, r := o.c.map fun c => { c := c },
           imms := indexWords ((BitVec.ofBool o.neg ++ o.p).setWidth 10) }

/-- A 4-bit field that names a predicate or a lane mask (R229). -/
def isP (r : BitVec 4) : Bool := !r.getLsbD 3
def toP (r : BitVec 4) : PNum := r.extractLsb' 0 3
def ofP (p : PNum) : BitVec 4 := p.setWidth 4

def decPlog (f : Fields) (k : OpPlog → Instr) : Except DecodeError Instr :=
  needIndex 4 f <| need (rFits f.r false false false true false) .registerPrefix <|
  need (!f.q) .qNotTaken <|
  need (isP f.a && isP f.b && (match f.r with | none => true | some r => isP r.c)) .registerClass <|
  .ok (k ⟨toP f.a, toP f.b, f.r.map fun r => toP r.c, f.index.extractLsb' 0 4⟩)

def encPlog (f : Fields) (o : OpPlog) : Fields :=
  { f with a := ofP o.a, b := ofP o.b, r := o.c.map fun c => { c := ofP c }, imms := indexWords (o.tt.setWidth 10) }

def decA (f : Fields) (k : OpA → Instr) : Except DecodeError Instr :=
  need f.noImm .immediateWords <| need (rFits f.r false false false false false) .registerPrefix <|
  need (f.b == 0) .unusedField <| need (!f.q) .qNotTaken <| .ok (k ⟨f.a⟩)

def encA (f : Fields) (o : OpA) : Fields := { f with a := o.a }

def decB (f : Fields) (k : OpB → Instr) : Except DecodeError Instr :=
  need f.noImm .immediateWords <| need (rFits f.r false false false false false) .registerPrefix <|
  need (f.a == 0) .unusedField <| .ok (k ⟨f.b, f.q⟩)

def encB (f : Fields) (o : OpB) : Fields := { f with b := o.b, q := o.q }

/-- What field c of PFX.R says in formats C and CI: the destination and the negation (R228). -/
def condDest (f : Fields) : PNum × Bool :=
  match f.r with
  | none => (0, false)
  | some r => (toP r.c, r.c.getLsbD 3)

/-- Field c of formats C and CI put together. -/
def condField (p : PNum) (neg : Bool) : BitVec 4 := BitVec.ofBool neg ++ p

def decCmp (f : Fields) (k : OpCmp → Instr) : Except DecodeError Instr :=
  need f.noImm .immediateWords <| need (rFits f.r false false false true false) .registerPrefix <|
  .ok (k ⟨(condDest f).1, (condDest f).2, f.a, f.b, f.q⟩)

def encCmp (f : Fields) (o : OpCmp) : Fields :=
  { f with a := o.a, b := o.b, q := o.q,
           r := if o.p = 0 ∧ o.neg = false then none else some { c := condField o.p o.neg } }

def decCmpI (f : Fields) (k : OpCmpI → Instr) : Except DecodeError Instr :=
  need (f.imms.length ≤ 4) .immediateWords <| need (rFits f.r false false false true false) .registerPrefix <|
  .ok (k ⟨(condDest f).1, (condDest f).2, f.a, immOf 45 5 f.imms f.imm5⟩)

def encCmpI (f : Fields) (o : OpCmpI) : Fields :=
  { encImm f ⟨o.a, o.imm⟩ with
    r := if o.p = 0 ∧ o.neg = false then none else some { c := condField o.p o.neg } }

/-- Format J. -/
def decJ (f : Fields) (k : OpJ → Instr) : Except DecodeError Instr :=
  need (f.imms.length ≤ 3) .immediateWords <| need f.r.isNone .registerPrefix <| .ok (k ⟨immOf 39 9 f.imms f.imm9⟩)

def encJ (f : Fields) (o : OpJ) : Fields :=
  { low5 f o.off with a := o.off.extractLsb' 5 4, imms := immWords 9 3 o.off }

/-- Format P. -/
def decP (f : Fields) (k : OpP → Instr) : Except DecodeError Instr :=
  need (f.imms.length ≤ 3) .immediateWords <| need f.r.isNone .registerPrefix <|
  .ok (k ⟨f.a.extractLsb' 1 3, f.a.getLsbD 0, immOf 35 5 f.imms f.imm5⟩)

def encP (f : Fields) (o : OpP) : Fields :=
  { low5 f o.off with a := o.p ++ BitVec.ofBool o.neg, imms := immWords 5 3 o.off }

/-- `ld` and `st`: PFX.R exactly with `.bv` (R266). -/
def decLd (cls : MemClass) (f : Fields) (k : OpLd → Instr) : Except DecodeError Instr :=
  withM cls f fun x =>
  need (f.imms.length ≤ 4) .immediateWords <| need (rFits f.r false false false true false) .registerPrefix <|
  need (f.r.isSome == x.bv) .registerPrefix <|
  .ok (k ⟨f.op.extractLsb' 0 2, f.a, f.b, f.q, f.offset, f.r.map (·.c), x⟩)

/-- The op of a form whose op[1:0] is the size (R235). -/
def sized (f : Fields) (sz : BitVec 2) : Fields := { f with op := f.op ||| sz.setWidth 6 }

def encLd (f : Fields) (o : OpLd) : Fields :=
  { encM (sized f o.sz) o.a o.b o.q o.off with r := o.c.map fun c => { c := c }, x := o.x.word }

def decLdt (cls : MemClass) (f : Fields) (k : OpLdt → Instr) : Except DecodeError Instr :=
  withM cls f fun x =>
  need (f.imms.length ≤ 4) .immediateWords <| need (rFits f.r false false false true false) .registerPrefix <|
  match f.r with
  | none => .error .registerPrefix
  | some r => .ok (k ⟨f.op.extractLsb' 0 2, f.a, f.b, f.q, f.offset, r.c, x⟩)

def encLdt (f : Fields) (o : OpLdt) : Fields :=
  { encM (sized f o.sz) o.a o.b o.q o.off with r := some { c := o.c }, x := o.x.word }

def decLdf (cls : MemClass) (f : Fields) (k : OpLdf → Instr) : Except DecodeError Instr :=
  withM cls f fun x =>
  need (f.imms.length ≤ 4) .immediateWords <| need f.r.isNone .registerPrefix <|
  .ok (k ⟨f.op.extractLsb' 0 2, f.a, f.b, f.q, f.offset, x⟩)

def encLdf (f : Fields) (o : OpLdf) : Fields :=
  { encM (sized f o.sz) o.a o.b o.q o.off with x := o.x.word }

def decSet (cls : MemClass) (f : Fields) (k : OpSet → Instr) : Except DecodeError Instr :=
  withM cls f fun x =>
  need (f.imms.length ≤ 4) .immediateWords <| need f.r.isNone .registerPrefix <|
  need (f.a == 0) .unusedField <| .ok (k ⟨f.b, f.q, f.offset, x⟩)

def encSet (f : Fields) (o : OpSet) : Fields := { encM f 0 o.b o.q o.off with x := o.x.word }

/-- `fence`: PFX.X with only a mask (R271). -/
def decFence (f : Fields) (k : OpFence → Instr) : Except DecodeError Instr :=
  decN f (k ⟨none⟩) |>.bind fun i =>
  match f.x with
  | none => .ok i
  | some y => need (y.extractLsb' 0 5 == 0) .qualifierPrefix <| .ok (k ⟨some (y.extractLsb' 5 5)⟩)

def encFence (f : Fields) (o : OpFence) : Fields := { f with x := o.mask.map fun m => m ++ (0 : BitVec 5) }

def decAmo (cls : MemClass) (f : Fields) (k : OpAmo → Instr) : Except DecodeError Instr :=
  withM cls f fun x =>
  need (f.imms.length ≤ 4) .immediateWords <| need f.r.isNone .registerPrefix <|
  .ok (k ⟨f.a, f.b, f.q, f.offset, x⟩)

def encAmo (f : Fields) (o : OpAmo) : Fields := { encM f o.a o.b o.q o.off with x := o.x.word }

def decCas (cls : MemClass) (f : Fields) (k : OpCas → Instr) : Except DecodeError Instr :=
  withM cls f fun x =>
  need (f.imms.length ≤ 4) .immediateWords <| need (rFits f.r false false false true false) .registerPrefix <|
  match f.r with
  | none => .error .registerPrefix
  | some r => .ok (k ⟨f.a, f.b, f.q, f.offset, r.c, x⟩)

def encCas (f : Fields) (o : OpCas) : Fields :=
  { encM f o.a o.b o.q o.off with r := some { c := o.c }, x := o.x.word }

/-- `amo.op`: op[3:1] the operation, op[0] the size (R235). -/
def decAmoOp (cls : MemClass) (f : Fields) (k : OpAmoOp → Instr) : Except DecodeError Instr :=
  withM cls f fun x =>
  need (f.imms.length ≤ 4) .immediateWords <| need f.r.isNone .registerPrefix <|
  .ok (k ⟨f.op.extractLsb' 1 3, f.op.getLsbD 0, f.a, f.b, f.q, f.offset, x⟩)

def encAmoOp (f : Fields) (o : OpAmoOp) : Fields :=
  { encM f o.a o.b o.q o.off with op := f.op ||| (o.op ++ BitVec.ofBool o.dbl).setWidth 6, x := o.x.word }

/-- `fcvt`: the index holds tgt in [3:0] and src in [7:4] (R278). -/
def decCvt (f : Fields) (k : OpCvt → Instr) : Except DecodeError Instr :=
  needIndex 8 f <| need (rFits f.r false false false false false) .registerPrefix <|
  let o : OpCvt := ⟨f.a, f.b, f.q, f.index.extractLsb' 0 4, f.index.extractLsb' 4 4⟩
  need (o.wf) .operandRange <| .ok (k o)

def encCvt (f : Fields) (o : OpCvt) : Fields :=
  { f with a := o.a, b := o.b, q := o.q, imms := indexWords ((o.src ++ o.tgt).setWidth 10) }

/-- Field c of a page 3 form (R225): a vector, or with [2] a scalar. -/
def vsrcOf (r : Option RegX) : VSrc :=
  match r with
  | none => .absent
  | some r => if r.bc then .scal r.c else .vec r.c5

/-- A scalar named by field c has its high bit clear (R229). -/
def vsrcFits (r : Option RegX) : Bool :=
  match r with
  | none => true
  | some r => !(r.bc && r.ch)

/-- PFX.R of a page 3 form with a field c. -/
def vsrcR (a b : VNum) (c : VSrc) : Option RegX :=
  match c with
  | .absent => none
  | .vec v => some { ah := hi a, bh := hi b, ch := hi v, c := lo4 v }
  | .scal s => some { ah := hi a, bh := hi b, c := s, bc := true }

def decVBin (f : Fields) (k : OpVBin → Instr) : Except DecodeError Instr :=
  need f.noImm .immediateWords <| need (rFits f.r true true true true true) .registerPrefix <|
  need (vsrcFits f.r) .registerClass <| .ok (k ⟨f.a5, f.b5, f.q, vsrcOf f.r⟩)

def encVBin (f : Fields) (o : OpVBin) : Fields :=
  { f with a := lo4 o.a, b := lo4 o.b, q := o.q, r := vsrcR o.a o.b o.c }

/-- vfma: PFX.R required (R292). -/
def decVTer (f : Fields) (k : OpVBin → Instr) : Except DecodeError Instr :=
  need f.r.isSome .registerPrefix <| decVBin f k

def decVUn (f : Fields) (k : OpVUn → Instr) : Except DecodeError Instr :=
  need f.noImm .immediateWords <| need (rFits f.r true true false false false) .registerPrefix <|
  .ok (k ⟨f.a5, f.b5, f.q⟩)

def encVUn (f : Fields) (o : OpVUn) : Fields :=
  { f with a := lo4 o.a, b := lo4 o.b, q := o.q, r := rHigh (hi o.a) (hi o.b) }

def decVCmp (f : Fields) (k : OpVCmp → Instr) : Except DecodeError Instr :=
  need f.noImm .immediateWords <| need (rFits f.r true true false true false) .registerPrefix <|
  .ok (k ⟨(condDest f).1, (condDest f).2, f.a5, f.b5, f.q⟩)

def encVCmp (f : Fields) (o : OpVCmp) : Fields :=
  { f with a := lo4 o.a, b := lo4 o.b, q := o.q,
           r := if o.m = 0 ∧ o.neg = false then rHigh (hi o.a) (hi o.b)
                else some { ah := hi o.a, bh := hi o.b, c := condField o.m o.neg } }

def decVSel (f : Fields) (k : OpVSel → Instr) : Except DecodeError Instr :=
  needIndex 4 f <| need (rFits f.r true true true true true) .registerPrefix <|
  need (vsrcFits f.r) .registerClass <|
  .ok (k ⟨f.a5, f.b5, f.q, vsrcOf f.r, f.index.extractLsb' 0 3, f.index.getLsbD 3⟩)

def encVSel (f : Fields) (o : OpVSel) : Fields :=
  { f with a := lo4 o.a, b := lo4 o.b, q := o.q, r := vsrcR o.a o.b o.c,
           imms := indexWords ((BitVec.ofBool o.neg ++ o.m).setWidth 10) }

def decVCvt (narrow : Bool) (f : Fields) (k : OpVCvt → Instr) : Except DecodeError Instr :=
  needIndex 8 f <| need (rFits f.r true true false false false) .registerPrefix <|
  let o : OpVCvt := ⟨f.a5, f.b5, f.q, f.index.extractLsb' 0 4, f.index.extractLsb' 4 4⟩
  need (o.wf narrow) .operandRange <| .ok (k o)

def encVCvt (f : Fields) (o : OpVCvt) : Fields :=
  { f with a := lo4 o.a, b := lo4 o.b, q := o.q, r := rHigh (hi o.a) (hi o.b),
           imms := indexWords ((o.src ++ o.tgt).setWidth 10) }

def decSV (f : Fields) (k : OpSV → Instr) : Except DecodeError Instr :=
  need f.noImm .immediateWords <| need (rFits f.r false true false false false) .registerPrefix <|
  .ok (k ⟨f.a, f.b5, f.q⟩)

def encSV (f : Fields) (o : OpSV) : Fields :=
  { f with a := o.a, b := lo4 o.b, q := o.q, r := rHigh false (hi o.b) }

def decVS (f : Fields) (k : OpVS → Instr) : Except DecodeError Instr :=
  need f.noImm .immediateWords <| need (rFits f.r true false false false false) .registerPrefix <|
  .ok (k ⟨f.a5, f.b, f.q⟩)

def encVS (f : Fields) (o : OpVS) : Fields :=
  { f with a := lo4 o.a, b := o.b, q := o.q, r := rHigh (hi o.a) false }

def decVExt (f : Fields) (k : OpVExt → Instr) : Except DecodeError Instr :=
  needIndex 7 f <| need (rFits f.r false true false false false) .registerPrefix <|
  let o : OpVExt := ⟨f.a, f.b5, f.q, f.index.extractLsb' 0 7⟩
  need (laneIndexOk o.idx) .operandRange <| .ok (k o)

def encVExt (f : Fields) (o : OpVExt) : Fields :=
  { f with a := o.a, b := lo4 o.b, q := o.q, r := rHigh false (hi o.b), imms := indexWords (o.idx.setWidth 10) }

def decVIns (f : Fields) (k : OpVIns → Instr) : Except DecodeError Instr :=
  needIndex 7 f <| need (rFits f.r true false false false false) .registerPrefix <|
  let o : OpVIns := ⟨f.a5, f.b, f.q, f.index.extractLsb' 0 7⟩
  need (laneIndexOk o.idx) .operandRange <| .ok (k o)

def encVIns (f : Fields) (o : OpVIns) : Fields :=
  { f with a := lo4 o.a, b := o.b, q := o.q, r := rHigh (hi o.a) false, imms := indexWords (o.idx.setWidth 10) }

def decVMem (cls : MemClass) (f : Fields) (k : OpVMem → Instr) : Except DecodeError Instr :=
  withM cls f fun x =>
  need (f.imms.length ≤ 4) .immediateWords <| need (rFits f.r true false false false false) .registerPrefix <|
  .ok (k ⟨f.a5, f.b, f.q, f.offset, x⟩)

def encVMem (f : Fields) (o : OpVMem) : Fields :=
  { encM f (lo4 o.a) o.b o.q o.off with r := rHigh (hi o.a) false, x := o.x.word }

def decVGat (cls : MemClass) (f : Fields) (k : OpVGat → Instr) : Except DecodeError Instr :=
  withM cls f fun x =>
  need (f.imms.length ≤ 4) .immediateWords <| need (rFits f.r true false true true false) .registerPrefix <|
  match f.r with
  | none => .error .registerPrefix
  | some r => .ok (k ⟨f.a5, f.b, f.q, f.offset, r.c5, x⟩)

def encVGat (f : Fields) (o : OpVGat) : Fields :=
  { encM f (lo4 o.a) o.b o.q o.off with r := some { ah := hi o.a, ch := hi o.c, c := lo4 o.c }, x := o.x.word }

def decV (f : Fields) (k : OpV → Instr) : Except DecodeError Instr :=
  need f.noImm .immediateWords <| need (rFits f.r true false false false false) .registerPrefix <|
  need (f.b == 0) .unusedField <| need (!f.q) .qNotTaken <| .ok (k ⟨f.a5⟩)

def encV (f : Fields) (o : OpV) : Fields := { f with a := lo4 o.a, r := rHigh (hi o.a) false }

/-- `vclr`, which refuses a guard (R306). -/
def decVClr (f : Fields) (k : OpV → Instr) : Except DecodeError Instr :=
  need f.guard.isNone .guardNotTaken <| decV f k

def decMBin (f : Fields) (k : OpMBin → Instr) : Except DecodeError Instr :=
  need f.noImm .immediateWords <| need (rFits f.r false false false true false) .registerPrefix <|
  need (!f.q) .qNotTaken <|
  need (isP f.a && isP f.b && (match f.r with | none => true | some r => isP r.c)) .registerClass <|
  .ok (k ⟨toP f.a, toP f.b, f.r.map fun r => toP r.c⟩)

def encMBin (f : Fields) (o : OpMBin) : Fields :=
  { f with a := ofP o.a, b := ofP o.b, r := o.c.map fun c => { c := ofP c } }

def decMUn (f : Fields) (k : OpMUn → Instr) : Except DecodeError Instr :=
  need f.noImm .immediateWords <| need (rFits f.r false false false false false) .registerPrefix <|
  need (!f.q) .qNotTaken <| need (isP f.a && isP f.b) .registerClass <| .ok (k ⟨toP f.a, toP f.b⟩)

def encMUn (f : Fields) (o : OpMUn) : Fields := { f with a := ofP o.a, b := ofP o.b }

def decMSet (f : Fields) (k : OpMSet → Instr) : Except DecodeError Instr :=
  need f.noImm .immediateWords <| need (rFits f.r false false false false false) .registerPrefix <|
  need (isP f.a) .registerClass <| .ok (k ⟨toP f.a, f.b, f.q⟩)

def encMSet (f : Fields) (o : OpMSet) : Fields := { f with a := ofP o.a, b := o.b, q := o.q }

def decMGet (f : Fields) (k : OpMGet → Instr) : Except DecodeError Instr :=
  need f.noImm .immediateWords <| need (rFits f.r false false false false false) .registerPrefix <|
  need (!f.q) .qNotTaken <| need (isP f.b) .registerClass <| .ok (k ⟨f.a, toP f.b⟩)

def encMGet (f : Fields) (o : OpMGet) : Fields := { f with a := o.a, b := ofP o.b }

/-- Format MS: field c is the element-size code (R228, R310). -/
def decShape (f : Fields) (k : OpShape → Instr) : Except DecodeError Instr :=
  need (f.imms.length ≤ 4) .immediateWords <| need (rFits f.r true false false true false) .registerPrefix <|
  need (!(condDest f).2) .registerPrefix <|
  .ok (k ⟨f.a5, f.b, f.q, f.offset, (condDest f).1⟩)

def encShape (f : Fields) (o : OpShape) : Fields :=
  { encM f (lo4 o.k) o.b o.q o.off with
    r := if hi o.k = false ∧ o.esz = 0 then none else some { ah := hi o.k, c := ofP o.esz } }

def decCp (f : Fields) (k : OpCp → Instr) : Except DecodeError Instr :=
  needIndex 6 f <| need (rFits f.r true true false false false) .registerPrefix <| need (!f.q) .qNotTaken <|
  .ok (k ⟨f.a5, f.b5, f.index.extractLsb' 0 6⟩)

def encCp (f : Fields) (o : OpCp) : Fields :=
  { f with a := lo4 o.kd, b := lo4 o.ks, r := rHigh (hi o.kd) (hi o.ks), imms := indexWords (o.h.setWidth 10) }

def decCpc (f : Fields) (k : OpCpc → Instr) : Except DecodeError Instr :=
  needIndex 6 f <| need (rFits f.r true true false true false) .registerPrefix <| need (!f.q) .qNotTaken <|
  match f.r with
  | none => .error .registerPrefix
  | some r => .ok (k ⟨f.a5, f.b5, f.index.extractLsb' 0 6, r.c⟩)

def encCpc (f : Fields) (o : OpCpc) : Fields :=
  { f with a := lo4 o.kd, b := lo4 o.ks, r := some { ah := hi o.kd, bh := hi o.ks, c := o.c },
           imms := indexWords (o.h.setWidth 10) }

def decStrS (f : Fields) (k : OpStrS → Instr) : Except DecodeError Instr :=
  needIndex 6 f <| need (rFits f.r false true false false false) .registerPrefix <| need (!f.q) .qNotTaken <|
  .ok (k ⟨f.a, f.b5, f.index.extractLsb' 0 6⟩)

def encStrS (f : Fields) (o : OpStrS) : Fields :=
  { f with a := o.a, b := lo4 o.ks, r := rHigh false (hi o.ks), imms := indexWords (o.h.setWidth 10) }

def decStrV (f : Fields) (k : OpStrV → Instr) : Except DecodeError Instr :=
  needIndex 6 f <| need (rFits f.r true true false false false) .registerPrefix <| need (!f.q) .qNotTaken <|
  .ok (k ⟨f.a5, f.b5, f.index.extractLsb' 0 6⟩)

def encStrV (f : Fields) (o : OpStrV) : Fields :=
  { f with a := lo4 o.a, b := lo4 o.ks, r := rHigh (hi o.a) (hi o.ks), imms := indexWords (o.h.setWidth 10) }

def decHb (f : Fields) (k : OpHb → Instr) : Except DecodeError Instr :=
  needIndex 6 f <| need (rFits f.r false false false false false) .registerPrefix <|
  need (f.a == 0) .unusedField <| .ok (k ⟨f.b, f.q, f.index.extractLsb' 0 6⟩)

def encHb (f : Fields) (o : OpHb) : Fields :=
  { f with b := o.b, q := o.q, imms := indexWords (o.h.setWidth 10) }

def decH (f : Fields) (k : OpH → Instr) : Except DecodeError Instr :=
  needIndex 6 f <| need (rFits f.r false false false false false) .registerPrefix <|
  need (f.a == 0 && f.b == 0) .unusedField <| need (!f.q) .qNotTaken <| .ok (k ⟨f.index.extractLsb' 0 6⟩)

def encH (f : Fields) (o : OpH) : Fields := { f with imms := indexWords (o.h.setWidth 10) }

def decLink (f : Fields) (k : OpLink → Instr) : Except DecodeError Instr :=
  needIndex 4 f <| need (rFits f.r false false false false false) .registerPrefix <|
  need (f.b == 0) .unusedField <| need (!f.q) .qNotTaken <|
  need (f.index.extractLsb' 2 2 != 3) .operandRange <| .ok (k ⟨f.a, f.index.extractLsb' 0 4⟩)

def encLink (f : Fields) (o : OpLink) : Fields := { f with a := o.a, imms := indexWords (o.idx.setWidth 10) }

def decBC (f : Fields) (k : OpBC → Instr) : Except DecodeError Instr :=
  need f.noImm .immediateWords <| need (rFits f.r false false false true false) .registerPrefix <|
  need (f.a == 0) .unusedField <|
  match f.r with
  | none => .error .registerPrefix
  | some r => .ok (k ⟨f.b, f.q, r.c⟩)

def encBC (f : Fields) (o : OpBC) : Fields := { f with b := o.b, q := o.q, r := some { c := o.c } }

def decABH (f : Fields) (k : OpABH → Instr) : Except DecodeError Instr :=
  needIndex 6 f <| need (rFits f.r false false false false false) .registerPrefix <|
  .ok (k ⟨f.a, f.b, f.q, f.index.extractLsb' 0 6⟩)

def encABH (f : Fields) (o : OpABH) : Fields :=
  { f with a := o.a, b := o.b, q := o.q, imms := indexWords (o.h.setWidth 10) }

/-- `trap`: format I with a zero (R332). -/
def decTrap (f : Fields) (k : OpTrap → Instr) : Except DecodeError Instr :=
  need (f.imms.length ≤ 4) .immediateWords <| need f.r.isNone .registerPrefix <|
  need (f.a == 0) .unusedField <| .ok (k ⟨immOf 45 5 f.imms f.imm5⟩)

def encTrap (f : Fields) (o : OpTrap) : Fields := { low5 f o.imm with imms := immWords 5 4 o.imm }

/-- Page 0: scalar integer and control (R234). -/
def decodePage0 (f : Fields) (m : Mods) : Except DecodeError Instr :=
  match f.op.toNat with
  | 0x00 => noX f <| decN f (.nop m)
  | 0x01 => noX f <| decUn f (.mov m)
  | 0x02 => noX f <| decImm f (.movi m)
  | 0x03 => withA .anyInt f fun x => decBin f (.add m x)
  | 0x04 => withA .anyInt f fun x => decImm f (.addi m x)
  | 0x05 => withA .anyInt f fun x => decBin f (.sub m x)
  | 0x06 => withA .anyInt f fun x => decBin f (.mul m x)
  | 0x07 => withA .signed f fun x => decBin f (.mulh m x)
  | 0x08 => withA .unsigned f fun x => decBin f (.mulhu m x)
  | 0x09 => withA .signed f fun x => decBin f (.div m x)
  | 0x0A => withA .unsigned f fun x => decBin f (.divu m x)
  | 0x0B => withA .signed f fun x => decBin f (.rem m x)
  | 0x0C => withA .unsigned f fun x => decBin f (.remu m x)
  | 0x0D => noX f <| decBin f (.and m)
  | 0x0E => noX f <| decImm f (.andi m)
  | 0x0F => noX f <| decBin f (.or m)
  | 0x10 => noX f <| decImm f (.ori m)
  | 0x11 => noX f <| decBin f (.xor m)
  | 0x12 => noX f <| decImm f (.xori m)
  | 0x13 => noX f <| decUn f (.not m)
  | 0x14 => withA .anyInt f fun x => decUn f (.neg m x)
  | 0x15 => noX f <| decBin f (.shl m)
  | 0x16 => noX f <| decShift f (.shli m)
  | 0x17 => noX f <| decBin f (.shr m)
  | 0x18 => noX f <| decShift f (.shri m)
  | 0x19 => noX f <| decBin f (.sar m)
  | 0x1A => noX f <| decShift f (.sari m)
  | 0x1B => noX f <| decBin f (.rol m)
  | 0x1C => withA .signed f fun x => decBin f (.min m x)
  | 0x1D => withA .signed f fun x => decBin f (.max m x)
  | 0x1E => withA .unsigned f fun x => decBin f (.minu m x)
  | 0x1F => withA .unsigned f fun x => decBin f (.maxu m x)
  | 0x20 => noX f <| decUn f (.clz m)
  | 0x21 => noX f <| decUn f (.ctz m)
  | 0x22 => noX f <| decUn f (.popc m)
  | 0x23 => noX f <| decExt f (.sext m)
  | 0x24 => noX f <| decExt f (.zext m)
  | 0x25 => noX f <| decABC f (.bfx m)
  | 0x26 => noX f <| decABC f (.bfi m)
  | 0x27 => noX f <| decLea f (.lea m)
  | 0x28 => noX f <| decSel f (.sel m)
  | 0x29 => noX f <| decPlog f (.plog m)
  | 0x2A => noX f <| decA f (.rdp m)
  | 0x2B => noX f <| decAB f (.wrp m)
  | 0x2C => noX f <| decCmp f (.cmpEq m)
  | 0x2D => noX f <| decCmp f (.cmpLt m)
  | 0x2E => noX f <| decCmp f (.cmpLtu m)
  | 0x30 => noX f <| decCmpI f (.cmpiEq m)
  | 0x31 => noX f <| decCmpI f (.cmpiLt m)
  | 0x32 => noX f <| decCmpI f (.cmpiLtu m)
  | 0x33 => noX f <| decCmpI f (.cmpiLe m)
  | 0x34 => noX f <| decCmpI f (.cmpiLeu m)
  | 0x35 => noX f <| decJ f (.br m)
  | 0x36 => noX f <| decP f (.brp m)
  | 0x37 => noX f <| decJ f (.call m)
  | 0x38 => noX f <| decN f (.ret m)
  | 0x39 => noX f <| decB f (.jmpr m)
  | 0x3A => noX f <| decImm f (.loop m)
  | 0x3B => noX f <| decA f (.clr m)
  | _ => .error .unassignedOp

/-- Page 1: scalar memory, atomics and bundles (R235). -/
def decodePage1 (f : Fields) (m : Mods) : Except DecodeError Instr :=
  match f.op.toNat with
  | 0x00 | 0x01 | 0x02 | 0x03 => decLd .ld f (.ld m)
  | 0x04 | 0x05 | 0x06 | 0x07 => decLd .st f (.st m)
  | 0x08 | 0x09 | 0x0A | 0x0B => decLdt .load f (.ldt m)
  | 0x0C | 0x0D | 0x0E | 0x0F => decLdf .load f (.ldf m)
  | 0x10 | 0x11 | 0x12 | 0x13 => decLdf .load f (.ldfe m)
  | 0x14 | 0x15 | 0x16 | 0x17 => decLdf .store f (.stef m)
  | 0x18 => decSet .store f (.setf m)
  | 0x19 => decSet .store f (.sete m)
  | 0x1A => decFence f (.fence m)
  | 0x1B => decAmo .atomic f (.amoSwapW m)
  | 0x1C => decAmo .atomic f (.amoSwapD m)
  | 0x1D => decCas .atomic f (.casW m)
  | 0x1E => decCas .atomic f (.casD m)
  | 0x20 | 0x21 | 0x22 | 0x23 | 0x24 | 0x25 | 0x26 | 0x27 | 0x28 | 0x29 | 0x2A | 0x2B | 0x2C | 0x2D | 0x2E | 0x2F => decAmoOp .atomic f (.amoOp m)
  | 0x30 => noX f <| decUn f (.view m)
  | 0x31 => noX f <| decUn f (.vclose m)
  | 0x32 => noX f <| decUn f (.bopen m)
  | 0x33 => noX f <| decUn f (.bopenJ m)
  | 0x34 => noX f <| decUn f (.bcommit m)
  | 0x35 => noX f <| decUn f (.babort m)
  | _ => .error .unassignedOp

/-- Page 2: scalar float (R236). -/
def decodePage2 (f : Fields) (m : Mods) : Except DecodeError Instr :=
  match f.op.toNat with
  | 0x00 => withA .float f fun x => decBin f (.fadd m x)
  | 0x01 => withA .float f fun x => decBin f (.fsub m x)
  | 0x02 => withA .float f fun x => decBin f (.fmul m x)
  | 0x03 => withA .float f fun x => decBin f (.fdiv m x)
  | 0x04 => withA .float f fun x => decUn f (.fsqrt m x)
  | 0x05 => withA .float f fun x => decABC f (.fma m x)
  | 0x06 => withA .float f fun x => decBin f (.fmin m x)
  | 0x07 => withA .float f fun x => decBin f (.fmax m x)
  | 0x08 => withA .float f fun x => decUn f (.fabs m x)
  | 0x09 => withA .float f fun x => decUn f (.fneg m x)
  | 0x0A => withA .float f fun x => decCmp f (.fcmpEq m x)
  | 0x0B => withA .float f fun x => decCmp f (.fcmpLt m x)
  | 0x0C => withA .float f fun x => decCmp f (.fcmpLe m x)
  | 0x0D => withA .float f fun x => decCmp f (.fcmpUn m x)
  | 0x0E => withA .conv f fun x => decCvt f (.fcvt m x)
  | 0x0F => withA .float f fun x => decUn f (.fround m x)
  | 0x10 => withA .float f fun x => decUn f (.fsin m x)
  | 0x11 => withA .float f fun x => decUn f (.fcos m x)
  | 0x12 => withA .float f fun x => decUn f (.fexp2 m x)
  | 0x13 => withA .float f fun x => decUn f (.flog2 m x)
  | 0x14 => withA .float f fun x => decUn f (.frcp m x)
  | 0x15 => noX f <| decUn f (.fclass m)
  | 0x16 => noX f <| decBin f (.fbit m)
  | _ => .error .unassignedOp

/-- Page 3: vector arithmetic (R237). -/
def decodePage3 (f : Fields) (m : Mods) : Except DecodeError Instr :=
  match f.op.toNat with
  | 0x00 => withA .all8 f fun x => decVBin f (.vadd m x)
  | 0x01 => withA .all8 f fun x => decVBin f (.vsub m x)
  | 0x02 => withA .all8 f fun x => decVBin f (.vmul m x)
  | 0x03 => withA .all8 f fun x => decVTer f (.vfma m x)
  | 0x04 => withA .float f fun x => decVBin f (.vdiv m x)
  | 0x05 => withA .float f fun x => decVUn f (.vsqrt m x)
  | 0x06 => withA .all8 f fun x => decVBin f (.vmin m x)
  | 0x07 => withA .all8 f fun x => decVBin f (.vmax m x)
  | 0x08 => withA .all8 f fun x => decVUn f (.vabs m x)
  | 0x09 => withA .all8 f fun x => decVUn f (.vneg m x)
  | 0x0A => withA .anyInt f fun x => decVBin f (.vmulh m x)
  | 0x0B => noX f <| decVBin f (.vand m)
  | 0x0C => noX f <| decVBin f (.vor m)
  | 0x0D => noX f <| decVBin f (.vxor m)
  | 0x0E => noX f <| decVUn f (.vnot m)
  | 0x0F => noX f <| decVBin f (.vshl m)
  | 0x10 => noX f <| decVBin f (.vshr m)
  | 0x11 => noX f <| decVBin f (.vsar m)
  | 0x12 => withA .all8 f fun x => decVCmp f (.vcmpEq m x)
  | 0x13 => withA .all8 f fun x => decVCmp f (.vcmpLt m x)
  | 0x14 => withA .all8 f fun x => decVCmp f (.vcmpLe m x)
  | 0x15 => withA .float f fun x => decVCmp f (.vcmpUn m x)
  | 0x16 => noX f <| decVSel f (.vsel m)
  | 0x17 => withA .conv f fun x => decVCvt false f (.vcvt m x)
  | 0x18 => withA .conv f fun x => decVCvt true f (.vcvtn m x)
  | 0x19 => withA .all8 f fun x => decSV f (.vredadd m x)
  | 0x1A => withA .all8 f fun x => decSV f (.vredmin m x)
  | 0x1B => withA .all8 f fun x => decSV f (.vredmax m x)
  | 0x1C => noX f <| decVBin f (.vperm m)
  | 0x1D => noX f <| decVBin f (.vrot m)
  | 0x1E => noX f <| decVS f (.vbcast m)
  | 0x1F => noX f <| decVExt f (.vext m)
  | 0x20 => noX f <| decVIns f (.vins m)
  | 0x21 => withA .float f fun x => decVUn f (.vexp2 m x)
  | 0x22 => withA .float f fun x => decVUn f (.vrcp m x)
  | 0x23 => noX f <| decVUn f (.vmov m)
  | _ => .error .unassignedOp

/-- Page 4: vector memory and masks (R238). -/
def decodePage4 (f : Fields) (m : Mods) : Except DecodeError Instr :=
  match f.op.toNat with
  | 0x00 => decVMem .vload f (.vld m)
  | 0x01 => decVMem .vstore f (.vst m)
  | 0x02 => decVMem .vload f (.vldf m)
  | 0x03 => decVMem .vload f (.vldfe m)
  | 0x04 => decVMem .vstore f (.vstef m)
  | 0x05 => decVGat .vload f (.vgath m)
  | 0x06 => decVGat .vstore f (.vscat m)
  | 0x07 => noX f <| decVClr f (.vclr m)
  | 0x08 => noX f <| decMBin f (.mand m)
  | 0x09 => noX f <| decMBin f (.mor m)
  | 0x0A => noX f <| decMBin f (.mxor m)
  | 0x0B => noX f <| decMUn f (.mnot m)
  | 0x0C => noX f <| decMSet f (.mset m)
  | 0x0D => noX f <| decMGet f (.mget m)
  | 0x0E => noX f <| decMGet f (.mpopc m)
  | 0x0F => noX f <| decMGet f (.mfirst m)
  | _ => .error .unassignedOp

/-- Page 5: engines, handles and matrix (R239). -/
def decodePage5 (f : Fields) (m : Mods) : Except DecodeError Instr :=
  match f.op.toNat with
  | 0x00 => noX f <| decShape f (.shape m)
  | 0x01 => noX f <| decCp f (.cp m)
  | 0x02 => noX f <| decCp f (.cpD m)
  | 0x03 => noX f <| decCpc f (.cpBv m)
  | 0x04 => noX f <| decCpc f (.cpx m)
  | 0x05 => noX f <| decCpc f (.cpxD m)
  | 0x06 => noX f <| decStrS f (.streamScalar m)
  | 0x07 => noX f <| decStrV f (.streamVector m)
  | 0x08 => noX f <| decA f (.unstreamScalar m)
  | 0x09 => noX f <| decV f (.unstreamVector m)
  | 0x0A => noX f <| decHb f (.hcfg m)
  | 0x0B => noX f <| decHb f (.hexpect m)
  | 0x0C => noX f <| decHb f (.hexpectA m)
  | 0x0D => noX f <| decH f (.harr m)
  | 0x0E => noX f <| decHb f (.hwaitP m)
  | 0x0F => noX f <| decHb f (.hwaitS m)
  | 0x10 => noX f <| decH f (.hacq m)
  | 0x11 => noX f <| decH f (.hrel m)
  | 0x12 => noX f <| decN f (.mxs m)
  | 0x13 => noX f <| decA f (.mxr m)
  | _ => .error .unassignedOp

/-- Page 6: threads, tasks, links and population (R240). -/
def decodePage6 (f : Fields) (m : Mods) : Except DecodeError Instr :=
  match f.op.toNat with
  | 0x00 => noX f <| decAB f (.spawn m)
  | 0x01 => noX f <| decN f (.quit m)
  | 0x02 => noX f <| decN f (.yield m)
  | 0x03 => noX f <| decN f (.park m)
  | 0x04 => noX f <| decB f (.wake m)
  | 0x05 => noX f <| decB f (.mig m)
  | 0x06 => noX f <| decLink f (.link m)
  | 0x07 => noX f <| decB f (.amsg m)
  | 0x08 => noX f <| decAB f (.tenq m)
  | 0x09 => noX f <| decB f (.tdep m)
  | 0x0A => noX f <| decN f (.bar m)
  | 0x0B => noX f <| decB f (.fitw m)
  | 0x0C => noX f <| decAB f (.popq m)
  | 0x0D => noX f <| decA f (.tick m)
  | 0x0E => noX f <| decA f (.selfid m)
  | 0x0F => noX f <| decAB f (.popmig m)
  | 0x10 => noX f <| decA f (.rdsw m)
  | 0x11 => noX f <| decB f (.wrsw m)
  | _ => .error .unassignedOp

/-- Page 7: privileged system (R241). -/
def decodePage7 (f : Fields) (m : Mods) : Except DecodeError Instr :=
  match f.op.toNat with
  | 0x00 => noX f <| decAB f (.crd m)
  | 0x01 => noX f <| decAB f (.cwr m)
  | 0x02 => noX f <| decTrap f (.trap m)
  | 0x03 => noX f <| decN f (.tret m)
  | 0x04 => noX f <| decN f (.halt m)
  | 0x05 => noX f <| decAB f (.bankpw m)
  | 0x06 => noX f <| decAB f (.xinv m)
  | 0x07 => noX f <| decAB f (.snap m)
  | 0x08 => noX f <| decABC f (.evac m)
  | 0x09 => noX f <| decBC f (.fwd m)
  | 0x0A => noX f <| decABC f (.glaunch m)
  | 0x0B => noX f <| decABC f (.popcfg m)
  | 0x0C => noX f <| decAB f (.popstep m)
  | 0x0D => noX f <| decABH f (.hdead m)
  | 0x0E => noX f <| decABH f (.hcomp m)
  | 0x0F => noX f <| decAB f (.attest m)
  | 0x10 => noX f <| decAB f (.asid m)
  | _ => .error .unassignedOp

/-- The instruction a set of fields stands for (R233 to R241). -/
def Fields.instr (f : Fields) : Except DecodeError Instr :=
  let m : Mods := ⟨f.sw, f.guard⟩
  match f.page.toNat with
  | 0 => decodePage0 f m
  | 1 => decodePage1 f m
  | 2 => decodePage2 f m
  | 3 => decodePage3 f m
  | 4 => decodePage4 f m
  | 5 => decodePage5 f m
  | 6 => decodePage6 f m
  | 7 => decodePage7 f m
  | _ => .error .unassignedOp

/-- The instruction at the head of a word stream, and how many words it has (R220, R223). -/
def decodeWords (ws : List Half) : Except DecodeError (Instr × Nat) :=
  match readChain 4 {} 0 ws with
  | .error e => .error e
  | .ok (c, w, n) =>
    match Fields.of c w with
    | .error e => .error e
    | .ok f =>
      match f.instr with
      | .error e => .error e
      | .ok i => .ok (i, n)

/-- The words of a byte stream: little-endian halves (R5, R220). -/
def halves : List Byte → List Half
  | lo :: hi :: bs => (hi ++ lo) :: halves bs
  | _ => []

/-- The decoder: the instruction at the head of any bytes, and its length in bytes, or why there is none. -/
def decode (bs : List Byte) : Except DecodeError (Instr × Nat) :=
  match decodeWords (halves bs) with
  | .ok (i, n) => .ok (i, 2 * n)
  | .error e => .error e

/-! ## The encoder (R221 to R228, R247) -/

/-- The fields every instruction of a page and an op starts from. -/
def Mods.fields (m : Mods) (page : BitVec 4) (op : BitVec 6) (x : Option (BitVec 10) := none) : Fields :=
  { page := page, guard := m.guard, op := op, sw := m.sw, x := x }

/-- The fields of an instruction (R234 to R241). An event has none. -/
def Instr.fields (i : Instr) : Option Fields :=
  match i with
  | .nop m => some (encN (m.fields 0 0x00))
  | .mov m o => some (encAB (m.fields 0 0x01) o)
  | .movi m o => some (encImm (m.fields 0 0x02) o)
  | .add m x o => some (encBin (m.fields 0 0x03 (x.map ArithX.bits)) o)
  | .addi m x o => some (encImm (m.fields 0 0x04 (x.map ArithX.bits)) o)
  | .sub m x o => some (encBin (m.fields 0 0x05 (x.map ArithX.bits)) o)
  | .mul m x o => some (encBin (m.fields 0 0x06 (x.map ArithX.bits)) o)
  | .mulh m x o => some (encBin (m.fields 0 0x07 (x.map ArithX.bits)) o)
  | .mulhu m x o => some (encBin (m.fields 0 0x08 (x.map ArithX.bits)) o)
  | .div m x o => some (encBin (m.fields 0 0x09 (x.map ArithX.bits)) o)
  | .divu m x o => some (encBin (m.fields 0 0x0A (x.map ArithX.bits)) o)
  | .rem m x o => some (encBin (m.fields 0 0x0B (x.map ArithX.bits)) o)
  | .remu m x o => some (encBin (m.fields 0 0x0C (x.map ArithX.bits)) o)
  | .and m o => some (encBin (m.fields 0 0x0D) o)
  | .andi m o => some (encImm (m.fields 0 0x0E) o)
  | .or m o => some (encBin (m.fields 0 0x0F) o)
  | .ori m o => some (encImm (m.fields 0 0x10) o)
  | .xor m o => some (encBin (m.fields 0 0x11) o)
  | .xori m o => some (encImm (m.fields 0 0x12) o)
  | .not m o => some (encAB (m.fields 0 0x13) o)
  | .neg m x o => some (encAB (m.fields 0 0x14 (x.map ArithX.bits)) o)
  | .shl m o => some (encBin (m.fields 0 0x15) o)
  | .shli m o => some (encShift (m.fields 0 0x16) o)
  | .shr m o => some (encBin (m.fields 0 0x17) o)
  | .shri m o => some (encShift (m.fields 0 0x18) o)
  | .sar m o => some (encBin (m.fields 0 0x19) o)
  | .sari m o => some (encShift (m.fields 0 0x1A) o)
  | .rol m o => some (encBin (m.fields 0 0x1B) o)
  | .min m x o => some (encBin (m.fields 0 0x1C (x.map ArithX.bits)) o)
  | .max m x o => some (encBin (m.fields 0 0x1D (x.map ArithX.bits)) o)
  | .minu m x o => some (encBin (m.fields 0 0x1E (x.map ArithX.bits)) o)
  | .maxu m x o => some (encBin (m.fields 0 0x1F (x.map ArithX.bits)) o)
  | .clz m o => some (encAB (m.fields 0 0x20) o)
  | .ctz m o => some (encAB (m.fields 0 0x21) o)
  | .popc m o => some (encAB (m.fields 0 0x22) o)
  | .sext m o => some (encExt (m.fields 0 0x23) o)
  | .zext m o => some (encExt (m.fields 0 0x24) o)
  | .bfx m o => some (encABC (m.fields 0 0x25) o)
  | .bfi m o => some (encABC (m.fields 0 0x26) o)
  | .lea m o => some (encLea (m.fields 0 0x27) o)
  | .sel m o => some (encSel (m.fields 0 0x28) o)
  | .plog m o => some (encPlog (m.fields 0 0x29) o)
  | .rdp m o => some (encA (m.fields 0 0x2A) o)
  | .wrp m o => some (encAB (m.fields 0 0x2B) o)
  | .cmpEq m o => some (encCmp (m.fields 0 0x2C) o)
  | .cmpLt m o => some (encCmp (m.fields 0 0x2D) o)
  | .cmpLtu m o => some (encCmp (m.fields 0 0x2E) o)
  | .cmpiEq m o => some (encCmpI (m.fields 0 0x30) o)
  | .cmpiLt m o => some (encCmpI (m.fields 0 0x31) o)
  | .cmpiLtu m o => some (encCmpI (m.fields 0 0x32) o)
  | .cmpiLe m o => some (encCmpI (m.fields 0 0x33) o)
  | .cmpiLeu m o => some (encCmpI (m.fields 0 0x34) o)
  | .br m o => some (encJ (m.fields 0 0x35) o)
  | .brp m o => some (encP (m.fields 0 0x36) o)
  | .call m o => some (encJ (m.fields 0 0x37) o)
  | .ret m => some (encN (m.fields 0 0x38))
  | .jmpr m o => some (encB (m.fields 0 0x39) o)
  | .loop m o => some (encImm (m.fields 0 0x3A) o)
  | .clr m o => some (encA (m.fields 0 0x3B) o)
  | .ld m o => some (encLd (m.fields 1 0x00) o)
  | .st m o => some (encLd (m.fields 1 0x04) o)
  | .ldt m o => some (encLdt (m.fields 1 0x08) o)
  | .ldf m o => some (encLdf (m.fields 1 0x0C) o)
  | .ldfe m o => some (encLdf (m.fields 1 0x10) o)
  | .stef m o => some (encLdf (m.fields 1 0x14) o)
  | .setf m o => some (encSet (m.fields 1 0x18) o)
  | .sete m o => some (encSet (m.fields 1 0x19) o)
  | .fence m o => some (encFence (m.fields 1 0x1A) o)
  | .amoSwapW m o => some (encAmo (m.fields 1 0x1B) o)
  | .amoSwapD m o => some (encAmo (m.fields 1 0x1C) o)
  | .casW m o => some (encCas (m.fields 1 0x1D) o)
  | .casD m o => some (encCas (m.fields 1 0x1E) o)
  | .amoOp m o => some (encAmoOp (m.fields 1 0x20) o)
  | .view m o => some (encAB (m.fields 1 0x30) o)
  | .vclose m o => some (encAB (m.fields 1 0x31) o)
  | .bopen m o => some (encAB (m.fields 1 0x32) o)
  | .bopenJ m o => some (encAB (m.fields 1 0x33) o)
  | .bcommit m o => some (encAB (m.fields 1 0x34) o)
  | .babort m o => some (encAB (m.fields 1 0x35) o)
  | .fadd m x o => some (encBin (m.fields 2 0x00 (x.map ArithX.bits)) o)
  | .fsub m x o => some (encBin (m.fields 2 0x01 (x.map ArithX.bits)) o)
  | .fmul m x o => some (encBin (m.fields 2 0x02 (x.map ArithX.bits)) o)
  | .fdiv m x o => some (encBin (m.fields 2 0x03 (x.map ArithX.bits)) o)
  | .fsqrt m x o => some (encAB (m.fields 2 0x04 (x.map ArithX.bits)) o)
  | .fma m x o => some (encABC (m.fields 2 0x05 (x.map ArithX.bits)) o)
  | .fmin m x o => some (encBin (m.fields 2 0x06 (x.map ArithX.bits)) o)
  | .fmax m x o => some (encBin (m.fields 2 0x07 (x.map ArithX.bits)) o)
  | .fabs m x o => some (encAB (m.fields 2 0x08 (x.map ArithX.bits)) o)
  | .fneg m x o => some (encAB (m.fields 2 0x09 (x.map ArithX.bits)) o)
  | .fcmpEq m x o => some (encCmp (m.fields 2 0x0A (x.map ArithX.bits)) o)
  | .fcmpLt m x o => some (encCmp (m.fields 2 0x0B (x.map ArithX.bits)) o)
  | .fcmpLe m x o => some (encCmp (m.fields 2 0x0C (x.map ArithX.bits)) o)
  | .fcmpUn m x o => some (encCmp (m.fields 2 0x0D (x.map ArithX.bits)) o)
  | .fcvt m x o => some (encCvt (m.fields 2 0x0E (x.map ArithX.bits)) o)
  | .fround m x o => some (encAB (m.fields 2 0x0F (x.map ArithX.bits)) o)
  | .fsin m x o => some (encAB (m.fields 2 0x10 (x.map ArithX.bits)) o)
  | .fcos m x o => some (encAB (m.fields 2 0x11 (x.map ArithX.bits)) o)
  | .fexp2 m x o => some (encAB (m.fields 2 0x12 (x.map ArithX.bits)) o)
  | .flog2 m x o => some (encAB (m.fields 2 0x13 (x.map ArithX.bits)) o)
  | .frcp m x o => some (encAB (m.fields 2 0x14 (x.map ArithX.bits)) o)
  | .fclass m o => some (encAB (m.fields 2 0x15) o)
  | .fbit m o => some (encBin (m.fields 2 0x16) o)
  | .vadd m x o => some (encVBin (m.fields 3 0x00 (x.map ArithX.bits)) o)
  | .vsub m x o => some (encVBin (m.fields 3 0x01 (x.map ArithX.bits)) o)
  | .vmul m x o => some (encVBin (m.fields 3 0x02 (x.map ArithX.bits)) o)
  | .vfma m x o => some (encVBin (m.fields 3 0x03 (x.map ArithX.bits)) o)
  | .vdiv m x o => some (encVBin (m.fields 3 0x04 (x.map ArithX.bits)) o)
  | .vsqrt m x o => some (encVUn (m.fields 3 0x05 (x.map ArithX.bits)) o)
  | .vmin m x o => some (encVBin (m.fields 3 0x06 (x.map ArithX.bits)) o)
  | .vmax m x o => some (encVBin (m.fields 3 0x07 (x.map ArithX.bits)) o)
  | .vabs m x o => some (encVUn (m.fields 3 0x08 (x.map ArithX.bits)) o)
  | .vneg m x o => some (encVUn (m.fields 3 0x09 (x.map ArithX.bits)) o)
  | .vmulh m x o => some (encVBin (m.fields 3 0x0A (x.map ArithX.bits)) o)
  | .vand m o => some (encVBin (m.fields 3 0x0B) o)
  | .vor m o => some (encVBin (m.fields 3 0x0C) o)
  | .vxor m o => some (encVBin (m.fields 3 0x0D) o)
  | .vnot m o => some (encVUn (m.fields 3 0x0E) o)
  | .vshl m o => some (encVBin (m.fields 3 0x0F) o)
  | .vshr m o => some (encVBin (m.fields 3 0x10) o)
  | .vsar m o => some (encVBin (m.fields 3 0x11) o)
  | .vcmpEq m x o => some (encVCmp (m.fields 3 0x12 (x.map ArithX.bits)) o)
  | .vcmpLt m x o => some (encVCmp (m.fields 3 0x13 (x.map ArithX.bits)) o)
  | .vcmpLe m x o => some (encVCmp (m.fields 3 0x14 (x.map ArithX.bits)) o)
  | .vcmpUn m x o => some (encVCmp (m.fields 3 0x15 (x.map ArithX.bits)) o)
  | .vsel m o => some (encVSel (m.fields 3 0x16) o)
  | .vcvt m x o => some (encVCvt (m.fields 3 0x17 (x.map ArithX.bits)) o)
  | .vcvtn m x o => some (encVCvt (m.fields 3 0x18 (x.map ArithX.bits)) o)
  | .vredadd m x o => some (encSV (m.fields 3 0x19 (x.map ArithX.bits)) o)
  | .vredmin m x o => some (encSV (m.fields 3 0x1A (x.map ArithX.bits)) o)
  | .vredmax m x o => some (encSV (m.fields 3 0x1B (x.map ArithX.bits)) o)
  | .vperm m o => some (encVBin (m.fields 3 0x1C) o)
  | .vrot m o => some (encVBin (m.fields 3 0x1D) o)
  | .vbcast m o => some (encVS (m.fields 3 0x1E) o)
  | .vext m o => some (encVExt (m.fields 3 0x1F) o)
  | .vins m o => some (encVIns (m.fields 3 0x20) o)
  | .vexp2 m x o => some (encVUn (m.fields 3 0x21 (x.map ArithX.bits)) o)
  | .vrcp m x o => some (encVUn (m.fields 3 0x22 (x.map ArithX.bits)) o)
  | .vmov m o => some (encVUn (m.fields 3 0x23) o)
  | .vld m o => some (encVMem (m.fields 4 0x00) o)
  | .vst m o => some (encVMem (m.fields 4 0x01) o)
  | .vldf m o => some (encVMem (m.fields 4 0x02) o)
  | .vldfe m o => some (encVMem (m.fields 4 0x03) o)
  | .vstef m o => some (encVMem (m.fields 4 0x04) o)
  | .vgath m o => some (encVGat (m.fields 4 0x05) o)
  | .vscat m o => some (encVGat (m.fields 4 0x06) o)
  | .vclr m o => some (encV (m.fields 4 0x07) o)
  | .mand m o => some (encMBin (m.fields 4 0x08) o)
  | .mor m o => some (encMBin (m.fields 4 0x09) o)
  | .mxor m o => some (encMBin (m.fields 4 0x0A) o)
  | .mnot m o => some (encMUn (m.fields 4 0x0B) o)
  | .mset m o => some (encMSet (m.fields 4 0x0C) o)
  | .mget m o => some (encMGet (m.fields 4 0x0D) o)
  | .mpopc m o => some (encMGet (m.fields 4 0x0E) o)
  | .mfirst m o => some (encMGet (m.fields 4 0x0F) o)
  | .shape m o => some (encShape (m.fields 5 0x00) o)
  | .cp m o => some (encCp (m.fields 5 0x01) o)
  | .cpD m o => some (encCp (m.fields 5 0x02) o)
  | .cpBv m o => some (encCpc (m.fields 5 0x03) o)
  | .cpx m o => some (encCpc (m.fields 5 0x04) o)
  | .cpxD m o => some (encCpc (m.fields 5 0x05) o)
  | .streamScalar m o => some (encStrS (m.fields 5 0x06) o)
  | .streamVector m o => some (encStrV (m.fields 5 0x07) o)
  | .unstreamScalar m o => some (encA (m.fields 5 0x08) o)
  | .unstreamVector m o => some (encV (m.fields 5 0x09) o)
  | .hcfg m o => some (encHb (m.fields 5 0x0A) o)
  | .hexpect m o => some (encHb (m.fields 5 0x0B) o)
  | .hexpectA m o => some (encHb (m.fields 5 0x0C) o)
  | .harr m o => some (encH (m.fields 5 0x0D) o)
  | .hwaitP m o => some (encHb (m.fields 5 0x0E) o)
  | .hwaitS m o => some (encHb (m.fields 5 0x0F) o)
  | .hacq m o => some (encH (m.fields 5 0x10) o)
  | .hrel m o => some (encH (m.fields 5 0x11) o)
  | .mxs m => some (encN (m.fields 5 0x12))
  | .mxr m o => some (encA (m.fields 5 0x13) o)
  | .spawn m o => some (encAB (m.fields 6 0x00) o)
  | .quit m => some (encN (m.fields 6 0x01))
  | .yield m => some (encN (m.fields 6 0x02))
  | .park m => some (encN (m.fields 6 0x03))
  | .wake m o => some (encB (m.fields 6 0x04) o)
  | .mig m o => some (encB (m.fields 6 0x05) o)
  | .link m o => some (encLink (m.fields 6 0x06) o)
  | .amsg m o => some (encB (m.fields 6 0x07) o)
  | .tenq m o => some (encAB (m.fields 6 0x08) o)
  | .tdep m o => some (encB (m.fields 6 0x09) o)
  | .bar m => some (encN (m.fields 6 0x0A))
  | .fitw m o => some (encB (m.fields 6 0x0B) o)
  | .popq m o => some (encAB (m.fields 6 0x0C) o)
  | .tick m o => some (encA (m.fields 6 0x0D) o)
  | .selfid m o => some (encA (m.fields 6 0x0E) o)
  | .popmig m o => some (encAB (m.fields 6 0x0F) o)
  | .rdsw m o => some (encA (m.fields 6 0x10) o)
  | .wrsw m o => some (encB (m.fields 6 0x11) o)
  | .crd m o => some (encAB (m.fields 7 0x00) o)
  | .cwr m o => some (encAB (m.fields 7 0x01) o)
  | .trap m o => some (encTrap (m.fields 7 0x02) o)
  | .tret m => some (encN (m.fields 7 0x03))
  | .halt m => some (encN (m.fields 7 0x04))
  | .bankpw m o => some (encAB (m.fields 7 0x05) o)
  | .xinv m o => some (encAB (m.fields 7 0x06) o)
  | .snap m o => some (encAB (m.fields 7 0x07) o)
  | .evac m o => some (encABC (m.fields 7 0x08) o)
  | .fwd m o => some (encBC (m.fields 7 0x09) o)
  | .glaunch m o => some (encABC (m.fields 7 0x0A) o)
  | .popcfg m o => some (encABC (m.fields 7 0x0B) o)
  | .popstep m o => some (encAB (m.fields 7 0x0C) o)
  | .hdead m o => some (encABH (m.fields 7 0x0D) o)
  | .hcomp m o => some (encABH (m.fields 7 0x0E) o)
  | .attest m o => some (encAB (m.fields 7 0x0F) o)
  | .asid m o => some (encAB (m.fields 7 0x10) o)
  | _ => none

/-- The encoder: the words of an instruction, in fetch order and with the fewest prefixes (R247). -/
def encode (i : Instr) : List Half :=
  match i.fields with
  | none => []
  | some f => f.words

/-- The encoder's bytes: each word little-endian (R5). -/
def bytesOfHalves : List Half → List Byte
  | [] => []
  | w :: ws => w.extractLsb' 0 8 :: w.extractLsb' 8 8 :: bytesOfHalves ws

/-- A well-formed instruction that the word format can hold: at most four prefix words (R220). -/
def Instr.encodable (i : Instr) : Bool :=
  i.isCoded && i.wf && (match i.fields with | none => false | some f => decide (f.prefixes ≤ 4))

/-! ## The opcode table's words -/

/-- The words of a table entry in fetch order. The table writes a two-word entry with its prefix word in the upper half: where the
upper half is a prefix word it is the first word fetched (R220), and otherwise the lower half is. -/
def tableWords (nbits w : Nat) : List Half :=
  let lo : Half := BitVec.ofNat 16 w
  let hi : Half := BitVec.ofNat 16 (w / 65536)
  if nbits ≤ 16 then [lo] else if isPfx hi then [hi, lo] else [lo, hi]

/-- The instruction the decoder reads from a table entry's bits, laid out as the hardware stores them. -/
def decodeTableWord (nbits w : Nat) : Option Instr :=
  match decode (bytesOfHalves (tableWords nbits w)) with
  | .ok (i, _) => some i
  | .error _ => none

end Sys2Proof
end

