-- ==== Sys2Proof/Machine/Fetch.lean ====
section
/-!
DEFINITION. Fetching and decoding the instruction at a program counter (spec/02 R20, spec/11 R220, R231, R242), and the memory keys of tile
stores and HBM, and the versioned windows of a tile store (spec/07 R133).
-/

namespace Sys2Proof.Machine

/-! ## Where a byte lies -/

/-- The memory key of a tile-store offset of a core. -/
def tileKey (c off : Nat) : Nat := c * 2 ^ 20 + off

/-- The memory key of an HBM physical address of a package (R448). -/
def hbmKey (d pa : Nat) : Nat := 2 ^ 50 + d * 2 ^ 41 + pa

/-- The key of the granule or word that holds a byte (R95): 16 bytes in a tile store, 8 in HBM. -/
def cellKey (a : Nat) : Nat := if a < 2 ^ 50 then a / 16 else a / 8

/-- The presence bit of a location, with what it is where nothing has set it (R97). -/
def State.present (s : State) (dflt : Bool) (a : Nat) : Bool := s.pres.get dflt (cellKey a)

/-- A presence bit set or cleared. -/
def State.setPresent (s : State) (a : Nat) (b : Bool) : State := { s with pres := s.pres.put (cellKey a) b }

/-- Whether a granule or word is poisoned (R422). -/
def State.poisoned (s : State) (a : Nat) : Bool := s.poison.contains (cellKey a)

/-- A whole write clears the poison of a granule or word (R423). -/
def State.cleanse (s : State) (a : Nat) : State := { s with poison := s.poison.filter fun k => k != cellKey a }

/-- A granule or word becomes poisoned (R422). -/
def State.setPoison (s : State) (a : Nat) : State :=
  if s.poisoned a then s else { s with poison := cellKey a :: s.poison }

/-- Bytes of memory. -/
def State.bytes (s : State) (a n : Nat) : List Byte := memRead s.mem a n
def State.setBytes (s : State) (a : Nat) (bs : List Byte) : State := { s with mem := memWrite s.mem a bs }

/-! ## Versioned windows of a tile store (R133, R134) -/

/-- The versioned windows of a core that are enabled: base and lines. -/
def Core.windows (k : Core) : List (Nat × Nat) :=
  [0, 1].filterMap fun i =>
    let w := k.vwin.get 0 i
    if w.getLsbD 0 then some (field w 12 8 * 4096, field w 32 13) else none

/-- The line that a program offset answers to: the offset it is stored at, and the byte within it. -/
def Core.lineAt (k : Core) (off : Nat) : Option (Nat × Nat) :=
  (k.windows.find? fun w => decide (w.1 ≤ off) && decide (off < w.1 + 64 * w.2)).map fun w =>
    (w.1 + 144 * ((off - w.1) / 64), (off - w.1) % 64)

/-- Program offsets of a window that no line answers to (R133). -/
def Core.windowHole (k : Core) (off : Nat) : Bool :=
  k.windows.any fun w => decide (w.1 + 64 * w.2 ≤ off) && decide (off < w.1 + 144 * w.2)

/-- Why an engine's or the hub's own access to n bytes of a tile store is refused: a hole of a window (cause 6, R133), or a versioned line
(cause 12, R134). -/
def Core.windowCause (k : Core) (off n : Nat) : Option Nat :=
  (List.range ((off + n - 1) / 16 + 1 - off / 16)).findSome? fun i =>
    let o := max off ((off / 16 + i) * 16)
    if k.windowHole o then some 6 else if (k.lineAt o).isSome then some 12 else none

/-! ## Fetch -/

/-- Why there is no instruction at a program counter: cause, ADDR and AUX of the exact trap (R384). -/
structure NoInstr where
  cause : Nat
  addr : Word
  aux : Nat
  deriving DecidableEq, Repr

/-- One word of the instruction stream (R20): the offset must lie in the tile store and its granule be full and not poisoned (R423). A versioned
window's line takes no fetch, and its hole nothing (R133, R134; with the causes of a local access, DEDUCED, log 111). -/
def State.fetchWord (s : State) (c off : Nat) : Except NoInstr Half :=
  let a := tileKey c off
  if 2 ^ 20 ≤ off then .error ⟨2, BitVec.ofNat 64 off, 0⟩
  else if (s.core c).windowHole off then .error ⟨6, BitVec.ofNat 64 off, 0⟩
  else if ((s.core c).lineAt off).isSome then .error ⟨12, BitVec.ofNat 64 off, 0⟩
  else if s.poisoned a then .error ⟨29, BitVec.ofNat 64 off, 0⟩
  else if !s.present false a then .error ⟨2, BitVec.ofNat 64 off, 0⟩
  else .ok (BitVec.ofNat 16 (leNat (s.bytes a 2)))

/-- The words of the instruction at an offset: prefixes up to the base word, at most five words (R220, R242). -/
def State.fetchWords (s : State) (c : Nat) : Nat → Nat → Except NoInstr (List Half)
  | 0, _ => .ok []
  | k + 1, off =>
    match s.fetchWord c off with
    | .error e => .error e
    | .ok w =>
      if isPfx w then
        match s.fetchWords c k (off + 2) with
        | .error e => .error e
        | .ok ws => .ok (w :: ws)
      else .ok [w]

/-- The instruction at an offset and the address of the next one, or the exact trap in its place (R243, steps 1 and 2). -/
def State.fetch (s : State) (c pc : Nat) : Except NoInstr (Instr × Nat) :=
  match s.fetchWords c 5 pc with
  | .error e => .error e
  | .ok ws =>
    match decodeWords ws with
    | .ok (i, n) => .ok (i, pc + 2 * n)
    | .error _ => .error ⟨1, 0, (ws.getLast?.getD 0).toNat⟩

end Sys2Proof.Machine
end

