-- ==== Sys2Proof/Machine/Homes.lean ====
section
/-!
DEFINITION. The homes of locations (spec/05 R90 to R109, R133, R448, spec/06 R110): addresses, translation, presence and poison, versioned lines
(spec/07 R132 to R144), and what one access does at its home, as one step.
-/

namespace Sys2Proof.Machine

/-! ## Addresses (R90) -/

def isFabric (a : Word) : Bool := a.getLsbD 63

/-- The name that the hub's own writes give a supervisor core's tile store; no address of a program has this form (R90, R331, log 9). -/
def isSuperForm (a : Word) : Bool := isFabric a && bitsOf a.toNat 21 24 == 3 * 2 ^ 22

/-- The core that a fabric-direct address names. -/
def coreNamed (a : Word) : Nat := coreOf (bitsOf a.toNat 57 6) (bitsOf a.toNat 45 12 + if isSuperForm a then 4096 else 0)

/-- The local offset. -/
def offsetOf (a : Word) : Nat := bitsOf a.toNat 0 21

/-- The zero fields of R90 hold zero. -/
def addrOk (a : Word) : Bool := if isFabric a then bitsOf a.toNat 21 24 == 0 else bitsOf a.toNat 57 5 == 0

/-- The virtual offset of an HBM address. -/
def virtualOf (a : Word) : Nat := bitsOf a.toNat 0 57

/-- The bulk aperture (R107). -/
def isBulk (a : Word) : Bool := a.getLsbD 62

/-! ## Admission (R100, R214) -/

/-- A request's fate at the admit list. -/
inductive Gate where
  | pass
  /-- sent on to another core by a forwarding entry -/
  | onward (core : Nat)
  | refused
  deriving DecidableEq, Repr

/-- A valid admit-list entry holds the ASID. -/
def Core.lists (k : Core) (asid : Nat) : Bool :=
  (List.range 4).any fun i => let e := k.admitList.get 0 i; e.getLsbD 15 && field e 0 14 == asid

/-- Admission of a request of an ASID, with or without the supervisor mark. -/
def Core.gate (k : Core) (c asid : Nat) (sup : Bool) : Gate :=
  if (asid == 0 && sup) || k.lists asid then .pass
  else
    match (List.range 16).find? fun i => let e := k.fwds.get 0 i; e.getLsbD 14 && field e 0 14 == asid with
    | some i => .onward (coreOf (devOf c) (field (k.fwds.get 0 i) 16 12))
    | none => .refused

/-- Admission of a message of a core: one of the core itself is checked against no list, but follows its forwarding entries (R100, R214). -/
def Core.gateFrom (k : Core) (src c asid : Nat) (sup : Bool) : Gate :=
  match k.gate c asid sup with
  | .refused => if src = c then .pass else .refused
  | g => g

/-- Where so many forwarding entries of an ASID, one behind another, lead from a core. -/
def State.forwarded (s : State) (asid : Nat) : Nat → Nat → Nat
  | 0, c => c
  | n + 1, c =>
    match (s.core c).gate c asid false with
    | .onward d => s.forwarded asid n d
    | _ => c

/-- Where a core's resources of an ASID stand now: where its forwarding entry says, if it is vacated, and where that core's says in turn (R214,
R399). -/
def State.homeNow (s : State) (c asid : Nat) : Nat := s.forwarded asid s.cores.length c

/-! ## Presence, poison and dirty blocks -/

/-- Bytes of the granule or word of a location (R95). -/
def cellSize (a : Nat) : Nat := if a < 2 ^ 50 then 16 else 8

/-- The first bytes of the granules or words that n bytes touch. -/
def cellsOf (a n : Nat) : List Nat :=
  let z := cellSize a
  (List.range ((a + n - 1) / z + 1 - a / z)).map fun i => (a / z + i) * z

/-- The block of a tile store is dirty (R146). -/
def State.markDirty (s : State) (a : Nat) : State :=
  if a < 2 ^ 50 then
    let b := a % 2 ^ 20 / 4096
    s.modCore (a / 2 ^ 20) fun k => { k with dirty := k.dirty.put (b / 64) (k.dirty.get 0 (b / 64) ||| (1 : Word) <<< (b % 64)) }
  else s

/-- Bytes written at their home: each granule or word becomes full; poison goes where one is written whole (R95, R423). -/
def State.writeAt (s : State) (a : Nat) (bs : List Byte) : State :=
  let n := bs.length
  if n = 0 then s
  else
    let s := s.setBytes a bs
    let s := (cellsOf a n).foldl (fun s k =>
      let s := s.setPresent k true
      if a ≤ k ∧ k + cellSize a ≤ a + n then s.cleanse k else s) s
    (s.markDirty a).markDirty (a + n - 1)

/-- Bytes that the hardware itself sets, presence apart: what they cover whole is sound again (R423), and their blocks are dirty (R146). -/
def State.putBytes (s : State) (a : Nat) (bs : List Byte) : State :=
  let n := bs.length
  if n = 0 then s
  else
    let s := (cellsOf a n).foldl (fun s k => if a ≤ k ∧ k + cellSize a ≤ a + n then s.cleanse k else s) (s.setBytes a bs)
    (s.markDirty a).markDirty (a + n - 1)

/-- A presence bit set or cleared by an access (R95). -/
def State.mark (s : State) (a : Nat) (full : Bool) : State := (s.setPresent a full).markDirty a

/-- Whether any granule or word that n bytes touch is poisoned. -/
def State.anyPoison (s : State) (a n : Nat) : Bool := (cellsOf a n).any fun k => s.poisoned k

/-- A value of n bytes at a location. -/
def State.value (s : State) (a n : Nat) : Word := BitVec.ofNat 64 (leNat (s.bytes a n))

/-! ## Translation (R103 to R106, R448) -/

/-- The station of a core within its package (R103). The spec gives the hub's supervisor cores none, nor the line controllers' spill accesses: they
use a station 64 of the hub (DESIGN CHOICE, log 86), whose number shows in AUX of a pool-exhausted record. -/
def stationOf (c : Nat) : Nat := if isCompute c then dieOf c * 8 + idOf c % 64 % 16 / 2 else 64

/-- Physical addresses that hold memory (R448). -/
def paOk (pa : Nat) : Bool := decide (pa < 2 ^ 39) && decide (pa % 2 ^ 36 < 48 * 2 ^ 30)

/-- The channel of a physical address (R448). -/
def channelOf (pa : Nat) : Nat := pa / 2 ^ 36 * 32 + bitsOf pa 6 5

def leafAttr (leaf : Word) : Nat := field leaf 3 2

/-- Words of a page mapped empty are empty until something fills them (R97). -/
def leafFull (leaf : Word) : Bool := !leaf.getLsbD 5

/-- An entry's address field. -/
def leafFrame (leaf : Word) : Nat := field leaf 12 29 * 4096

/-- The bytes that a page occupies from its frame on: a versioned page's frame is 144 KiB (R133). -/
def leafSpan (leaf : Word) (big : Bool) : Nat := if big then 2 ^ 21 else if leafAttr leaf = 2 then 144 * 1024 else 2 ^ 16

/-- The levels of a walk: the low index bit, the number of index bits, and whether a leaf may stand here (R104, R105). -/
def walkLevels : List (Nat × Nat × Bool) := [(48, 9, false), (39, 9, false), (30, 9, false), (21, 9, true), (16, 5, true)]

/-- Where a walk ends: a leaf, its own address, and whether it maps a page of 2 MiB. -/
structure Walked where
  leaf : Word
  at_ : Nat
  big : Bool
  deriving DecidableEq, Repr

/-- A table walk from a table on (R105). A page whose frame runs past its stack's memory is none (R448). -/
def State.walk (s : State) (d va : Nat) (write : Bool) (table : Nat) : List (Nat × Nat × Bool) → Option Walked
  | [] => none
  | (lo, n, leafOk) :: rest =>
    let at_ := table + 8 * bitsOf va lo n
    if !paOk at_ then none
    else
      let e := s.value (hbmKey d at_) 8
      let frame := leafFrame e
      if !e.getLsbD 0 || field e 7 5 != 0 || field e 41 23 != 0 || !paOk frame then none
      else if e.getLsbD 1 then
        if leafOk && (e.getLsbD 2 || !write) && frame % 2 ^ lo == 0 && !(lo == 21 && (leafAttr e == 1 || leafAttr e == 2)) &&
            paOk (frame + leafSpan e (lo == 21) - 1) then
          some ⟨e, at_, lo == 21⟩
        else none
      else s.walk d va write frame rest

/-- The walk of the tables, translation on or off: the root table's entry of the ASID names the top-level table (R104). -/
def State.tableWalk (s : State) (d asid va : Nat) (write : Bool) : Option Walked :=
  let at_ := field (s.hub d).xltRoot 12 29 * 4096 + 8 * (asid % 2 ^ 14)
  if !paOk at_ then none else s.walk d va write (leafFrame (s.value (hbmKey d at_) 8)) walkLevels

/-- The whole walk: none while XLT_ROOT has EN clear (R104). -/
def State.fullWalk (s : State) (d asid va : Nat) (write : Bool) : Option Walked :=
  if !(s.hub d).xltRoot.getLsbD 0 then none else s.tableWalk d asid va write

/-- The number of the page that holds a virtual offset, by the size of its page. -/
def pageNo (big : Bool) (va : Nat) : Nat := va / 2 ^ (if big then 21 else 16)

/-- A leaf as it serves an offset: the address field of a 2 MiB page's leaf moved to the 64 KiB that hold the offset. -/
def leafFor (leaf : Word) (big : Bool) (va : Nat) : Word :=
  if big then setField leaf 12 29 ((leafFrame leaf + va % 2 ^ 21 / 2 ^ 16 * 2 ^ 16) / 4096) else leaf

/-- The station's buffered entry of a page (R104). -/
def Hub.buffered (h : Hub) (st asid va : Nat) : Option Buffered :=
  h.tlb.find? fun b => b.station == st && b.asid == asid && b.page == pageNo b.big va

/-- A translation joins its station's buffer of 4,096 entries (R17, R104); the spec does not say which entry a full one drops: the oldest goes
(DESIGN CHOICE, log 87). -/
def Hub.keep (h : Hub) (b : Buffered) : Hub :=
  let full := decide (4096 ≤ h.tlb.countP fun x => x.station == b.station)
  { h with tlb := b :: (if full then (h.tlb.reverse.eraseP fun x => x.station == b.station).reverse else h.tlb) }

/-- The expansion of a capacity page (R108). -/
def expansionTime : Nat := 6 * Config.us

/-- A frame joins the uncompressed pool, and the first request that found the pool empty has its page expanded (R109). -/
def State.addFrame (s : State) (d f : Nat) : State :=
  let s := s.modHub d fun h => { h with pool := h.pool ++ [f] }
  match (s.hub d).expanding.find? (·.starved.isSome) with
  | none => s
  | some x =>
    (s.modHub d fun h => { h with expanding := h.expanding.map fun y => if y.frame == x.frame then { y with starved := none } else y }).after
      expansionTime (.capacityExpansion d x.frame false)

/-- Bytes of HBM become zero, with the presence that their page gives untouched words, and sound (R97). -/
def State.zeroFrame (s : State) (d frame span : Nat) : State :=
  let a := hbmKey d frame
  let outside (k : Nat) : Bool := !(decide (a / 8 ≤ k) && decide (k < (a + span) / 8))
  let outsideLine (l : Nat) : Bool := !(decide (frame / 64 ≤ l) && decide (l < (frame + span) / 64))
  let s := { s with mem := memClear s.mem a (a + span), pres := s.pres.filter fun e => outside e.1, poison := s.poison.filter outside }
  s.modHub d fun h => { h with lineBufs := h.lineBufs.filter fun b => outsideLine (b.line - hbmKey d 0 / 64), lost := h.lost.filter outsideLine,
                               lastWrite := h.lastWrite.filter fun e => outsideLine e.1 }

/-- A page that the package has on record is still mapped as it was: the tables lead to its leaf, and that names its frame. -/
def State.stillMapped (s : State) (d : Nat) (p : PageUse) : Bool :=
  (s.tableWalk d p.asid p.va false).any fun w => w.at_ == p.at_ && leafFrame w.leaf == p.frame

/-- A walk has met a leaf (R97; when the zeros are written is DESIGN CHOICE, log 25). A leaf that a job's walk finds not on record as it stands
maps a new page: its frame becomes zero, unless another job's page on record lies in it or it holds a compressed page. A capacity page that the
supervisor has returned to the compressed state gives its frame to the pool (R109). The supervisor's own pages (ASID 0) are recorded only. -/
def State.mapPage (s : State) (d asid va : Nat) (w : Walked) : State :=
  let h := s.hub d
  let frame := leafFrame w.leaf
  let span := leafSpan w.leaf w.big
  let old := h.pages.find? fun p => p.at_ == w.at_
  if old.any (fun p => p.frame == frame && p.span == span && (asid == 0 || p.asid != 0)) then s
  else
    let others := h.pages.filter fun p => p.at_ != w.at_ && p.asid != 0 && s.stillMapped d p
    let free (a n : Nat) : Bool := !others.any fun p => decide (p.frame < a + n) && decide (a < p.frame + p.span)
    let image := leafAttr w.leaf == 1 && h.compressed.contains (frame / 2 ^ 16)
    let s := s.modHub d fun h => { h with pages := ⟨w.at_, frame, span, asid, va⟩ :: h.pages.filter fun p => p.at_ != w.at_ }
    if asid = 0 then s
    else if !image then (if free frame span then s.zeroFrame d frame span else s)
    else
      match old with
      | none => s
      | some p => if p.span == 2 ^ 16 && free p.frame p.span then s.addFrame d (p.frame / 2 ^ 16) else s

/-- Pages that the tables map no more leave the record (R106: `xinv` ends them). -/
def State.prunePages (s : State) (d : Nat) : State :=
  s.modHub d fun h => { h with pages := h.pages.filter fun p => (s.tableWalk d p.asid p.va false).any fun w => w.at_ == p.at_ }

/-- The station sets DIRTY at the first write after the supervisor clears it (R105, R106). -/
def State.setDirty (s : State) (d : Nat) (at_ : Nat) : State :=
  let e := s.value (hbmKey d at_) 8
  if e.getLsbD 6 then s else s.setBytes (hbmKey d at_) (natLe 8 (e ||| 64).toNat)

/-- The physical address within a leaf's page: a versioned page's line i stands at frame + 144i (R133). -/
def physOf (leaf : Word) (va : Nat) : Nat :=
  if leafAttr leaf = 2 then leafFrame leaf + 144 * (va % 2 ^ 16 / 64) + va % 64 else leafFrame leaf + va % 2 ^ 16

/-- The leaf of a page by a station: its buffered entry, or a walk whose result it keeps, with the leaf's own address; none is a translation
fault, and so is every access while XLT_ROOT has EN clear (R104, R105). -/
def State.leafOf (s : State) (d st asid va : Nat) (write : Bool) : Option (Word × Nat × State) :=
  if !(s.hub d).xltRoot.getLsbD 0 then none
  else
    match (s.hub d).buffered st asid va with
    | some b => if write && !b.leaf.getLsbD 2 then none else some (leafFor b.leaf b.big va, b.at_, s)
    | none =>
      match s.fullWalk d asid va write with
      | none => none
      | some w =>
        some (leafFor w.leaf w.big va, w.at_, (s.mapPage d asid va w).modHub d fun h => h.keep ⟨st, asid, pageNo w.big va, w.big, w.leaf, w.at_⟩)

/-! ### Capacity pages (R108, R109, R425) -/

/-- The page of a leaf rests compressed. -/
def Hub.isCompressed (h : Hub) (leaf : Word) : Bool := leafAttr leaf == 1 && h.compressed.contains (leafFrame leaf / 2 ^ 16)

/-- The blocks of a compressed image, one after another, and the image's length; none where one does not decode. -/
def decodeImage : Nat → List Byte → Option (List Byte × Nat)
  | 0, _ => some ([], 0)
  | n + 1, bs =>
    match decodeBlock bs with
    | none => none
    | some (b, k) => (decodeImage n (bs.drop k)).map fun r => (b ++ r.1, k + r.2)

/-- A page's frame takes its compressed image (R108, R109): only the supervisor's copies bring that about. -/
def State.restCompressed (s : State) (d f : Nat) : State :=
  s.modHub d fun h => { h with compressed := f :: h.compressed.filter (· != f), retained := h.retained.filter (· != f) }

/-- A compressed page is expanded into a frame of the pool, and the leaf at `at_` rewritten and invalidated; none while the pool is empty. An
image that does not decode, or is poisoned, leaves the page poisoned (DESIGN CHOICE, log 58). -/
def State.expand (s : State) (d : Nat) (leaf : Word) (at_ : Nat) (err : Bool) : Option (Word × State) :=
  let h := s.hub d
  match h.pool with
  | [] => none
  | f :: pool =>
    let old := leafFrame leaf
    let new := f * 2 ^ 16
    let key := hbmKey d new
    let image := if err then none else decodeImage 1024 (s.bytes (hbmKey d old) (2 ^ 16))
    let image := image.filter fun r => !s.anyPoison (hbmKey d old) r.2
    let s := s.zeroFrame d new (2 ^ 16)
    let s :=
      match image with
      | some r => s.setBytes key r.1
      | none => { s with poison := (List.range (2 ^ 13)).map (key / 8 + ·) ++ s.poison }
    let e := setField (s.value (hbmKey d at_) 8) 12 29 (new / 4096)
    let s := s.setBytes (hbmKey d at_) (natLe 8 e.toNat)
    let s := s.modHub d fun h =>
      { h with pool := pool, compressed := h.compressed.filter (· != old / 2 ^ 16), retained := f :: h.retained,
               tlb := h.tlb.filter fun b => b.at_ != at_
               pages := h.pages.map fun p => if p.at_ == at_ then { p with frame := new } else p }
    some (setField leaf 12 29 (new / 4096), s)

/-- A translation by a station, with the page expanded if it rests compressed; none is a translation fault (R104, R105, R108). -/
def State.translate (s : State) (d st asid va : Nat) (write : Bool) : Option (Nat × Word × State) :=
  match s.leafOf d st asid va write with
  | none => none
  | some (leaf, at_, s) =>
    match (if (s.hub d).isCompressed leaf then s.expand d leaf at_ false else some (leaf, s)) with
    | none => none
    | some (leaf, s) =>
      some (physOf leaf va, leaf, if write then s.setDirty d at_ else s)

/-! ### Requests that wait for an expansion (R109) -/

/-- The wait for a frame of the pool (R109). -/
def poolTime : Nat := 64 * Config.us

/-- The pool has no frame for a page's expansion: a pool-exhausted record goes to the supervisor, and the requests are held (R109). -/
def State.starve (s : State) (d frame : Nat) : State :=
  match (s.hub d).expanding.find? fun e => e.frame == frame with
  | none => s
  | some x =>
    let s := s.modHub d fun h => { h with expanding := h.expanding.map fun y => if y.frame == frame then { y with starved := some s.now } else y }
    (s.coreRec (s.homeNow x.core x.asid) x.asid 37 1 x.addr x.station).after poolTime (.poolExhaustedTimeout d frame)

/-- An event of a core waits for the expansion of a page: the first one starts it, or queues a pool-exhausted record. -/
def State.stallOn (s : State) (d st c frame at_ asid : Nat) (a : Word) (ev : Event) : State :=
  let h := s.hub d
  if h.expanding.any fun e => e.frame == frame then
    s.modHub d fun h => { h with expanding := h.expanding.map fun e => if e.frame == frame then { e with evs := e.evs ++ [ev] } else e }
  else
    let s := s.modHub d fun h => { h with expanding := h.expanding ++ [⟨frame, at_, c, st, asid, a, none, [ev]⟩] }
    if h.pool.isEmpty then s.starve d frame else s.after expansionTime (.capacityExpansion d frame false)

/-- The first of the addresses, each with its package and its station there, whose page rests compressed makes the event wait; none where it need
not. -/
def State.stalledAt (s : State) (c asid : Nat) (as : List (Nat × Nat × Word)) (ev : Event) : Option State :=
  as.findSome? fun x =>
    if isFabric x.2.2 then none
    else
      match s.leafOf x.1 x.2.1 asid (virtualOf x.2.2) false with
      | none => none
      | some (leaf, at_, _) =>
        if (s.hub x.1).isCompressed leaf then some (s.stallOn x.1 x.2.1 c (leafFrame leaf / 2 ^ 16) at_ asid x.2.2 ev) else none

/-- As `stalledAt`, for accesses of a core by its own station. -/
def State.stalled (s : State) (c asid : Nat) (as : List Word) (ev : Event) : Option State :=
  s.stalledAt c asid (as.map fun a => (devOf c, stationOf c, a)) ev

/-! ## Versioned lines (R132, R133) -/

/-- A location at its home: the key of its first byte, what presence it has untouched, and its versioned line: the key of the line's 144 bytes,
and the byte within the line. The slots stand at 0 and 64 of the line and the metadata at 128 (DESIGN CHOICE, log 10). -/
structure Place where
  key : Nat
  dflt : Bool
  line : Option (Nat × Nat) := none
  /-- not on a not-live page (R108) -/
  live : Bool := true
  deriving DecidableEq, Repr

/-- A place in a core's tile store. -/
def State.tilePlace (s : State) (c off : Nat) : Place :=
  ⟨tileKey c off, false, ((s.core c).lineAt off).map fun l => (tileKey c l.1, l.2), true⟩

/-- A place in HBM under a leaf. -/
def hbmPlace (d pa : Nat) (leaf : Word) : Place :=
  if leafAttr leaf = 2 then
    let i := (pa - leafFrame leaf) / 144
    ⟨hbmKey d pa, leafFull leaf, some (hbmKey d (leafFrame leaf + 144 * i), (pa - leafFrame leaf) % 144), true⟩
  else ⟨hbmKey d pa, leafFull leaf, none, leafAttr leaf != 3⟩

/-! ### What a write brings with it (R96, R108, R425, R426) -/

/-- The requests that a core holds look again at presence (R96). -/
def State.stirCore (s : State) (c : Nat) : State :=
  if (s.core c).waiting.isEmpty then s else s.after 0 (.windowMetadataClearingEnd c 2)

/-- The requests that a package's channels hold come to them again, in the order they arrived (R96). -/
def State.stirChannels (s : State) (d : Nat) : State :=
  let held := (s.hub d).hbmWaiting
  if held.isEmpty then s else (s.modHub d fun h => { h with hbmWaiting := [] }).soon (held.map fun x => .hbmChannelRequest x.1 x.2.1 x.2.2)

/-- The hub's number of an HBM location's 64-byte line. -/
def lineOfKey (a : Nat) : Nat := (a - 2 ^ 50) % 2 ^ 41 / 64

/-- A dead read of a line that is lost counts at the core that asked. -/
def State.deadRead (s : State) (d c a : Nat) : State :=
  if (s.hub d).lost.contains (lineOfKey a) then s.modCore c fun k => k.count 3 else s

/-- A write in HBM has been performed: a capacity page's image is kept no longer (R425), and a line of a not-live page is revived: its 32 ms
begin again (R426). -/
def State.revive (s : State) (d : Nat) (p : Place) : State :=
  let f := (p.key - hbmKey d 0) / 2 ^ 16
  let s := if (s.hub d).retained.contains f then s.modHub d fun h => { h with retained := h.retained.filter (· != f) } else s
  if p.live then s
  else
    let l := lineOfKey p.key
    (s.modHub d fun h => { h with lost := h.lost.filter (· != l), lastWrite := h.lastWrite.put l s.now }).after (32 * Config.ms)
      (.notLiveLineExpiry d l s.now)

/-- A write by the bulk path has been performed in HBM: no line buffer keeps the line (R111), and held requests look again (R96). -/
def State.wroteBulk (s : State) (d : Nat) (p : Place) : State :=
  ((s.revive d p).modHub d fun h => { h with lineBufs := h.lineBufs.filter fun b => b.line != p.key / 64 }).stirChannels d

/-- A line's metadata word (R132). -/
def State.lineMeta (s : State) (l : Nat) : BitVec 128 := BitVec.ofNat 128 (leNat (s.bytes (l + 128) 16))
def State.setLineMeta (s : State) (l : Nat) (x : BitVec 128) : State := s.putBytes (l + 128) (natLe 16 x.toNat)

def metaName (x : BitVec 128) : Nat := field x 0 20
def metaCidx (x : BitVec 128) : Nat := field x 20 16
def metaSerial (x : BitVec 128) (k : Nat) : Nat := field x (52 + 25 * k) 24
def metaSpilled (x : BitVec 128) (k : Nat) : Bool := bitAt x.toNat (76 + 25 * k)
def setSerial (x : BitVec 128) (k v : Nat) : BitVec 128 := setField x (52 + 25 * k) 24 v
def setSpilled (x : BitVec 128) (k : Nat) (b : Bool) : BitVec 128 := setField x (76 + 25 * k) 1 (b2n b)

/-- The slot with the larger serial, slot 0 among equals. -/
def newerSlot (x : BitVec 128) : Nat := if metaSerial x 0 < metaSerial x 1 then 1 else 0

/-- The tag word of a slot (R141). -/
def tagWord (x : BitVec 128) (k : Nat) : Word :=
  BitVec.ofNat 64 (metaSerial x k + metaCidx x * 2 ^ 24 + metaName x * 2 ^ 40 + b2n (metaSpilled x k) * 2 ^ 60 + k * 2 ^ 61)

/-! ## CRC-32C (R135, R161) -/

/-- Eight steps of the reflected CRC-32C polynomial. -/
def crcBits : Nat → Nat → Nat
  | 0, c => c
  | n + 1, c => crcBits n (if c % 2 = 1 then (c / 2) ^^^ 0x82F63B78 else c / 2)

def crcBytes (c : Nat) : List Byte → Nat
  | [] => c
  | b :: bs => crcBytes (crcBits 8 (c ^^^ b.toNat)) bs

/-- The CRC-32C of bytes, with the initial value and final inversion of iSCSI. -/
def crc32c (bs : List Byte) : Nat := crcBytes 0xFFFFFFFF bs ^^^ 0xFFFFFFFF

/-! ## Commit records (R135) -/

/-- A commit record's 64 bytes as one number. -/
structure Record where
  key : Nat
  img : Nat
  deriving DecidableEq, Repr

def State.recordAt (s : State) (a : Word) : Record :=
  let k := tileKey (coreNamed a) (offsetOf a)
  ⟨k, leNat (s.bytes k 64)⟩

/-- The record of an address where it stands now, for an access of an ASID (R214). -/
def State.recordNow (s : State) (a : Word) (asid : Nat) : Record :=
  s.recordAt (if isFabric a then setField a 45 12 (idOf (s.homeNow (coreNamed a) asid)) else a)

def Record.name (r : Record) : Nat := bitsOf r.img 0 20
def Record.init (r : Record) : Bool := bitAt r.img 31
def Record.committed (r : Record) : Nat := bitsOf r.img 32 24
def Record.opened (r : Record) : Nat := bitsOf r.img 64 24
def Record.writers (r : Record) : Nat := bitsOf r.img 88 8
def Record.lines (r : Record) : Nat := bitsOf r.img 96 16
def Record.spcap (r : Record) : Nat := bitsOf r.img 112 16
def Record.manifest (r : Record) : Word := BitVec.ofNat 64 (bitsOf r.img 128 64)
def Record.spill (r : Record) : Word := BitVec.ofNat 64 (bitsOf r.img 192 64)
def Record.pinC (r : Record) : Nat := bitsOf r.img 256 32
def Record.pinP (r : Record) : Nat := bitsOf r.img 288 32
def Record.pinO (r : Record) : Nat := bitsOf r.img 320 32
def Record.prev (r : Record) : Nat := bitsOf r.img 352 24
def Record.splost (r : Record) : Nat := bitsOf r.img 384 32
def Record.high (r : Record) : Nat := bitsOf r.img 416 24
def Record.crcOk (r : Record) : Bool := crc32c (natLe 60 r.img) == bitsOf r.img 480 32
def Record.set (r : Record) (lo w v : Nat) : Record := { r with img := setBits r.img lo w v }

/-- The record takes operations: none of it is poisoned, and its CRC is right (R135, R432). -/
def State.recordSound (s : State) (r : Record) : Bool := !s.anyPoison r.key 64 && r.crcOk

/-- The record written back with its CRC (R135). -/
def State.putRecord (s : State) (r : Record) : State :=
  s.writeAt r.key (natLe 60 r.img ++ natLe 4 (crc32c (natLe 60 r.img)))

/-! ## Line controllers (R139 to R143) -/

/-- A spill entry: where it stands, and whether they are poisoned; none if the address is no HBM address, does not translate, or
lies in a versioned page, whose home refuses the access (R134, R136, R139). -/
def State.spillKey (s : State) (d asid : Nat) (base : Word) (i : Nat) (write : Bool) : Option (Place × Bool × State) :=
  let a := base + BitVec.ofNat 64 (128 * i)
  if isFabric a then none
  else
    match s.translate d 64 asid (virtualOf a) write with
    | none => none
    | some (pa, leaf, s) => if leafAttr leaf = 2 then none else some (hbmPlace d pa leaf, s.anyPoison (hbmKey d pa) 128, s)

/-- The device of a memory key. -/
def devOfKey (a : Nat) : Nat := if a < 2 ^ 50 then a / 2 ^ 20 / Config.coresPerDevice else (a - 2 ^ 50) / 2 ^ 41

/-- The version about to be replaced is written to its spill entry; none where it is lost: no entry, no translation, a refusal, or poison
(R139), that of the record among it (R432). -/
def State.spillOut (s : State) (l : Nat) (x : BitVec 128) (k : Nat) (asid : Nat) (v : ViewRef) : Option State :=
  let r := s.recordNow v.record asid
  let i := metaCidx x
  if !s.recordSound r || r.spcap ≤ i || s.anyPoison (l + 64 * k) 64 then none
  else
    match s.spillKey (devOfKey l) asid r.spill i true with
    | none => none
    | some (_, true, _) => none
    | some (p, false, s) =>
      let s := s.writeAt p.key (s.bytes (l + 64 * k) 64 ++ natLe 4 (metaSerial x k) ++ natLe 4 v.serial ++ List.replicate 56 0)
      some (s.wroteBulk (devOfKey l) p)

/-- What an access at its home comes to. -/
inductive Verdict where
  /-- performed: the value read, a tag word, and why the view is fractured (0 no, 2 spill, 3 member), or, of a bundle store, 1 if a version was
  lost -/
  | done (s : State) (v : Word) (tag : Word) (fr : Nat)
  /-- held until the presence bit changes (R96) -/
  | wait
  /-- refused with a cause (R384) -/
  | refuse (cause : Nat)

/-- The slot that a bundle store writes (R139): the one of its serial, else an empty one (slot 0 of two, DESIGN CHOICE, log 112), else the one of
the smaller serial. -/
def storeSlot (x : BitVec 128) (serial : Nat) : Nat :=
  if metaSerial x 0 = serial then 0 else if metaSerial x 1 = serial then 1
  else if metaSerial x 0 = 0 then 0 else if metaSerial x 1 = 0 then 1
  else if metaSerial x 1 < metaSerial x 0 then 1 else 0

/-- The other slot's data brought forward into slot k, poisoned where it is poisoned, or zeros (R139, R423). -/
def State.copyForward (s : State) (l k : Nat) (x : BitVec 128) : State :=
  let o := 1 - k
  if metaSerial x o = 0 then s.putBytes (l + 64 * k) (List.replicate 64 0)
  else
    let bad := (List.range 4).filter fun g => s.anyPoison (l + 64 * o + 16 * g) 16
    bad.foldl (fun s g => (cellsOf (l + 64 * k + 16 * g) 16).foldl State.setPoison s) (s.putBytes (l + 64 * k) (s.bytes (l + 64 * o) 64))

/-- A bundle store (R139): n bytes at byte j of line l; the written slot is full (R134). A store narrower than a poisoned granule or word is
refused (R423). -/
def State.bundleWrite (s : State) (l j : Nat) (bs : List Byte) (asid : Nat) (v : ViewRef) : Verdict :=
  let x := s.lineMeta l
  if metaName x ≠ v.name then .refuse 12
  else
    let k := storeSlot x v.serial
    let fresh := metaSerial x k != v.serial
    let from_ := if fresh then 1 - k else k
    let old := l + 64 * from_ + j
    if (cellsOf old bs.length).any fun c => s.poisoned c && !(decide (old ≤ c) && decide (c + cellSize l ≤ old + bs.length)) &&
        !(fresh && metaSerial x from_ == 0)
    then .refuse 29
    else
      let spill := fresh && metaSerial x k != 0 && v.sp
      let out := if spill then s.spillOut l x k asid v else none
      let s := out.getD s
      let s := if fresh then (s.copyForward l k x).setLineMeta l (setSerial (setSpilled x k out.isSome) k v.serial) else s
      let s := (cellsOf (l + 64 * k) 64).foldl (fun s a => s.setPresent a true) (s.writeAt (l + 64 * k + j) bs)
      .done s 0 0 (b2n (spill && out.isNone))

/-- A read under a view or a write entry (R143): n bytes at byte j of line l. What it would read from poison is refused (R423, R432). -/
def State.viewRead (s : State) (l j n : Nat) (asid : Nat) (v : ViewRef) : Verdict :=
  let x := s.lineMeta l
  let fits (k : Nat) : Bool := metaSerial x k != 0 && decide (metaSerial x k ≤ v.serial)
  if metaName x ≠ v.name then .done s 0 0 3
  else
    let pick : Option Nat :=
      if fits 0 && fits 1 then some (newerSlot x) else if fits 0 then some 0 else if fits 1 then some 1 else none
    match pick with
    | some k => if s.anyPoison (l + 64 * k + j) n then .refuse 29 else .done s (s.value (l + 64 * k + j) n) 0 0
    | none =>
      if metaSpilled x 0 || metaSpilled x 1 then
        let r := s.recordNow v.record asid
        if s.anyPoison r.key 64 then .refuse 29
        else
          match s.spillKey (devOfKey l) asid r.spill (metaCidx x) false with
          | none => .done s 0 0 2
          | some (_, true, _) => .refuse 29
          | some (p, false, s) =>
            let t := bitsOf (s.value (p.key + 64) 4).toNat 0 24
            let w := bitsOf (s.value (p.key + 68) 4).toNat 0 24
            if t ≠ 0 ∧ t ≤ v.serial ∧ v.serial < w then .done s (s.value (p.key + j) n) 0 0 else .done s 0 0 2
      else .done s 0 0 2

/-! ## One access at its home -/

/-- The new value of an atomic (R270), on n bytes. -/
def amoVal (k : AmoKind) (n : Nat) (old v : Word) : Word :=
  let w := 8 * n
  let pick (b : Bool) : Word := if b then old else v
  match k with
  | .swap => v
  | .add => old + v
  | .and => old &&& v
  | .or => old ||| v
  | .xor => old ^^^ v
  | .min => pick (decide (sval w old.toNat ≤ sval w v.toNat))
  | .max => pick (decide (sval w v.toNat ≤ sval w old.toNat))
  | .minu => pick (decide (old.toNat % 2 ^ w ≤ v.toNat % 2 ^ w))
  | .maxu => pick (decide (v.toNat % 2 ^ w ≤ old.toNat % 2 ^ w))

/-- The low n bytes of a value. -/
def lowBytes (n : Nat) (v : Word) : List Byte := natLe n v.toNat

/-- The width of an operation in bytes. -/
def opWidth : MemOp → Nat
  | .load n | .loadFull n | .loadFullClear n | .loadTag n | .store n _ | .storeEmpty n _ | .amo _ n _ | .cas n _ _ | .viewLoad n _
  | .bundleStore n _ _ => n
  | .granule _ _ => 16
  | .setFull | .setEmpty | .vector => 1
  | .ctlRead | .ctlWrite _ => 8

/-- Whether an operation reads or tests what poison makes unknown, or writes less than the whole granule or word (R423). -/
def opMeetsPoison (o : MemOp) (a : Nat) : Bool :=
  match o with
  | .store n _ => decide (n < cellSize a)
  | .granule _ _ => false
  | _ => true

/-- Whether an operation writes, for the dirty bit of a page and for what may write a page (R105). A wait-full-clear load changes presence only, and
counts as no write (DESIGN CHOICE, log 113). -/
def opWrites : MemOp → Bool
  | .load _ | .loadFull _ | .loadFullClear _ | .loadTag _ | .viewLoad _ _ | .ctlRead | .vector => false
  | _ => true

/-- An access to a versioned line (R134). -/
def State.performLine (s : State) (l j : Nat) (asid : Nat) (op : MemOp) : Verdict :=
  let x := s.lineMeta l
  if s.anyPoison (l + 128) 16 then .refuse 29
  else
    let k := newerSlot x
    match op with
    | .load n => if s.anyPoison (l + 64 * k + j) n then .refuse 29 else .done s (s.value (l + 64 * k + j) n) 0 0
    | .loadTag n => if s.anyPoison (l + 64 * k + j) n then .refuse 29 else .done s (s.value (l + 64 * k + j) n) (tagWord x k) 0
    | .viewLoad n v => s.viewRead l j n asid v
    | .bundleStore n d v => s.bundleWrite l j (lowBytes n d) asid v
    | _ => .refuse 12

/-- What one access does at its home, as one step with the presence test (R95, R96, R110, R270). -/
def State.performAt (s : State) (p : Place) (asid : Nat) (op : MemOp) : Verdict :=
  match p.line with
  | some (l, j) => s.performLine l j asid op
  | none =>
    let a := p.key
    let full := s.present p.dflt a
    if opMeetsPoison op a && s.anyPoison a (opWidth op) then .refuse 29
    else
      match op with
      | .load n => .done s (s.value a n) 0 0
      | .loadTag n => .done s (s.value a n) 0 0
      | .loadFull n => if full then .done s (s.value a n) 0 0 else .wait
      | .loadFullClear n => if full then .done (s.mark a false) (s.value a n) 0 0 else .wait
      | .store n v => .done (s.writeAt a (lowBytes n v)) 0 0 0
      | .storeEmpty n v => if full then .wait else .done (s.writeAt a (lowBytes n v)) 0 0 0
      | .setFull => .done (s.mark a true) 0 0 0
      | .setEmpty => .done (s.mark a false) 0 0 0
      | .amo k n v => .done (s.writeAt a (lowBytes n (amoVal k n (s.value a n) v))) (s.value a n) 0 0
      | .cas n old new =>
        let cur := s.value a n
        if cur.toNat = old.toNat % 2 ^ (8 * n) then .done (s.writeAt a (lowBytes n new)) cur 0 0 else .done (s.mark a true) cur 0 0
      | .granule lo hi => .done (s.writeAt a (lowBytes 8 lo ++ lowBytes 8 hi)) 0 0 0
      | _ => .refuse 12

end Sys2Proof.Machine
end

