-- ==== Sys2Proof/Machine/Pairing.lean ====
section
/-!
DEFINITION. What the issue rule asks of an instruction (spec/02 R23, R24, spec/13 R287): its class, its marker, its guard, and the registers it
reads and writes, each predicate and flag a register of its own, with the latency of its results (spec/12 R250, spec/13 R287).
-/

namespace Sys2Proof.Machine

/-- A flag of the predicate word that R24 counts as a register of its own. -/
inductive FlagReg where
  | z | n | c | o | sticky
  deriving DecidableEq, Repr

/-- A register in the sense of R24. -/
inductive RegName where
  | s (r : Sys2Proof.SReg)
  | v (r : VNum)
  | p (r : PNum)
  | m (r : PNum)
  | flag (f : FlagReg)
  deriving DecidableEq, Repr

def optS (c : Option Sys2Proof.SReg) : List RegName := (c.map RegName.s).toList

/-- The sources of a binary form: a and b, or b and c with PFX.R (R249). -/
def binOf {α : Type} (f : α → RegName) (a b : α) (c : Option α) : List RegName :=
  match c with
  | none => [f a, f b]
  | some c => [f b, f c]

/-- The sources of a binary scalar form (R249). -/
def binReads (o : OpBin) : List RegName := binOf .s o.a o.b o.c

def vsrc (c : VSrc) : List RegName :=
  match c with
  | .absent => []
  | .vec v => [.v v]
  | .scal s => [.s s]

/-- The sources of a binary vector form (R291): a is one of them only without PFX.R. -/
def vbinReads (o : OpVBin) : List RegName :=
  match o.c with
  | .absent => [.v o.a, .v o.b]
  | c => .v o.b :: vsrc c

/-- The whole predicate word (R24). -/
def allFlags : List RegName :=
  (List.range 8).map (fun i => RegName.p (BitVec.ofNat 3 i)) ++ [.flag .z, .flag .n, .flag .c, .flag .o, .flag .sticky]

/-- What an instruction carries besides its operands (R26, R226). -/
def modsOf (i : Instr) : Mods :=
  match i with
  | .nop m => m
  | .mov m _ => m
  | .movi m _ => m
  | .add m _ _ => m
  | .addi m _ _ => m
  | .sub m _ _ => m
  | .mul m _ _ => m
  | .mulh m _ _ => m
  | .mulhu m _ _ => m
  | .div m _ _ => m
  | .divu m _ _ => m
  | .rem m _ _ => m
  | .remu m _ _ => m
  | .and m _ => m
  | .andi m _ => m
  | .or m _ => m
  | .ori m _ => m
  | .xor m _ => m
  | .xori m _ => m
  | .not m _ => m
  | .neg m _ _ => m
  | .shl m _ => m
  | .shli m _ => m
  | .shr m _ => m
  | .shri m _ => m
  | .sar m _ => m
  | .sari m _ => m
  | .rol m _ => m
  | .min m _ _ => m
  | .max m _ _ => m
  | .minu m _ _ => m
  | .maxu m _ _ => m
  | .clz m _ => m
  | .ctz m _ => m
  | .popc m _ => m
  | .sext m _ => m
  | .zext m _ => m
  | .bfx m _ => m
  | .bfi m _ => m
  | .lea m _ => m
  | .sel m _ => m
  | .plog m _ => m
  | .rdp m _ => m
  | .wrp m _ => m
  | .cmpEq m _ => m
  | .cmpLt m _ => m
  | .cmpLtu m _ => m
  | .cmpiEq m _ => m
  | .cmpiLt m _ => m
  | .cmpiLtu m _ => m
  | .cmpiLe m _ => m
  | .cmpiLeu m _ => m
  | .br m _ => m
  | .brp m _ => m
  | .call m _ => m
  | .ret m => m
  | .jmpr m _ => m
  | .loop m _ => m
  | .clr m _ => m
  | .ld m _ => m
  | .st m _ => m
  | .ldt m _ => m
  | .ldf m _ => m
  | .ldfe m _ => m
  | .stef m _ => m
  | .setf m _ => m
  | .sete m _ => m
  | .fence m _ => m
  | .amoSwapW m _ => m
  | .amoSwapD m _ => m
  | .casW m _ => m
  | .casD m _ => m
  | .amoOp m _ => m
  | .view m _ => m
  | .vclose m _ => m
  | .bopen m _ => m
  | .bopenJ m _ => m
  | .bcommit m _ => m
  | .babort m _ => m
  | .fadd m _ _ => m
  | .fsub m _ _ => m
  | .fmul m _ _ => m
  | .fdiv m _ _ => m
  | .fsqrt m _ _ => m
  | .fma m _ _ => m
  | .fmin m _ _ => m
  | .fmax m _ _ => m
  | .fabs m _ _ => m
  | .fneg m _ _ => m
  | .fcmpEq m _ _ => m
  | .fcmpLt m _ _ => m
  | .fcmpLe m _ _ => m
  | .fcmpUn m _ _ => m
  | .fcvt m _ _ => m
  | .fround m _ _ => m
  | .fsin m _ _ => m
  | .fcos m _ _ => m
  | .fexp2 m _ _ => m
  | .flog2 m _ _ => m
  | .frcp m _ _ => m
  | .fclass m _ => m
  | .fbit m _ => m
  | .vadd m _ _ => m
  | .vsub m _ _ => m
  | .vmul m _ _ => m
  | .vfma m _ _ => m
  | .vdiv m _ _ => m
  | .vsqrt m _ _ => m
  | .vmin m _ _ => m
  | .vmax m _ _ => m
  | .vabs m _ _ => m
  | .vneg m _ _ => m
  | .vmulh m _ _ => m
  | .vand m _ => m
  | .vor m _ => m
  | .vxor m _ => m
  | .vnot m _ => m
  | .vshl m _ => m
  | .vshr m _ => m
  | .vsar m _ => m
  | .vcmpEq m _ _ => m
  | .vcmpLt m _ _ => m
  | .vcmpLe m _ _ => m
  | .vcmpUn m _ _ => m
  | .vsel m _ => m
  | .vcvt m _ _ => m
  | .vcvtn m _ _ => m
  | .vredadd m _ _ => m
  | .vredmin m _ _ => m
  | .vredmax m _ _ => m
  | .vperm m _ => m
  | .vrot m _ => m
  | .vbcast m _ => m
  | .vext m _ => m
  | .vins m _ => m
  | .vexp2 m _ _ => m
  | .vrcp m _ _ => m
  | .vmov m _ => m
  | .vld m _ => m
  | .vst m _ => m
  | .vldf m _ => m
  | .vldfe m _ => m
  | .vstef m _ => m
  | .vgath m _ => m
  | .vscat m _ => m
  | .vclr m _ => m
  | .mand m _ => m
  | .mor m _ => m
  | .mxor m _ => m
  | .mnot m _ => m
  | .mset m _ => m
  | .mget m _ => m
  | .mpopc m _ => m
  | .mfirst m _ => m
  | .shape m _ => m
  | .cp m _ => m
  | .cpD m _ => m
  | .cpBv m _ => m
  | .cpx m _ => m
  | .cpxD m _ => m
  | .streamScalar m _ => m
  | .streamVector m _ => m
  | .unstreamScalar m _ => m
  | .unstreamVector m _ => m
  | .hcfg m _ => m
  | .hexpect m _ => m
  | .hexpectA m _ => m
  | .harr m _ => m
  | .hwaitP m _ => m
  | .hwaitS m _ => m
  | .hacq m _ => m
  | .hrel m _ => m
  | .mxs m => m
  | .mxr m _ => m
  | .spawn m _ => m
  | .quit m => m
  | .yield m => m
  | .park m => m
  | .wake m _ => m
  | .mig m _ => m
  | .link m _ => m
  | .amsg m _ => m
  | .tenq m _ => m
  | .tdep m _ => m
  | .bar m => m
  | .fitw m _ => m
  | .popq m _ => m
  | .tick m _ => m
  | .selfid m _ => m
  | .popmig m _ => m
  | .rdsw m _ => m
  | .wrsw m _ => m
  | .crd m _ => m
  | .cwr m _ => m
  | .trap m _ => m
  | .tret m => m
  | .halt m => m
  | .bankpw m _ => m
  | .xinv m _ => m
  | .snap m _ => m
  | .evac m _ => m
  | .fwd m _ => m
  | .glaunch m _ => m
  | .popcfg m _ => m
  | .popstep m _ => m
  | .hdead m _ => m
  | .hcomp m _ => m
  | .attest m _ => m
  | .asid m _ => m
  | _ => {}

/-- The opcode page (R233), which gives the issue class (R23). -/
def pageOf (i : Instr) : Nat :=
  match i with
  | .ld _ _ => 1
  | .st _ _ => 1
  | .ldt _ _ => 1
  | .ldf _ _ => 1
  | .ldfe _ _ => 1
  | .stef _ _ => 1
  | .setf _ _ => 1
  | .sete _ _ => 1
  | .fence _ _ => 1
  | .amoSwapW _ _ => 1
  | .amoSwapD _ _ => 1
  | .casW _ _ => 1
  | .casD _ _ => 1
  | .amoOp _ _ => 1
  | .view _ _ => 1
  | .vclose _ _ => 1
  | .bopen _ _ => 1
  | .bopenJ _ _ => 1
  | .bcommit _ _ => 1
  | .babort _ _ => 1
  | .fadd _ _ _ => 2
  | .fsub _ _ _ => 2
  | .fmul _ _ _ => 2
  | .fdiv _ _ _ => 2
  | .fsqrt _ _ _ => 2
  | .fma _ _ _ => 2
  | .fmin _ _ _ => 2
  | .fmax _ _ _ => 2
  | .fabs _ _ _ => 2
  | .fneg _ _ _ => 2
  | .fcmpEq _ _ _ => 2
  | .fcmpLt _ _ _ => 2
  | .fcmpLe _ _ _ => 2
  | .fcmpUn _ _ _ => 2
  | .fcvt _ _ _ => 2
  | .fround _ _ _ => 2
  | .fsin _ _ _ => 2
  | .fcos _ _ _ => 2
  | .fexp2 _ _ _ => 2
  | .flog2 _ _ _ => 2
  | .frcp _ _ _ => 2
  | .fclass _ _ => 2
  | .fbit _ _ => 2
  | .vadd _ _ _ => 3
  | .vsub _ _ _ => 3
  | .vmul _ _ _ => 3
  | .vfma _ _ _ => 3
  | .vdiv _ _ _ => 3
  | .vsqrt _ _ _ => 3
  | .vmin _ _ _ => 3
  | .vmax _ _ _ => 3
  | .vabs _ _ _ => 3
  | .vneg _ _ _ => 3
  | .vmulh _ _ _ => 3
  | .vand _ _ => 3
  | .vor _ _ => 3
  | .vxor _ _ => 3
  | .vnot _ _ => 3
  | .vshl _ _ => 3
  | .vshr _ _ => 3
  | .vsar _ _ => 3
  | .vcmpEq _ _ _ => 3
  | .vcmpLt _ _ _ => 3
  | .vcmpLe _ _ _ => 3
  | .vcmpUn _ _ _ => 3
  | .vsel _ _ => 3
  | .vcvt _ _ _ => 3
  | .vcvtn _ _ _ => 3
  | .vredadd _ _ _ => 3
  | .vredmin _ _ _ => 3
  | .vredmax _ _ _ => 3
  | .vperm _ _ => 3
  | .vrot _ _ => 3
  | .vbcast _ _ => 3
  | .vext _ _ => 3
  | .vins _ _ => 3
  | .vexp2 _ _ _ => 3
  | .vrcp _ _ _ => 3
  | .vmov _ _ => 3
  | .vld _ _ => 4
  | .vst _ _ => 4
  | .vldf _ _ => 4
  | .vldfe _ _ => 4
  | .vstef _ _ => 4
  | .vgath _ _ => 4
  | .vscat _ _ => 4
  | .vclr _ _ => 4
  | .mand _ _ => 4
  | .mor _ _ => 4
  | .mxor _ _ => 4
  | .mnot _ _ => 4
  | .mset _ _ => 4
  | .mget _ _ => 4
  | .mpopc _ _ => 4
  | .mfirst _ _ => 4
  | .shape _ _ => 5
  | .cp _ _ => 5
  | .cpD _ _ => 5
  | .cpBv _ _ => 5
  | .cpx _ _ => 5
  | .cpxD _ _ => 5
  | .streamScalar _ _ => 5
  | .streamVector _ _ => 5
  | .unstreamScalar _ _ => 5
  | .unstreamVector _ _ => 5
  | .hcfg _ _ => 5
  | .hexpect _ _ => 5
  | .hexpectA _ _ => 5
  | .harr _ _ => 5
  | .hwaitP _ _ => 5
  | .hwaitS _ _ => 5
  | .hacq _ _ => 5
  | .hrel _ _ => 5
  | .mxs _ => 5
  | .mxr _ _ => 5
  | .spawn _ _ => 6
  | .quit _ => 6
  | .yield _ => 6
  | .park _ => 6
  | .wake _ _ => 6
  | .mig _ _ => 6
  | .link _ _ => 6
  | .amsg _ _ => 6
  | .tenq _ _ => 6
  | .tdep _ _ => 6
  | .bar _ => 6
  | .fitw _ _ => 6
  | .popq _ _ => 6
  | .tick _ _ => 6
  | .selfid _ _ => 6
  | .popmig _ _ => 6
  | .rdsw _ _ => 6
  | .wrsw _ _ => 6
  | .crd _ _ => 7
  | .cwr _ _ => 7
  | .trap _ _ => 7
  | .tret _ => 7
  | .halt _ => 7
  | .bankpw _ _ => 7
  | .xinv _ _ => 7
  | .snap _ _ => 7
  | .evac _ _ => 7
  | .fwd _ _ => 7
  | .glaunch _ _ => 7
  | .popcfg _ _ => 7
  | .popstep _ _ => 7
  | .hdead _ _ => 7
  | .hcomp _ _ => 7
  | .attest _ _ => 7
  | .asid _ _ => 7
  | _ => 0

/-- Wide-class instructions issue on the wide port (R23). -/
def isWide (i : Instr) : Bool := pageOf i == 3 || pageOf i == 4 || pageOf i == 5

/-- The long vector forms (R287). -/
def isLong (i : Instr) : Bool :=
  match i with
  | .vdiv _ _ _ | .vsqrt _ _ _ | .vrcp _ _ _ | .vexp2 _ _ _ => true
  | _ => false

/-- The registers an instruction reads, its guard left out (R24). -/
def readsOf (i : Instr) : List RegName :=
  match i with
  | .mov _ o => [.s o.b]
  | .add _ _ o => binReads o
  | .addi _ _ o => [.s o.a]
  | .sub _ _ o => binReads o
  | .mul _ _ o => binReads o
  | .mulh _ _ o => binReads o
  | .mulhu _ _ o => binReads o
  | .div _ _ o => binReads o
  | .divu _ _ o => binReads o
  | .rem _ _ o => binReads o
  | .remu _ _ o => binReads o
  | .and _ o => binReads o
  | .andi _ o => [.s o.a]
  | .or _ o => binReads o
  | .ori _ o => [.s o.a]
  | .xor _ o => binReads o
  | .xori _ o => [.s o.a]
  | .not _ o => [.s o.b]
  | .neg _ _ o => [.s o.b]
  | .shl _ o => binReads o
  | .shli _ o => [.s o.a]
  | .shr _ o => binReads o
  | .shri _ o => [.s o.a]
  | .sar _ o => binReads o
  | .sari _ o => [.s o.a]
  | .rol _ o => binReads o
  | .min _ _ o => binReads o
  | .max _ _ o => binReads o
  | .minu _ _ o => binReads o
  | .maxu _ _ o => binReads o
  | .clz _ o => [.s o.b]
  | .ctz _ o => [.s o.b]
  | .popc _ o => [.s o.b]
  | .sext _ o => [.s o.a]
  | .zext _ o => [.s o.a]
  | .bfx _ o => [.s o.b, .s o.c]
  | .bfi _ o => [.s o.a, .s o.b, .s o.c]
  | .lea _ o => .s o.b :: optS o.c
  | .sel _ o => [.s o.b, .p o.p] ++ optS o.c
  | .plog _ o => binOf .p o.a o.b o.c
  | .rdp _ _ => allFlags
  | .wrp _ o => [.s o.a, .s o.b]
  | .cmpEq _ o => [.s o.a, .s o.b]
  | .cmpLt _ o => [.s o.a, .s o.b]
  | .cmpLtu _ o => [.s o.a, .s o.b]
  | .cmpiEq _ o => [.s o.a]
  | .cmpiLt _ o => [.s o.a]
  | .cmpiLtu _ o => [.s o.a]
  | .cmpiLe _ o => [.s o.a]
  | .cmpiLeu _ o => [.s o.a]
  | .brp _ o => [.p o.p]
  | .ret _ => [.s 15]
  | .jmpr _ o => [.s o.b]
  | .loop _ o => [.s o.a]
  | .ld _ o => .s o.b :: optS o.c
  | .st _ o => [.s o.a] ++ (.s o.b :: optS o.c)
  | .ldt _ o => [.s o.b]
  | .ldf _ o => [.s o.b]
  | .ldfe _ o => [.s o.b]
  | .stef _ o => [.s o.a] ++ ([.s o.b])
  | .setf _ o => [.s o.b]
  | .sete _ o => [.s o.b]
  | .amoSwapW _ o => [.s o.a, .s o.b]
  | .amoSwapD _ o => [.s o.a, .s o.b]
  | .casW _ o => [.s o.a, .s o.b, .s o.c]
  | .casD _ o => [.s o.a, .s o.b, .s o.c]
  | .amoOp _ o => [.s o.a, .s o.b]
  | .view _ o => [.s o.b]
  | .vclose _ o => [.s o.b]
  | .bopen _ o => [.s o.b]
  | .bopenJ _ o => [.s o.b]
  | .bcommit _ o => [.s o.b]
  | .babort _ o => [.s o.b]
  | .fadd _ _ o => binReads o
  | .fsub _ _ o => binReads o
  | .fmul _ _ o => binReads o
  | .fdiv _ _ o => binReads o
  | .fsqrt _ _ o => [.s o.b]
  | .fma _ _ o => [.s o.a, .s o.b, .s o.c]
  | .fmin _ _ o => binReads o
  | .fmax _ _ o => binReads o
  | .fabs _ _ o => [.s o.b]
  | .fneg _ _ o => [.s o.b]
  | .fcmpEq _ _ o => [.s o.a, .s o.b]
  | .fcmpLt _ _ o => [.s o.a, .s o.b]
  | .fcmpLe _ _ o => [.s o.a, .s o.b]
  | .fcmpUn _ _ o => [.s o.a, .s o.b]
  | .fcvt _ _ o => [.s o.b]
  | .fround _ _ o => [.s o.b]
  | .fsin _ _ o => [.s o.b]
  | .fcos _ _ o => [.s o.b]
  | .fexp2 _ _ o => [.s o.b]
  | .flog2 _ _ o => [.s o.b]
  | .frcp _ _ o => [.s o.b]
  | .fclass _ o => [.s o.b]
  | .fbit _ o => binReads o
  | .vadd _ _ o => vbinReads o
  | .vsub _ _ o => vbinReads o
  | .vmul _ _ o => vbinReads o
  | .vfma _ _ o => .v o.a :: .v o.b :: vsrc o.c
  | .vdiv _ _ o => vbinReads o
  | .vsqrt _ _ o => [.v o.b]
  | .vmin _ _ o => vbinReads o
  | .vmax _ _ o => vbinReads o
  | .vabs _ _ o => [.v o.b]
  | .vneg _ _ o => [.v o.b]
  | .vmulh _ _ o => vbinReads o
  | .vand _ o => vbinReads o
  | .vor _ o => vbinReads o
  | .vxor _ o => vbinReads o
  | .vnot _ o => [.v o.b]
  | .vshl _ o => vbinReads o
  | .vshr _ o => vbinReads o
  | .vsar _ o => vbinReads o
  | .vcmpEq _ _ o => [.v o.a, .v o.b]
  | .vcmpLt _ _ o => [.v o.a, .v o.b]
  | .vcmpLe _ _ o => [.v o.a, .v o.b]
  | .vcmpUn _ _ o => [.v o.a, .v o.b]
  | .vsel _ o => .v o.b :: .m o.m :: vsrc o.c
  | .vcvt _ _ o => [.v o.b]
  | .vcvtn _ _ o => [.v o.b]
  | .vredadd _ _ o => [.v o.b]
  | .vredmin _ _ o => [.v o.b]
  | .vredmax _ _ o => [.v o.b]
  | .vperm _ o => vbinReads o
  | .vrot _ o => vbinReads o
  | .vbcast _ o => [.s o.b]
  | .vext _ o => [.v o.b]
  | .vins _ o => [.s o.b]
  | .vexp2 _ _ o => [.v o.b]
  | .vrcp _ _ o => [.v o.b]
  | .vmov _ o => [.v o.b]
  | .vld _ o => [.s o.b]
  | .vst _ o => [.s o.b, .v o.a]
  | .vldf _ o => [.s o.b]
  | .vldfe _ o => [.s o.b]
  | .vstef _ o => [.s o.b, .v o.a]
  | .vgath _ o => [.s o.b, .v o.c]
  | .vscat _ o => [.s o.b, .v o.c, .v o.a]
  | .mand _ o => binOf .m o.a o.b o.c
  | .mor _ o => binOf .m o.a o.b o.c
  | .mxor _ o => binOf .m o.a o.b o.c
  | .mnot _ o => [.m o.b]
  | .mset _ o => [.s o.b]
  | .mget _ o => [.m o.b]
  | .mpopc _ o => [.m o.b]
  | .mfirst _ o => [.m o.b]
  | .shape _ o => [.s o.b]
  | .cpBv _ o => [.s o.c]
  | .cpx _ o => [.s o.c]
  | .cpxD _ o => [.s o.c]
  | .hcfg _ o => [.s o.b]
  | .hexpect _ o => [.s o.b]
  | .hexpectA _ o => [.s o.b]
  | .hwaitP _ o => [.s o.b]
  | .hwaitS _ o => [.s o.b]
  | .mxs _ => (List.range 8).map fun i => .s (BitVec.ofNat 4 (8 + i))
  | .spawn _ o => [.s o.a, .s o.b, .s 4, .s 5, .s 6, .s 7]
  | .wake _ o => [.s o.b]
  | .mig _ o => [.s o.b]
  | .amsg _ o => [.s o.b, .s 4, .s 5, .s 6, .s 7]
  | .tenq _ o => [.s o.b]
  | .tdep _ o => [.s o.b]
  | .fitw _ o => [.s o.b]
  | .popq _ o => [.s o.b]
  | .popmig _ o => [.s o.b]
  | .wrsw _ o => [.s o.b]
  | .crd _ o => [.s o.b]
  | .cwr _ o => [.s o.a, .s o.b]
  | .bankpw _ o => [.s o.a, .s o.b]
  | .xinv _ o => [.s o.a, .s o.b]
  | .snap _ o => [.s o.b]
  | .evac _ o => [.s o.b, .s o.c]
  | .fwd _ o => [.s o.b, .s o.c]
  | .glaunch _ o => [.s o.b, .s o.c]
  | .popcfg _ o => [.s o.b, .s o.c]
  | .popstep _ o => [.s o.b]
  | .hdead _ o => [.s o.b]
  | .hcomp _ o => [.s o.b]
  | .attest _ o => [.s o.b]
  | .asid _ o => [.s o.b]
  | _ => []

/-- The registers an instruction writes, sticky flags left out (R24). -/
def writesOf (i : Instr) : List RegName :=
  match i with
  | .mov _ o => [.s o.a]
  | .movi _ o => [.s o.a]
  | .add _ _ o => [.s o.a] ++ [.flag .z, .flag .n, .flag .c, .flag .o]
  | .addi _ _ o => [.s o.a] ++ [.flag .z, .flag .n, .flag .c, .flag .o]
  | .sub _ _ o => [.s o.a] ++ [.flag .z, .flag .n, .flag .c, .flag .o]
  | .mul _ _ o => [.s o.a] ++ [.flag .z, .flag .n, .flag .o]
  | .mulh _ _ o => [.s o.a] ++ [.flag .z, .flag .n]
  | .mulhu _ _ o => [.s o.a] ++ [.flag .z, .flag .n]
  | .div _ _ o => [.s o.a] ++ [.flag .z, .flag .n, .flag .o]
  | .divu _ _ o => [.s o.a] ++ [.flag .z, .flag .n, .flag .o]
  | .rem _ _ o => [.s o.a] ++ [.flag .z, .flag .n, .flag .o]
  | .remu _ _ o => [.s o.a] ++ [.flag .z, .flag .n, .flag .o]
  | .and _ o => [.s o.a] ++ [.flag .z, .flag .n]
  | .andi _ o => [.s o.a] ++ [.flag .z, .flag .n]
  | .or _ o => [.s o.a] ++ [.flag .z, .flag .n]
  | .ori _ o => [.s o.a] ++ [.flag .z, .flag .n]
  | .xor _ o => [.s o.a] ++ [.flag .z, .flag .n]
  | .xori _ o => [.s o.a] ++ [.flag .z, .flag .n]
  | .not _ o => [.s o.a] ++ [.flag .z, .flag .n]
  | .neg _ _ o => [.s o.a] ++ [.flag .z, .flag .n, .flag .c, .flag .o]
  | .shl _ o => [.s o.a] ++ [.flag .z, .flag .n, .flag .c]
  | .shli _ o => [.s o.a] ++ [.flag .z, .flag .n, .flag .c]
  | .shr _ o => [.s o.a] ++ [.flag .z, .flag .n, .flag .c]
  | .shri _ o => [.s o.a] ++ [.flag .z, .flag .n, .flag .c]
  | .sar _ o => [.s o.a] ++ [.flag .z, .flag .n, .flag .c]
  | .sari _ o => [.s o.a] ++ [.flag .z, .flag .n, .flag .c]
  | .rol _ o => [.s o.a] ++ [.flag .z, .flag .n]
  | .min _ _ o => [.s o.a] ++ [.flag .z, .flag .n]
  | .max _ _ o => [.s o.a] ++ [.flag .z, .flag .n]
  | .minu _ _ o => [.s o.a] ++ [.flag .z, .flag .n]
  | .maxu _ _ o => [.s o.a] ++ [.flag .z, .flag .n]
  | .clz _ o => [.s o.a]
  | .ctz _ o => [.s o.a]
  | .popc _ o => [.s o.a]
  | .sext _ o => [.s o.a]
  | .zext _ o => [.s o.a]
  | .bfx _ o => [.s o.a]
  | .bfi _ o => [.s o.a]
  | .lea _ o => [.s o.a]
  | .sel _ o => [.s o.a]
  | .plog _ o => [.p o.a]
  | .rdp _ o => [.s o.a]
  | .wrp _ _ => allFlags
  | .cmpEq _ o => [.p o.p] ++ [.flag .z, .flag .n, .flag .c, .flag .o]
  | .cmpLt _ o => [.p o.p] ++ [.flag .z, .flag .n, .flag .c, .flag .o]
  | .cmpLtu _ o => [.p o.p] ++ [.flag .z, .flag .n, .flag .c, .flag .o]
  | .cmpiEq _ o => [.p o.p] ++ [.flag .z, .flag .n, .flag .c, .flag .o]
  | .cmpiLt _ o => [.p o.p] ++ [.flag .z, .flag .n, .flag .c, .flag .o]
  | .cmpiLtu _ o => [.p o.p] ++ [.flag .z, .flag .n, .flag .c, .flag .o]
  | .cmpiLe _ o => [.p o.p] ++ [.flag .z, .flag .n, .flag .c, .flag .o]
  | .cmpiLeu _ o => [.p o.p] ++ [.flag .z, .flag .n, .flag .c, .flag .o]
  | .call _ _ => [.s 15]
  | .loop _ o => [.s o.a]
  | .clr _ o => [.s o.a]
  | .ld _ o => [.s o.a]
  | .ldt _ o => [.s o.a, .s o.c]
  | .ldf _ o => [.s o.a]
  | .ldfe _ o => [.s o.a]
  | .amoSwapW _ o => [.s o.a]
  | .amoSwapD _ o => [.s o.a]
  | .casW _ o => [.s o.a]
  | .casD _ o => [.s o.a]
  | .amoOp _ o => [.s o.a]
  | .view _ o => [.s o.a]
  | .vclose _ o => [.s o.a]
  | .bopen _ o => [.s o.a]
  | .bopenJ _ o => [.s o.a]
  | .bcommit _ o => [.s o.a]
  | .babort _ o => [.s o.a]
  | .fadd _ _ o => [.s o.a]
  | .fsub _ _ o => [.s o.a]
  | .fmul _ _ o => [.s o.a]
  | .fdiv _ _ o => [.s o.a]
  | .fsqrt _ _ o => [.s o.a]
  | .fma _ _ o => [.s o.a]
  | .fmin _ _ o => [.s o.a]
  | .fmax _ _ o => [.s o.a]
  | .fabs _ _ o => [.s o.a]
  | .fneg _ _ o => [.s o.a]
  | .fcmpEq _ _ o => [.p o.p]
  | .fcmpLt _ _ o => [.p o.p]
  | .fcmpLe _ _ o => [.p o.p]
  | .fcmpUn _ _ o => [.p o.p]
  | .fcvt _ _ o => [.s o.a]
  | .fround _ _ o => [.s o.a]
  | .fsin _ _ o => [.s o.a]
  | .fcos _ _ o => [.s o.a]
  | .fexp2 _ _ o => [.s o.a]
  | .flog2 _ _ o => [.s o.a]
  | .frcp _ _ o => [.s o.a]
  | .fclass _ o => [.s o.a]
  | .fbit _ o => [.s o.a]
  | .vadd _ _ o => [.v o.a]
  | .vsub _ _ o => [.v o.a]
  | .vmul _ _ o => [.v o.a]
  | .vfma _ _ o => [.v o.a]
  | .vdiv _ _ o => [.v o.a]
  | .vsqrt _ _ o => [.v o.a]
  | .vmin _ _ o => [.v o.a]
  | .vmax _ _ o => [.v o.a]
  | .vabs _ _ o => [.v o.a]
  | .vneg _ _ o => [.v o.a]
  | .vmulh _ _ o => [.v o.a]
  | .vand _ o => [.v o.a]
  | .vor _ o => [.v o.a]
  | .vxor _ o => [.v o.a]
  | .vnot _ o => [.v o.a]
  | .vshl _ o => [.v o.a]
  | .vshr _ o => [.v o.a]
  | .vsar _ o => [.v o.a]
  | .vcmpEq _ _ o => [.m o.m]
  | .vcmpLt _ _ o => [.m o.m]
  | .vcmpLe _ _ o => [.m o.m]
  | .vcmpUn _ _ o => [.m o.m]
  | .vsel _ o => [.v o.a]
  | .vcvt _ _ o => [.v o.a]
  | .vcvtn _ _ o => [.v o.a]
  | .vredadd _ _ o => [.s o.a]
  | .vredmin _ _ o => [.s o.a]
  | .vredmax _ _ o => [.s o.a]
  | .vperm _ o => [.v o.a]
  | .vrot _ o => [.v o.a]
  | .vbcast _ o => [.v o.a]
  | .vext _ o => [.s o.a]
  | .vins _ o => [.v o.a]
  | .vexp2 _ _ o => [.v o.a]
  | .vrcp _ _ o => [.v o.a]
  | .vmov _ o => [.v o.a]
  | .vld _ o => [.v o.a]
  | .vldf _ o => [.v o.a]
  | .vldfe _ o => [.v o.a]
  | .vgath _ o => [.v o.a]
  | .vclr _ o => [.v o.a]
  | .mand _ o => [.m o.a]
  | .mor _ o => [.m o.a]
  | .mxor _ o => [.m o.a]
  | .mnot _ o => [.m o.a]
  | .mset _ o => [.m o.a]
  | .mget _ o => [.s o.a]
  | .mpopc _ o => [.s o.a]
  | .mfirst _ o => [.s o.a]
  | .streamScalar _ o => [.s o.a]
  | .streamVector _ o => [.v o.a]
  | .unstreamScalar _ o => [.s o.a]
  | .unstreamVector _ o => [.v o.a]
  | .mxr _ o => [.s o.a]
  | .link _ o => [.s o.a]
  | .tenq _ o => [.s o.a]
  | .popq _ o => [.s o.a]
  | .tick _ o => [.s o.a]
  | .selfid _ o => [.s o.a]
  | .popmig _ o => [.s o.a]
  | .rdsw _ o => [.s o.a]
  | .crd _ o => [.s o.a]
  | .snap _ o => [.s o.a]
  | .evac _ o => [.s o.a]
  | .glaunch _ o => [.s o.a]
  | .popcfg _ o => [.s o.a]
  | .popstep _ o => [.s o.a]
  | .hdead _ o => [.s o.a]
  | .hcomp _ o => [.s o.a]
  | .attest _ o => [.s o.a]
  | .asid _ o => [.s o.a]
  | _ => []

/-- A vector form works on float elements (R288: f32 unless PFX.X says otherwise). -/
def floatLanes (x : Option ArithX) : Bool :=
  match x with
  | none => true
  | some x => match x.ty with | .f32 | .f16 | .bf16 => true | _ => false

/-- The codes of R56 that name an integer type. -/
def integerCode (t : BitVec 4) : Bool := decide (3 ≤ t.toNat) && decide (t.toNat ≤ 7)

/-- A form works on integer types alone, and sets no sticky flag (R64, R289, R297). -/
def integerLanes (i : Instr) : Bool :=
  match i with
  | .vadd _ x _ | .vsub _ x _ | .vmul _ x _ | .vfma _ x _ | .vmin _ x _ | .vmax _ x _ | .vcmpEq _ x _ | .vcmpLt _ x _ | .vcmpLe _ x _
  | .vredadd _ x _ | .vredmin _ x _ | .vredmax _ x _ => !floatLanes x
  | .vcvt _ _ o | .vcvtn _ _ o => integerCode o.tgt && integerCode o.src
  | _ => false

/-- Forms of which some types set a sticky flag (R60). -/
def stickyForm (i : Instr) : Bool :=
  match i with
  | .fadd _ _ _ => true
  | .fsub _ _ _ => true
  | .fmul _ _ _ => true
  | .fdiv _ _ _ => true
  | .fsqrt _ _ _ => true
  | .fma _ _ _ => true
  | .fmin _ _ _ => true
  | .fmax _ _ _ => true
  | .fcmpEq _ _ _ => true
  | .fcmpLt _ _ _ => true
  | .fcmpLe _ _ _ => true
  | .fcmpUn _ _ _ => true
  | .fcvt _ _ _ => true
  | .fround _ _ _ => true
  | .fsin _ _ _ => true
  | .fcos _ _ _ => true
  | .fexp2 _ _ _ => true
  | .flog2 _ _ _ => true
  | .frcp _ _ _ => true
  | .vadd _ _ _ => true
  | .vsub _ _ _ => true
  | .vmul _ _ _ => true
  | .vfma _ _ _ => true
  | .vdiv _ _ _ => true
  | .vsqrt _ _ _ => true
  | .vmin _ _ _ => true
  | .vmax _ _ _ => true
  | .vcmpEq _ _ _ => true
  | .vcmpLt _ _ _ => true
  | .vcmpLe _ _ _ => true
  | .vcmpUn _ _ _ => true
  | .vcvt _ _ _ => true
  | .vcvtn _ _ _ => true
  | .vredadd _ _ _ => true
  | .vredmin _ _ _ => true
  | .vredmax _ _ _ => true
  | .vexp2 _ _ _ => true
  | .vrcp _ _ _ => true
  | _ => false

/-- Instructions that may set a sticky flag (R24, R60). -/
def setsSticky (i : Instr) : Bool := stickyForm i && !integerLanes i

/-- The guard of an instruction as a register it reads (R226). -/
def guardReg (i : Instr) : List RegName :=
  match (modsOf i).guard with
  | none => []
  | some g => if pageOf i = 3 ∨ pageOf i = 4 then [.m g.idx] else [.p g.idx]

/-- Two lists of registers share one. -/
def share (a b : List RegName) : Bool := a.any fun r => b.contains r

/-- The two instructions may issue as a pair (R24, step 1). -/
def mayPair (i1 i2 : Instr) : Bool :=
  let r1 := guardReg i1 ++ readsOf i1
  let w1 := writesOf i1
  let r2 := guardReg i2 ++ readsOf i2
  let w2 := writesOf i2
  isWide i1 != isWide i2 && !(modsOf i1).sw && !(modsOf i2).sw && !share r2 w1 && !share w2 (r1 ++ w1) &&
  !(setsSticky i1 && (r2.contains (.flag .sticky) || w2.contains (.flag .sticky))) &&
  !(setsSticky i2 && (r1.contains (.flag .sticky) || w1.contains (.flag .sticky)))

/-! ## Result latencies (R28, R250, R287) -/

/-- A register's code in the list of results still to come. -/
def RegName.code : RegName → Nat
  | .s r => r.toNat
  | .v r => 32 + r.toNat
  | .p r => 64 + r.toNat
  | .m r => 72 + r.toNat
  | .flag .z => 80
  | .flag .n => 81
  | .flag .c => 82
  | .flag .o => 83
  | .flag .sticky => 84

/-- Cycles from a division's issue to its result (R250). -/
def divLatency (x : Option ArithX) : Nat := if x.isSome then 12 else 20

/-- Cycles from an instruction's issue until a dependent instruction of its thread can issue (R250, R287); a fill comes of itself. -/
def resultLatency (i : Instr) : Nat :=
  match i with
  | .mul _ _ _ | .mulh _ _ _ | .mulhu _ _ _ => 3
  | .div _ x _ | .divu _ x _ | .rem _ x _ | .remu _ x _ => divLatency x
  | .fadd _ _ _ | .fsub _ _ _ | .fmul _ _ _ | .fma _ _ _ | .fmin _ _ _ | .fmax _ _ _ | .fcmpEq _ _ _ | .fcmpLt _ _ _ | .fcmpLe _ _ _
  | .fcmpUn _ _ _ | .fcvt _ _ _ | .fround _ _ _ => 4
  | .fdiv _ _ _ | .frcp _ _ _ | .fsqrt _ _ _ => 14
  | .fexp2 _ _ _ => 28
  | .fsin _ _ _ | .fcos _ _ _ => 36
  | .flog2 _ _ _ => 40
  | .vadd _ x _ | .vsub _ x _ | .vmin _ x _ | .vmax _ x _ | .vabs _ x _ | .vneg _ x _ | .vcmpEq _ x _ | .vcmpLt _ x _ | .vcmpLe _ x _ =>
    if floatLanes x then 4 else 2
  | .vmul _ _ _ | .vfma _ _ _ | .vmulh _ _ _ | .vcmpUn _ _ _ | .vcvt _ _ _ | .vcvtn _ _ _ => 4
  | .vand _ _ | .vor _ _ | .vxor _ _ | .vnot _ _ | .vshl _ _ | .vshr _ _ | .vsar _ _ | .vmov _ _ | .vperm _ _ | .vrot _ _ | .vbcast _ _
  | .vins _ _ | .vsel _ _ => 2
  | .vdiv _ _ _ | .vsqrt _ _ _ | .vrcp _ _ _ => 16
  | .vexp2 _ _ _ => 30
  | .vredadd _ x _ => if floatLanes x then 12 else 8
  | .vredmin _ _ _ | .vredmax _ _ _ => 8
  | _ => 1

/-- The registers whose results an instruction of a thread gives; `sel` without PFX.R gives one only where its predicate holds (R259). -/
def resultsOf (t : Slot) (i : Instr) : List RegName :=
  match i with
  | .sel _ ⟨a, _, _, none, p, neg⟩ => if t.pred.getLsbD p.toNat != neg then [.s a] else []
  | _ => writesOf i ++ (if setsSticky i then [.flag .sticky] else [])

/-- When a register's result is due, given when the one before it was: a vector register or lane mask is written in part, and a sticky flag only
ORed into, so both must have come (R60, R286). -/
def RegName.dueAt (r : RegName) (before now : Nat) : Nat :=
  match r with
  | .v _ | .m _ | .flag .sticky => max before now
  | _ => now

/-- Its guard lets an instruction of a thread take effect; the lane guards of pages 3 and 4 always do (R226). -/
def takesEffect (i : Instr) (t : Slot) : Bool := pageOf i == 3 || pageOf i == 4 || guardHolds (modsOf i) t

/-- Every result that a slot's next instruction reads has been produced (R28, R250); a false guard reads no operand (R226). -/
def State.produced (s : State) (c n : Nat) (i : Instr) : Bool :=
  let t := s.slot c n
  t.due.isEmpty || (guardReg i ++ if takesEffect i t then readsOf i else []).all fun r => decide (t.due.get 0 r.code ≤ s.now)

/-- The results of an instruction that has issued from `pc` are due after its latency (R250, R287). -/
def Slot.owe (t : Slot) (now : Nat) (i : Instr) : Slot :=
  { t with due := (resultsOf t i).foldl (fun d r => d.put r.code (r.dueAt (d.get 0 r.code) (now + resultLatency i * Config.cycle)))
                    (t.due.filter fun e => decide (now < e.2)) }

/-- What a completed instruction owes its thread: `s` is the state it issued in. -/
def State.oweResults (s' s : State) (c n pc : Nat) (i : Instr) : State :=
  if (resultLatency i ≤ 1 ∧ (s'.slot c n).due = []) ∨ (s'.slot c n).pc = pc ∨ takesEffect i (s.slot c n) = false then s' else s'.modSlot c n fun t => t.owe s.now i

end Sys2Proof.Machine
end

