-- ==== Sys2Proof/Machine/Control.lean ====
section
/-!
DEFINITION. A core's control registers and windows (spec/05 R93): which offsets exist, who may access them, what a read gives and what a write
does. Each register's rule is named where its bits are.
-/

namespace Sys2Proof.Machine

/-! ## What is where -/

/-- An offset of the control space outside a core's assigned ones is an address trap (R93); a supervisor core has no MXI_CTL and no capture
window (R356). -/
def ctlAssigned (c off : Nat) : Bool :=
  let within (a b : Nat) : Bool := decide (a ≤ off) && decide (off < b)
  within 0x100000 0x100050 || within 0x100060 0x1000B0 || within 0x1000C0 0x1001C0 || within 0x100200 0x100240 ||
  ((within 0x100800 0x100808 || within 0x100900 0x100C00) && !isSuper c) || within 0x101000 0x102500

/-- A user thread may read everything but the trap queue window (R93). -/
def userReads (off : Nat) : Bool := !(decide (0x102000 ≤ off) && decide (off < 0x102400))

/-- A user thread may write MXI_CTL; its writes to the registers that ignore writes, or hold only read-only fields, have no effect; every other
one is a privilege trap (R93, R216, R217, R351, R386). -/
def userWrites (off : Nat) : Bool :=
  off == 0x100008 || off == 0x100098 || off == 0x1000A0 || off == 0x1000A8 || (decide (0x100140 ≤ off) && decide (off < 0x1001C0)) ||
  (decide (0x100800 ≤ off) && decide (off < 0x100C00))

/-! ## Images -/

/-- A handle's 16 bytes (R169). -/
def Handle.image (h : Handle) : Nat :=
  b2n h.buffer + 2 * b2n h.f + h.fc % 16 * 2 ^ 2 + h.bst % 4 * 2 ^ 6 + h.tgt % 256 * 2 ^ 8 + h.arr % 256 * 2 ^ 16 +
  (h.pend % (2 ^ 48 : Nat)).toNat * 2 ^ 24 + h.seq.toNat * 2 ^ 72 + h.hslot % 16 * 2 ^ 104 + b2n h.hv * 2 ^ 108

def handleOfImage (v : Nat) : Handle where
  buffer := bitAt v 0
  f := bitAt v 1
  fc := bitsOf v 2 4
  bst := bitsOf v 6 2
  tgt := bitsOf v 8 8
  arr := bitsOf v 16 8
  pend := sval 48 (bitsOf v 24 48)
  seq := BitVec.ofNat 32 (bitsOf v 72 32)
  hslot := bitsOf v 104 4
  hv := bitAt v 108

/-- A slot-state register (R217). -/
def Slot.stImage (t : Slot) : Nat :=
  let st := match t.st with | .free => 0 | .ready => 1 | .waiting => 2 | .held => 3 | .departing => 4
  let w := match t.why with
    | .none => 0
    | .reg n vec => 1 * 2 ^ 5 + n % 32 * 2 ^ 8 + b2n vec * 2 ^ 13
    | .link n => 2 * 2 ^ 5 + n % 32 * 2 ^ 8
    | .handle h => 3 * 2 ^ 5 + h % 64 * 2 ^ 14
    | .park => 4 * 2 ^ 5
    | .access => 5 * 2 ^ 5
    | .rise _ => 6 * 2 ^ 5
    | .throttle => 7 * 2 ^ 5
  st + b2n t.rsv.isSome * 2 ^ 3 + b2n t.saved * 2 ^ 4 + w + b2n t.wake * 2 ^ 20

/-- A slot's state as its register shows it: one whose next instruction reads a result still to come is Held for its latency (R217, R250). -/
def State.slotImage (s : State) (c n : Nat) : Nat :=
  let t := s.slot c n
  let awaits := t.st == .ready && !t.stopped && !t.due.isEmpty &&
    (match s.fetch c t.pc with
     | .ok (i, _) => !s.produced c n i
     | .error _ => false)
  (if awaits then { t with st := .held, why := .access } else t).stImage

/-- The two SHPESZ registers (R152): the element sizes of 16 records. -/
def Core.shpesz (k : Core) (j : Nat) : Nat → Nat
  | 0 => 0
  | i + 1 => k.shpesz j i + (k.shape (16 * j + i)).esz % 8 * 2 ^ (4 * i)

/-- The mask of the slots with parked records (R216). -/
def maskOf : List Nat → Nat
  | [] => 0
  | n :: ns => maskOf ns ||| 2 ^ n

/-- SCHED (R216). -/
def Core.schedImage (k : Core) : Nat :=
  let q := k.sched
  k.sched.spawns.length % 128 + q.ready.length % 2 ^ 14 * 2 ^ 8 + b2n q.depthFirst * 2 ^ 24 + b2n q.lastReady * 2 ^ 25 +
  ((q.ready.head?.map fun r => r.1 / 64 % 2 ^ 14).getD 0) * 2 ^ 32 + ((q.ready.getLast?.map fun r => r.1 / 64 % 2 ^ 14).getD 0) * 2 ^ 46

/-- TRAPST (R386). -/
def TrapQueue.stImage (q : TrapQueue) : Nat :=
  q.count % 64 + q.head % 32 * 2 ^ 6 + b2n q.reserve * 2 ^ 11 + b2n q.fatal * 2 ^ 12 + q.waits % 65536 * 2 ^ 32

/-- The valid paths of a package, as its cores see them (R351): a path that is live, or the own device. -/
def Hub.validRoutes (h : Hub) (d : Nat) : Word :=
  BitVec.ofNat 64 (maskOf ((List.range 64).filter fun x => x == d || !(h.livePaths x).isEmpty))

/-! ## Reading -/

/-- The dword at an offset of a table of wide entries. -/
def dwordOf (v : Nat) (off n : Nat) : Word := BitVec.ofNat 64 (bitsOf v (off % n / 8 * 64) 64)

/-- What an 8-byte read of the control space gives. -/
def State.ctlRead (s : State) (c off : Nat) : Word :=
  let k := s.core c
  let nat (v : Nat) : Word := BitVec.ofNat 64 v
  if off = 0x100000 then k.trapctl
  else if off = 0x100008 then nat k.traps.stImage
  else if off = 0x100010 then k.ctxarea
  else if off = 0x100018 then k.ctxctl
  else if off < 0x100040 then k.admitList.get 0 ((off - 0x100020) / 8)
  else if off < 0x100050 then k.vwin.get 0 ((off - 0x100040) / 8)
  else if off < 0x100080 then k.dirty.get 0 ((off - 0x100060) / 8)
  else if off < 0x100090 then nat (k.shpesz ((off - 0x100080) / 8) 16)
  else if off = 0x100090 then k.fit.setWidth 64
  else if off = 0x100098 then (s.hub (devOf c)).routev
  else if off = 0x1000A0 then nat k.schedImage
  else if off = 0x1000A8 then nat (k.overflow.length % 1024 + maskOf (k.overflow.map (·.1)) * 2 ^ 16)
  else if off < 0x100140 then k.fwds.get 0 ((off - 0x1000C0) / 8)
  else if off < 0x1001C0 then nat (s.slotImage c ((off - 0x100140) / 8))
  else if off < 0x100240 then nat (k.errcnt.get 0 ((off - 0x100200) / 8))
  else if off = 0x100800 then k.matrix.ctl
  else if off < 0x100C00 then k.matrix.capture.get 0 ((off - 0x100900) / 8)
  else if off < 0x101400 then dwordOf (k.handle ((off - 0x101000) / 16)).image off 16
  else if off < 0x101800 then dwordOf (k.shape ((off - 0x101400) / 32)).image.toNat off 32
  else if off < 0x102000 then dwordOf (k.jrn ((off - 0x101800) / 32)).toNat off 32
  else if off < 0x102400 then dwordOf (k.traps.ring.get 0 ((off - 0x102000) / 32)).toNat off 32
  else dwordOf (k.view ((off - 0x102400) / 16)).toNat off 16

/-! ## Writing -/

/-- The last instant of the current cycle: when a handle is evaluated for the cycle's changes (R171). -/
def State.cycleEnd (s : State) : Nat := s.now / Config.cycle * Config.cycle + (Config.cycle - 1)

/-- The handle is evaluated at the end of this cycle, once (R171). -/
def State.evalHandle (s : State) (c h : Nat) : State :=
  if s.agenda.contains ⟨s.cycleEnd, .handleEvaluation c h⟩ then s else s.due s.cycleEnd (.handleEvaluation c h)

/-- A dword of a wide entry replaced. -/
def putDword (img : Nat) (off n : Nat) (v : Word) : Nat := setBits img (off % n / 8 * 64) 64 v.toNat

/-- The bits of a register that a write sets. -/
def maskTo (old v : Word) (m : Nat) : Word := (v &&& BitVec.ofNat 64 m) ||| (old &&& ~~~(BitVec.ofNat 64 m))

/-- The populations that wait for a FIT look again, when one changes or a member's place may have (R180, R214). -/
def State.fitChanged (s : State) : State :=
  s.soon (s.hubs.flatMap fun e => e.2.pops.filterMap fun p => if p.2.phase == 1 then some (.popConsume e.1 p.1) else none)

/-- A write of one dword of the journal window (R391): only an entry in ST 1 takes DATA0, DATA1, and ST 2 or 3. -/
def State.journalWrite (s : State) (c j dw : Nat) (v : Word) : State :=
  let e := (s.core c).jrn j
  if field e 0 1 = 0 ∨ field e 1 2 ≠ 1 then s
  else if dw = 0 then
    let st := field v 1 2
    if st < 2 then s
    else (s.modCore c fun k => k.setJrn j (setField e 1 2 st)).after 0 (if st = 2 then .journalReplay c j else .journalCancel c j)
  else if dw = 1 then s
  else s.modCore c fun k => k.setJrn j (setField e (64 * dw) 64 v.toNat)

/-- A write of one dword of the trap queue window (R385): only PC. -/
def trapDword (e : BitVec 256) (dw : Nat) (v : Word) : BitVec 256 :=
  if dw = 0 then setField e 32 32 (field v 32 32) else if dw = 1 then setField e 64 16 (field v 0 16) else e

/-- The operation a write to CTXCTL starts (R394). -/
def ctxEvent (c : Nat) (v : Word) : Option Event :=
  match field v 4 3 with
  | 1 => some (.contextSave c)
  | 2 => some (.contextRestore c)
  | 3 => some (.contextDiscard c)
  | 4 => some (.contextKill c)
  | _ => none

/-- A context operation ends with a status: ST holds it, and the write to CTXCTL is acknowledged (R394). -/
def State.ctxDone (s : State) (c st : Nat) : State :=
  let op := (s.core c).ctxop
  let s := s.modCore c fun k => { k with ctxop := none, ctxctl := setField k.ctxctl 8 3 st }
  match op with
  | some ⟨some t, _, _⟩ => if t.core = c then s.after 0 (.acknowledgement t) else s.send c t.core (.acknowledgement t)
  | _ => s

/-- A write to CTXCTL: a reserved OP or slot 15 gives ST 1, nothing done (R394, R401). -/
def State.writeCtxctl (s : State) (c : Nat) (v : Word) : State :=
  let s := s.modCore c fun k => { k with ctxctl := BitVec.ofNat 64 (field v 0 8), ctxop := some (k.ctxop.getD ⟨none, none, []⟩) }
  if field v 4 3 > 4 ∨ field v 0 4 = 15 then s.ctxDone c 1
  else
    match ctxEvent c v with
    | none => s.ctxDone c 0
    | some ev => s.after 0 ev

/-- What an 8-byte write of the control space does, VWIN0 and VWIN1 apart. -/
def State.ctlWrite (s : State) (c off : Nat) (v : Word) : State :=
  let k := s.core c
  if off = 0x100000 then s.setCore c { k with trapctl := maskTo 0 v 0xFF }
  else if off = 0x100008 then s
  else if off = 0x100010 then s.setCore c { k with ctxarea := v }
  else if off = 0x100018 then s.writeCtxctl c v
  else if off < 0x100040 then
    (s.setCore c { k with admitList := k.admitList.put ((off - 0x100020) / 8) (maskTo 0 v 0xBFFF) }).fitChanged
  else if off < 0x100050 then s
  else if off < 0x100080 then
    let i := (off - 0x100060) / 8
    s.setCore c { k with dirty := k.dirty.put i (k.dirty.get 0 i &&& ~~~v) }
  else if off < 0x100090 then
    let j := (off - 0x100080) / 8
    s.setCore c { k with shapes := (List.range 16).foldl (fun t i =>
      t.put (16 * j + i) { k.shape (16 * j + i) with esz := field v (4 * i) 3 }) k.shapes }
  else if off = 0x100090 then (s.setCore c { k with fit := v.setWidth 33 }).fitChanged
  else if off < 0x1000C0 then s
  else if off < 0x100140 then (s.setCore c { k with fwds := k.fwds.put ((off - 0x1000C0) / 8) (maskTo 0 v 0xFFF7FFF) }).fitChanged
  else if off < 0x100200 then s
  else if off < 0x100240 then s.setCore c { k with errcnt := k.errcnt.put ((off - 0x100200) / 8) (field v 0 32) }
  else if off = 0x100800 then s.setCore c (k.modMatrix fun m => { m with ctl := maskTo m.ctl v 0x7FF })
  else if off < 0x101000 then s
  else if off < 0x101400 then
    let n := (off - 0x101000) / 16
    (s.setCore c (k.setHandle n (handleOfImage (putDword (k.handle n).image off 16 v)))).evalHandle c n
  else if off < 0x101800 then
    let n := (off - 0x101400) / 32
    s.setCore c { k with shapes := k.shapes.put n { k.shape n with image := BitVec.ofNat 256 (putDword (k.shape n).image.toNat off 32 v) } }
  else if off < 0x102000 then s.journalWrite c ((off - 0x101800) / 32) (off % 32 / 8) v
  else if off < 0x102400 then
    let n := (off - 0x102000) / 32
    s.setCore c { k with traps := { k.traps with ring := k.traps.ring.put n (trapDword (k.traps.ring.get 0 n) (off % 32 / 8) v) } }
  else s

/-- The event that a write to a control register or window makes (R133, R93). -/
def ctlEvent (c off : Nat) (v : Word) : Event :=
  if off = 0x100040 then .vwinWrite c 0 v else if off = 0x100048 then .vwinWrite c 1 v else .registerWrite c off v

/-- REGISTER_WRITE (R93). -/
def execRegisterWrite (s : State) : Host.Outcome State Fault Refusal :=
  s.perform fun s e =>
    match e with
    | .registerWrite c off v =>
      -- a second write to CTXCTL waits for the operation in progress
      if off = 0x100018 ∧ (s.core c).ctxop.any (fun o => o.since.isSome) then some (s.after Config.us (.registerWrite c off v))
      else some (s.ctlWrite c off v)
    | _ => none

end Sys2Proof.Machine
end

