-- ==== Sys2Proof/Machine/Threads.lean ====
section
/-!
DEFINITION. Threads in their slots: the context image (spec/02 R32), taking a slot with its banks (R36, R41, R190), leaving it (R42, R398), admission
(spec/05 R100, spec/10 R214) and migration (R43).
-/

namespace Sys2Proof.Machine

/-! ## The context image (R32) -/

/-- The number whose bits a predicate on 0 to n − 1 gives. -/
def bitsWhere (f : Nat → Bool) : Nat → Nat
  | 0 => 0
  | n + 1 => bitsWhere f n + b2n (f n) * 2 ^ n

/-- The modes of s0 to s(n − 1), two bits each. -/
def Slot.modeBits (t : Slot) : Nat → Nat
  | 0 => 0
  | n + 1 => t.modeBits n + (t.reg n).mode % 4 * 4 ^ n

/-- A thread's context image, 160 bytes, with the presence bits that it shows. -/
def Slot.image (t : Slot) (shown : Nat → Bool) : List Byte :=
  (List.range 16).flatMap (fun i => natLe 8 (t.reg i).v.toNat) ++ natLe 2 (bitsWhere shown 16) ++ natLe 4 (t.modeBits 16) ++
  natLe 2 t.pred.toNat ++ natLe 6 t.pc ++ natLe 2 (t.asid % 2 ^ 14) ++ natLe 4 t.status.toNat ++ natLe 1 t.banks.toNat ++ [0] ++
  natLe 2 (bitsWhere (fun i => (t.reg i).failed) 16) ++ natLe 8 t.work.toNat

/-- The presence bit of sn: in stream and link-in modes it shows whether an element waits (R31). -/
def Core.shows (k : Core) (slot n : Nat) : Bool :=
  let r := (k.slot slot).reg n
  if r.mode = 1 then (match k.streamAt slot n false with | none => false | some x => !x.fifo.isEmpty)
  else if r.mode = 2 then !(k.linkEnd r.dir).fifo.isEmpty
  else r.full

/-- A field of an image: n bytes from byte i. -/
def imageAt (img : List Byte) (i n : Nat) : Nat := leNat ((img.drop i).take n)

/-- An image with a non-zero zero field is refused. -/
def imageOk (img : List Byte) : Bool := imageAt img 149 1 == 0 && decide (imageAt img 142 2 < 2 ^ 14)

/-- The registers of an image; one that is set full has no failed bit (R101). -/
def imageRegs (img : List Byte) : Table XReg :=
  (List.range 16).map fun i => (i,
    { v := BitVec.ofNat 64 (imageAt img (8 * i) 8), full := bitAt (imageAt img 128 2) i, mode := bitsOf (imageAt img 130 4) (2 * i) 2,
      failed := bitAt (imageAt img 150 2) i && !bitAt (imageAt img 128 2) i })

/-- The context that an image describes, over a slot's own fields; the status word's Reserved bits stay 0 (R34). -/
def Slot.load (t : Slot) (img : List Byte) : Slot :=
  { t with regs := imageRegs img, pred := BitVec.ofNat 16 (imageAt img 134 2), pc := imageAt img 136 6, asid := imageAt img 142 2,
           status := BitVec.ofNat 32 (imageAt img 144 4 % 2 ^ 7), banks := BitVec.ofNat 8 (imageAt img 148 1),
           work := BitVec.ofNat 64 (imageAt img 152 8) }

/-! ## Slots and banks (R36, R190) -/

/-- A user slot that a spawn, a dispatch or a migration may take (R190). -/
def Slot.isOpen (t : Slot) : Bool := t.st == .free && t.rsv.isNone && !t.saved

/-- The lowest-numbered open user slot. -/
def Core.openSlot (k : Core) : Option Nat := (List.range 15).find? fun n => (k.slot n).isOpen

/-- Banks that no thread holds. -/
def Core.freeBanks (k : Core) : List Nat := (List.range 8).filter fun b => (k.bank b).holder.isNone

/-- Banks promised to reserved slots (R202). -/
def Core.reservedBanks (k : Core) : Nat :=
  (k.slots.map fun e => match e.2.rsv with | none => 0 | some r => bankCount r.nbank).foldl (· + ·) 0

/-- A bank request that can be met now (R36). -/
def Core.banksFor (k : Core) (code : Nat) : Bool := decide (bankCount code + k.reservedBanks ≤ k.freeBanks.length)

/-- A bank given to a slot: On, every register zero and empty; one that comes from On or Retain is being cleared until a time (R36). -/
def Core.giveBank (k : Core) (n t b : Nat) : Core :=
  { k.setBank b { holder := some n, power := .on, clears := if (k.bank b).power == .off then none else some t } with
    vregs := k.vregs.filter fun e => e.1 / 8 != b }

/-- The thread's banks: the lowest free ones. -/
def Core.giveBanks (k : Core) (n t : Nat) : List Nat → Core
  | [] => k
  | b :: bs => (k.giveBank n t b).giveBanks n t bs

/-- A thread enters a slot and is Ready; each of its banks that comes from On or Retain is cleared in 8 cycles (R36). -/
def State.enterSlot (s : State) (c n : Nat) (t : Slot) : State :=
  let k := s.core c
  let bs := k.freeBanks.take (bankCount t.nbank)
  let clear := bs.any fun b => (k.bank b).power != .off
  let t := { t with st := .ready, banks := BitVec.ofNat 8 (maskOf bs), orders := (k.slot n).orders }
  let s := s.setCore c (((k.giveBanks n (s.now + 8 * Config.cycle) bs).setSlot n t).ungate)
  if clear then s.after (8 * Config.cycle) (.bankClearComplete c n) else s

/-- s4 to s7 of a new thread (R41). -/
def argRegs (args : List Word) : Table XReg := (List.range 4).map fun i => (4 + i, { v := args.getD i 0 })

/-- The context of a new thread (R41). -/
def newThread (pc asid : Nat) (status : BitVec 32) (args : List Word) (work : Word) : Slot :=
  { regs := argRegs args, pc := pc, asid := asid, status := status, work := work }

/-- The spawned thread of a message (R41, R322). -/
def SpawnMsg_slot (m : SpawnMsg) : Slot :=
  newThread m.pc m.asid (statusOf m.flush (m.sup || m.handler) false false m.nbank m.handler) m.args 0

/-! ## Answers -/

/-- An access, drain or image in transit that an answer names. -/
def Core.knows (k : Core) (t : Asker) : Bool :=
  (((k.slot t.slot).out ++ k.orphans).any fun a => a.id == t.id) || (k.matrix.drains.any fun d => d.id == t.id) ||
  ((k.slot t.slot).transit.map (·.1.src.id)) == some t.id

/-- The cores that a core's forwarding entries name. -/
def State.heirs (s : State) (c : Nat) : List Nat :=
  (s.core c).fwds.filterMap fun e => if e.2.getLsbD 14 then some (coreOf (devOf c) (field e.2 16 12)) else none

/-- The cores that at most so many forwarding entries, one behind another, lead to, the nearest first. -/
def State.lineage (s : State) : Nat → List Nat → List Nat
  | 0, cs => cs
  | n + 1, cs =>
    let new := (cs.flatMap s.heirs).filter fun d => !cs.contains d
    if new.isEmpty then cs else s.lineage n (cs ++ new)

/-- An answer that reaches a vacated core follows its forwarding entries (R214, R399). -/
def State.follow (s : State) (t : Asker) : Asker :=
  match (s.lineage s.cores.length [t.core]).find? fun d => (s.core d).knows t with
  | some d => { t with core := d }
  | none => t

/-! ## Leaving a slot (R42, R398) -/

/-- A stream ends: its register is normal and empty, its handle and its entry of the copy queue free (R149, R168). -/
def Core.endStream (k : Core) (x : Stream) : Core :=
  let k := { k with streams := k.streams.filter fun y => y.id != x.id, copyq := k.copyq.filter (· != x.id) }
  let k := if (k.handle x.h).buffer then k.setHandle x.h { k.handle x.h with bst := 0, pend := 0, hv := false } else k
  if x.vec then k.setVreg x.reg { k.vreg x.reg with stream := false, full := false, pend := false }
  else k.setSlot x.slot ((k.slot x.slot).modReg x.reg fun r => { r with mode := 0, full := false, pend := false })

/-- Handles that a slot holds in draining become free (R175). -/
def Core.freeDraining (k : Core) (n : Nat) : Core :=
  (List.range 64).foldl (fun k h =>
    let x := k.handle h
    if x.buffer && x.bst == 3 && x.hv && x.hslot == n then k.setHandle h { x with bst := 0, hv := false } else k) k

/-- Everything that a thread gives back as it leaves its slot: streams, draining handles, links, banks, masks, accumulator banks, and its
matrix commands, which run on without it. A wake bit that is set goes with it, and does not stand for the slot's next thread (DESIGN CHOICE, log 125). -/
def Core.vacate (k : Core) (n : Nat) : Core :=
  let k := (k.streams.filter fun x => x.slot == n).foldl Core.endStream k
  let k := k.freeDraining n
  let t := k.slot n
  let leave (m : MatEntry) : MatEntry := if m.cmd.slot == n then { m with cmd := { m.cmd with alive := false } } else m
  { k with
    banks := Table.mapVals (fun b => if b.holder == some n then { b with holder := none, rising := none, clears := none } else b) k.banks
    vregs := k.vregs.filter fun e => (k.bank (e.1 / 8)).holder != some n
    matrix := { k.matrix with
      accs := Table.mapVals (fun a => if a.holder == some n then { a with holder := none } else a) k.matrix.accs
      queue := k.matrix.queue.map leave }
    hwaiters := k.hwaiters.filter fun w => w.slot != n
    orphans := k.orphans ++ t.out.filter fun a => a.jrn.isSome
    slots := k.slots.put n { orders := t.orders } }

/-- The slot is Free; what waited for something it held looks again, and the core looks for a thread to dispatch (R190). -/
def State.freeSlot (s : State) (c n : Nat) : State := ((s.modCore c fun k => k.vacate n).kickAll c).after 0 (.dispatch c)

/-- A message of one flit to another core, or at once to the own one. -/
def State.tell (s : State) (a b : Nat) (ev : Event) : State := if a = b then s.after 0 ev else s.send a b ev

/-- A decrement goes to the core of its TCB (R196). -/
def State.sendDecr (s : State) (d : Decr) : State := s.tell d.src.core (coreNamed d.tcb) (.decrement d)

/-! ## Migration (R43, R324) -/

/-- A view-table entry belongs to the slot (R137). -/
def Core.holdsEntry (k : Core) (n : Nat) : Bool :=
  (List.range 16).any fun i => let e := k.view i; e.getLsbD 0 && field e 3 4 == n

/-- The thread holds something it cannot take along (R43, R145, R175). -/
def Core.tiedDown (k : Core) (n : Nat) : Bool :=
  (k.slot n).banks != 0 || (List.range 4).any (fun a => (k.acc a).holder == some n) || k.holdsEntry n ||
  (List.range 64).any (fun h => let x := k.handle h; x.buffer && x.bst == 3 && x.hv && x.hslot == n)

/-- Steps 1 and 2 of R43 for a move to the core of an address. A store to HBM is awaited to its bulk-path point, since the image carries nothing
that a later fence could wait for (DESIGN CHOICE, log 93). -/
def State.mayMove {α : Type} (s : State) (a : Word) (k : Try α) : Try α :=
  ensure (!s.myCore.tiedDown s.cur.slot) 25 a 0 <|
    match (List.range 16).find? fun i => (s.me.reg i).mode != 0 with
    | some i => .error (.trap 5 0 i)
    | none => hold (s.me.out.isEmpty && s.me.push.isNone && !(s.me.regs.any fun r => r.2.pend)) .access k

/-- The context as it arrives, with its program counter, is packed and sent as ten flits; the slot is Departing (R43, step 3). -/
def State.depart (s : State) (a : Word) (t : Slot) : State :=
  let (id, s) := s.fresh
  let msg : ImageMsg := ⟨⟨s.cur.core, s.cur.slot, id⟩, coreNamed a, t.image fun i => (t.reg i).full, t.gang, t.faultAtQuit, t.succs⟩
  let s := s.modMe fun t => { t with st := .departing, why := .none, transit := some (msg, a), pc := s.cur.addr }
  s.sendBig s.cur.core (coreNamed a) 10 (.contextImage msg)

/-- CONTEXT_IMAGE (R43): accepted into the lowest open user slot, refused (1 admit, 2 image, 3 no slot), or answered busy. -/
def execContextImage (s : State) : Host.Outcome State Fault Refusal :=
  s.perform fun s e =>
    match e with
    | .contextImage m =>
      let k := s.core m.core
      let back (s : State) (ev : Event) : State := s.send m.core m.src.core ev
      if !imageOk m.img then some (back s (.refusal m.src 2))
      else
        let t := { ({} : Slot).load m.img with faultAtQuit := m.fault, succs := m.succs }
        match k.gate m.core t.asid t.sup with
        | .refused => some (back s (.refusal m.src 1))
        | .onward d => some (s.sendBig m.core d 10 (.contextImage { m with core := d }))
        | .pass =>
          if k.frozen then some (back s (.busy (.image m)))
          else
            match k.openSlot with
            | some n =>
              let hb := (s.value (tileKey (coreNamed t.work) (offsetOf t.work + 2)) 1).toNat
              some (back (s.enterSlot m.core n { t with hb := if m.gang then hb else 0 }) (.acknowledgement m.src))
            | none => some (back s (if m.gang then .refusal m.src 3 else .busy (.image m)))
    | _ => none

/-- MIGRATION_RESEND (R43): the image goes out again while its slot is still Departing. -/
def execMigrationResend (s : State) : Host.Outcome State Fault Refusal :=
  s.perform fun s e =>
    match e with
    | .migrationResend m =>
      if (s.slot m.src.core m.src.slot).transit.map (·.1) == some m then some (s.sendBig m.src.core m.core 10 (.contextImage m)) else some s
    | _ => none

/-- The answer to a Departing slot: freed, or stopped at the exact trap of R43, step 5. -/
def State.departed (s : State) (c n : Nat) (reason : Option Nat) : State :=
  let t := s.slot c n
  match t.transit, reason with
  | some (_, a), some r => (s.setSlot c n { t with transit := none }).takeTrap c n t.pc 26 a r
  | some _, none => s.freeSlot c n
  | none, _ => s

end Sys2Proof.Machine
end

