-- ==== Sys2Proof/Machine/Access.lean ====
section
/-!
DEFINITION. Issuing an access (spec/06 R110 to R128, spec/12 R265, spec/19 R390): what holds it, what it traps on, its journal entry, and where
its request goes.
-/

namespace Sys2Proof.Machine

/-! ## Homes and order (R110, R119, R120) -/

/-- Where the home of an address lies for a core. -/
def homeOf (c : Nat) (a : Word) : Home :=
  if !isFabric a then .hbm
  else if coreNamed a = c then .own
  else if devOf (coreNamed a) = devOf c then .device
  else .other (devOf (coreNamed a))

/-- Homes on the issuing device. -/
def Home.onDevice : Home → Bool
  | .other _ => false
  | _ => true

/-- The granules or words that n bytes at an address touch, by number. -/
def cellNumbers (a : Word) (n : Nat) : List Nat :=
  let z := if isFabric a then 16 else 8
  (List.range ((a.toNat + n - 1) / z + 1 - a.toNat / z)).map fun i => a.toNat / z + i

/-- An earlier access that a release or fence with a mask waits for (R120); a completed one stays listed until its bulk-path point. -/
def Acc.awaited (m : BitVec 5) (a : Acc) : Bool :=
  (m.getLsbD 0 && a.home.onDevice && !a.done) || (m.getLsbD 1 && a.home.onDevice) ||
  (m.getLsbD 2 && a.home == .own && a.store && !a.done) || (m.getLsbD 3 && !a.home.onDevice && !a.done) || m.getLsbD 4

/-- An acquire that holds a later access of a home (R120, R122). -/
def Acc.bars (h : Home) (a : Acc) : Bool :=
  !a.done && ((a.acq.getLsbD 0 && h.onDevice) || (a.acq.getLsbD 1 && h.onDevice) || (a.acq.getLsbD 3 && !h.onDevice) || a.acq.getLsbD 4)

/-- The masks C and P, and the mask CEMPH. -/
def maskCP : BitVec 5 := 0b01001
def maskAll : BitVec 5 := 0b11111

/-- Accesses of a slot that have not completed. -/
def Slot.live (t : Slot) : List Acc := t.out.filter fun a => !a.done

/-- Accesses outstanding on a core (R115). -/
def Core.liveCount (k : Core) : Nat := (k.slots.map fun e => e.2.live.length).foldl (· + ·) 0

/-- A free journal entry. -/
def Core.freeEntry (k : Core) : Option Nat := (List.range 64).find? fun i => field (k.jrn i) 0 1 == 0

/-- The order of an access: relaxed or plain, its acquire and release masks, and ordered. -/
structure Order where
  relaxed : Bool := false
  acq : BitVec 5 := 0
  rel : BitVec 5 := 0
  ordered : Bool := false
  deriving DecidableEq, Repr

/-- The order of a load, store or atomic from its PFX.X (R119). -/
def loadOrder (x : MemX) : Order := { relaxed := x.rx, acq := if x.ord = 1 then x.mask else 0 }
def storeOrder (x : MemX) : Order := { relaxed := x.rx, rel := if x.ord = 2 then x.mask else 0, ordered := x.ord == 3 }
def atomicOrder (x : MemX) : Order :=
  { relaxed := x.rx, acq := if x.ord = 1 ∨ x.ord = 3 then x.mask else 0, rel := if x.ord = 2 ∨ x.ord = 3 then x.mask else 0 }

/-- A posted access of before a restore that is neither completed nor refused (R118). -/
def State.priorInFlight (s : State) : Bool :=
  s.me.live.any fun a =>
    s.me.prior.contains a.id && (match a.jrn with | none => false | some j => field (s.myCore.jrn j) 1 2 != 1)

/-- What holds an access back (R113, R115, R121, R122); `entries` is how many journal entries it takes. -/
def State.mayIssue {α : Type} (s : State) (o : Order) (h : Home) (entries : Nat) (k : Try α) : Try α :=
  let t := s.me
  let free := (List.range 64).filter fun i => field (s.myCore.jrn i) 0 1 == 0
  hold (!s.priorInFlight && !(t.live.any (Acc.bars h)) && !(t.out.any (Acc.awaited o.rel)) &&
        (if o.relaxed then !(t.live.any fun a => !a.relaxed) && decide (t.live.length < 8) else t.live.isEmpty) &&
        decide (s.myCore.liveCount < 64) && decide (entries ≤ free.length)) .access k

/-- A push is a release to its engine, and is held by acquires that cover it (R120, R124). -/
def State.mayPush (s : State) (mask : BitVec 5) : Bool :=
  let t := s.me
  !(t.out.any (Acc.awaited mask)) && !(t.live.any fun a => (a.acq &&& mask) != 0 || a.acq.getLsbD 4)

/-! ## The journal (R390) -/

/-- The code of a size in bytes. -/
def sizeCode (n : Nat) : Nat := if n = 1 then 0 else if n = 2 then 1 else if n = 4 then 2 else 3

/-- A journal entry in flight. -/
def journalImage (slot size kind ord mask epoch path vent asid : Nat) (addr d0 d1 : Word) : BitVec 256 :=
  BitVec.ofNat 256 (1 + slot % 16 * 2 ^ 3 + size % 4 * 2 ^ 7 + kind % 8 * 2 ^ 9 + ord % 4 * 2 ^ 12 + mask % 32 * 2 ^ 14 +
    epoch % 16 * 2 ^ 19 + path % 4 * 2 ^ 23 + vent % 16 * 2 ^ 25 + asid % 2 ^ 14 * 2 ^ 32 + addr.toNat * 2 ^ 64 +
    d0.toNat * 2 ^ 128 + d1.toNat * 2 ^ 192)

/-- KIND of a store form. -/
def journalKind : MemOp → Nat
  | .bundleStore _ _ _ => 1
  | .storeEmpty _ _ => 2
  | .setFull => 3
  | .setEmpty => 4
  | _ => 0

/-- DATA0 of a store form. -/
def journalData : MemOp → Word
  | .store _ v | .storeEmpty _ v | .bundleStore _ v _ => v
  | _ => 0

/-! ## Ordering counts (R349) -/

def Slot.orderTo (t : Slot) (d : Nat) : Option OrdDev := t.orders.find? fun o => o.dev == d

/-- A slot's record of a device, replaced or added behind the others; a fifth device takes the oldest entry's place. -/
def Slot.setOrder (t : Slot) (o : OrdDev) : Slot :=
  if (t.orderTo o.dev).isSome then { t with orders := t.orders.map fun x => if x.dev == o.dev then o else x }
  else { t with orders := (if t.orders.length < 4 then t.orders else t.orders.drop 1) ++ [o] }

/-- Whether a posted store to a device may count now, on a path: one to a fifth device, or one that would take a count above 65,535, is Held until
every store to the oldest entry's device is acknowledged (R349); in the second case its own device's stores are awaited too, since the count
begins anew (DEDUCED from R128, log 88). `out`: the slot's outstanding stores. -/
def Slot.mayCount (t : Slot) (out : List Acc) (d path : Nat) (ordered : Bool) : Bool :=
  let idle (dev : Nat) : Bool := !(out.any fun a => a.home == .other dev)
  let oldest := match t.orders.head? with | none => true | some o => idle o.dev
  match t.orderTo d with
  | some o => ordered || decide (o.counts.getD path 0 < 65535) || (oldest && idle d)
  | none => decide (t.orders.length < 4) || oldest

/-- The counts of a device after one more store on a path: its epoch, and the new record. An entry whose count is full is used again with its next
epoch (log 88); an ordered store counts nothing. -/
def Slot.count (t : Slot) (d path : Nat) (ordered : Bool) : Nat × List Nat × Slot :=
  let o := (t.orderTo d).getD ⟨d, 0, [0, 0, 0, 0]⟩
  let o := if ordered || decide (o.counts.getD path 0 < 65535) then o else { o with epoch := (o.epoch + 1) % 16, counts := [0, 0, 0, 0] }
  if ordered then (o.epoch, o.counts, t.setOrder { o with epoch := (o.epoch + 1) % 16, counts := [0, 0, 0, 0] })
  else
    let counts := (List.range 4).map fun p => o.counts.getD p 0 + (if p = path then 1 else 0)
    (o.epoch, o.counts, t.setOrder { o with counts := counts })

/-- The key of a slot in its destinations' tables (R350). -/
def orderKey (c slot : Nat) : Nat := c * 16 + slot

/-- The stores of the issuing slot that are outstanding, those among them that an earlier thread there has left behind. -/
def State.storesOut (s : State) : List Acc :=
  let left := s.myCore.orphans.filter fun a => a.jrn.any fun j => field (s.myCore.jrn j) 3 4 == s.cur.slot
  (s.me.live ++ left).filter (·.store)

/-- While no store of a slot is outstanding to a device, the device's own record of the slot stands at the slot's epoch (DESIGN CHOICE, log 88: the
spec names no message for it). -/
def State.knowEpoch (s : State) (d epoch : Nat) : State :=
  let c := s.cur.core
  let n := s.cur.slot
  if s.storesOut.any fun a => a.home == .other d then s
  else s.modHub d fun h =>
    { h with epochs := h.epochs.put (orderKey c n) epoch, orders := h.orders.filter fun o => !(o.core == c && o.slot == n && o.epoch != epoch) }

/-! ## Sending a request -/

/-- The event that a request makes at another core (R339: read, write or atomic). -/
def arrivalOf (c : Nat) (r : Req) : Event :=
  match r.op with
  | .load _ | .loadFull _ | .loadFullClear _ | .loadTag _ | .viewLoad _ _ | .ctlRead => .remoteRead c r
  | .amo _ _ _ | .cas _ _ _ => .remoteAtomic c r
  | _ => .remoteWrite c r

/-- The latency of a translation station. -/
def stationTime : Nat := 20 * Config.cycle

/-- A request goes to its home: a bank of the own core, another core, or the translation station (R91, R103). -/
def State.request (s : State) (r : Req) : State :=
  match homeOf r.src.core r.addr with
  | .own => s.toBank r.src.core r 4
  | .device => s.send r.src.core (coreNamed r.addr) (arrivalOf (coreNamed r.addr) r)
  | .other d =>
    if r.posted then s.sendFar (devOf r.src.core) d (arrivalOf (coreNamed r.addr) r) none (some r.path)
    else s.sendFar (devOf r.src.core) d (arrivalOf (coreNamed r.addr) r) none none
  | .hbm => s.after stationTime (.translationRequest r)

/-- An ordered store goes with its counts, as two flits (R349). No open goes before it: it is itself the next message to its device (R379). -/
def State.requestOrdered (s : State) (r : Req) (counts : List Nat) : State :=
  match homeOf r.src.core r.addr with
  | .other d => s.sendFar (devOf r.src.core) d (.orderedStore d r counts) none (some r.path) 2
  | _ => s.request r

/-! ## View entries (R137) -/

def viewSlot (e : BitVec 128) : Nat := field e 3 4
def viewFr (e : BitVec 128) : Nat := field e 7 2

/-- The address of an entry's commit record. -/
def viewRecord (e : BitVec 128) : Word :=
  BitVec.ofNat 64 (2 ^ 63 + field e 60 6 * 2 ^ 57 + field e 66 12 * 2 ^ 45 + field e 78 15 * 2 ^ 6)

/-- What a line controller reads of an entry. -/
def viewRef (c i : Nat) (e : BitVec 128) : ViewRef := ⟨c, i, field e 16 20, field e 36 24, field e 9 1 == 1, viewRecord e⟩

/-- The entry that a `.bv` form names is valid, of this slot, and a write entry where the form writes. -/
def State.entryOk (s : State) (e : Option (Word × Bool)) : Bool :=
  match e with
  | none => true
  | some (v, write) =>
    let x := s.myCore.view v.toNat
    decide (v.toNat < 16) && x.getLsbD 0 && viewSlot x == s.cur.slot && (!write || x.getLsbD 1)

/-- The view entry of slot that an instruction names by an index (R137). -/
def State.withEntry {α : Type} (s : State) (v : Word) (k : BitVec 128 → Try α) : Try α :=
  ensure (s.entryOk (some (v, false))) 13 0 v.toNat (k (s.myCore.view v.toNat))

/-! ## The issue of an access (R265) -/

/-- An access as its instruction describes it. -/
structure Plan where
  ea : Word
  op : MemOp
  ord : Order
  x : MemX
  /-- registers it fills, in the order of a fill's values -/
  fills : List SReg := []
  takes : List (SReg × Bool) := []
  /-- judged as a write for privilege (R265) -/
  writes : Bool := false
  /-- a presence form, atomic, `ldt`, `setf` or `sete`: not for control space -/
  presence : Bool := false
  /-- any byte address will do -/
  anyByte : Bool := false
  /-- the entry index that a `.bv` form names, and whether it must be a write entry (R137) -/
  entry : Option (Word × Bool) := none
  /-- a `.bv` load through an entry that is already fractured fills 0 (R143) -/
  fractured : Bool := false
  deriving DecidableEq, Repr

def Plan.size (p : Plan) : Nat := if p.anyByte then 1 else opWidth p.op

/-- A store form. -/
def Plan.storing (p : Plan) : Bool := p.fills.isEmpty

/-- A relaxed store form to a remote address is posted (R116). -/
def Plan.posted (p : Plan) (h : Home) : Bool := p.storing && p.ord.relaxed && h != .own

/-- A store form that a line of the core's own versioned window does not take, or a wait form or atomic there (R449). -/
def meetsWindow : MemOp → Bool
  | .load _ | .loadTag _ | .viewLoad _ _ | .bundleStore _ _ _ | .ctlRead | .ctlWrite _ | .vector => false
  | _ => true

/-- The checks of R265 before the access is sent, in their order, and that of R449. -/
def State.accessChecks {α : Type} (s : State) (p : Plan) (k : Try α) : Try α :=
  let c := s.cur.core
  let ea := p.ea
  let own := homeOf c ea == .own
  let off := offsetOf ea
  let ctl := own && decide (2 ^ 20 ≤ off)
  let dev := devOf (coreNamed ea)
  ensure (addrOk ea) 6 ea 0 <|
  ensure (ea.toNat % p.size == 0) 7 ea 0 <|
  ensure (isFabric ea || !isBulk ea) 8 ea 0 <|
  ensure (!isFabric ea || dev == devOf c || s.myRoutes.getLsbD dev) 9 ea dev <|
  ensure (!ctl || p.size == 8 || p.anyByte) 7 ea 0 <|
  ensure (!ctl || ctlAssigned c off) 6 ea 0 <|
  ensure (!own || !s.myCore.windowHole off) 6 ea 0 <|
  ensure (!ctl || s.me.sup || (if p.writes then userWrites off else userReads off)) 3 ea 0 <|
  ensure (!(ctl && p.presence)) 6 ea 0 <|
  match p.fills.find? fun r => (s.me.reg r.toNat).mode != 0 with
  | some r => .error (.trap 5 0 r.toNat)
  | none =>
    ensure (s.entryOk p.entry) 13 0 ((p.entry.map fun e => e.1.toNat).getD 0) <|
    ensure (!(own && meetsWindow p.op && (s.myCore.lineAt off).isSome)) 12 ea 0 k

/-- Registers begin to wait for a fill, in order: each with its sequence and the number a record shows. -/
def State.startLoads (s : State) : List SReg → List (Nat × Nat × Bool × Nat) × State
  | [] => ([], s)
  | r :: rs =>
    let (q, s) := s.startLoad r
    let (l, s) := s.startLoads rs
    ((r.toNat, q, false, r.toNat) :: l, s)

/-- A fill of an access's registers with values, in order. -/
def fillParts : List (Nat × Nat × Bool × Nat) → List Word → List FillPart
  | (r, q, _, _) :: rs, v :: vs => .scalar r q v :: fillParts rs vs
  | _, _ => []

/-- The journal entry of a posted access, taken; answers its number. -/
def State.takeEntry (s : State) (img : BitVec 256) : Nat × State :=
  let j := s.myCore.freeEntry.getD 0
  (j, s.modMyCore fun k => k.setJrn j img)

/-- An access joins the thread's outstanding ones. -/
def State.addOut (s : State) (a : Acc) : State := s.modMe fun t => { t with out := t.out ++ [a] }

/-- The thread is Held until the access is acknowledged; it goes on, and its reads are consumed, then (R28, R100, R113). -/
def State.holdFor (s : State) (a : Acc) (takes : List (SReg × Bool)) : State :=
  let h : Hold := { next := s.cur.next, addr := s.cur.addr, takes := takes.map fun t => (t.1.toNat, t.2) }
  (s.addOut { a with hold := some h }).modMe fun t => { t with pc := s.cur.addr, st := .held, why := .access }

/-- As `holdFor`, for an access whose answer fills sa: sa is empty at once; a read of sa itself is thereby done (R308, R309). -/
def State.holdFill (s : State) (r : SReg) (a : Acc) (takes : List (SReg × Bool)) : State :=
  let old := s.me.reg r.toNat
  let (q, s) := s.startLoad r
  let h : Hold := { next := s.cur.next, addr := s.cur.addr, old := some (r.toNat, old),
                    takes := (takes.filter fun t => t.1 != r).map fun t => (t.1.toNat, t.2) }
  (s.addOut { a with hold := some h, regs := [(r.toNat, q, false, r.toNat)] }).modMe fun t =>
    { t with pc := s.cur.addr, st := .held, why := .access }

/-- The posted accesses of the thread to its own device (R128). -/
def State.postedHere (s : State) : List Nat := (s.me.live.filter fun x => x.jrn.isSome && x.home.onDevice).map (·.id)

/-- The thread's outstanding accesses that touch a granule or word of a new one (R115); one that stands refused is waited for no longer (R116). -/
def State.meeting (s : State) (cells : List Nat) : List Nat :=
  (s.me.live.filter fun a => a.cells.any cells.contains && a.jrn.all fun j => field (s.myCore.jrn j) 1 2 != 1).map (·.id)

/-- A request goes out, an ordered store to another device with its counts. -/
def State.sendOut (s : State) (r : Req) (counts : Option (List Nat)) : State :=
  match counts with
  | none => s.request r
  | some cs => s.requestOrdered r cs

/-- An access's request goes to its home, or is held by the core: behind the thread's accesses of the same granule or word (R115), and, for an ordered
store to the own device, until the posted stores before it are acknowledged (R128). -/
def State.requestBehind (s : State) (e : HeldReq) : State :=
  if e.acks.isEmpty && e.ends.isEmpty then s.sendOut e.req e.counts else s.modMyCore fun k => { k with heldBack := k.heldBack ++ [e] }

/-- A posted store takes its path, epoch and journal entry, and is sent; an ordered one waits for those before it (R116, R128, R349). -/
def State.post (s : State) (p : Plan) (a : Acc) (r : Req) : State :=
  let c := s.cur.core
  let ends := s.meeting a.cells
  let jrn (epoch path : Nat) : BitVec 256 :=
    journalImage s.cur.slot (sizeCode p.size) (journalKind p.op) p.x.ord.toNat p.x.mask.toNat epoch path
      ((p.entry.map fun e => e.1.toNat).getD 0) s.me.asid p.ea (journalData p.op) 0
  match a.home with
  | .other d =>
    let path := ((s.hub (devOf c)).choosePath d).getD 0
    let (epoch, counts, t) := s.me.count d path p.ord.ordered
    let (j, s) := (s.modMe fun _ => t).takeEntry (jrn epoch path)
    let r := { r with posted := true, epoch := epoch, path := path }
    let s := (s.knowEpoch d epoch).addOut { a with jrn := some j, counts := if p.ord.ordered then counts else [] }
    s.requestBehind ⟨r, [], ends, if p.ord.ordered then some counts else none⟩
  | _ =>
    let acks := if p.ord.ordered then s.postedHere else []
    let (j, s) := s.takeEntry (jrn 0 0)
    (s.addOut { a with jrn := some j }).requestBehind ⟨{ r with posted := true }, acks, ends, none⟩

/-- The path that a message to an address is sent on first, as a journal entry keeps it (R390). -/
def State.pathFor (s : State) (a : Word) : Nat :=
  match homeOf s.cur.core a with
  | .other d => ((s.hub (devOf s.cur.core)).choosePath d).getD 0
  | _ => 0

/-- The access itself, once nothing holds or stops it. -/
def State.launch (s : State) (p : Plan) : State :=
  let c := s.cur.core
  let h := homeOf c p.ea
  let off := offsetOf p.ea
  let (id, s) := s.fresh
  let a : Acc := { id := id, addr := p.ea, home := h, relaxed := p.ord.relaxed, store := p.storing, acq := p.ord.acq, asid := s.me.asid, sup := s.me.sup, pc := s.cur.addr,
                   waits := (match p.op with | .loadFull _ | .loadFullClear _ | .storeEmpty _ _ => true | _ => false),
                   cells := cellNumbers p.ea p.size }
  let r : Req := { src := ⟨c, s.cur.slot, id⟩, asid := s.me.asid, sup := s.me.sup, addr := p.ea, op := p.op }
  if p.storing then
    if h == .own && decide (2 ^ 20 ≤ off) then (s.consume p.takes).soon [ctlEvent c off (journalData p.op)]
    else if p.posted h then (s.consume p.takes).post p a r
    else if h == .own then
      ((s.consume p.takes).addOut a).requestBehind ⟨r, if p.ord.ordered then s.postedHere else [], s.meeting a.cells, none⟩
    else (s.holdFor a p.takes).request r
  else
    let ends := s.meeting a.cells
    let (regs, s) := (s.consume p.takes).startLoads p.fills
    let s := s.addOut { a with regs := regs }
    if p.fractured then s.after (4 * Config.cycle) (.fill ⟨r.src, fillParts regs [0]⟩)
    else if h == .own && decide (2 ^ 20 ≤ off) then
      s.after (4 * Config.cycle) (.fill ⟨r.src, fillParts regs [s.ctlRead c off]⟩)
    else s.requestBehind ⟨r, [], ends, none⟩

/-- A service-slot handler reaches only its own tile store (R210). -/
def State.serviceLocal (s : State) (h : Home) (k : Try State) : Try State :=
  if s.cur.slot = 15 ∧ h ≠ .own then .ok (s.abandon s.cur.core) else k

/-- A memory instruction, its operands read: holds, checks, and its effect (R265). A `.mig` access to another core migrates instead (R43). -/
def State.access (s : State) (p : Plan) : Try State :=
  let h := homeOf s.cur.core p.ea
  let posted := p.posted h
  let countable := match h with
    | .other d => !posted || s.me.mayCount s.storesOut d (((s.hub (devOf s.cur.core)).choosePath d).getD 0) p.ord.ordered
    | _ => true
  s.serviceLocal h <|
  s.mayIssue p.ord h (if posted then 1 else 0) <|
  hold countable .access <|
  s.accessChecks p <|
    if p.x.mig && isFabric p.ea && h != .own then s.mayMove p.ea (.ok (s.depart p.ea { s.me with pc := s.cur.addr }))
    else .ok (s.launch p)

end Sys2Proof.Machine
end

