-- ==== Sys2Proof/Machine/Memory.lean ====
section
/-!
DEFINITION. Page 1 but for the bundle instructions: loads, stores, presence forms, atomics and the fence (spec/12 R265 to R271).
-/

namespace Sys2Proof.Machine

/-- The width in bytes of a size code: b, h, w, d. -/
def sizeOf (sz : BitVec 2) : Nat := 2 ^ sz.toNat

/-- The effective address of a format M form, its base read (R265). -/
def State.withEa (s : State) (b : SReg) (off : BitVec 40) (k : Word → Try State) : Try State :=
  s.readable b <|
    match s.peek b with
    | .error e => .error e
    | .ok x => k (x + immWord off)

/-- A register that a form reads once. -/
def State.withReg (s : State) (a : SReg) (k : Word → Try State) : Try State :=
  s.readable a <|
    match s.peek a with
    | .error e => .error e
    | .ok x => k x

/-- Two registers that a form reads once each, their modes judged first (R400). -/
def State.withTwo (s : State) (a b : SReg) (k : Word → Word → Try State) : Try State :=
  s.readableAll [a, b] <| s.withReg a fun x => s.withReg b fun y => k x y

/-- A load form: its operation, and whether it is a presence form or `ldt`. -/
def State.loadForm (s : State) (b : SReg) (q : Bool) (off : BitVec 40) (x : MemX) (fills : List SReg) (op : MemOp) (presence writes : Bool) :
    Try State :=
  s.withEa b off fun ea =>
    s.access { ea := ea, op := op, ord := loadOrder x, x := x, fills := fills, takes := [(b, q)], presence := presence, writes := writes }

/-- A store form whose data is in a. -/
def State.storeForm (s : State) (a b : SReg) (q : Bool) (off : BitVec 40) (x : MemX) (op : Word → MemOp) (presence : Bool) : Try State :=
  s.readableAll [a, b] <| s.withEa b off fun ea => s.withReg a fun v =>
    s.access { ea := ea, op := op v, ord := storeOrder x, x := x, takes := [(b, q), (a, false)], presence := presence, writes := true }

/-- ld (R267); with `.bv` it reads under an entry (R143). -/
def execLd (m : Mods) (o : OpLd) (s : State) : Host.Outcome State Fault Refusal :=
  s.guarded m fun s =>
    let n := sizeOf o.sz
    match o.c with
    | none => s.loadForm o.b o.q o.off o.x [o.a] (.load n) false false
    | some c =>
      s.readableAll [o.b, c] <| s.withEa o.b o.off fun ea => s.withReg c fun v =>
        let e := s.myCore.view (v.toNat % 16)
        s.access { ea := ea, op := .viewLoad n (viewRef s.cur.core (v.toNat % 16) e), ord := loadOrder o.x, x := o.x, fills := [o.a],
                   takes := [(o.b, o.q), (c, false)], entry := some (v, false), fractured := viewFr e != 0 }

/-- st (R267); with `.bv` it is a bundle store (R139). -/
def execSt (m : Mods) (o : OpLd) (s : State) : Host.Outcome State Fault Refusal :=
  s.guarded m fun s =>
    let n := sizeOf o.sz
    match o.c with
    | none => s.storeForm o.a o.b o.q o.off o.x (.store n) false
    | some c =>
      s.readableAll [o.a, o.b, c] <| s.withEa o.b o.off fun ea => s.withReg o.a fun d => s.withReg c fun v =>
        let e := s.myCore.view (v.toNat % 16)
        s.access { ea := ea, op := .bundleStore n d (viewRef s.cur.core (v.toNat % 16) e), ord := storeOrder o.x, x := o.x,
                   takes := [(o.b, o.q), (o.a, false), (c, false)], writes := true, entry := some (v, true) }

/-- ldt (R269): the data and the slot's tag word. -/
def execLdt (m : Mods) (o : OpLdt) (s : State) : Host.Outcome State Fault Refusal :=
  s.guarded m fun s => s.loadForm o.b o.q o.off o.x [o.a, o.c] (.loadTag (sizeOf o.sz)) true false

/-- ldf: wait-full load (R95, R267). -/
def execLdf (m : Mods) (o : OpLdf) (s : State) : Host.Outcome State Fault Refusal :=
  s.guarded m fun s => s.loadForm o.b o.q o.off o.x [o.a] (.loadFull (sizeOf o.sz)) true false

/-- ldfe: wait-full-clear load. -/
def execLdfe (m : Mods) (o : OpLdf) (s : State) : Host.Outcome State Fault Refusal :=
  s.guarded m fun s => s.loadForm o.b o.q o.off o.x [o.a] (.loadFullClear (sizeOf o.sz)) true false

/-- stef: wait-empty-set-full store. -/
def execStef (m : Mods) (o : OpLdf) (s : State) : Host.Outcome State Fault Refusal :=
  s.guarded m fun s => s.storeForm o.a o.b o.q o.off o.x (.storeEmpty (sizeOf o.sz)) true

/-- A form that only marks presence. -/
def State.markForm (s : State) (o : OpSet) (op : MemOp) : Try State :=
  s.withEa o.b o.off fun ea =>
    s.access { ea := ea, op := op, ord := storeOrder o.x, x := o.x, takes := [(o.b, o.q)], presence := true, writes := true, anyByte := true }

/-- setf: set-full. -/
def execSetf (m : Mods) (o : OpSet) (s : State) : Host.Outcome State Fault Refusal := s.guarded m fun s => s.markForm o .setFull

/-- sete: set-empty. -/
def execSete (m : Mods) (o : OpSet) (s : State) : Host.Outcome State Fault Refusal := s.guarded m fun s => s.markForm o .setEmpty

/-- fence (R123, R271): Held until the earlier accesses of its mask have reached their points. It performs no access. -/
def execFence (m : Mods) (o : OpFence) (s : State) : Host.Outcome State Fault Refusal :=
  s.guarded m fun s =>
    let mask := match o.mask with | none => maskAll | some k => if k = 0 then maskAll else k
    hold (!(s.me.out.any (Acc.awaited mask))) .access (.ok s)

/-- An atomic of one operand. -/
def State.amoForm (s : State) (k : AmoKind) (n : Nat) (o : OpAmo) : Try State :=
  s.readableAll [o.a, o.b] <| s.withEa o.b o.off fun ea => s.withReg o.a fun v =>
    s.access { ea := ea, op := .amo k n v, ord := atomicOrder o.x, x := o.x, fills := [o.a], takes := [(o.b, o.q), (o.a, false)],
               presence := true, writes := true }

/-- amo.swap.w (R270). -/
def execAmoSwapW (m : Mods) (o : OpAmo) (s : State) : Host.Outcome State Fault Refusal := s.guarded m fun s => s.amoForm .swap 4 o

/-- amo.swap.d (R270). -/
def execAmoSwapD (m : Mods) (o : OpAmo) (s : State) : Host.Outcome State Fault Refusal := s.guarded m fun s => s.amoForm .swap 8 o

/-- The operation of an `amo.op` code (R235). -/
def amoKindOf (op : BitVec 3) : AmoKind :=
  match op.toNat with
  | 0 => .add
  | 1 => .and
  | 2 => .or
  | 3 => .xor
  | 4 => .min
  | 5 => .max
  | 6 => .minu
  | _ => .maxu

/-- amo.op (R270). -/
def execAmoOp (m : Mods) (o : OpAmoOp) (s : State) : Host.Outcome State Fault Refusal :=
  s.guarded m fun s => s.amoForm (amoKindOf o.op) (if o.dbl then 8 else 4) { a := o.a, b := o.b, q := o.q, off := o.off, x := o.x }

/-- Compare and swap on n bytes (R270). -/
def State.casForm (s : State) (n : Nat) (o : OpCas) : Try State :=
  s.readableAll [o.a, o.b, o.c] <| s.withEa o.b o.off fun ea => s.withReg o.a fun old => s.withReg o.c fun new =>
    s.access { ea := ea, op := .cas n old new, ord := atomicOrder o.x, x := o.x, fills := [o.a],
               takes := [(o.b, o.q), (o.a, false), (o.c, false)], presence := true, writes := true }

/-- cas.w (R270). -/
def execCasW (m : Mods) (o : OpCas) (s : State) : Host.Outcome State Fault Refusal := s.guarded m fun s => s.casForm 4 o

/-- cas.d (R270). -/
def execCasD (m : Mods) (o : OpCas) (s : State) : Host.Outcome State Fault Refusal := s.guarded m fun s => s.casForm 8 o

end Sys2Proof.Machine
end

