-- ==== Sys2Proof/Machine/Bundles.lean ====
section
/-!
DEFINITION. Bundles (spec/07 R135 to R147): operations at the commit record, the bundle instructions of page 1, their closings, and the copying
of a block ahead of a write during a snapshot.
-/

namespace Sys2Proof.Machine

/-! ## Reaching a line of the manifest (R136) -/

/-- A core's request of an ASID would be taken at another core (R100). -/
def State.reaches (s : State) (c d asid : Nat) (sup : Bool) : Bool := c == d || (s.core d).gate d asid sup == .pass

/-- Where an address stands for a core that acts under an ASID; none where it is refused or does not translate. Of an HBM address the low 57 bits
count: one of the word aperture, or with bits [61:57] set, is taken by them (DESIGN CHOICE, log 91: R136 asks for bulk-aperture addresses and
gives others no fate); a spill address likewise. -/
def State.placeAt (s : State) (c asid : Nat) (sup : Bool) (a : Word) (write : Bool) : Option (Place × State) :=
  if isFabric a then
    let d := s.homeNow (coreNamed a) asid
    if addrOk a && decide (offsetOf a < 2 ^ 20) && s.reaches c d asid sup then
      some (s.tilePlace d (offsetOf a), s)
    else none
  else
    match s.translate (devOf c) (stationOf c) asid (virtualOf a) write with
    | none => none
    | some (pa, leaf, s) => some (hbmPlace (devOf c) pa leaf, s)

/-- The dword that a plain load reads at a place: of a versioned line, the slot with the larger serial (R134); none where it is poisoned. -/
def State.loadDword (s : State) (p : Place) : Option Word :=
  match p.line with
  | none => if s.anyPoison p.key 8 then none else some (s.value p.key 8)
  | some (l, j) =>
    let a := l + 64 * newerSlot (s.lineMeta l) + j
    if s.anyPoison (l + 128) 16 || s.anyPoison a 8 then none else some (s.value a 8)

/-- The versioned line that starts at an address, for a core that acts under an ASID. -/
def State.lineStart (s : State) (c asid : Nat) (sup : Bool) (a : Word) : Option (Nat × State) :=
  let line (p : Place) (s : State) : Option (Nat × State) :=
    match p.line with
    | some (l, 0) => if s.anyPoison (l + 128) 16 then none else some (l, s)
    | _ => none
  if isFabric a then
    match s.placeAt c asid sup a true with
    | none => none
    | some (p, s) => line p s
  else
    match s.leafOf (devOf c) (stationOf c) asid (virtualOf a) true with
    | none => none
    | some (leaf, at_, s) => if leafAttr leaf ≠ 2 then none else line (hbmPlace (devOf c) (physOf leaf (virtualOf a)) leaf) (s.setDirty (devOf c) at_)

/-- The key of the line that manifest entry i names. -/
def State.manifestLine (s : State) (c asid : Nat) (sup : Bool) (r : Record) (i : Nat) : Option (Nat × State) :=
  match s.placeAt c asid sup (r.manifest + BitVec.ofNat 64 (8 * i)) false with
  | none => none
  | some (p, s) =>
    match s.loadDword p with
    | none => none
    | some a => s.lineStart c asid sup a

/-- The lines of the first n manifest entries, in order; none if an entry names no line (status 13). -/
def State.manifestLines (s : State) (c asid : Nat) (sup : Bool) (r : Record) : Nat → Option (List Nat × State)
  | 0 => some ([], s)
  | n + 1 =>
    match s.manifestLines c asid sup r n with
    | none => none
    | some (ls, s) =>
      match s.manifestLine c asid sup r n with
      | none => none
      | some (l, s) => some (ls ++ [l], s)

/-! ## Copying ahead of a write (R147) -/

/-- SPLOST increases by 1 at the record (R139), unless the record takes no operation (R432). -/
def State.addLost (s : State) (r : Record) : State :=
  if s.recordSound r then (s.putRecord (r.set 384 32 (r.splost + 1))).stirCore (r.key / 2 ^ 20) else s

/-- One line of a snapshot's block, 64 bytes, as a bundle store; a line read from poison is written poisoned; answers whether a version was lost. A
line whose image address does not translate, is not versioned or refuses the store is passed over, and the snapshot goes on (DESIGN CHOICE, log 92:
the rule gives no fate). -/
def State.snapLine (s : State) (c : Nat) (n : Snapshot) (off : Nat) (bs : List Byte) (bad : Bool) : Bool × State :=
  let d := devOf c
  let va := virtualOf (n.image + BitVec.ofNat 64 off)
  match s.leafOf d (stationOf c) n.asid va true with
  | none => (false, s)
  | some (leaf, at_, s) =>
    match (hbmPlace d (physOf leaf va) leaf).line with
    | none => (false, s)
    | some (l, j) =>
      match (s.setDirty d at_).bundleWrite l j bs n.asid n.view with
      | .done s _ _ lost =>
        let k := if metaSerial (s.lineMeta l) 0 = n.view.serial then 0 else 1
        (lost == 1, if bad then (cellsOf (l + 64 * k) 64).foldl State.setPoison s else s)
      | _ => (false, s)

/-- The pending blocks of a core that n bytes lie in. -/
def State.pendingIn (s : State) (c off n : Nat) : List Nat :=
  match (s.core c).snapshot with
  | none => []
  | some x => x.pending.filter fun b => decide (off / 4096 ≤ b) && decide (b ≤ (off + n - 1) / 4096)

/-- A pending block of a core's snapshot stops being pending and is copied as it stands. A version that a line of it loses is counted at the record,
whose own block is copied before, if that is pending too; at most so many blocks in all. -/
def State.snapBlock (c b : Nat) : Nat → State → State
  | 0, s => s
  | fuel + 1, s =>
    match (s.core c).snapshot with
    | none => s
    | some n =>
      if !n.pending.contains b then s
      else
        let key := tileKey c (4096 * b)
        let lines := (List.range 64).map fun i => (4096 * b + 64 * i, s.bytes (key + 64 * i) 64, s.anyPoison (key + 64 * i) 64)
        let s := s.modCore c fun k => { k with snapshot := k.snapshot.map fun n => { n with pending := n.pending.filter (· != b) } }
        lines.foldl (fun s x =>
          let (lost, s) := s.snapLine c n x.1 x.2.1 x.2.2
          if lost then
            let r := s.recordNow n.view.record n.asid
            let s := (s.pendingIn (r.key / 2 ^ 20) (r.key % 2 ^ 20) 64).foldl (fun s e => State.snapBlock (r.key / 2 ^ 20) e fuel s) s
            s.addLost r
          else s) s

/-- The blocks that the snapshots of all cores still have to copy. -/
def State.pendingBlocks (s : State) : Nat := (s.cores.map fun e => (e.2.snapshot.map fun n => n.pending.length).getD 0).foldl (· + ·) 0

/-- Before n bytes of a core's tile store are written, the pending blocks they lie in are copied. -/
def State.beforeWrite (s : State) (c off n : Nat) : State :=
  (s.pendingIn c off n).foldl (fun s b => State.snapBlock c b s.pendingBlocks s) s

/-- A version that could not be spilled is counted at the record, where it stands now for an access of an ASID (R139, R214). -/
def State.countLost (s : State) (record : Word) (asid : Nat) : State :=
  let r := s.recordNow record asid
  (s.beforeWrite (r.key / 2 ^ 20) (r.key % 2 ^ 20) 64).addLost r

/-- As `beforeWrite`, by the key of the location. -/
def State.beforeKey (s : State) (a n : Nat) : State := if a < 2 ^ 50 then s.beforeWrite (a / 2 ^ 20) (a % 2 ^ 20) n else s

/-- Bytes of a core's tile store that the hardware sets, presence apart (R133). -/
def State.putTile (s : State) (c off : Nat) (bs : List Byte) : State := (s.beforeWrite c off bs.length).putBytes (tileKey c off) bs

/-- Bytes written into a core's tile store by the hardware. -/
def State.writeTile (s : State) (c off : Nat) (bs : List Byte) : State :=
  (s.beforeWrite c off bs.length).writeAt (tileKey c off) bs

/-! ## Reverts (R140) -/

/-- The metadata of the listed lines set, from companion index i on, with both serials 0 (R138). -/
def State.initLines (s : State) (name count i : Nat) : List Nat → State
  | [] => s
  | l :: ls =>
    ((s.beforeKey l 144).setLineMeta l (BitVec.ofNat 128 (name + i * 2 ^ 20 + count * 2 ^ 36))).initLines name count (i + 1) ls

/-- The revert of a serial at one line (R140). Where the spill entry does not translate, is refused or poisoned, the slot's serial becomes 0 (DESIGN
CHOICE, log 114: the rule gives no fate). -/
def State.revertLine (s : State) (asid l serial : Nat) (r : Record) : State :=
  let s := s.beforeKey l 144
  let x := s.lineMeta l
  let k? := if metaSerial x 0 = serial then some 0 else if metaSerial x 1 = serial then some 1 else none
  match k? with
  | none => s
  | some k =>
    let clear (s : State) : State := s.setLineMeta l (setSerial x k 0)
    if metaSpilled x k then
      match s.spillKey (devOfKey l) asid r.spill (metaCidx x) false with
      | none | some (_, true, _) => clear s
      | some (p, false, s) =>
        if bitsOf (s.value (p.key + 68) 4).toNat 0 24 = serial then
          let s := s.putBytes (l + 64 * k) (s.bytes p.key 64)
          s.setLineMeta l (setSerial (setSpilled x k false) k (bitsOf (s.value (p.key + 64) 4).toNat 0 24))
        else clear s
    else clear s

/-- The revert of a serial: entries that name no line are passed over (R140). -/
def State.revert (s : State) (c asid : Nat) (sup : Bool) (serial : Nat) (r : Record) : Nat → State
  | 0 => s
  | n + 1 =>
    let s := s.revert c asid sup serial r n
    match s.manifestLine c asid sup r n with
    | none => s
    | some (l, s) => s.revertLine asid l serial r

/-! ## Operations at the commit record (R138, R143, R144) -/

/-- What an operation at a record gives: its status, the serial, the name and SP of a new entry. -/
structure RecordRes where
  status : Nat
  serial : Nat := 0
  name : Nat := 0
  sp : Bool := false
  deriving DecidableEq, Repr

/-- A record changed, with its CRC. -/
def State.updateRecord (s : State) (c : Nat) (r : Record) : State := ((s.beforeWrite c (r.key % 2 ^ 20) 64).putRecord r).stirCore c

/-- The value of a record's counter one lower; one that is 0 becomes all ones (DESIGN CHOICE, log 116). -/
def Record.lower (r : Record) (lo w : Nat) : Record := r.set lo w (bitsOf r.img lo w + 2 ^ w - 1)

/-- One operation at the record of core c, as one step. -/
def State.recordOp (s : State) (c : Nat) (m : BundleReq) : RecordRes × State :=
  let r := s.recordAt m.record
  if !s.recordSound r then (⟨4, 0, 0, false⟩, s)
  else
    let sp := decide (0 < r.pinP + r.pinO)
    match m.kind with
    | .bopen =>
      if r.opened ≠ 0 then (⟨1, 0, 0, false⟩, s)
      else if r.high = 2 ^ 24 - 1 then (⟨3, 0, 0, false⟩, s)
      else
        let n := r.high + 1
        let r' := ((r.set 64 24 n).set 416 24 n).set 88 8 1
        if r.init then (⟨0, n, r.name, sp⟩, s.updateRecord c r')
        else
          match s.manifestLines c m.asid m.sup r r.lines with
          | none => (⟨13, 0, 0, false⟩, s)
          | some (ls, s) => (⟨0, n, r.name, sp⟩, (s.initLines r.name r.lines 0 ls).updateRecord c (r'.set 31 1 1))
    | .bopenJ =>
      if r.opened = 0 then (⟨5, 0, 0, false⟩, s)
      else if r.writers = 255 then (⟨14, 0, 0, false⟩, s)
      else (⟨0, r.opened, r.name, sp⟩, s.updateRecord c (r.set 88 8 (r.writers + 1)))
    | .view =>
      if r.committed = 0 then (⟨8, 0, 0, false⟩, s)
      else (⟨0, r.committed, r.name, false⟩, s.updateRecord c (r.set 256 32 (r.pinC + 1)))
    | .vclose =>
      if m.write then (⟨0, 0, 0, false⟩, s.updateRecord c (r.lower 88 8))
      else
        let r' := if m.serial = r.committed then r.lower 256 32 else if m.serial = r.prev then r.lower 288 32 else r.lower 320 32
        (⟨if m.fr = 0 then 0 else 8 + m.fr, 0, 0, false⟩, s.updateRecord c r')
    | .bcommit =>
      if r.writers ≠ 1 then (⟨6, 0, 0, false⟩, s)
      else if r.opened ≠ m.serial then (⟨7, 0, 0, false⟩, s)
      else
        let r' := (((((r.set 320 32 (r.pinO + r.pinP)).set 288 32 r.pinC).set 256 32 0).set 352 24 r.committed).set 32 24 r.opened)
        (⟨0, 0, 0, false⟩, s.updateRecord c ((r'.set 64 24 0).set 88 8 0))
    | .babort =>
      -- a lost entry skips the checks and leaves the record (R433); `fr` 1 marks it
      if m.fr = 1 then (⟨0, 0, 0, false⟩, s.revert c m.asid m.sup m.serial r r.lines)
      else if r.writers ≠ 1 then (⟨6, 0, 0, false⟩, s)
      else (⟨0, 0, 0, false⟩, (s.revert c m.asid m.sup m.serial r r.lines).updateRecord c ((r.set 64 24 0).set 88 8 0))

/-- The HBM addresses, with package and station, that an operation at the record of core c reads: the manifest, for a first opening and a revert, and
the spill entries that a revert copies back (R138, R140). -/
def State.recordReads (s : State) (c : Nat) (m : BundleReq) : List (Nat × Nat × Word) :=
  let r := s.recordAt m.record
  let manifest : List (Nat × Nat × Word) := (List.range (r.lines / 8192 + 2)).map fun i =>
    (devOf c, stationOf c, r.manifest + BitVec.ofNat 64 (8 * min (8192 * i) (r.lines - 1)))
  let back (i : Nat) : Option (Nat × Nat × Word) :=
    match s.manifestLine c m.asid m.sup r i with
    | none => none
    | some (l, _) =>
      let x := s.lineMeta l
      let k := if metaSerial x 0 = m.serial then 0 else 1
      if metaSerial x k = m.serial ∧ metaSpilled x k then some (devOfKey l, 64, r.spill + BitVec.ofNat 64 (128 * metaCidx x)) else none
  if !s.recordSound r then []
  else
    match m.kind with
    | .bopen => if r.opened ≠ 0 ∨ r.high = 2 ^ 24 - 1 ∨ r.init then [] else manifest
    | .babort => if m.fr ≠ 1 ∧ r.writers ≠ 1 then [] else manifest ++ (List.range r.lines).filterMap back
    | _ => []

/-- An operation at a record waits for the expansion of a page that it reads (R109): the manifest's pages first, which name the rest. -/
def State.stallRecord (s : State) (c : Nat) (m : BundleReq) : Option State :=
  s.stalledAt m.src.core m.asid (s.recordReads c m) (.commitRecordOperation m)

/-- Whether a bundle operation makes a new entry. -/
def makesEntry : BundleKind → Bool
  | .view | .bopen | .bopenJ => true
  | _ => false

/-- The image of a new view-table entry; TICK is set when it is filled (R137). -/
def entryImage (m : BundleReq) (x : RecordRes) : BitVec 128 :=
  BitVec.ofNat 128 (1 + (match m.kind with | .view => 0 | _ => 2) + (match m.kind with | .bopen => 4 | _ => 0) + m.src.slot % 16 * 2 ^ 3 +
    b2n x.sp * 2 ^ 9 + x.name * 2 ^ 16 + x.serial * 2 ^ 36 + bitsOf m.record.toNat 57 6 * 2 ^ 60 + bitsOf m.record.toNat 45 12 * 2 ^ 66 +
    bitsOf m.record.toNat 6 15 * 2 ^ 78)

/-- The result word (R138). -/
def resultWord (index status serial : Nat) : Word := BitVec.ofNat 64 (index % 16 + status % 16 * 2 ^ 4 + serial % 2 ^ 24 * 2 ^ 8)

/-- What the answer of an operation fills: the result word, and the entry filled or freed (R138, R144). -/
def bundleParts (m : BundleReq) (x : RecordRes) : List FillPart :=
  if makesEntry m.kind then
    if x.status = 0 then [.scalar m.reg m.seq (resultWord m.entry 0 x.serial), .entry m.entry (entryImage m x)]
    else [.scalar m.reg m.seq (resultWord 0 x.status 0), .free m.entry]
  else
    let word := FillPart.scalar m.reg m.seq (resultWord m.entry x.status m.serial)
    match m.kind with
    | .bcommit => if x.status = 0 then [word, .free m.entry] else [word]
    | _ => [word, .free m.entry]

/-! ## The bundle instructions (R272) -/

/-- A request to the core of a record. -/
def State.toRecord (s : State) (m : BundleReq) : State :=
  let c := coreNamed m.record
  if c = m.src.core then s.after (4 * Config.cycle) (.commitRecordOperation m) else s.send m.src.core c (.commitRecordOperation m)

/-- The access that a bundle instruction counts as, with its destination waiting for the result word. -/
def State.bundleAcc (s : State) (a : SReg) (record : Word) : Nat × Nat × State :=
  let (id, s) := s.fresh
  let (q, s) := s.startLoad a
  let acc : Acc := { id := id, addr := record, home := homeOf s.cur.core record, regs := [(a.toNat, q, false, a.toNat)], asid := s.me.asid, sup := s.me.sup,
                     cells := cellNumbers record 64 }
  (id, q, s.addOut acc)

/-- view, bopen and bopen.j: sb holds the record's address. The entry taken is the lowest free one (DESIGN CHOICE, log 115). -/
def State.openForm (s : State) (o : OpAB) (kind : BundleKind) : Try State :=
  let c := s.cur.core
  s.fillable o.a <|
  s.readable o.b <|
    match s.peek o.b with
    | .error e => .error e
    | .ok v =>
      let h := homeOf c v
      s.serviceLocal h <|
      s.mayIssue {} h 0 <|
      ensure (addrOk v && isFabric v) 6 v 0 <|
      ensure (v.toNat % 64 == 0) 7 v 0 <|
      ensure (devOf (coreNamed v) == devOf c || s.myRoutes.getLsbD (devOf (coreNamed v))) 9 v (devOf (coreNamed v)) <|
      ensure (h != .own || decide (offsetOf v < 2 ^ 20)) 6 v 0 <|
        let asid := s.me.asid
        let sup := s.me.sup
        let free := (List.range 16).find? fun i => !(s.myCore.view i).getLsbD 0 && !(s.myCore.notes.get {} i).pending
        let (id, q, s) := (s.consume [(o.b, o.q)]).bundleAcc o.a v
        match free with
        | none => .ok (s.after (4 * Config.cycle) (.fill ⟨⟨c, s.cur.slot, id⟩, [.scalar o.a.toNat q (resultWord 0 2 0)]⟩))
        | some i =>
          let s := s.modMyCore fun k => { k with notes := k.notes.put i { pending := true, asid := asid, sup := sup } }
          .ok (s.toRecord { src := ⟨c, s.cur.slot, id⟩, reg := o.a.toNat, seq := q, kind := kind, record := v, entry := i, serial := 0, fr := 0,
                            opener := false, write := false, asid := asid, sup := sup })

/-- vclose, bcommit and babort: sb holds an entry index. `here`: the status that the issuing core decides by itself. -/
def State.closeForm (s : State) (o : OpAB) (kind : BundleKind) (here : BitVec 128 → EntryNote → Option Nat) : Try State :=
  let c := s.cur.core
  s.fillable o.a <|
  s.readable o.b <|
    match s.peek o.b with
    | .error e => .error e
    | .ok v =>
      -- an access that names an entry issues only once the thread's earlier ones are complete, its opening among them (R113, R143)
      hold (!s.priorInFlight && s.me.live.isEmpty) .access <|
      s.withEntry v fun e =>
        let i := v.toNat
        let note := s.myCore.notes.get {} i
        let rec_ := viewRecord e
        let fr := viewFr e
        let serial := field e 36 24
        let h := homeOf c rec_
        s.serviceLocal h <|
        s.mayIssue {} h 0 <|
        hold (!(kind == .bcommit) || s.me.out.isEmpty) .access <|
          let asid := s.me.asid
          let sup := s.me.sup
          let (id, q, s) := (s.consume [(o.b, o.q)]).bundleAcc o.a rec_
          let src : Asker := ⟨c, s.cur.slot, id⟩
          match here e note with
          | some st =>
            let free := if kind == .vclose && st != 12 then [FillPart.free i] else []
            .ok (s.after (4 * Config.cycle) (.fill ⟨src, .scalar o.a.toNat q (resultWord i st serial) :: free⟩))
          | none =>
            let s := if kind == .vclose then s.modMyCore fun k => { k with notes := k.notes.put i { note with closing := true } } else s
            .ok (s.toRecord { src := src, reg := o.a.toNat, seq := q, kind := kind, record := rec_, entry := i, serial := serial,
                              fr := if kind == .babort then b2n note.lost else fr, opener := e.getLsbD 2, write := e.getLsbD 1,
                              asid := asid, sup := sup })

/-- view (R143). -/
def execView (m : Mods) (o : OpAB) (s : State) : Host.Outcome State Fault Refusal := s.guarded m fun s => s.openForm o .view

/-- bopen (R138). -/
def execBopen (m : Mods) (o : OpAB) (s : State) : Host.Outcome State Fault Refusal := s.guarded m fun s => s.openForm o .bopen

/-- bopen.j (R138). -/
def execBopenJ (m : Mods) (o : OpAB) (s : State) : Host.Outcome State Fault Refusal := s.guarded m fun s => s.openForm o .bopenJ

/-- vclose (R144): an opener's entry gives 12; a view whose pin the age rule released closes here. -/
def execVclose (m : Mods) (o : OpAB) (s : State) : Host.Outcome State Fault Refusal :=
  s.guarded m fun s => s.closeForm o .vclose fun e n =>
    if e.getLsbD 1 then (if e.getLsbD 2 then some 12 else none)
    else if n.released then some (if viewFr e = 0 then 0 else 8 + viewFr e) else none

/-- bcommit (R138): an entry that is not an opener's gives 12. -/
def execBcommit (m : Mods) (o : OpAB) (s : State) : Host.Outcome State Fault Refusal :=
  s.guarded m fun s => s.closeForm o .bcommit fun e _ => if e.getLsbD 1 && e.getLsbD 2 then none else some 12

/-- babort (R138, R433). -/
def execBabort (m : Mods) (o : OpAB) (s : State) : Host.Outcome State Fault Refusal :=
  s.guarded m fun s => s.closeForm o .babort fun e _ => if e.getLsbD 1 && e.getLsbD 2 then none else some 12

/-! ## Entries that fill and end -/

/-- A view-table entry filled: its TICK is now, and a view's age begins (R137, R144). A part whose V is clear marks an entry fractured, if it is
not yet. -/
def State.fillEntry (s : State) (c i : Nat) (img : BitVec 128) : State :=
  if img.getLsbD 0 then
    let tick := s.timeOf (devOf c) % 2 ^ 32
    let s := s.modCore c fun k =>
      { k.setView i (setField img 96 32 tick) with notes := k.notes.put i { k.notes.get {} i with pending := false } }
    if img.getLsbD 1 then s else s.after (10000000 * Config.tick) (.viewAgeExpiry c i tick)
  else
    let e := (s.core c).view i
    if e.getLsbD 0 && viewFr e == 0 then s.modCore c fun k => k.setView i (setField e 7 2 (field img 7 2)) else s

/-- A view-table entry freed. -/
def State.freeEntry (s : State) (c i : Nat) : State := s.modCore c fun k => { k.setView i 0 with notes := k.notes.drop i }

/-- A closing that fills no register: by `quit`, a kill, the age rule or a snapshot's end (R144, R145, R147). -/
def State.quietClose (s : State) (c i : Nat) (e : BitVec 128) (kind : BundleKind) (n : EntryNote) : State :=
  s.toRecord { src := ⟨c, viewSlot e, 0⟩, reg := 0, seq := 0, kind := kind, record := viewRecord e, entry := i, serial := field e 36 24,
               fr := b2n n.lost, opener := e.getLsbD 2, write := e.getLsbD 1, asid := n.asid, sup := n.sup, quiet := true }

/-- VIEW_AGE_EXPIRY (R144): FR becomes age, and the pin is released; while a `vclose` of the entry is under way, its answer comes first. -/
def execViewAgeExpiry (s : State) : Host.Outcome State Fault Refusal :=
  s.perform fun s e =>
    match e with
    | .viewAgeExpiry c i tick =>
      let x := (s.core c).view i
      let n := (s.core c).notes.get {} i
      let aged := x.getLsbD 0 && !x.getLsbD 1 && field x 96 32 == tick && !n.released
      if aged && n.closing then some (s.after Config.us (.viewAgeExpiry c i tick))
      else if aged then
        let s := s.modCore c fun k => { k.setView i (setField x 7 2 1) with notes := k.notes.put i { n with released := true } }
        some (s.quietClose c i x .vclose { n with lost := false })
      else some s
    | _ => none

/-- The entries of a thread that ends: views and joins are closed, openers' serials aborted (R145, R433). -/
def State.closeEntries (s : State) (c n : Nat) : State :=
  (List.range 16).foldl (fun s i =>
    let e := (s.core c).view i
    let x := (s.core c).notes.get {} i
    if e.getLsbD 0 && viewSlot e == n then
      let s := s.freeEntry c i
      if e.getLsbD 2 then s.quietClose c i e .babort x
      else if !e.getLsbD 1 && x.released then s
      else s.quietClose c i e .vclose { x with lost := false }
    else s) s

/-! ## Windows (R133) -/

/-- VWIN_WRITE (R133): a window that would be empty, too long, beyond the tile store or over the other one stays disabled; turning one on, or
moving it, clears the metadata of its lines, one cycle for every 16. The other window counts only while it is enabled itself (DESIGN CHOICE,
log 90: the rule says only that the window would overlap the other one). -/
def execVwinWrite (s : State) : Host.Outcome State Fault Refusal :=
  s.perform fun s e =>
    match e with
    | .vwinWrite c i v =>
      let k := s.core c
      let old := k.vwin.get 0 i
      let base := field v 12 8 * 4096
      let lines := field v 32 13
      let other := k.vwin.get 0 (1 - i)
      let ob := field other 12 8 * 4096
      let oe := ob + 144 * field other 32 13
      let fits := lines ≠ 0 ∧ lines ≤ 7281 ∧ base + 144 * lines ≤ 2 ^ 20 ∧
        (other.getLsbD 0 = false ∨ base + 144 * lines ≤ ob ∨ oe ≤ base)
      let en := v.getLsbD 0 && decide fits
      let new := maskTo 0 v 0x1FFF000FF000 ||| (if en then 1 else 0)
      let s := s.setCore c { k with vwin := k.vwin.put i new }
      if en && (!old.getLsbD 0 || field old 12 8 != field v 12 8 || field old 32 13 != lines) then
        let s := (List.range lines).foldl (fun s j => s.putTile c (base + 144 * j + 128) (List.replicate 16 0)) s
        let s := s.modCore c fun k => { k with clearing := i :: k.clearing }
        some (s.after ((lines + 15) / 16 * Config.cycle) (.windowMetadataClearingEnd c i))
      else some s
    | _ => none

end Sys2Proof.Machine
end

