-- ==== Sys2Proof/Machine/ScalarFloat.lean ====
section
/-!
DEFINITION. Page 2: scalar floating point (spec/12 R273 to R282). A result is written zero-extended; Z, N, C and V stay as they were.
-/

namespace Sys2Proof.Machine

/-- The format of a floating element type (R56). -/
def elemFmt (t : ElemTy) : Fmt :=
  match t with
  | .f16 => fp16
  | .bf16 => Sys2Proof.Machine.bf16
  | _ => fp32

/-- The element type of a page 2 form: f32 without PFX.X (R273). -/
def fmtOf (x : Option ArithX) : Fmt :=
  match x with
  | none => fp32
  | some x => elemFmt x.ty

/-- How a form of the issuing thread rounds (R57, R34). -/
def State.fenv (s : State) (x : Option ArithX) : FEnv :=
  match x with
  | none => { flush := s.me.flush }
  | some x => { rnd := x.rnd, sat := x.sat, flush := s.me.flush }

/-- An operand's code: the low bits of the register. -/
def Fmt.code (f : Fmt) (v : Word) : Nat := v.toNat % 2 ^ f.width

/-- What a floating-point operation writes. -/
def fres (r : Nat × Sticky) : Res := { v := BitVec.ofNat 64 r.1, sticky := r.2 }

/-- A binary floating-point form. -/
def State.fbinary (s : State) (x : Option ArithX) (o : OpBin) (f : Fmt → FEnv → Nat → Nat → Nat × Sticky) : Try State :=
  s.binary o fun a b => fres (f (fmtOf x) (s.fenv x) ((fmtOf x).code a) ((fmtOf x).code b))

/-- A unary floating-point form. -/
def State.funary (s : State) (x : Option ArithX) (o : OpAB) (f : Fmt → FEnv → Nat → Nat × Sticky) : Try State :=
  s.unary o fun a => fres (f (fmtOf x) (s.fenv x) ((fmtOf x).code a))

/-- A floating-point comparison (R276). -/
def State.fcompare (s : State) (x : Option ArithX) (o : OpCmp) (k : FCond) : Try State :=
  s.readable o.a <| s.readable o.b <|
    match s.peek2 o.a o.b with
    | .error e => .error e
    | .ok (u, w) =>
      let r := (fmtOf x).cmp s.me.flush k ((fmtOf x).code u) ((fmtOf x).code w)
      .ok (((s.consume [(o.a, false), (o.b, o.q)]).modPred r.2.raise).pwrite o.p (r.1 != o.neg))

/-- fadd (R274). -/
def execFadd (m : Mods) (x : Option ArithX) (o : OpBin) (s : State) : Host.Outcome State Fault Refusal :=
  s.guarded m fun s => s.fbinary x o Fmt.add

/-- fsub (R274). -/
def execFsub (m : Mods) (x : Option ArithX) (o : OpBin) (s : State) : Host.Outcome State Fault Refusal :=
  s.guarded m fun s => s.fbinary x o Fmt.sub

/-- fmul (R274). -/
def execFmul (m : Mods) (x : Option ArithX) (o : OpBin) (s : State) : Host.Outcome State Fault Refusal :=
  s.guarded m fun s => s.fbinary x o Fmt.mul

/-- fdiv (R274). -/
def execFdiv (m : Mods) (x : Option ArithX) (o : OpBin) (s : State) : Host.Outcome State Fault Refusal :=
  s.guarded m fun s => s.fbinary x o Fmt.div

/-- fsqrt (R274). -/
def execFsqrt (m : Mods) (x : Option ArithX) (o : OpAB) (s : State) : Host.Outcome State Fault Refusal :=
  s.guarded m fun s => s.funary x o Fmt.sqrt

/-- fma (R274): a + b × c with one rounding. -/
def execFma (m : Mods) (x : Option ArithX) (o : OpABC) (s : State) : Host.Outcome State Fault Refusal :=
  s.guarded m fun s => s.ternary o fun a b c =>
    let f := fmtOf x
    fres (f.fma (s.fenv x) (f.code a) (f.code b) (f.code c))

/-- fmin (R274). -/
def execFmin (m : Mods) (x : Option ArithX) (o : OpBin) (s : State) : Host.Outcome State Fault Refusal :=
  s.guarded m fun s => s.fbinary x o fun f v => f.minMax v true

/-- fmax (R274). -/
def execFmax (m : Mods) (x : Option ArithX) (o : OpBin) (s : State) : Host.Outcome State Fault Refusal :=
  s.guarded m fun s => s.fbinary x o fun f v => f.minMax v false

/-- The sign bit cleared, or inverted (R275). -/
def Fmt.absCode (f : Fmt) (c : Nat) : Nat := bitsOf c 0 (f.width - 1)
def Fmt.negCode (f : Fmt) (c : Nat) : Nat := f.signed (!bitAt c (f.width - 1)) (f.absCode c)

/-- fabs (R275): bits only, no FLUSH, no flag. -/
def execFabs (m : Mods) (x : Option ArithX) (o : OpAB) (s : State) : Host.Outcome State Fault Refusal :=
  s.guarded m fun s => s.funary x o fun f _ c => (f.absCode c, {})

/-- fneg (R275). -/
def execFneg (m : Mods) (x : Option ArithX) (o : OpAB) (s : State) : Host.Outcome State Fault Refusal :=
  s.guarded m fun s => s.funary x o fun f _ c => (f.negCode c, {})

/-- fcmp.eq (R276). -/
def execFcmpEq (m : Mods) (x : Option ArithX) (o : OpCmp) (s : State) : Host.Outcome State Fault Refusal :=
  s.guarded m fun s => s.fcompare x o .eq

/-- fcmp.lt (R276). -/
def execFcmpLt (m : Mods) (x : Option ArithX) (o : OpCmp) (s : State) : Host.Outcome State Fault Refusal :=
  s.guarded m fun s => s.fcompare x o .lt

/-- fcmp.le (R276). -/
def execFcmpLe (m : Mods) (x : Option ArithX) (o : OpCmp) (s : State) : Host.Outcome State Fault Refusal :=
  s.guarded m fun s => s.fcompare x o .le

/-- fcmp.un (R276). -/
def execFcmpUn (m : Mods) (x : Option ArithX) (o : OpCmp) (s : State) : Host.Outcome State Fault Refusal :=
  s.guarded m fun s => s.fcompare x o .un

/-- The format of a conversion code that names one (R56, R278, R296). -/
def cvtFmt (c : Nat) : Option Fmt :=
  match c with
  | 0 => some fp32
  | 1 => some fp16
  | 2 => some Sys2Proof.Machine.bf16
  | 9 => some e4m3
  | 10 => some e5m2
  | _ => none

/-- The integer type of a conversion code. -/
def cvtInt (c : Nat) : IntTy :=
  match c with
  | 3 => ⟨32, true⟩
  | 4 => ⟨16, true⟩
  | 5 => ⟨8, true⟩
  | 6 => ⟨8, false⟩
  | 7 => ⟨32, false⟩
  | _ => ⟨64, true⟩

/-- A conversion of an element, given as the low bits of a word; an integer result is extended under its type (R278, R283). -/
def cvtElem (v : FEnv) (tgt src : Nat) (w : Word) : Word × Sticky :=
  match cvtFmt src, cvtFmt tgt with
  | some g, some f => let r := g.convert f v (g.code w); (BitVec.ofNat 64 r.1, r.2)
  | some g, none => let r := g.toInt v (cvtInt tgt) (g.code w); ((cvtInt tgt).write false r.1, r.2)
  | none, some f => let r := f.ofInt v ((cvtInt src).read w); (BitVec.ofNat 64 r.1, r.2)
  | none, none => ((cvtInt tgt).write v.sat ((cvtInt src).read w), {})

/-- fcvt (R278). -/
def execFcvt (m : Mods) (x : Option ArithX) (o : OpCvt) (s : State) : Host.Outcome State Fault Refusal :=
  s.guarded m fun s => s.unary ⟨o.a, o.b, o.q⟩ fun a =>
    let r := cvtElem (s.fenv x) o.tgt.toNat o.src.toNat a
    { v := r.1, sticky := r.2 }

/-- fround (R277). -/
def execFround (m : Mods) (x : Option ArithX) (o : OpAB) (s : State) : Host.Outcome State Fault Refusal :=
  s.guarded m fun s => s.funary x o Fmt.integral

/-- fsin (R280). -/
def execFsin (m : Mods) (x : Option ArithX) (o : OpAB) (s : State) : Host.Outcome State Fault Refusal :=
  s.guarded m fun s => s.funary x o fun f v => f.fixed v f32sin

/-- fcos (R280). -/
def execFcos (m : Mods) (x : Option ArithX) (o : OpAB) (s : State) : Host.Outcome State Fault Refusal :=
  s.guarded m fun s => s.funary x o fun f v => f.fixed v f32cos

/-- fexp2 (R281). -/
def execFexp2 (m : Mods) (x : Option ArithX) (o : OpAB) (s : State) : Host.Outcome State Fault Refusal :=
  s.guarded m fun s => s.funary x o fun f v => f.fixed v f32exp2

/-- flog2 (R282). -/
def execFlog2 (m : Mods) (x : Option ArithX) (o : OpAB) (s : State) : Host.Outcome State Fault Refusal :=
  s.guarded m fun s => s.funary x o fun f v => f.fixed v f32log2

/-- frcp (R274). -/
def execFrcp (m : Mods) (x : Option ArithX) (o : OpAB) (s : State) : Host.Outcome State Fault Refusal :=
  s.guarded m fun s => s.funary x o Fmt.rcp

/-- fclass (R277). -/
def execFclass (m : Mods) (o : OpAB) (s : State) : Host.Outcome State Fault Refusal :=
  s.guarded m fun s => s.unary o fun a => { v := BitVec.ofNat 64 (fclassMask (fp32.code a)) }

/-- fbit (R275): x with the sign bit of y, on 32 bits. -/
def execFbit (m : Mods) (o : OpBin) (s : State) : Host.Outcome State Fault Refusal :=
  s.guarded m fun s => s.binary o fun a b =>
    { v := BitVec.ofNat 64 (fp32.signed (b.getLsbD 31) (fp32.absCode (fp32.code a))) }

end Sys2Proof.Machine
end

