-- ==== Sys2Proof/Machine/Lanes.lean ====
section
/-!
DEFINITION. Vector registers as elements, groups and lane masks (spec/13 R283 to R292), and the shared shapes of page 3 and page 4 forms.
-/

namespace Sys2Proof.Machine

/-- The width in bytes of an element type (R283). -/
def elemBytes (t : ElemTy) : Nat :=
  match t with
  | .f32 | .i32 | .u32 => 4
  | .f16 | .bf16 | .i16 => 2
  | .i8 | .u8 => 1

/-- The element type of a page 3 form: `d` without PFX.X (R288). -/
def tyOf (d : ElemTy) (x : Option ArithX) : ElemTy :=
  match x with
  | none => d
  | some x => x.ty

/-- The n elements of w bytes from the bottom of a number. -/
def elemsFrom (w : Nat) : Nat → Nat → List Nat
  | 0, _ => []
  | n + 1, v => v % 2 ^ (8 * w) :: elemsFrom w n (v / 2 ^ (8 * w))

/-- The elements of a vector register. -/
def elems (w : Nat) (v : BitVec 2048) : List Nat := elemsFrom w (256 / w) v.toNat

/-- The number whose elements these are. -/
def joinElems (w : Nat) : List Nat → Nat
  | [] => 0
  | x :: xs => x % 2 ^ (8 * w) + 2 ^ (8 * w) * joinElems w xs

def ofElems (w : Nat) (xs : List Nat) : BitVec 2048 := BitVec.ofNat 2048 (joinElems w xs)

/-- Element i of a register. -/
def elemAt (w : Nat) (v : BitVec 2048) (i : Nat) : Nat := bitsOf v.toNat (8 * w * i) (8 * w)

/-- A scalar's low element in every place (R291). -/
def splat (w : Nat) (x : Word) : BitVec 2048 := ofElems w (List.replicate (256 / w) (x.toNat % 2 ^ (8 * w)))

/-- The bits of the active groups. -/
def groupBits (act : Word) : BitVec 2048 :=
  ofElems 4 ((List.range 64).map fun j => if act.getLsbD j then 2 ^ 32 - 1 else 0)

/-- The active groups of a new value over an old one (R286). -/
def overlay (act : Word) (old new : BitVec 2048) : BitVec 2048 :=
  (new &&& groupBits act) ||| (old &&& ~~~groupBits act)

/-- Whether the group of element i is active. -/
def actElem (act : Word) (w i : Nat) : Bool := act.getLsbD (i * w / 4)

/-- An element-by-element operation: only active elements are computed and raise flags (R65, R286). -/
def mapElems (act : Word) (w : Nat) (f : Nat → Nat → Nat × Sticky) (i : Nat) : List Nat → List Nat → List Nat × Sticky
  | x :: xs, y :: ys =>
    let r := if actElem act w i then f x y else (0, {})
    let t := mapElems act w f (i + 1) xs ys
    (r.1 :: t.1, r.2.or t.2)
  | _, _ => ([], {})

/-- The operation on whole registers. -/
def lanes2 (act : Word) (w : Nat) (f : Nat → Nat → Nat × Sticky) (x y : BitVec 2048) : BitVec 2048 × Sticky :=
  let r := mapElems act w f 0 (elems w x) (elems w y)
  (ofElems w r.1, r.2)

/-- An integer lane's result: the exact value, wrapped or clamped, as a code (R289). -/
def IntTy.lane (t : IntTy) (sat : Bool) (r : Int) : Nat × Sticky := ((t.write sat r).toNat % 2 ^ t.w, {})

/-- The integer an element's code stands for. -/
def IntTy.elem (t : IntTy) (c : Nat) : Int := t.read (BitVec.ofNat 64 c)

/-- One lane of a form of either kind (R289, R290). -/
def laneOp (t : ElemTy) (v : FEnv) (ff : Fmt → FEnv → Nat → Nat → Nat × Sticky) (fi : Int → Int → Int) (x y : Nat) : Nat × Sticky :=
  if t.isFloat then ff (elemFmt t) v x y
  else (elemInt t).lane v.sat (fi ((elemInt t).elem x) ((elemInt t).elem y))

/-! ## Shared shapes of the forms -/

/-- The registers a vector source names. -/
def vecsOf : VSrc → List VNum
  | .vec v => [v]
  | _ => []

/-- A vector destination written in the active groups and set full, with flags raised (R286). -/
def State.vresult (s : State) (a : VNum) (act : Word) (r : BitVec 2048 × Sticky) : State :=
  let s := s.modVreg a fun v => v.write (overlay act v.v r.1)
  s.modPred r.2.raise

/-- The checks before a vector form's own: banks held (R243), and risen (R36). -/
def State.vchecks {α : Type} (s : State) (m : Mods) (vs : List VNum) (ms : List PNum) (k : Try α) : Try α :=
  s.holdsAll vs (ms ++ guardMasks m) <| s.banksUp vs k

/-- A binary vector form (R291): y may be a scalar in every element. -/
def State.vbinary (s : State) (m : Mods) (w : Nat) (o : OpVBin)
    (f : Word → BitVec 2048 → BitVec 2048 → BitVec 2048 × Sticky) : Try State :=
  let act := s.lanes m
  s.vchecks m (o.a :: o.b :: vecsOf o.c) [] <|
  s.vwritable o.a <|
    match o.c with
    | .absent =>
      match s.vpeek o.a with
      | .error e => .error e
      | .ok x =>
        match s.vpeek o.b with
        | .error e => .error e
        | .ok y => .ok ((s.vconsume [(o.a, false), (o.b, o.q)]).vresult o.a act (f act x y))
    | .vec c =>
      match s.vpeek o.b with
      | .error e => .error e
      | .ok x =>
        match s.vpeek c with
        | .error e => .error e
        | .ok y => .ok ((s.vconsume [(o.b, o.q), (c, false)]).vresult o.a act (f act x y))
    | .scal c =>
      s.readable c <|
        match s.vpeek o.b with
        | .error e => .error e
        | .ok x =>
          match s.peek c with
          | .error e => .error e
          | .ok y => .ok (((s.vconsume [(o.b, o.q)]).consume [(c, false)]).vresult o.a act (f act x (splat w y)))

/-- A unary vector form. -/
def State.vunary (s : State) (m : Mods) (o : OpVUn) (f : Word → BitVec 2048 → BitVec 2048 × Sticky) : Try State :=
  let act := s.lanes m
  s.vchecks m [o.a, o.b] [] <|
  s.vwritable o.a <|
    match s.vpeek o.b with
    | .error e => .error e
    | .ok x => .ok ((s.vconsume [(o.b, o.q)]).vresult o.a act (f act x))

/-- A binary form of an element type. -/
def State.vtyped (s : State) (m : Mods) (d : ElemTy) (x : Option ArithX) (o : OpVBin)
    (ff : Fmt → FEnv → Nat → Nat → Nat × Sticky) (fi : Int → Int → Int) : Try State :=
  let t := tyOf d x
  s.vbinary m (elemBytes t) o fun act => lanes2 act (elemBytes t) (laneOp t (s.fenv x) ff fi)

/-- A unary form of an element type. -/
def State.vtyped1 (s : State) (m : Mods) (x : Option ArithX) (o : OpVUn)
    (ff : Fmt → FEnv → Nat → Nat × Sticky) (fi : Int → Int) : Try State :=
  let t := tyOf .f32 x
  s.vunary m o fun act v => lanes2 act (elemBytes t) (laneOp t (s.fenv x) (fun f e a _ => ff f e a) (fun a _ => fi a)) v v

/-- A binary form on 32-bit groups (R293). -/
def State.vgroups (s : State) (m : Mods) (o : OpVBin) (f : Nat → Nat → Nat) : Try State :=
  s.vbinary m 4 o fun act => lanes2 act 4 fun x y => (f x y, {})

/-- A form that writes a scalar from one vector (R298, rule 2). -/
def State.vtoScalar (s : State) (m : Mods) (o : OpSV) (f : Word → BitVec 2048 → Res) : Try State :=
  let act := s.lanes m
  s.vchecks m [o.b] [] <|
  s.writable o.a <|
    match s.vpeek o.b with
    | .error e => .error e
    | .ok x => s.room o.a <| .ok ((s.vconsume [(o.b, o.q)]).result o.a [] (f act x))

/-- A form that writes a vector from one scalar. -/
def State.vfromScalar (s : State) (m : Mods) (o : OpVS) (f : Word → Word → Word × BitVec 2048) : Try State :=
  let act := s.lanes m
  s.vchecks m [o.a] [] <|
  s.vwritable o.a <| s.readable o.b <|
    match s.peek o.b with
    | .error e => .error e
    | .ok x =>
      let r := f act x
      .ok ((s.consume [(o.b, o.q)]).vresult o.a r.1 (r.2, {}))

/-- A comparison (R295): for each active group, whether the condition holds in every element, xor the negate bit. -/
def State.vcompare (s : State) (m : Mods) (x : Option ArithX) (o : OpVCmp) (k : FCond) : Try State :=
  let act := s.lanes m
  let t := tyOf .f32 x
  let f (a b : Nat) : Nat × Sticky :=
    if t.isFloat then
      let r := (elemFmt t).cmp (s.fenv x).flush k a b
      (b2n r.1, r.2)
    else
      let i := (elemInt t).elem a
      let j := (elemInt t).elem b
      (b2n (match k with | .eq => i == j | .lt => decide (i < j) | .le => decide (i ≤ j) | .un => false), {})
  s.vchecks m [o.a, o.b] [o.m] <|
    match s.vpeek o.a with
    | .error e => .error e
    | .ok u =>
      match s.vpeek o.b with
      | .error e => .error e
      | .ok v =>
        let r := mapElems act (elemBytes t) f 0 (elems (elemBytes t) u) (elems (elemBytes t) v)
        let n := 4 / (elemBytes t)
        let bits := (List.range 64).map fun j => ((r.1.drop (n * j)).take n).all (· == 1) != o.neg
        let res : Word := BitVec.ofNat 64 (joinBits bits)
        let s := (s.vconsume [(o.a, false), (o.b, o.q)]).modPred r.2.raise
        .ok (s.modMe fun t => { t with masks := t.masks.put o.m.toNat ((res &&& act) ||| (t.mask o.m.toNat &&& ~~~act)) })
where
  /-- The number whose bits these are, lowest first. -/
  joinBits : List Bool → Nat
    | [] => 0
    | b :: bs => b2n b + 2 * joinBits bs

/-- The lowest active group, 64 when there is none. -/
def lowestGroup (act : Word) : Nat := trailingZeros act 0 64

/-- One level of a reduction's tree (R300). -/
def treeLevel {α : Type} (f : α → α → α) : List (Option α) → List (Option α)
  | [] => []
  | [x] => [x]
  | x :: y :: rest =>
    (match x, y with
     | some a, some b => some (f a b)
     | some a, none => some a
     | none, z => z) :: treeLevel f rest

/-- The tree's root: 8 levels cover 256 elements. -/
def treeRoot {α : Type} (f : α → α → α) : Nat → List (Option α) → Option α
  | 0, xs => xs.head?.getD none
  | n + 1, xs => treeRoot f n (treeLevel f xs)

/-- The active elements of a register in their places. -/
def activeElems (act : Word) (w : Nat) (x : BitVec 2048) : List (Option Nat) :=
  let xs := elems w x
  (List.range xs.length).zipWith (fun i e => if actElem act w i then some e else none) xs

/-- A reduction of a float type by an operation on codes. -/
def reduceFloat (f : Nat → Nat → Nat × Sticky) (xs : List (Option (Nat × Sticky))) (empty : Nat) : Nat × Sticky :=
  (treeRoot (fun a b => let r := f a.1 b.1; (r.1, (a.2.or b.2).or r.2)) 8 xs).getD (empty, {})

/-- A lane-mask form that writes a mask in its active bits (R307). -/
def State.mwrite (s : State) (m : Mods) (a : PNum) (v : Word) : State :=
  let act := s.lanes m
  s.modMe fun t => { t with masks := t.masks.put a.toNat ((v &&& act) ||| (t.mask a.toNat &&& ~~~act)) }

/-- A binary lane-mask form. -/
def State.mbinary (s : State) (m : Mods) (o : OpMBin) (f : Word → Word → Word) : Try State :=
  s.vchecks m [] (o.a :: o.b :: o.c.toList) <|
    let x := s.me.mask (match o.c with | none => o.a | some _ => o.b).toNat
    let y := s.me.mask (match o.c with | none => o.b | some c => c).toNat
    .ok (s.mwrite m o.a (f x y))

/-- A form that writes a scalar from a mask: x and G (R307). -/
def State.mtoScalar (s : State) (m : Mods) (o : OpMGet) (f : Word → Word) : Try State :=
  s.vchecks m [] [o.b] <|
    s.produce o.a { v := f (s.me.mask o.b.toNat &&& s.lanes m) }

end Sys2Proof.Machine
end

