-- ==== Sys2Proof/Machine/Banks.lean ====
section
/-!
DEFINITION. Requests at their homes in the tile stores, and their answers: the service queue (spec/10 R208), bank arbitration (R218), held requests
(spec/05 R96), fills (spec/02 R30), acknowledgements, refusals (R100, R101, R449), ordered stores (spec/15 R350) and the replay of posted
accesses (spec/19 R391).
-/

namespace Sys2Proof.Machine

/-! ## The issuer hears (R30, R100, R101, R110) -/

/-- Acting for a slot's instruction at an address. -/
def State.actAs (s : State) (c n addr next : Nat) (f : State → State) : State :=
  { f { s with cur := ⟨c, n, addr, next⟩ } with cur := s.cur }

/-- A request held behind an access goes out once it has waited for all (R115, R128); a refused access is not acknowledged, but has ended. -/
def State.releaseHeld (s : State) (c id : Nat) (refused : Bool) : State :=
  let held := (s.core c).heldBack.map fun e =>
    { e with acks := if refused then e.acks else e.acks.filter (· != id), ends := e.ends.filter (· != id) }
  let free (e : HeldReq) : Bool := e.acks.isEmpty && e.ends.isEmpty
  let s := s.modCore c fun k => { k with heldBack := held.filter fun e => !free e }
  (held.filter free).foldl (fun s e => s.sendOut e.req e.counts) s

/-- What becomes of the thread that an acknowledged access held: its reads are consumed, and it goes on behind the instruction (R28). -/
def State.endHold (s : State) (c n : Nat) (h : Hold) : State :=
  let s := s.actAs c n h.addr h.next fun s => s.consume (h.takes.map fun t => (BitVec.ofNat 4 t.1, t.2))
  s.modSlot c n fun t => ({ t with pc := h.next }).kick

/-- An access listed as outstanding, or as one that its thread left behind. -/
def State.accOf (s : State) (t : Asker) : Option Acc := (s.slot t.core t.slot).out.find? fun a => a.id == t.id

/-- The journal entries of an access (R390). -/
def Acc.entries (a : Acc) : List Nat := a.jrn.toList ++ a.jrn2.toList

/-- The state of an access's journal entries (R391). -/
def State.setEntries (s : State) (c : Nat) (a : Acc) (st : Nat) : State :=
  a.entries.foldl (fun s j => s.modCore c fun k => k.setJrn j (setField (k.jrn j) 1 2 st)) s

/-- An access's journal entries are free. -/
def State.freeEntries (s : State) (c : Nat) (a : Acc) : State := a.entries.foldl (fun s j => s.modCore c fun k => k.setJrn j 0) s

/-- The access stands refused in its journal entry, until its supervisor answers (R391). -/
def State.standsRefused (s : State) (c : Nat) (a : Acc) : Bool := a.jrn.any fun j => field ((s.core c).jrn j) 1 2 == 1

/-- An access has completed: it leaves the thread's list, or stays until its bulk-path point (R110, R111); its journal entries are free. -/
def State.complete (s : State) (t : Asker) : State :=
  match s.accOf t with
  | none =>
    match (s.core t.core).orphans.find? fun a => a.id == t.id with
    | none => s
    | some a =>
      let s := (s.freeEntries t.core a).modCore t.core fun k => { k with orphans := k.orphans.filter fun x => x.id != t.id }
      (s.releaseHeld t.core t.id false).kickAll t.core
  | some a =>
    let s := s.freeEntries t.core a
    let s := s.modSlot t.core t.slot fun x =>
      { x with out := if a.owed = 0 then x.out.filter fun y => y.id != t.id
                      else x.out.map fun y => if y.id == t.id then { y with done := true } else y }
    let s := match a.hold with | none => s | some h => s.endHold t.core t.slot h
    (s.releaseHeld t.core t.id false).kickAll t.core

/-- An access that an answer names: of the thread, or left behind by one. -/
def State.anyAcc (s : State) (t : Asker) : Option Acc := s.accOf t <|> (s.core t.core).orphans.find? fun a => a.id == t.id

/-- An acknowledgement completes its access; one that comes after the access was refused is late, and is discarded (R431). -/
def State.acknowledged (s : State) (t : Asker) : State := if (s.anyAcc t).any (s.standsRefused t.core) then s else s.complete t

/-- A slot that waits for a register goes on when it is filled (R38). -/
def Slot.filled (t : Slot) (n : Nat) (vec : Bool) : Slot :=
  if t.st == .waiting && t.why == .reg n vec then t.endWait else t

/-- A fill of a scalar register takes effect if its sequence is the pending one (R30); `none` marks it failed (R101). -/
def State.fillScalar (s : State) (t : Asker) (n seq : Nat) (v : Option Word) : State :=
  let x := s.slot t.core t.slot
  let r := x.reg n
  if x.st == .free && !x.saved then s.modCore t.core fun k => k.count 4
  else if r.pend && r.seq == seq then
    match v with
    | some v => s.modCore t.core fun k =>
        (k.setSlot t.slot ((x.setReg n { r with v := v, full := true, failed := false, pend := false }).filled n false)).ungate
    | none => s.modCore t.core fun k => (k.setSlot t.slot ((x.setReg n { r with failed := true, pend := false }).filled n false)).ungate
  else s.modCore t.core fun k => k.count 4

/-- A fill of a vector register in its bank (R30, R303); the groups it does not write keep their contents. One whose access its thread no longer has
finds the bank in another's hands, and is discarded (R403). -/
def State.fillVector (s : State) (t : Asker) (p seq : Nat) (v : Option (BitVec 2048 × Word)) : State :=
  let k := s.core t.core
  let r := k.vreg p
  if r.pend && r.seq == seq && (s.accOf t).isSome then
    let r' : VReg :=
      match v with
      | some (v, g) => { r with v := overlay g r.v v, full := true, failed := false, pend := false }
      | none => { r with failed := true, pend := false }
    let x := (k.slot t.slot)
    let j := (List.range 32).find? fun j => x.place j == some p
    let x := match j with | none => x | some j => x.filled j true
    s.setCore t.core ((k.setVreg p r').setSlot t.slot x).ungate
  else s.modCore t.core fun k => k.count 4

/-- The bank in Retain that a fill must wait for (R402). -/
def State.fillRises (s : State) (f : FillMsg) : Option Nat :=
  f.parts.findSome? fun
    | .vector p _ _ _ => if ((s.core f.asker.core).bank (p / 8)).power == .retain then some (p / 8) else none
    | _ => none

/-- One part of a fill. -/
def State.fillPart (s : State) (t : Asker) : FillPart → State
  | .scalar n seq v =>
    if (s.slot t.core t.slot).saved then s.parkArrival t.core t.slot (.fill ⟨t, [.scalar n seq v]⟩) else s.fillScalar t n seq (some v)
  | .vector p seq v g => s.fillVector t p seq (some (v, g))
  | .entry i img => s.fillEntry t.core i img
  | .free i => s.freeEntry t.core i

/-- A fill of a scalar register, which a saved slot parks (R211). -/
def FillPart.scalar? : FillPart → Bool
  | .scalar _ _ _ => true
  | _ => false

/-- FILL (R30): the parts take effect together, and the access that asked is complete. While the overflow store is full, a fill of scalar registers
of a saved slot is answered busy; other fills are not parked (R211). A fill for a bank in Retain takes effect when the bank has risen, and its access is
complete then (R402, R404). -/
def execFill (s : State) : Host.Outcome State Fault Refusal :=
  s.perform fun s e =>
    match e with
    | .fill f =>
      let f := { f with asker := s.follow f.asker }
      let parked := if (s.slot f.asker.core f.asker.slot).saved then f.parts.countP FillPart.scalar? else 0
      if parked ≠ 0 ∧ 512 < (s.core f.asker.core).overflow.length + parked then some (s.after busyTime (.busy (.fill f)))
      else
        match s.fillRises f with
        | some b => some (s.afterRise f.asker.core b (.fill f))
        | none => some ((f.parts.foldl (fun s p => s.fillPart f.asker p) s).complete f.asker)
    | _ => none

/-- A drain whose writes are owed hears of one (R87). -/
def State.drainHears (s : State) (c id : Nat) (refused : Bool) : State :=
  match (s.core c).matrix.drains.find? fun d => d.id == id with
  | none => s
  | some d =>
    let d := { d with left := d.left - 1, refused := d.refused || refused && !d.waking }
    let s := s.modCore c fun k => k.modMatrix fun m => { m with drains := m.drains.map fun x => if x.id == id then d else x }
    if d.left = 0 then s.after 0 (.drainWakeUp c id) else s

/-- ACKNOWLEDGEMENT (R110): the access is complete; a Departing slot's image has been accepted (R43); a drain write is performed (R87). -/
def execAcknowledgement (s : State) : Host.Outcome State Fault Refusal :=
  s.perform fun s e =>
    match e with
    | .acknowledgement t =>
      let t := s.follow t
      let x := s.slot t.core t.slot
      match x.transit with
      | some (m, _) => if m.src.id = t.id then some (s.departed t.core t.slot none) else some ((s.drainHears t.core t.id false).acknowledged t)
      | none => some ((s.drainHears t.core t.id false).acknowledged t)
    | _ => none

/-- The destination registers of a refused load stay empty and take their failed bits (R101). -/
def State.failRegs (s : State) (t : Asker) (a : Acc) : State :=
  a.regs.foldl (fun s r => if r.2.2.1 then s.fillVector t r.1 r.2.1 none else s.fillScalar t r.1 r.2.1 none) s

/-- A refused access, by its kind: a posted one in its journal entry (R391), one that holds its thread as an exact trap (R100), one that
completes by a fill under R101, a local store under R449. -/
def State.refuseAcc (s : State) (t : Asker) (a : Acc) (cause : Nat) : State :=
  let x := s.slot t.core t.slot
  match a.jrn with
  | some j =>
    if s.standsRefused t.core a then s
    else
      let s := (s.setEntries t.core a 1).modCore t.core fun k => k.setJrn j (setField (k.jrn j) 46 6 cause)
      (s.asyncRec t.core t.slot a.asid 32 a.addr (j + cause * 2 ^ 8)).releaseHeld t.core t.id true
  | none =>
    match a.hold with
    | some h =>
      let s := s.modSlot t.core t.slot fun x =>
        let x := { x with out := x.out.filter fun y => y.id != t.id }
        match h.old with | none => x | some (n, r) => x.setReg n r
      (s.takeTrap t.core t.slot h.addr cause a.addr (match a.home with | .other d => if cause = 9 then d else 0 | _ => 0)).kickAll t.core
    | none =>
      let aux := match a.regs with | [] => 0 | r :: _ => r.2.2.2 + 32 * b2n r.2.2.1
      let s := s.failRegs t a
      let s := if x.st == .free && !x.saved then s else s.asyncRec t.core t.slot a.asid cause a.addr aux
      s.complete t

/-- What a refusal names is refused: an access of a thread, one whose thread has left, or a drain's write. -/
def State.refused (s : State) (t : Asker) (cause : Nat) : State :=
  match s.anyAcc t with
  | some a => s.refuseAcc t a cause
  | none => s.drainHears t.core t.id true

/-- REFUSAL (R100): of a Departing slot's image (R43), or of what else it names. -/
def execRefusal (s : State) : Host.Outcome State Fault Refusal :=
  s.perform fun s e =>
    match e with
    | .refusal t cause =>
      let t := s.follow t
      match (s.slot t.core t.slot).transit with
      | some (m, _) => if m.src.id = t.id then some (s.departed t.core t.slot (some cause)) else some (s.refused t cause)
      | none => some (s.refused t cause)
    | _ => none

/-! ## Ordered stores at their device (R350) -/

/-- An ordered store's turn: no earlier ordered store of its slot to this device is still to be performed (R128). -/
def Hub.inTurn (h : Hub) (r : Req) : Bool :=
  !h.epochs.has (orderKey r.src.core r.src.slot) || h.epochs.get 0 (orderKey r.src.core r.src.slot) == r.epoch

/-- Whether an ordering entry counts stores of a request's slot and epoch. -/
def OrdEntry.counts (o : OrdEntry) (r : Req) : Bool :=
  o.dev == devOf r.src.core && o.core == r.src.core && o.slot == r.src.slot && o.epoch == r.epoch

/-- Whether the counts that an ordered store carries have been reached, and its turn. -/
def Hub.countsMet (h : Hub) (r : Req) (counts : List Nat) : Bool :=
  h.inTurn r && (List.range 4).all fun p =>
    decide (counts.getD p 0 ≤ ((h.orders.find? fun o => o.counts r && o.path == p).map (·.n)).getD 0)

/-- The held ordered stores whose counts are met go on. -/
def State.releaseOrders (s : State) (d : Nat) : State :=
  let h := s.hub d
  let ready := h.heldOrders.filter fun e => h.countsMet e.1 e.2
  let s := s.modHub d fun h => { h with heldOrders := h.heldOrders.filter fun e => !h.countsMet e.1 e.2 }
  s.soon (ready.map fun e => .orderedStoreRelease d e.1 e.2)

/-- A posted store from another device counts once it is performed; ordered stores that it releases follow. -/
def State.countPosted (s : State) (d : Nat) (r : Req) : State :=
  let key (o : OrdEntry) : Bool := o.counts r && o.path == r.path
  (s.modHub d fun h =>
    if h.orders.any key then { h with orders := h.orders.map fun o => if key o then { o with n := o.n + 1 } else o }
    else { h with orders := h.orders ++ [⟨devOf r.src.core, r.src.core, r.src.slot, r.epoch, r.path, 1⟩] }).releaseOrders d

/-- A posted store that has come has its entry in the ordering table, which counts it when it is performed. -/
def Hub.reserveCount (h : Hub) (r : Req) : Hub :=
  if h.orders.any fun o => o.counts r && o.path == r.path then h
  else { h with orders := h.orders ++ [⟨devOf r.src.core, r.src.core, r.src.slot, r.epoch, r.path, 0⟩] }

/-- An ordered store has been performed: the entries of its epoch are free, and the next ordered store of its slot has its turn (R350). -/
def State.orderDone (s : State) (d : Nat) (r : Req) : State :=
  (s.modHub d fun h =>
    { h with orders := h.orders.filter fun o => !o.counts r
             epochs := h.epochs.put (orderKey r.src.core r.src.slot) ((r.epoch + 1) % 16) }).releaseOrders d

/-- Whether the ordering table has room for a store's count (R350). -/
def Hub.roomToCount (h : Hub) (r : Req) : Bool :=
  (h.orders.any fun o => o.counts r && o.path == r.path) || decide (h.orders.length + h.heldOrders.length < 256)

/-- ORDERED_STORE (R350): performed if its counts are met, held if not; busy while the ordering table is full. -/
def execOrderedStore (s : State) : Host.Outcome State Fault Refusal :=
  s.perform fun s e =>
    match e with
    | .orderedStore d r counts =>
      let h := s.hub d
      if h.countsMet r counts then some (s.after 0 (.orderedStoreRelease d r counts))
      else if 256 ≤ h.orders.length + h.heldOrders.length then
        some (s.sendFar d (devOf r.src.core) (.busy (.ordered d r counts)) none none)
      else some (s.modHub d fun h => { h with heldOrders := h.heldOrders ++ [(r, counts)] })
    | _ => none

/-- ORDERED_STORE_RELEASE (R350): the store goes on to its core as an ordinary one, and counts no more; the count-only message of a cancelled one
performs nothing (R391). -/
def execOrderedStoreRelease (s : State) : Host.Outcome State Fault Refusal :=
  s.perform fun s e =>
    match e with
    | .orderedStoreRelease d r _ =>
      match r.op with
      | .store 0 _ => some (s.orderDone d r)
      | _ => some (s.send (hubOf d) (coreNamed r.addr) (.remoteWrite (coreNamed r.addr) { r with posted := false, ordered := true }))
    | _ => none

/-! ## A request performed at a bank -/

/-- The values that the registers of an access get, by name of the access at its issuer. -/
def State.regsOf (s : State) (t : Asker) : List (Nat × Nat × Bool × Nat) := ((s.accOf t).map (·.regs)).getD []

/-- The answer to a performed request of a home at core c: a fill, or an acknowledgement; here after 4 cycles or at once, elsewhere by message
(R110, R268). -/
def State.answerReq (s : State) (c : Nat) (r : Req) (parts : Option (List FillPart)) : State :=
  match parts with
  | some ps =>
    let ev := Event.fill ⟨r.src, ps⟩
    if r.src.core = c then s.after (4 * Config.cycle) ev else s.send c r.src.core ev
  | none =>
    if r.src.core = c then s.after 0 (.acknowledgement r.src) else s.send c r.src.core (.acknowledgement r.src)

def State.refuseReq (s : State) (c : Nat) (r : Req) (cause : Nat) : State :=
  if r.src.core = c then s.after 0 (.refusal r.src cause) else s.send c r.src.core (.refusal r.src cause)

/-- Whether an operation answers with a fill. -/
def opFills : MemOp → Bool
  | .load _ | .loadFull _ | .loadFullClear _ | .loadTag _ | .amo _ _ _ | .cas _ _ _ | .viewLoad _ _ | .ctlRead => true
  | _ => false

/-- What a performed operation's answer fills: the registers with the value and the tag, and an entry found fractured (R143). -/
def State.doneParts (s : State) (r : Req) (v tag : Word) (fr : Nat) : Option (List FillPart) :=
  if opFills r.op then
    let regs := fillParts (s.regsOf r.src) [v, tag]
    match r.op with
    | .viewLoad _ w => some (regs ++ (if fr = 0 then [] else [.entry w.entry (BitVec.ofNat 128 (fr * 2 ^ 7))]))
    | _ => some regs
  else none

/-- A store of the hub into a supervisor core's ring has been performed: the slot it names wakes (R387). -/
def State.noticeDone (s : State) (c : Nat) (r : Req) : State := s.wakeSlot (wakeOf c r.src.slot)

/-- What follows a performed request at core c. -/
def State.served (s : State) (c : Nat) (r : Req) (v tag : Word) (fr : Nat) : State :=
  if r.engine && r.src.core == hubOf (devOf c) then s.noticeDone c r
  else
    let s := s.answerReq c r (s.doneParts r v tag fr)
    if r.ordered then s.orderDone (devOf c) r
    else if r.posted && devOf r.src.core != devOf c then s.countPosted (devOf c) r else s

/-- The granules of a core's tile store that a request may change. -/
def State.hookFor (s : State) (c : Nat) (r : Req) : State :=
  if opWrites r.op then
    let off := offsetOf r.addr
    match (s.core c).lineAt off with
    | some (l, _) => s.beforeWrite c l 144
    | none => s.beforeWrite c (off / 16 * 16) (max 16 (opWidth r.op))
  else s

/-! ### Vector forms (R303, R304) -/

/-- The bytes of n groups of a register from group g. -/
def groupBytes (v : BitVec 2048) (g n : Nat) : List Byte := natLe (4 * n) (bitsOf v.toNat (32 * g) (32 * n))

/-- The groups of a block's granule that are active. -/
def activeIn (groups : Word) (g : Nat) : List Nat := (List.range 4).filterMap fun i => if groups.getLsbD (g + i) then some (g + i) else none

/-- What one step of a vector form comes to: performed, held, or refused. -/
inductive VecStep where
  | ok (s : State) (f : VecForm)
  | wait
  | refuse (cause : Nat)

/-- Groups written one by one into memory, the granule then full. -/
def State.writeGroups (s : State) (a : Nat) (g0 : Nat) (v : BitVec 2048) : List Nat → State
  | [] => s
  | g :: gs => (s.writeAt (a + 4 * (g - g0)) (groupBytes v g 1)).writeGroups a g0 v gs

/-- Groups read into a register's value. -/
def State.readGroups (s : State) (a : Nat) (g0 : Nat) (v : BitVec 2048) : List Nat → BitVec 2048
  | [] => v
  | g :: gs => s.readGroups a g0 (BitVec.ofNat 2048 (setBits v.toNat (32 * g) 32 (s.value (a + 4 * (g - g0)) 4).toNat)) gs

/-- The next granule or group of a vector form (R303 to R305, R423). -/
def State.vecStep (s : State) (c : Nat) (f : VecForm) : VecStep :=
  match f.steps with
  | [] => .ok s f
  | (off, g) :: rest =>
    let a := tileKey c off
    let full := s.present false a
    let act := if f.kind = 4 then [g] else activeIn f.groups g
    let whole := act.length = 4
    let f' := { f with steps := rest }
    if f.load then
      if s.poisoned a then .refuse 29
      else if (f.kind = 1 ∨ f.kind = 2) ∧ !full then .wait
      else
        let s' := if f.kind = 2 then s.mark a false else s
        .ok s' { f' with data := s.readGroups a g f.data act }
    else if s.poisoned a && !whole then .refuse 29
    else if f.kind = 3 ∧ s.poisoned a then .refuse 29
    else if f.kind = 3 ∧ full then .wait
    else
      let s := s.beforeWrite c (off / 16 * 16) 16
      .ok (if whole then s.writeAt a (groupBytes f.data g 4) else s.writeGroups a g f.data act) f'

/-- A vector form's request at a bank; none while a granule waits. -/
def State.serveVector (s : State) (c : Nat) (r : Req) : Option State :=
  match (s.core c).vecs.find? fun f => f.id == r.src.id with
  | none => some s
  | some f =>
    let drop (s : State) : State := s.modCore c fun k => { k with vecs := k.vecs.filter fun x => x.id != f.id }
    match s.vecStep c f with
    | .wait => none
    | .refuse cause => some ((drop s).after 0 (.refusal r.src cause))
    | .ok s f =>
      match f.steps with
      | (off, _) :: _ =>
        let s := s.modCore c fun k => { k with vecs := k.vecs.map fun x => if x.id == f.id then f else x }
        some (s.toBank c { r with addr := fabricAddr c off } 4)
      | [] =>
        if f.load then some ((drop s).after (4 * Config.cycle) (.fill ⟨r.src, [.vector f.place f.seq f.data f.groups]⟩))
        else some ((drop s).after 0 (.acknowledgement r.src))

/-! ### Any request -/

/-- An admitted request performed at its bank or refused there; none while it must wait (R96). -/
def State.serveHere (s : State) (c : Nat) (r : Req) : Option State :=
  if r.op = .vector then s.serveVector c r
  else if (s.core c).windowHole (offsetOf r.addr) then some (s.refuseReq c r 6)
  else
    match r.op with
    | .viewLoad _ _ => some (s.after 0 (.viewLoad r))
    | .bundleStore _ _ _ => some (s.after 0 (.bundleStore r))
    | _ =>
      match s.performAt (s.tilePlace c (offsetOf r.addr)) r.asid r.op with
      | .wait => none
      | .refuse cause => some (s.refuseReq c r cause)
      | .done _ _ _ _ =>
        let s := s.hookFor c r
        match s.performAt (s.tilePlace c (offsetOf r.addr)) r.asid r.op with
        | .done s v tag fr => some (s.served c r v tag fr)
        | _ => some s

/-- A request that reaches its bank: judged by the admit list, and refused, sent on or served (R100, R214). -/
def State.serve (s : State) (c : Nat) (r : Req) : Option State :=
  let gate := if r.src.core = c ∨ r.src.core = hubOf (devOf c) then Gate.pass else (s.core c).gate c r.asid r.sup
  match gate with
  | .refused => some (s.refuseReq c r 10)
  | .onward d => some (s.send c d (arrivalOf d { r with addr := fabricAddr d (offsetOf r.addr) }))
  | .pass => s.serveHere c r

/-- The requests held at a core, admitted when they arrived, are looked at again, in the order they arrived, until none can go on (R96). -/
def State.recheck (s : State) (c : Nat) : Nat → State
  | 0 => s
  | n + 1 =>
    let held := (s.core c).waiting
    let rec find (s : State) : List Req → List Req → Option State
      | _, [] => none
      | seen, r :: rest =>
        match s.serveHere c r with
        | none => find s (seen ++ [r]) rest
        | some s' => some (s'.modCore c fun k => { k with waiting := seen ++ rest })
    match find s [] held with
    | none => s
    | some s => s.recheck c n

def State.recheckAll (s : State) (c : Nat) : State := s.recheck c (s.core c).waiting.length

/-- A wait form that would wait: held at the bank, or retried while 64 are held (R96); a service-slot handler is abandoned (R210). -/
def State.holdReq (s : State) (c : Nat) (r : Req) : State :=
  if r.src.core = c ∧ r.src.slot = 15 then
    let pc := (((s.slot c 15).out.find? fun a => a.id == r.src.id).map (·.pc)).getD (s.slot c 15).pc
    let s := s.modSlot c 15 fun t => { t with out := t.out.filter fun a => a.id != r.src.id }
    s.actAs c 15 pc 0 fun s => s.abandon c
  else if 64 ≤ (s.core c).waiting.length then s.after busyTime (.busy (.req r))
  else s.modCore c fun k => { k with waiting := k.waiting ++ [r] }

/-! ### Arbitration (R218) -/

/-- The longest wait of a priority, in cycles. -/
def bankBound (prio : Nat) : Nat :=
  match prio with
  | 1 => 1
  | 2 => 3
  | 3 => 5
  | 4 => 6
  | _ => 4096

/-- The order of two requests at a bank. -/
def bankBefore (now : Nat) (x y : BankReq) : Bool :=
  let cyc (t : Nat) : Nat := t / Config.cycle
  let late (b : BankReq) : Bool := decide (bankBound b.prio ≤ cyc now - cyc b.since)
  if late x && !late y then true
  else if !late x && late y then false
  else if !late x && x.prio != y.prio then decide (x.prio < y.prio)
  else if cyc x.since ≠ cyc y.since then decide (cyc x.since < cyc y.since)
  else if x.prio ≠ y.prio then decide (x.prio < y.prio)
  else if x.req.src.core ≠ y.req.src.core then decide (x.req.src.core < y.req.src.core)
  else decide (x.req.src.slot < y.req.src.slot)

/-- The request a bank grants, and those that stay; equals keep the order they were presented in. -/
def pickReq (now : Nat) : List BankReq → Option (BankReq × List BankReq)
  | [] => none
  | x :: xs =>
    match pickReq now xs with
    | none => some (x, [])
    | some (y, rest) => if bankBefore now y x then some (y, x :: rest) else some (x, y :: rest)

/-- A request to a window whose metadata is being cleared is held at its bank (R133). -/
def Core.clearingAt (k : Core) (off : Nat) : Bool :=
  k.clearing.any fun i =>
    let w := k.vwin.get 0 i
    let base := field w 12 8 * 4096
    w.getLsbD 0 && decide (base ≤ off) && decide (off < base + 144 * field w 32 13)

/-- BANK_ACCESS (R218): the bank grants one request a cycle; an event that it grants is performed in that cycle. -/
def execBankAccess (s : State) : Host.Outcome State Fault Refusal :=
  s.perform fun s e =>
    match e with
    | .bankAccess c b =>
      let q := (s.core c).bankq.get [] b
      let held := q.filter fun x => (s.core c).clearingAt (offsetOf x.req.addr)
      let ready := q.filter fun x => !(s.core c).clearingAt (offsetOf x.req.addr)
      match pickReq s.now ready with
      | none => if q.isEmpty then some s else some (s.due s.nextCycle (.bankAccess c b))
      | some (x, rest) =>
        let rest := held ++ rest
        let s := s.modCore c fun k => { k with bankq := if rest.isEmpty then k.bankq.drop b else k.bankq.put b rest }
        let s := if rest.isEmpty then s else s.due s.nextCycle (.bankAccess c b)
        match x.ev with
        | some ev => some (({ s with granted := s.granted ++ [ev] } : State).after 0 ev)
        | none =>
          match s.serve c x.req with
          | none => some (s.holdReq c x.req)
          | some s => some (s.recheckAll c)
    | _ => none

/-! ## Operations at a commit record -/

/-- What a bundle operation that is refused at the record's core leaves behind at the issuing one: a new entry is not reserved any more, and a
closing has not been made. -/
def State.bundleRefused (s : State) (m : BundleReq) : State :=
  s.modCore m.src.core fun k =>
    let n := k.notes.get {} m.entry
    if makesEntry m.kind then { k with notes := k.notes.drop m.entry }
    else if m.kind == .vclose && k.notes.has m.entry then
      { k with notes := k.notes.put m.entry { n with closing := false, released := n.released && !m.quiet } }
    else k

/-- An operation performed at its record, and answered; a quiet abort that finds other writers comes again. -/
def State.recordStep (s : State) (c : Nat) (m : BundleReq) : State :=
  let (x, s) := s.recordOp c m
  let lost := m.kind = .bcommit ∧ x.status = 7
  let s := if lost then s.modCore m.src.core fun k =>
      { k with notes := k.notes.put m.entry { k.notes.get {} m.entry with lost := true } } else s
  let s := s.recheckAll c
  if m.quiet ∧ m.kind = .babort ∧ x.status = 6 then s.after Config.us (.commitRecordOperation m)
  else if m.quiet then s
  else s.tell c m.src.core (.fill ⟨m.src, bundleParts m x⟩)

/-- COMMIT_RECORD_OPERATION (R135): judged by the admit list and the offset's checks, then performed as one step. -/
def execCommitRecordOperation (s : State) : Host.Outcome State Fault Refusal :=
  s.perform fun s e =>
    match e with
    | .commitRecordOperation m =>
      let c := coreNamed m.record
      let off := offsetOf m.record
      let answer (s : State) (ev : Event) : State := if m.quiet then s else s.tell c m.src.core ev
      let refuse (s : State) (cause : Nat) : State := answer (s.bundleRefused m) (.refusal m.src cause)
      if (s.core c).frozen && m.src.core != c then some (s.after busyTime (.commitRecordOperation m))
      else
        match (s.core c).gateFrom m.src.core c m.asid m.sup with
        | .refused => some (refuse s 10)
        | .onward d => some (s.send c d (.commitRecordOperation { m with record := fabricAddr d off }))
        | .pass =>
          if 2 ^ 20 ≤ off then some (refuse s 6)
          else
            match (s.core c).windowCause off 64 with
            | some cause => some (refuse s cause)
            | none =>
              some ((s.stallRecord c m).getD (s.recordStep c m))
    | _ => none

/-! ## Requests from elsewhere (R94, R208) -/

/-- A supervisor core's access to a control register or window of another core (R94), checked there. `crd` and `cwr` ignore the admit list (R331), which
judges loads and stores (R100, R214). -/
def State.superCtl (s : State) (c : Nat) (r : Req) : State :=
  let off := offsetOf r.addr
  let gate := match r.op with | .ctlRead | .ctlWrite _ => Gate.pass | _ => (s.core c).gate c r.asid r.sup
  match gate with
  | .refused => s.refuseReq c r 10
  | .onward d => s.send c d (arrivalOf d { r with addr := fabricAddr d off })
  | .pass =>
    if opWidth r.op ≠ 8 ∨ off % 8 ≠ 0 then s.refuseReq c r 7
    else if !ctlAssigned c off then s.refuseReq c r 6
    else
      match r.op with
      | .load _ | .ctlRead => s.served c r (s.ctlRead c off) 0 0
      | .store _ v | .ctlWrite v =>
        if off = 0x100018 then
          if (s.core c).ctxop.isSome then s.after Config.us (.remoteWrite c r)
          else (s.modCore c fun k => { k with ctxop := some ⟨some r.src, none, []⟩ }).soon [ctlEvent c off v]
        else (s.soon [ctlEvent c off v]).served c r 0 0 0
      | _ => s.refuseReq c r 6

/-- A request flit at its home: into the service queue, or busy (R208); an offset outside the tile store is refused, but for supervisor cores
(R94). `crd` and `cwr`, which R208 does not list, pass the queue. A count-only message counts, and performs nothing (R391); a store that the ordering
table cannot count is answered busy (log 88). -/
def State.remoteReq (s : State) (c : Nat) (r : Req) : State :=
  let far := r.posted && devOf r.src.core != devOf c
  let ctl := match r.op with | .ctlRead | .ctlWrite _ => true | _ => false
  if (match r.op with | .store 0 _ => true | _ => false) then s.countPosted (devOf c) r
  else if far && !(s.hub (devOf c)).roomToCount r then s.send c r.src.core (.busy (.req r))
  else if decide (2 ^ 20 ≤ offsetOf r.addr) && !ctl && !(r.sup && !isCompute r.src.core) then s.refuseReq c r 6
  else if (s.core c).frozen || (!ctl && decide (64 ≤ (s.core c).service.length)) then s.send c r.src.core (.busy (.req r))
  else if ctl then s.superCtl c r
  else
    let s := if far then s.modHub (devOf c) fun h => h.reserveCount r else s
    s.modCore c fun k => ({ k with service := k.service ++ [Service.access r] }).ungate

def execRemoteRead (s : State) : Host.Outcome State Fault Refusal :=
  s.perform fun s e => match e with | .remoteRead c r => some (s.remoteReq c r) | _ => none

/-- REMOTE_WRITE (R110). -/
def execRemoteWrite (s : State) : Host.Outcome State Fault Refusal :=
  s.perform fun s e => match e with | .remoteWrite c r => some (s.remoteReq c r) | _ => none

/-- REMOTE_ATOMIC (R270). -/
def execRemoteAtomic (s : State) : Host.Outcome State Fault Refusal :=
  s.perform fun s e => match e with | .remoteAtomic c r => some (s.remoteReq c r) | _ => none

/-- SERVICE_BUILTIN_ACCESS (R208): the head of the queue goes to its bank, or to a control register or window. -/
def execServiceBuiltinAccess (s : State) : Host.Outcome State Fault Refusal :=
  s.perform fun s e =>
    match e with
    | .serviceBuiltinAccess c =>
      match (s.core c).service with
      | .access r :: rest =>
        let s := s.modCore c fun k => { k with service := rest }
        some (if 2 ^ 20 ≤ offsetOf r.addr then s.superCtl c r else s.toBank c r 2)
      | _ => some s
    | _ => none

/-! ## Replay (R391) -/

/-- The access of a journal entry. -/
def State.accOfEntry (s : State) (c j : Nat) : Option (Nat × Acc) :=
  let n := field ((s.core c).jrn j) 3 4
  match (s.slot c n).out.find? fun a => a.entries.contains j with
  | some a => some (n, a)
  | none => ((s.core c).orphans.find? fun a => a.entries.contains j).map fun a => (n, a)

/-- The operation that a journal entry resends. -/
def State.entryOp (s : State) (c : Nat) (e : BitVec 256) : MemOp :=
  let n := 2 ^ field e 7 2
  let v : Word := BitVec.ofNat 64 (field e 128 64)
  match field e 9 3 with
  | 1 => .bundleStore n v (viewRef c (field e 25 4) ((s.core c).view (field e 25 4)))
  | 2 => .storeEmpty n v
  | 3 => .setFull
  | 4 => .setEmpty
  | _ => .store n v

/-- A posted store goes out again, on whatever path its turn chooses; its PATH stays the one that it was first sent on (R347, R391). -/
def State.requestAgain (s : State) (r : Req) (counts : Option (List Nat)) : State :=
  match homeOf r.src.core r.addr, counts with
  | .other d, some cs => s.sendFar (devOf r.src.core) d (.orderedStore d r cs) none none 2
  | .other d, none => s.sendFar (devOf r.src.core) d (arrivalOf (coreNamed r.addr) r) none none
  | _, _ => s.request r

/-- The counts that a journal entry's ordered store carries. -/
def countsOf (e : BitVec 256) (a : Acc) : Option (List Nat) := if field e 12 2 = 3 then some a.counts else none

/-- An access of a journal entry goes out again on its original terms. -/
def State.resendEntry (s : State) (c : Nat) (a : Acc) (n : Nat) : State :=
  let entry (j : Option Nat) : BitVec 256 := (j.map (s.core c).jrn).getD 0
  let e := entry a.jrn
  let e2 := entry a.jrn2
  let src : Asker := ⟨c, n, a.id⟩
  let asid := field e 32 14
  let addr : Word := BitVec.ofNat 64 (field e 64 64)
  match field e 9 3 with
  | 5 =>
    let w (x : BitVec 256) (lo : Nat) : Word := BitVec.ofNat 64 (field x lo 64)
    s.sendBig c (coreNamed addr) Config.amsgFlits
      (.activeMessage ⟨src, coreNamed addr, offsetOf addr, [w e 128, w e 192, w e2 128, w e2 192], asid, a.sup⟩)
  | 6 => s.send c (coreNamed addr) (.wakeMessage ⟨src, coreNamed addr, offsetOf addr % 16, asid, a.sup, true⟩)
  | _ =>
    s.requestAgain { src := src, asid := asid, sup := a.sup, addr := addr, op := s.entryOp c e, posted := true, epoch := field e 19 4,
                     path := field e 23 2 } (countsOf e a)

/-- JOURNAL_REPLAY (R391): an entry in ST 2 is in flight again. -/
def execJournalReplay (s : State) : Host.Outcome State Fault Refusal :=
  s.perform fun s e =>
    match e with
    | .journalReplay c j =>
      let x := (s.core c).jrn j
      if field x 0 1 = 0 ∨ field x 1 2 ≠ 2 then some s
      else
        match s.accOfEntry c j with
        | none => some s
        | some (n, a) => some ((s.setEntries c a 2).resendEntry c a n)
    | _ => none

/-- JOURNAL_CANCEL (R391): the destination counts the access and performs nothing; the entry is free, and a task faults at `quit`. -/
def execJournalCancel (s : State) : Host.Outcome State Fault Refusal :=
  s.perform fun s e =>
    match e with
    | .journalCancel c j =>
      let x := (s.core c).jrn j
      if field x 0 1 = 0 ∨ field x 1 2 ≠ 3 then some s
      else
        match s.accOfEntry c j with
        | none => some s
        | some (n, a) =>
          let addr : Word := BitVec.ofNat 64 (field x 64 64)
          let s :=
            match a.home with
            | .other d =>
              let r : Req := { src := ⟨c, n, 0⟩, asid := 0, sup := true, addr := addr, op := .store 0 0, posted := true, epoch := field x 19 4,
                               path := field x 23 2 }
              if field x 9 3 ≥ 5 then s else s.requestAgain r (countsOf x a)
            | _ => s
          let s := s.modSlot c n fun t => if t.task && t.out.any (fun y => y.id == a.id) then { t with faultAtQuit := 3 } else t
          some (s.complete ⟨c, n, a.id⟩)
    | _ => none

/-! ## Windows, records, links -/

/-- WINDOW_METADATA_CLEARING_END (R133): the accesses held at the banks proceed. -/
def execWindowMetadataClearingEnd (s : State) : Host.Outcome State Fault Refusal :=
  s.perform fun s e =>
    match e with
    | .windowMetadataClearingEnd c i => some ((s.modCore c fun k => { k with clearing := k.clearing.filter (· != i) }).recheckAll c)
    | _ => none

/-- TRAP_RECORD_ENTRY (R386): a waiting record enters when an entry is free. -/
def execTrapRecordEntry (s : State) : Host.Outcome State Fault Refusal :=
  s.perform fun s e =>
    match e with
    | .trapRecordEntry c =>
      let k := s.core c
      match k.traps.waiting with
      | [] => some s
      | img :: rest =>
        if k.traps.count < 31 ∨ (field img 6 2 = 3 ∧ k.traps.count < 32) then
          let s := (s.setCore c { k with traps := { k.traps with waiting := rest } }).enterRecord c img
          some (if rest.isEmpty then s else s.after 0 (.trapRecordEntry c))
        else some s
    | _ => none

/-- LINK_WORD (R207): a word whose ASID the admit list does not hold is discarded and counted, and a record goes to the writer's core; while the
core is frozen it waits (R213). -/
def execLinkWord (s : State) : Host.Outcome State Fault Refusal :=
  s.perform fun s e =>
    match e with
    | .linkWord c dir v asid src =>
      let k := s.core c
      let le := k.linkEnd dir
      if k.frozen then some (s.setCore c (k.setLinkEnd dir { le with late := le.late ++ [(v, asid, src)] }))
      else if k.lists asid then
        let k := k.setLinkEnd dir { le with fifo := le.fifo ++ [v] }
        let wake (t : Slot) : Slot :=
          match t.why with
          | .link n => if t.st == .waiting && (t.reg n).mode == 2 && (t.reg n).dir == dir then t.endWait else t
          | _ => t
        some (s.setCore c ({ k with slots := Table.mapVals wake k.slots }).ungate)
      else
        let s := (s.modCore c fun k => k.count 6).after Config.cycle (.linkCreditReturn (neighbour c dir) (opposite dir))
        some (s.asyncRec (s.homeNow src.core asid) src.slot asid 35 0 (opposite dir))
    | _ => none

/-- The words that came to a frozen core's links arrive. -/
def State.thawLinks (s : State) (c : Nat) : State :=
  (List.range 4).foldl (fun s dir =>
    let le := (s.core c).linkEnd dir
    (s.modCore c fun k => k.setLinkEnd dir { le with late := [] }).soon (le.late.map fun x => .linkWord c dir x.1 x.2.1 x.2.2)) s

/-- LINK_CREDIT_RETURN (R205): a writer that is Held looks again. -/
def execLinkCreditReturn (s : State) : Host.Outcome State Fault Refusal :=
  s.perform fun s e =>
    match e with
    | .linkCreditReturn c dir =>
      some ((s.modCore c fun k => k.setLinkEnd dir { k.linkEnd dir with used := (k.linkEnd dir).used - 1 }).kickAll c)
    | _ => none

/-- WAKE_MESSAGE (R323): admitted, parked while the slot keeps a saved context, dropped and counted at a Free slot; a posted one is
acknowledged. -/
def execWakeMessage (s : State) : Host.Outcome State Fault Refusal :=
  s.perform fun s e =>
    match e with
    | .wakeMessage m =>
      let k := s.core m.core
      let gate := k.gateFrom m.src.core m.core m.asid m.sup
      match gate with
      | .refused => some (if m.posted then s.send m.core m.src.core (.refusal m.src 10) else s)
      | .onward d => some (s.send m.core d (.wakeMessage { m with core := d }))
      | .pass =>
        if k.frozen || ((k.slot m.slot).saved && k.overflowFull) then some (s.send m.core m.src.core (.busy (.wake m)))
        else
          let s := s.wakeSlot m
          some (if m.posted then s.send m.core m.src.core (.acknowledgement m.src) else s)
    | _ => none

/-- BUSY (R342): the sender sends it again, over the fabric; to its own core after a while. -/
def execBusy (s : State) : Host.Outcome State Fault Refusal :=
  s.perform fun s e =>
    match e with
    | .busy b =>
      let one (src dst : Nat) (ev : Event) : State := if src = dst then s.after busyTime ev else s.send src dst ev
      let big (src dst flits : Nat) (ev : Event) : State := if src = dst then s.after busyTime ev else s.sendBig src dst flits ev
      match b with
      | .req r => some (s.requestAgain r none)
      | .spawn m => some (big m.src.core m.core Config.spawnFlits (.spawnRequest m))
      | .image m => some (s.after Config.us (.migrationResend m))
      | .amsg m => some (big m.src.core m.core Config.amsgFlits (.activeMessage m))
      | .wake m => some (one m.src.core m.core (.wakeMessage m))
      | .openMsg token src dst => some (one src dst (.fabricOpen token src dst))
      | .ordered _ r counts => some (s.requestAgain r (some counts))
      | .fill f => some (s.after busyTime (.fill f))
    | _ => none

end Sys2Proof.Machine
end

