-- ==== Sys2Proof/Machine/Issue.lean ====
section
/-!
DEFINITION. The issue rule (spec/02 R24, spec/12 R250, spec/13 R287) and the passing of time. Each cycle of a running core is a list of turns: the wide port's
deferred slot, the owner, the owner's pair, the service slot, and the two ports that are still free. `run` stands for `exec`.
-/

namespace Sys2Proof.Machine

/-- The meaning of one step of the part. -/
abbrev Run := Instr → State → Host.Outcome State Fault Refusal

/-- Whether a slot may be given a turn. -/
def Slot.canIssue (t : Slot) : Bool := t.st == .ready && !t.stopped && !t.saving && !t.throttled

/-- The instruction of a slot, where there is one (R243). A target outside the code slice that a control transfer has reached takes the fetch trap
(R230, R406). -/
def State.nextOf (s : State) (c n : Nat) : Except NoInstr (Instr × Nat) :=
  let t := s.slot c n
  if t.strayed = some t.pc then .error ⟨2, BitVec.ofNat 64 t.pc, 0⟩ else s.fetch c t.pc

/-- The forms of R262 that may set the program counter. -/
def transfers (i : Instr) : Bool :=
  match i with
  | .br _ _ | .brp _ _ | .call _ _ | .ret _ | .jmpr _ _ | .loop _ _ => true
  | _ => false

/-- A control transfer to a target outside the code slice, which is the first 64 KiB (R20, log 110). -/
def State.stray (s : State) (c n next : Nat) (i : Instr) : State :=
  let pc := (s.slot c n).pc
  if transfers i && pc != next && decide (2 ^ 16 ≤ pc) then s.modSlot c n fun t => { t with strayed := some pc } else s

/-- Whether a slot's next instruction is of a class; a slot whose fetch traps takes the scalar port. -/
def State.nextWide (s : State) (c n : Nat) : Bool :=
  match s.nextOf c n with
  | .ok (i, _) => isWide i
  | .error _ => false

/-- A port of this core has been used in this cycle: the turns that would use it fall away (R24). -/
def State.usePort (s : State) (c : Nat) (wide : Bool) : State :=
  { s with turns := s.turns.filter fun t =>
      !(t.core == c && (if wide then t.kind == .fillWide else t.kind == .fillScalar || t.kind == .service)) }

/-- A long form that has issued from `pc` occupies the vector unit in its cycle and the three after it (R287). -/
def State.occupy (s : State) (c n pc : Nat) (i : Instr) : State :=
  if isLong i && (s.slot c n).pc != pc && n != 15 then s.modCore c fun k => { k with vbusy := s.now + 4 * Config.cycle } else s

/-- A slot has its turn in this cycle: it gets no other but its pair's (R24); the service slot's is noted where it takes the scalar port. -/
def State.takeTurn (s : State) (c n : Nat) (wide : Bool) : State :=
  (s.usePort c wide).modCore c fun k => { k with issued := n :: k.issued, serving := k.serving || (n == 15 && !wide) }

/-- The service slot counts a handler's instructions; the 257th abandons the handler (R210). -/
def State.countHandler (s : State) (c n : Nat) : State :=
  if n = 15 then s.modCore c fun k => { k with handler := k.handler.map fun h => (h.1, h.2 + 1) } else s

/-- Whether the handler in slot 15 has issued 256 instructions (R210). -/
def Core.handlerSpent (k : Core) (n : Nat) : Bool :=
  n == 15 && (match k.handler with | none => false | some (_, m) => decide (256 ≤ m))

/-- A slot whose instruction issues has no lost cycle to catch up with (R287), and no other instruction's rise to remember (R402). -/
def Slot.startIssue (t : Slot) (pc : Nat) : Slot := { t with deferred := none, strayed := none, rose := if t.rose = some pc then t.rose else none }

/-- A slot issues its next instruction, or takes the trap that stands in its place. `pair` is whether a second one of the same thread may follow.
The instruction takes its port for the cycle also where it comes to wait, is Held or traps (DESIGN CHOICE, log 79). -/
def State.issueSlot (run : Run) (s : State) (c n : Nat) (pair : Bool) : Host.Outcome State Fault Refusal :=
  let pc := (s.slot c n).pc
  let pair := pair && (s.slot c n).rose != some pc
  if (s.core c).handlerSpent n then run .serviceHandlerLimit { s with event := some (.serviceHandlerLimit c) }
  else
    match s.nextOf c n with
    | .error e => .next ((s.takeTurn c n false).takeTrap c n pc e.cause e.addr e.aux)
    | .ok (i, next) =>
      let s := (s.takeTurn c n (isWide i)).countHandler c n
      let s := s.modSlot c n fun t => t.startIssue pc
      let s := { s with cur := ⟨c, n, pc, next⟩ }
      let s := if pair then { s with turns := ⟨c, .pair, n⟩ :: s.turns } else s
      match run i s with
      | .next s' => .next (((s'.oweResults s c n pc i).occupy c n pc i).stray c n next i)
      | o => o

/-- Whether the results that a slot's next instruction reads have been produced; a fetch that traps reads none (R28, R250). -/
def State.nextProduced (s : State) (c n : Nat) : Bool :=
  (s.slot c n).due.isEmpty ||
  match s.nextOf c n with
  | .ok (i, _) => s.produced c n i
  | .error _ => true

/-- Whether a page 3 form may use the vector unit now (R287). -/
def State.unitFree (s : State) (c : Nat) (i : Instr) : Bool := pageOf i != 3 || decide ((s.core c).vbusy ≤ s.now)

/-- The deferred slots of a core with the time of their lost cycle (R287). -/
def Core.deferredSlots (k : Core) : List (Nat × Nat) :=
  (List.range 15).filterMap fun n => if (k.slot n).canIssue then (k.slot n).deferred.map fun t => (t, n) else none

/-- The deferred slot that the wide port goes to: the oldest whose next instruction can issue (R287, rule 2). -/
def State.deferredPick (s : State) (c : Nat) : Option Nat :=
  let cands := (s.core c).deferredSlots.filter fun e =>
    match s.nextOf c e.2 with
    | .ok (i, _) => s.unitFree c i && s.produced c e.2 i
    | .error _ => true
  (cands.foldl (fun (b : Option (Nat × Nat)) e =>
    match b with
    | none => some e
    | some x => if e.1 < x.1 then some e else some x) none).map (·.2)

/-- Whether a slot's wide form is kept from issuing now by R287: the unit is occupied, the port has gone to a deferred slot, or a long form
would pass a deferred slot. -/
def State.mustDefer (s : State) (c : Nat) (i : Instr) (portFree : Bool) : Bool :=
  isWide i && (!portFree || !s.unitFree c i || (isLong i && !(s.core c).deferredSlots.isEmpty))

/-- Whether a turn of a kind is left for this core in this cycle. -/
def State.hasTurn (s : State) (c : Nat) (k : TurnKind) : Bool := s.turns.any fun t => t.core == c && t.kind == k

/-- The slots that step 3 of R24 searches, in order: after the owner, wrapping, without the service slot. -/
def fillOrder (owner : Nat) : List Nat := ((List.range 16).map fun i => (owner + 1 + i) % 16).filter (· != 15)

/-- The slot that a free port goes to (R24, step 3): one that has not had its turn in this cycle. -/
def State.fillPick (s : State) (c owner : Nat) (wide : Bool) : Option Nat :=
  (fillOrder owner).find? fun n =>
    (s.slot c n).canIssue && !(s.slot c n).yielded && !(s.core c).issued.contains n && s.nextWide c n == wide &&
    (match s.nextOf c n with
     | .ok (i, _) => !s.mustDefer c i true && s.produced c n i
     | .error _ => true)

/-- The service slot's turn (R24, step 2, R208): the running handler's next instruction, or the head of the service queue. Step 2 passes over
a handler that has yielded (R323). The port that it takes is the scalar port, so a wide-class instruction of the handler issues in the service slot's own
cycle only, under step 1 (DEDUCED, log 109). -/
def State.serviceTurn (run : Run) (s : State) (c : Nat) : Host.Outcome State Fault Refusal :=
  let k := s.core c
  let s' := s.takeTurn c 15 false
  if k.served || k.frozen || k.issued.contains 15 then .next s
  else
    match k.handler with
    | some _ =>
      if (k.slot 15).canIssue && !(k.slot 15).yielded && !s.nextWide c 15 && s.nextProduced c 15 then s.issueSlot run c 15 false else .next s
    | none =>
      match k.service with
      | [] => .next s
      | .access _ :: _ => run .serviceBuiltinAccess { s' with event := some (.serviceBuiltinAccess c) }
      | .message _ :: _ => run .serviceHandlerStart { s' with event := some (.serviceHandlerStart c) }

/-- One turn of the cycle (R24). -/
def State.turn (run : Run) (s : State) (t : Turn) : Host.Outcome State Fault Refusal :=
  let c := t.core
  if (s.core c).halted then .next s
  else
    match t.kind with
    | .owner =>
      let wideFree := s.hasTurn c .fillWide
      let s := s.modSlot c t.slot fun x => { x with yielded := false }
      if !(s.slot c t.slot).canIssue || (s.core c).issued.contains t.slot then .next s
      else
        match s.nextOf c t.slot with
        | .error _ => s.issueSlot run c t.slot false
        | .ok (i, _) =>
          if !s.produced c t.slot i then .next s
          else if s.mustDefer c i wideFree then .next (s.modSlot c t.slot fun x => { x with deferred := some (x.deferred.getD s.now) })
          else s.issueSlot run c t.slot (!(modsOf i).sw)
    | .pair =>
      -- the owner has issued I1 at `cur`; I2 follows if the conditions of step 1 hold
      match s.fetch c s.cur.addr, s.nextOf c t.slot with
      | .ok (i1, _), .ok (i2, _) =>
        if (s.slot c t.slot).canIssue && s.cur.core == c && s.cur.slot == t.slot && mayPair i1 i2 &&
           s.hasTurn c (if isWide i2 then .fillWide else .fillScalar) && !s.mustDefer c i2 true && s.produced c t.slot i2
        then s.issueSlot run c t.slot false
        else .next s
      | _, _ => .next s
    | .service => s.serviceTurn run c
    | .fillScalar =>
      match s.fillPick c t.slot false with
      | none => .next s
      | some n => s.issueSlot run c n false
    | .fillWide =>
      match s.fillPick c t.slot true with
      | none => .next s
      | some n => s.issueSlot run c n false
    | .deferred =>
      match s.deferredPick c with
      | none => .next s
      | some n => ({ s with turns := s.turns.filter fun (x : Turn) => !(x.core == c && x.kind == .fillWide) } : State).issueSlot run c n false

/-! ## Time -/

/-- The core has its clock where it is not halted: its die runs, or, for a supervisor core, the hub does (R332, R363). -/
def State.clocked (s : State) (c : Nat) : Bool :=
  !(s.core c).halted && (match (s.hub (devOf c)).power with
    | .active => true
    | .standby => isSuper c
    | .off => false)

/-- Whether a core has something to issue: a Ready slot, or work for the service slot. A slot Held for a result is not Ready (R22, R28, R40). -/
def State.busy (s : State) (c : Nat) : Bool :=
  let k := s.core c
  s.clocked c && ((k.slots.any fun e => e.2.canIssue && s.nextProduced c e.1) || (!k.frozen && (!k.service.isEmpty || k.handler.isSome)))

/-- The turns of a core's next cycle, whose owner is its cycle count modulo 16 (R24). -/
def cycleTurns (c owner : Nat) : List Turn :=
  [⟨c, .deferred, owner⟩, ⟨c, .owner, owner⟩, ⟨c, .service, owner⟩, ⟨c, .fillScalar, owner⟩, ⟨c, .fillWide, owner⟩]

/-- A slot at the end of a cycle: one that cannot issue has lost the place that R287 gave it (rule 4). -/
def State.keepPlace (s : State) (c n : Nat) (t : Slot) : Slot :=
  if t.deferred.isSome && !(t.canIssue && s.nextProduced c n) then { t with deferred := none } else t

/-- A core between two cycles: what was noted of the last one is forgotten, but that the service slot took the scalar port (R24). -/
def State.betweenCycles (s : State) (c : Nat) : State :=
  s.modCore c fun k =>
    { k with served := k.serving, serving := false, issued := [], slots := k.slots.map fun e => (e.1, s.keepPlace c e.1 e.2) }

/-- The next cycle of every core that has something to issue, whose clock a result that has come ungates; the clock of another one is gated
(R40). -/
def State.startCycle (s : State) : State :=
  s.cores.foldl (fun s e =>
    if s.busy e.1 then
      { (s.betweenCycles e.1).modCore e.1 (fun k => { k with running := true, cycles := k.cycles + 1 }) with
        turns := s.turns ++ cycleTurns e.1 (e.2.cycles % 16) }
    else if e.2.running && !e.2.halted then (s.betweenCycles e.1).after 0 (.clockGate e.1)
    else s) s

/-- When a core whose clock is gated has the first of the results that its slots wait for (R28, R40). -/
def State.resultAt (s : State) (e : Nat × Core) : Option Nat :=
  if s.clocked e.1 && !e.2.running then
    ((e.2.slots.filter fun t => t.2.canIssue && !s.nextProduced e.1 t.1).flatMap fun t => (t.2.due.map (·.2)).filter (s.now < ·)).min?
  else none

/-- When the cores' next cycle starts: at once where a clock runs, else with the first result that a gated core waits for. -/
def State.cycleAt (s : State) : Option Nat :=
  if s.cores.any fun e => s.clocked e.1 && (e.2.running || s.busy e.1) then some ((s.now / Config.cycle + 1) * Config.cycle)
  else (s.cores.filterMap s.resultAt).min?

/-- A hub's time base counts n ticks; in each of k periods of 10,000 ticks it gains or loses one tick of what it has to slew (R352: at most 100
parts per million, and never backward). -/
def Hub.tickBy (h : Hub) (n k : Nat) : Hub :=
  let m := min n k
  let adj : Int := max (-(m : Int)) (min (m : Int) h.slew)
  if h.power == .off then h else { h with time := (h.time + n + adj).toNat % 2 ^ 64, slew := h.slew - adj }

/-- Time passes to `t`: every running hub's time base counts the ticks between (R352). -/
def State.passTo (s : State) (t : Nat) : State :=
  let n := t / Config.tick - s.now / Config.tick
  let k := t / (10000 * Config.tick) - s.now / (10000 * Config.tick)
  { s with now := t, hubs := Table.mapVals (fun h => h.tickBy n k) s.hubs }

/-- Nothing is due now: the next cycle of the cores starts, or time passes to the next event, or the time base ticks. -/
def State.idle (run : Run) (s : State) : Host.Outcome State Fault Refusal :=
  match s.cycleAt, s.agenda with
  | some t, e :: _ => if e.at_ < t then .next (s.passTo e.at_) else .next (s.passTo t).startCycle
  | some t, [] => .next (s.passTo t).startCycle
  | none, e :: _ => .next (s.passTo (max s.now e.at_))
  | none, [] => run .timeBaseTick { s with event := some (.timeBaseTick 0) }

end Sys2Proof.Machine
end

