-- ==== Sys2Proof/Machine/Array.lean ====
section
/-!
DEFINITION. The arithmetic of the squarer array (spec/04 R68 to R81, spec/03 R52 to R55): element formats, integer images, scale groups, and the
close of a group into an FP32 accumulator.
-/

namespace Sys2Proof.Machine

/-! ## Formats (R69, R74) -/

/-- Lanes of a cell under a format, by its code. -/
def lanesOf (code : Nat) : Nat := if code ≤ 1 then 2 else if code = 7 ∨ code = 8 ∨ code = 10 then 8 else 4

/-- Elements of a K-step: 24 array cycles of every lane. -/
def stepElems (code : Nat) : Nat := 24 * lanesOf code

/-- Bytes of a K-step in a row's low or only plane, and in its high plane (R317). -/
def lowBytesOf (code : Nat) : Nat := if code = 6 then 48 else 96
def highBytesOf (code : Nat) : Nat := if code = 6 then 24 else if code = 7 then 48 else 0

def isMx (code : Nat) : Bool := decide (4 ≤ code) && decide (code ≤ 8)
def isIntFmt (code : Nat) : Bool := code == 9 || code == 10

/-- The element format of a float code. -/
def matFmt (code : Nat) : Fmt :=
  match code with
  | 0 => bf16
  | 1 => fp16
  | 2 | 4 => e4m3
  | 3 | 5 => e5m2
  | 6 => e3m2
  | 7 => e2m3
  | _ => e2m1

/-- The declared INT group of a GSZ (R320). -/
def intGroup (gsz : Nat) : Nat := 32 * 2 ^ gsz

/-- The elements that one scale of a format covers. -/
def scaleRun (code gsz : Nat) : Nat := if isIntFmt code then intGroup gsz else 32

/-- The size that a format puts on a scale group (R73). -/
def groupOf (code gsz : Nat) : Nat :=
  if code ≤ 1 then 8 else if code ≤ 5 then 16 else if isIntFmt code then intGroup gsz else 32

/-- The bytes of a row's scales for k elements. -/
def scaleBytes (code gsz k : Nat) : Nat :=
  if isMx code then (k + 31) / 32 else if isIntFmt code then 3 * ((k + intGroup gsz - 1) / intGroup gsz) else 0

/-! ## Elements (R52, R79) -/

/-- A row of A or a column of B as read: its planes and scales, and which of its elements are poisoned. -/
structure Line where
  low : List Byte
  high : List Byte
  scale : List Byte
  bad : List Nat := []
  deriving DecidableEq, Repr

/-- Byte i of a list, as a number. -/
def byteAt (bs : List Byte) (i : Nat) : Nat := ((bs.getD i 0).toNat)

/-- The code of element i. -/
def Line.code (l : Line) (code i : Nat) : Nat :=
  if code ≤ 1 then byteAt l.low (2 * i) + 256 * byteAt l.low (2 * i + 1)
  else if code ≤ 5 ∨ code = 9 then byteAt l.low i
  else
    let lo := byteAt l.low (i / 2) / 16 ^ (i % 2) % 16
    if code = 6 ∨ code = 7 then lo + 16 * (byteAt l.high (i / 4) / 4 ^ (i % 4) % 4) else lo

/-- The E8M0 scale byte of element i. -/
def Line.mxScale (l : Line) (i : Nat) : Nat := byteAt l.scale (i / 32)

/-- The scale record of element i: FP16 scale, and the zero point, clamped for INT4 (R55). -/
def Line.intScale (l : Line) (gsz i : Nat) : Nat × Int :=
  let r := 3 * (i / intGroup gsz)
  (byteAt l.scale r + 256 * byteAt l.scale (r + 1), sval 8 (byteAt l.scale (r + 2)))

def clampZero (code : Nat) (z : Int) : Int := if code = 10 then max (-8) (min 7 z) else z

/-- q − z of element i. -/
def Line.diff (l : Line) (code gsz i : Nat) : Int :=
  sval (if code = 10 then 4 else 8) (l.code code i) - clampZero code (l.intScale gsz i).2

/-- The value of element i as its class is judged, its scale applied (R54, R55, R79). -/
def Line.value (l : Line) (code gsz i : Nat) : FVal :=
  if l.bad.contains i then .nan false 1
  else if isIntFmt code then
    let d := l.diff code gsz i
    match fp16.dec false (l.intScale gsz i).1 with
    | .nan n m => .nan n m
    | .inf n => if d = 0 then .nan false 1 else .inf (n != decide (d < 0))
    | .num n m _ => if m = 0 then .num false 0 0 else .num (n != decide (d < 0)) d.natAbs 0
  else if isMx code && l.mxScale i == 255 then .nan false 1
  else (matFmt code).dec false (l.code code i)

/-! ## Images (R70 to R72) -/

/-- The integer images of a scale group, their classes, log₂ of the side's unit with its scale, the INT scale, and what the port flags. -/
structure Group where
  img : List Int
  cls : List FVal
  unit : Int
  d : Nat
  trunc : Bool
  clamp : Bool
  deriving DecidableEq, Repr

/-- floor(log₂ |x|) of a finite non-zero value. -/
def FVal.exponent : FVal → Option Int
  | .num _ m e => if m = 0 then none else some (Nat.log2 m + e)
  | _ => none

/-- The bit position of the image assigned to the largest exponent (R72). -/
def alignPos (code : Nat) : Int := if code = 0 then 13 else if code = 1 then 14 else 8

/-- log₂ of a fixed grid's unit (R71). -/
def gridUnit (code : Nat) : Int := if code = 6 then -4 else if code = 7 then -3 else if code = 8 then -1 else 0

/-- The image of a value under a unit 2^u, truncated toward zero, and whether a bit was dropped. -/
def FVal.image (u : Int) : FVal → Int × Bool
  | .num neg m e =>
    let sh := u - e
    let n := if sh ≤ 0 then m * 2 ^ (-sh).toNat else m / 2 ^ sh.toNat
    (if neg then -(n : Int) else n, decide (0 < sh) && m % 2 ^ sh.toNat != 0)
  | _ => (0, false)

/-- The scale group of elements i to i + n − 1 of a row or column. -/
def Line.group (l : Line) (code gsz i n : Nat) : Group :=
  let idx := (List.range n).map (i + ·)
  let vals := idx.map (l.value code gsz)
  if isIntFmt code then
    let r := l.intScale gsz i
    { img := (idx.zip vals).map fun x => match x.2 with | .num _ _ _ => l.diff code gsz x.1 | _ => 0,
      cls := vals, unit := 0, d := r.1, trunc := false, clamp := clampZero code r.2 != r.2 }
  else
    let u := if code ≤ 5 then ((vals.filterMap FVal.exponent).max?.getD 0) - alignPos code else gridUnit code
    let im := vals.map (FVal.image u)
    { img := im.map (·.1), cls := vals, unit := u + (if isMx code then (l.mxScale i : Int) - 127 else 0), d := 0,
      trunc := im.any (·.2), clamp := false }

/-! ## Closing a group (R75, R79, R80) -/

/-- A group's class flags, and the element pair that decides its NaN. -/
structure Classes where
  nan : Bool := false
  zinf : Bool := false
  pinf : Bool := false
  ninf : Bool := false
  k : Option Nat := none
  deriving DecidableEq, Repr

/-- One more pair, at element i (R79). -/
def Classes.pair (c : Classes) (i : Nat) (a b : FVal) : Classes :=
  let c :=
    match a, b with
    | .nan _ _, _ | _, .nan _ _ => { c with nan := true }
    | .inf p, .inf q => if p = q then { c with pinf := true } else { c with ninf := true }
    | .inf p, .num q m _ | .num q m _, .inf p =>
      if m = 0 then { c with zinf := true } else if p = q then { c with pinf := true } else { c with ninf := true }
    | .num _ _ _, .num _ _ _ => c
  if c.k.isNone && (c.nan || c.zinf || (c.pinf && c.ninf)) then { c with k := some i } else c

def classesOf (c : Classes) (i : Nat) : List (FVal × FVal) → Classes
  | [] => c
  | (a, b) :: rest => classesOf (c.pair i a b) (i + 1) rest

/-- The k index of element i (R80). -/
def kIndex (code i : Nat) : Nat := i / stepElems code % 4 * 64 + i % stepElems code / lanesOf code

/-- The array's NaN (R80). -/
def arrayNan (core k : Nat) : Nat := 0x7FC00000 + core % 4096 * 256 + k % 256

/-- Flags of a command's status (R86). -/
structure MatFlags where
  nan : Bool := false
  inf : Bool := false
  ovf : Bool := false
  trunc : Bool := false
  clamp : Bool := false
  deriving DecidableEq, Repr

def MatFlags.or (a b : MatFlags) : MatFlags :=
  ⟨a.nan || b.nan, a.inf || b.inf, a.ovf || b.ovf, a.trunc || b.trunc, a.clamp || b.clamp⟩

/-- acc_add (R75, R81). -/
def accAdd (core k acc w : Nat) : Nat × MatFlags :=
  let r (v : Nat × Sticky) : Nat × MatFlags := (if v.1 = 2 ^ 31 then 0 else v.1, { ovf := v.2.fo })
  match fp32.dec false acc, fp32.dec false w with
  | .inf a, .inf b => if a = b then (acc, {}) else (arrayNan core k, { nan := true })
  | _, _ => r (fp32.add {} acc w)

/-- Dot product of two lists of images. -/
def dot : List Int → List Int → Int
  | a :: as, b :: bs => a * b + dot as bs
  | _, _ => 0

/-- A sum of squares (R68). -/
def squares : List Int → Int
  | [] => 0
  | a :: as => a * a + squares as

/-- What the array captures of a group: S, RA, RB and d (R89). -/
def captureOf (a b : Group) : List Int :=
  let s := squares ((a.img.zip b.img).map fun x => x.1 + x.2)
  let ra := squares a.img
  let rb := squares b.img
  [s, ra, rb, (s - ra - rb) / 2]

/-- The finite value of a group: d in FP32, then its scale, then one rounding; none for a zero scale (R75). -/
def groupValue (isInt : Bool) (a b : Group) (d : Int) : Option (Nat × Sticky) :=
  let v := (fp32.round {} (decide (d < 0)) d.natAbs 0).1
  match fp32.dec false v with
  | .num n m e =>
    if isInt then
      match fp16.dec false a.d, fp16.dec false b.d with
      | .num p x f, .num q y g => if x * y = 0 then none else some (fp32.round {} (n != (p != q)) (m * (x * y)) (e + f + g))
      | _, _ => none
    else some (fp32.round {} n m (e + a.unit + b.unit))
  | _ => none

/-- The close of the group that begins at element i, into an accumulator (R75). -/
def closeGroup (core code i : Nat) (a b : Group) (acc : Nat) : Nat × MatFlags :=
  let last := kIndex code (i + a.img.length - 1)
  let c := classesOf {} i (a.cls.zip b.cls)
  let d := (squares ((a.img.zip b.img).map fun x => x.1 + x.2) - squares a.img - squares b.img) / 2
  let add (w : Nat) (f : MatFlags) : Nat × MatFlags := let r := accAdd core last acc w; (r.1, r.2.or f)
  if c.nan || c.zinf || (c.pinf && c.ninf) then add (arrayNan core (kIndex code (c.k.getD i))) { nan := true }
  else if c.pinf then add 0x7F800000 { inf := true }
  else if c.ninf then add 0xFF800000 { inf := true }
  else if d = 0 then (acc, {})
  else
    match groupValue (isIntFmt code) a b d with
    | none => (acc, {})
    | some (w, f) => add w { ovf := f.fo }

/-- All groups of one cell, in ascending K (R77). -/
def closeAll (core code size : Nat) (acc : Nat) (f : MatFlags) (i : Nat) : List (Group × Group) → Nat × MatFlags
  | [] => (acc, f)
  | (a, b) :: rest =>
    let r := closeGroup core code i a b acc
    closeAll core code size r.1 (f.or r.2) (i + size) rest

end Sys2Proof.Machine
end

