-- ==== Sys2Proof/Machine/VectorMemory.lean ====
section
/-!
DEFINITION. The memory forms of page 4 (spec/13 R301 to R304): block loads and stores, gather and scatter. Each is one access whose granules or
groups are performed one at a time at their banks.
-/

namespace Sys2Proof.Machine

/-- The active groups of a mask, lowest first. -/
def groupsOf (act : Word) : List Nat := (List.range 64).filter fun j => act.getLsbD j

/-- An offset that breaks a condition of R301, as the trap it raises. -/
def firstBad (as : List Word) (ok : Word → Bool) (cause : Nat) (k : Try State) : Try State :=
  match as.find? fun a => !ok a with
  | some a => .error (.trap cause a 0)
  | none => k

/-- The checks of R301, in order, over the addresses that a form accesses, n bytes each and aligned to m; `touched` are the granules or groups that
active groups reach, which may meet a versioned window (R133). -/
def State.vmemChecks (s : State) (as : List Word) (m n : Nat) (touched : List Word) (dest : Option VNum) (k : Try State) : Try State :=
  let c := s.cur.core
  firstBad as addrOk 6 <|
  firstBad as isFabric 8 <|
  firstBad as (fun a => homeOf c a == .own) 6 <|
  firstBad as (fun a => a.toNat % m == 0) 7 <|
  firstBad as (fun a => decide (offsetOf a + n ≤ 2 ^ 20)) 6 <|
  firstBad touched (fun a => !s.myCore.windowHole (offsetOf a)) 6 <|
  (match dest with | some d => s.vwritable d | none => id) <|
  firstBad touched (fun a => !(s.myCore.lineAt (offsetOf a)).isSome) 12 k

/-- A vector memory form sent: one access, its steps at the banks to follow; an ordered store waits as a scalar one does (R128, R302). -/
def State.vmemLaunch (s : State) (ord : Order) (ea : Word) (cells : List Nat) (load : Bool) (kind : Nat) (v : VNum)
    (data : BitVec 2048) (act : Word) (steps : List (Nat × Nat)) : State :=
  let c := s.cur.core
  let acks := if ord.ordered then s.postedHere else []
  let ends := s.meeting cells
  let (id, s) := s.fresh
  let (place, seq, s) := if load then s.vstartLoad v else (0, 0, s)
  let src : Asker := ⟨c, s.cur.slot, id⟩
  let s := s.addOut { id := id, addr := ea, home := .own, relaxed := ord.relaxed, store := !load, acq := ord.acq,
                      regs := if load then [(place, seq, true, v.toNat)] else [], waits := decide (1 ≤ kind) && kind != 4,
                      asid := s.me.asid, sup := s.me.sup, cells := cells }
  let f : VecForm := { id := id, slot := s.cur.slot, load := load, kind := kind, place := place, seq := seq, data := data, groups := act,
                       steps := steps, reg := v.toNat }
  match steps with
  | [] => if load then s.after (4 * Config.cycle) (.fill ⟨src, [.vector place seq data act]⟩) else s.after 0 (.acknowledgement src)
  | (off, _) :: _ =>
    (s.modMyCore fun k => { k with vecs := k.vecs ++ [f] }).requestBehind
      ⟨{ src := src, asid := s.me.asid, sup := s.me.sup, addr := fabricAddr c off, op := .vector }, acks, ends, none⟩

/-- A block form (R301, R303). -/
def State.blockForm (s : State) (m : Mods) (o : OpVMem) (load : Bool) (kind : Nat) : Try State :=
  let act := s.lanes m
  s.vchecks m [o.a] [] <|
  s.readable o.b <|
    match s.peek o.b with
    | .error e => .error e
    | .ok b =>
      match (if load then .ok 0 else s.vpeek o.a) with
      | .error e => .error e
      | .ok (data : BitVec 2048) =>
        let ea := b + immWord o.off
        let ord := if load then loadOrder o.x else storeOrder o.x
        let granules := (List.range 16).filter fun g => !(activeIn act (4 * g)).isEmpty
        let cells := granules.map fun g => ea.toNat / 16 + g
        s.mayIssue ord .own 0 <|
        s.vmemChecks [ea] 256 256 (granules.map fun g => ea + BitVec.ofNat 64 (16 * g)) (if load then some o.a else none) <|
          let s := s.consume [(o.b, o.q)]
          let s := if load then s else s.vconsume [(o.a, false)]
          .ok (s.vmemLaunch ord ea cells load kind o.a data act (granules.map fun g => (offsetOf ea + 16 * g, 4 * g)))

/-- vld (R303). -/
def execVld (m : Mods) (o : OpVMem) (s : State) : Host.Outcome State Fault Refusal := s.issue m fun s => s.blockForm m o true 0

/-- vst (R303). -/
def execVst (m : Mods) (o : OpVMem) (s : State) : Host.Outcome State Fault Refusal := s.issue m fun s => s.blockForm m o false 0

/-- vldf (R303): waits for each granule to be full. -/
def execVldf (m : Mods) (o : OpVMem) (s : State) : Host.Outcome State Fault Refusal := s.issue m fun s => s.blockForm m o true 1

/-- vldfe (R303): waits for each granule to be full, and empties it. -/
def execVldfe (m : Mods) (o : OpVMem) (s : State) : Host.Outcome State Fault Refusal := s.issue m fun s => s.blockForm m o true 2

/-- vstef (R303): waits for each granule to be empty, and fills it. -/
def execVstef (m : Mods) (o : OpVMem) (s : State) : Host.Outcome State Fault Refusal := s.issue m fun s => s.blockForm m o false 3

/-- Gather and scatter (R301, R304): 4 bytes a group, at the base plus the group's index. -/
def State.groupForm (s : State) (m : Mods) (o : OpVGat) (load : Bool) : Try State :=
  let act := s.lanes m
  s.vchecks m [o.a, o.c] [] <|
  s.readable o.b <|
    match s.peek o.b with
    | .error e => .error e
    | .ok b =>
      match (if load then .ok 0 else s.vpeek o.a) with
      | .error e => .error e
      | .ok (data : BitVec 2048) =>
        match s.vpeek o.c with
        | .error e => .error e
        | .ok idx =>
          let addr (j : Nat) : Word := b + immWord o.off + BitVec.ofNat 64 (elemAt 4 idx j)
          let gs := groupsOf act
          let as := gs.map addr
          let ord := if load then loadOrder o.x else storeOrder o.x
          let cells := as.map fun a => a.toNat / 16
          s.mayIssue ord .own 0 <|
          s.vmemChecks as 4 4 as (if load then some o.a else none) <|
            let s := (s.consume [(o.b, o.q)]).vconsume ((if load then [] else [(o.a, false)]) ++ [(o.c, false)])
            .ok (s.vmemLaunch ord (b + immWord o.off) cells load 4 o.a data act (gs.map fun j => (offsetOf (addr j), j)))

/-- vgath (R304). -/
def execVgath (m : Mods) (o : OpVGat) (s : State) : Host.Outcome State Fault Refusal := s.issue m fun s => s.groupForm m o true

/-- vscat (R304). -/
def execVscat (m : Mods) (o : OpVGat) (s : State) : Host.Outcome State Fault Refusal := s.issue m fun s => s.groupForm m o false

end Sys2Proof.Machine
end

