-- ==== Sys2Proof/Machine/Handles.lean ====
section
/-!
DEFINITION. Handles (spec/08 R169 to R175, spec/14 R313, spec/20 R415): their changes and evaluation, their waits, and the handle forms of page 5.
-/

namespace Sys2Proof.Machine

/-- A change of a handle, applied with the others of this cycle. -/
def State.changeHandle (s : State) (c : Nat) (p : HPending) : State :=
  (s.modCore c fun k => { k with hpending := k.hpending ++ [p] }).evalHandle c p.h

/-! ## Changes (R171, R172, R175, R336) -/

/-- A handle that faults for the first time (R158, R174). -/
def Handle.fault (x : Handle) (fc : Nat) : Handle := if x.f then x else { x with f := true, fc := fc }

/-- PEND's range (R169). -/
def pendOk (p : Int) : Bool := decide (-(2 ^ 47) ≤ p) && decide (p < 2 ^ 47)

/-- The buffer moves to full. -/
def Handle.fill (x : Handle) : Handle := { x with bst := 2, seq := x.seq + 1 }

/-- A barrier change: arrivals and expected bytes, as one; none where it is not applied. -/
def Handle.barrier (x : Handle) (arr : Nat) (n : Nat) : Option Handle :=
  if x.buffer || x.tgt == 0 || decide (x.tgt < x.arr + arr) || !pendOk (x.pend + n) then none
  else some { x with arr := x.arr + arr, pend := x.pend + n }

/-- What a change comes to: the handle, whether it was turned away (FC 6), and the status of `hdead` and `hcomp`. -/
structure Changed where
  h : Handle
  bad : Bool := false
  status : Nat := 0
  deriving DecidableEq, Repr

def Handle.change (x : Handle) : HandleChange → Changed
  | .arrive => match x.barrier 1 0 with | some y => ⟨y, false, 0⟩ | none => ⟨x.fault 6, true, 0⟩
  | .expect n => match x.barrier 0 n with | some y => ⟨y, false, 0⟩ | none => ⟨x.fault 6, true, 0⟩
  | .arriveExpect n => match x.barrier 1 n with | some y => ⟨y, false, 0⟩ | none => ⟨x.fault 6, true, 0⟩
  | .subtract n =>
    if !pendOk (x.pend - n) then ⟨x.fault 6, true, 0⟩
    else
      let y := { x with pend := x.pend - n }
      ⟨if x.buffer && x.bst == 1 && y.pend == 0 then y.fill else y, false, 0⟩
  | .dead => ⟨x.fault 7, false, 0⟩
  | .complete =>
    if x.buffer then (if x.bst = 1 then ⟨{ x with pend := 0 }.fill, false, 0⟩ else ⟨x, false, 1⟩)
    else ⟨{ x with arr := 0, pend := 0, seq := x.seq + 1 }, false, 0⟩

/-- The evaluation of a barrier-mode handle after a cycle's changes (R171). -/
def Handle.evaluate (x : Handle) : Handle :=
  if !x.buffer && x.tgt != 0 && x.arr == x.tgt && x.pend == 0 then { x with seq := x.seq + 1, arr := 0 } else x

/-- The condition of `hwait.p` (0) and `hwait.s` (1) (R173). -/
def Handle.holds (x : Handle) (kind : Nat) (v : BitVec 32) : Bool :=
  if kind = 0 then x.seq.getLsbD 0 != v.getLsbD 0 else !(x.seq - v).msb

/-- One change applied at a core, with its record and its reply. -/
def State.applyChange (s : State) (c : Nat) (p : HPending) : State :=
  let r := ((s.core c).handle p.h).change p.change
  let s := s.modCore c fun k => k.setHandle p.h r.h
  let s :=
    if r.bad then s.raise (p.owner.getD c) { cause := 36, cls := 1, slot := p.slot, asid := p.asid, aux := p.h } else s
  match p.reply with
  | none => s
  | some (asker, reg, seq) => s.send c asker.core (.fill ⟨asker, [.scalar reg seq (BitVec.ofNat 64 r.status)]⟩)

/-! ## Waits (R38, R173 to R175) -/

/-- A waiter goes on behind its instruction. -/
def State.releaseWaiter (s : State) (c : Nat) (w : HWaiter) : State :=
  let s := s.modCore c fun k => { k with hwaiters := k.hwaiters.filter fun x => x.slot != w.slot }
  let s := s.actAs c w.slot (s.slot c w.slot).pc 0 fun s => s.consume (w.takes.map fun t => (BitVec.ofNat 4 t.1, t.2))
  s.modCore c fun k => (k.setSlot w.slot (k.slot w.slot).endWait).ungate

/-- Every waiter of a faulted handle ends with the handle-fault trap (R174). -/
def State.faultWaiters (s : State) (c h : Nat) : State :=
  let x := (s.core c).handle h
  let ws := (s.core c).hwaiters.filter fun w => w.h == h
  let s := s.modCore c fun k => { k with hwaiters := k.hwaiters.filter fun w => w.h != h }
  ws.foldl (fun s w => s.takeTrap c w.slot (s.slot c w.slot).pc 16 0 (h + x.fc * 2 ^ 8)) s

/-- The first waiter in `hacq` takes a full handle (R175). -/
def State.serveAcquire (s : State) (c h : Nat) : State :=
  let x := (s.core c).handle h
  match (s.core c).hwaiters.find? fun w => w.h == h && w.kind == 2 with
  | none => s
  | some w =>
    if x.buffer && x.bst == 2 then
      (s.modCore c fun k => k.setHandle h { x with bst := 3, hslot := w.slot, hv := true }).releaseWaiter c w
    else s

/-- The waiters of a handle whose condition now holds go on. -/
def State.serveWaiters (s : State) (c h : Nat) : State :=
  let x := (s.core c).handle h
  if x.f then s.faultWaiters c h
  else
    let ws := (s.core c).hwaiters.filter fun w => w.h == h && w.kind != 2 && x.holds w.kind w.v
    (ws.foldl (fun s w => s.releaseWaiter c w) s).serveAcquire c h

/-- HANDLE_EVALUATION (R171, R415): the cycle's changes in order, one evaluation, and the waits that end. Forms held for the handle look
again. -/
def execHandleEvaluation (s : State) : Host.Outcome State Fault Refusal :=
  s.perform fun s e =>
    match e with
    | .handleEvaluation c h =>
      let ps := (s.core c).hpending.filter fun p => p.h == h
      let s := s.modCore c fun k => { k with hpending := k.hpending.filter fun p => p.h != h }
      let ordered := [0, 1, 2].flatMap fun r => ps.filter fun p => p.rank == r
      let s := ordered.foldl (fun s p => s.applyChange c p) s
      let s := s.modCore c fun k => k.setHandle h (k.handle h).evaluate
      some ((s.serveWaiters c h).kickAll c)
    | _ => none

/-- REMOTE_HANDLE_ARRIVAL (R415): a change from another core, the hub or a supervisor reaches the handle table. -/
def execRemoteHandleArrival (s : State) : Host.Outcome State Fault Refusal :=
  s.perform fun s e =>
    match e with
    | .remoteHandleArrival m =>
      if (s.core m.core).frozen && m.src.core != m.core then some (s.after busyTime (.remoteHandleArrival m))
      else
      match (s.core m.core).gate m.core m.asid m.sup with
      | .refused =>
        match m.reply, m.pop with
        | some _, _ => some (s.send m.core m.src.core (.refusal m.src 10))
        | none, some _ =>
          -- the manager's own arrival was refused: a record at the core that would have been told, with the handle's window entry (R183)
          some (s.coreRec m.core m.asid 10 1 (fabricAddr m.core (0x101000 + 16 * m.h)) 0)
        | none, none => some s
      | .onward d => some (s.send m.core d (.remoteHandleArrival { m with core := d }))
      | .pass =>
        some (s.changeHandle m.core { h := m.h, rank := 1, change := m.change, slot := none, asid := m.asid,
                                      reply := m.reply.map fun r => (m.src, r.1, r.2) })
    | _ => none

/-! ## The handle forms (R313) -/

/-- Whether a copy or stream that names the handle is outstanding, of this core or another, a subtraction on its way included (R170). -/
def State.handleBusy (s : State) (c h : Nat) : Bool :=
  (s.agenda.any fun e => match e.ev with | .handleSubtraction d i _ _ _ => d == c && i == h | _ => false) ||
  ((s.core c).hpending.any fun p => p.h == h && p.rank == 2) ||
  s.cores.any fun e =>
    (e.2.copies.any fun x => x.pop.isNone && x.h == h && x.hcore == c) ||
    (e.1 == c && e.2.streams.any fun x => x.h == h)

/-- A release (R121). -/
def State.releasing {α : Type} (s : State) (mask : BitVec 5) (k : Try α) : Try α := hold (!(s.me.out.any (Acc.awaited mask))) .access k

/-- Masks C with P, and C with E. -/
def maskCE : BitVec 5 := 0b00011

/-- hcfg (R170). -/
def execHcfg (m : Mods) (o : OpHb) (s : State) : Host.Outcome State Fault Refusal :=
  s.guarded m fun s => s.reading o.b o.q fun v s =>
    let n := o.h.toNat
    let c := s.cur.core
    let x := s.myCore.handle n
    let buffer := v.getLsbD 0
    let tgt := field v 8 8
    ensure (decide (v.toNat < 2 ^ 17) && field v 1 7 == 0 && (buffer || tgt != 0) && x.arr == 0 && x.pend == 0 && !(x.buffer && x.bst != 0) &&
            !s.handleBusy c n) 15 0 n <|
      .ok ((s.modMyCore fun k => k.setHandle n { x with
        buffer := buffer, tgt := tgt, f := false, fc := 0, arr := 0, pend := 0, hv := false, bst := 0,
        seq := if v.getLsbD 16 then 0 else x.seq }).evalHandle c n)

/-- A barrier form of the issuing core (R172). -/
def State.barrierForm (s : State) (h : HNum) (change : HandleChange) : Try State :=
  let x := s.myCore.handle h.toNat
  ensure (!x.buffer && x.tgt != 0) 15 0 h.toNat <|
    .ok (s.changeHandle s.cur.core { h := h.toNat, rank := 0, change := change, slot := some s.cur.slot, asid := s.me.asid, reply := none })

/-- hexpect (R172). -/
def execHexpect (m : Mods) (o : OpHb) (s : State) : Host.Outcome State Fault Refusal :=
  s.guarded m fun s => s.reading o.b o.q fun v s =>
    ensure (decide (v.toNat < 2 ^ 47)) 15 0 o.h.toNat <| s.barrierForm o.h (.expect v.toNat)

/-- hexpect.a (R172): an arrival too, and so a release. -/
def execHexpectA (m : Mods) (o : OpHb) (s : State) : Host.Outcome State Fault Refusal :=
  s.guarded m fun s => s.reading o.b o.q fun v s =>
    ensure (decide (v.toNat < 2 ^ 47)) 15 0 o.h.toNat <| s.releasing maskCP <| s.barrierForm o.h (.arriveExpect v.toNat)

/-- harr (R172). -/
def execHarr (m : Mods) (o : OpH) (s : State) : Host.Outcome State Fault Refusal :=
  s.guarded m fun s => s.releasing maskCP <| s.barrierForm o.h .arrive

/-- The thread waits at the handle; its program counter stays at the instruction until the wait ends (R38). -/
def State.waitAt (s : State) (w : HWaiter) (sw : Bool) : State :=
  let s := s.modMyCore fun k => { k with hwaiters := k.hwaiters ++ [w] }
  s.modMe fun t => { t with st := .waiting, why := .handle w.h, resume := some (s.cur.next, sw), pc := s.cur.addr }

/-- hwait.p (0) and hwait.s (1) (R173). -/
def State.hwaitForm (s : State) (m : Mods) (o : OpHb) (kind : Nat) : Try State :=
  notInService s <|
  s.readable o.b <|
    match s.peek o.b with
    | .error e => .error e
    | .ok v =>
      let x := s.myCore.handle o.h.toNat
      let v32 : BitVec 32 := v.setWidth 32
      ensure (!x.f) 16 0 (o.h.toNat + x.fc * 2 ^ 8) <|
        if x.holds kind v32 then .ok (s.consume [(o.b, o.q)])
        else .ok (s.waitAt { h := o.h.toNat, slot := s.cur.slot, kind := kind, v := v32, takes := [(o.b.toNat, o.q)] } m.sw)

/-- hwait.p (R173). -/
def execHwaitP (m : Mods) (o : OpHb) (s : State) : Host.Outcome State Fault Refusal := s.guarded m fun s => s.hwaitForm m o 0

/-- hwait.s (R173). -/
def execHwaitS (m : Mods) (o : OpHb) (s : State) : Host.Outcome State Fault Refusal := s.guarded m fun s => s.hwaitForm m o 1

/-- hacq (R175). -/
def execHacq (m : Mods) (o : OpH) (s : State) : Host.Outcome State Fault Refusal :=
  s.guarded m fun s =>
    notInService s <|
    let n := o.h.toNat
    let x := s.myCore.handle n
    ensure x.buffer 15 0 n <|
    ensure (!x.f) 16 0 (n + x.fc * 2 ^ 8) <|
    ensure (x.bst != 3) 15 0 n <|
      if x.bst = 2 then .ok (s.modMyCore fun k => k.setHandle n { x with bst := 3, hslot := s.cur.slot, hv := true })
      else .ok (s.waitAt { h := n, slot := s.cur.slot, kind := 2, v := 0 } m.sw)

/-- hrel (R175). -/
def execHrel (m : Mods) (o : OpH) (s : State) : Host.Outcome State Fault Refusal :=
  s.guarded m fun s =>
    let n := o.h.toNat
    let x := s.myCore.handle n
    ensure (x.buffer && x.bst == 3 && x.hv && x.hslot == s.cur.slot) 15 0 n <|
    s.releasing maskCE <|
      .ok ((s.modMyCore fun k => k.setHandle n { x with bst := 0, hv := false }).evalHandle s.cur.core n)

end Sys2Proof.Machine
end

