-- ==== Sys2Proof/Machine/Hbm.lean ====
section
/-!
DEFINITION. HBM through the word aperture (spec/05 R103 to R111, spec/10 R219) and what befalls its lines (spec/21 R422 to R427): translation requests,
the channel controllers, invalidations of line buffers, expansion of capacity pages, rebuilds, scrubs and not-live lines.
-/

namespace Sys2Proof.Machine

/-! ## Times (log 8) -/

/-- One HBM read or write. -/
def hbmTime : Nat := 100 * Config.tick

/-- A walk of six reads (R104). -/
def walkTime : Nat := 6 * hbmTime

/-! ## Pages that rest compressed (R108, R109) -/

/-- The events that wait for a page, which they do no longer. -/
def State.endStall (s : State) (d frame : Nat) : List Event × State :=
  match (s.hub d).expanding.find? fun e => e.frame == frame with
  | none => ([], s)
  | some e => (e.evs, s.modHub d fun h => { h with expanding := h.expanding.filter fun e => e.frame != frame })

/-- CAPACITY_EXPANSION (R108): the page stands in a frame of the pool, and what waited goes on. -/
def execCapacityExpansion (s : State) : Host.Outcome State Fault Refusal :=
  s.perform fun s e =>
    match e with
    | .capacityExpansion d frame err =>
      match (s.hub d).expanding.find? fun e => e.frame == frame with
      | none => some s
      | some x =>
        let leaf := s.value (hbmKey d x.at_) 8
        -- an access that could not wait has expanded the page meanwhile (log 117)
        if leafFrame leaf / 2 ^ 16 ≠ frame ∨ !(s.hub d).isCompressed leaf then
          let (evs, s) := s.endStall d frame
          some (s.soon evs)
        else
          match s.expand d leaf x.at_ err with
          | none => some (s.starve d frame)
          | some (_, s) =>
            let (evs, s) := s.endStall d frame
            some (s.soon evs)
    | _ => none

/-! ## Line buffers (R111) -/

/-- After a write through the word aperture the buffers that hold its line are invalidated; a store is owed their acknowledgements. -/
def State.invalidate (s : State) (d key : Nat) (t : Asker) (store : Bool) : State :=
  let n := (s.hub d).lineBufs.countP fun b => b.line == key / 64
  let s := s.modHub d fun h =>
    { h with lineBufs := h.lineBufs.map fun b => if b.line == key / 64 then { b with stale := t.id :: b.stale } else b }
  let s := (List.range n).foldl (fun s _ => s.after hbmTime (.bulkBufferInvalidationAck t (key / 64))) s
  if store ∧ 0 < n then
    s.modSlot t.core t.slot fun x => { x with out := x.out.map fun a => if a.id == t.id then { a with owed := n } else a }
  else s

/-- One of the buffers of a line that an access invalidates is dropped; buffers filled after that access stay. -/
def dropBuffer (line id : Nat) (bs : List LineBuf) : List LineBuf := bs.eraseP fun b => b.line == line && b.stale.contains id

/-- BULK_BUFFER_INVALIDATION_ACK (R111): with the last one the store is performed through the bulk path. -/
def execBulkBufferInvalidationAck (s : State) : Host.Outcome State Fault Refusal :=
  s.perform fun s e =>
    match e with
    | .bulkBufferInvalidationAck t line =>
      let s := s.modHub (devOf t.core) fun h => { h with lineBufs := dropBuffer line t.id h.lineBufs }
      let s := s.modSlot t.core t.slot fun x =>
        { x with out := (x.out.map fun a => if a.id == t.id then { a with owed := a.owed - 1 } else a).filter fun a =>
            !(a.id == t.id && a.done && a.owed == 0) }
      some (s.kickAll t.core)
    | _ => none

/-! ## The channel controller (R96, R110) -/

/-- An HBM request performed or refused at its channel; none while it must wait. -/
def State.serveHbm (s : State) (r : Req) (pa : Nat) (leaf : Word) : Option State :=
  let d := devOf r.src.core
  let p := hbmPlace d pa leaf
  match r.op with
  | .viewLoad _ _ => some (s.after 0 (.viewLoad r))
  | .bundleStore _ _ _ => some (s.after 0 (.bundleStore r))
  | _ =>
    match s.performAt p r.asid r.op with
    | .wait => none
    | .refuse cause => some (s.after 0 (.refusal r.src cause))
    | .done s v tag fr =>
      let s := if opFills r.op then s.deadRead d r.src.core p.key else s
      let s := if opWrites r.op then (s.revive d p).invalidate d p.key r.src (!opFills r.op) else s
      some (match s.doneParts r v tag fr with
        | some ps => s.after hbmTime (.fill ⟨r.src, ps⟩)
        | none => s.after hbmTime (.acknowledgement r.src))

/-- The first held request that can go on, with those before and behind it. -/
def State.nextHbm (s : State) (seen : List (Req × Nat × Word)) : List (Req × Nat × Word) → Option (State × List (Req × Nat × Word))
  | [] => none
  | x :: rest =>
    match s.serveHbm x.1 x.2.1 x.2.2 with
    | none => s.nextHbm (seen ++ [x]) rest
    | some s' => some (s', seen ++ rest)

/-- The requests held at a package's channels are looked at again, in the order they arrived, until none can go on (R96). -/
def State.recheckHbm (s : State) (d : Nat) : Nat → State
  | 0 => s
  | n + 1 =>
    match s.nextHbm [] (s.hub d).hbmWaiting with
    | none => s
    | some (s, rest) => (s.modHub d fun h => { h with hbmWaiting := rest }).recheckHbm d n

def State.recheckChannels (s : State) (d : Nat) : State := s.recheckHbm d (s.hub d).hbmWaiting.length

/-- HBM_CHANNEL_REQUEST (R96, R110): performed, or held; beyond 256 of a channel it is tried again. -/
def execHbmChannelRequest (s : State) : Host.Outcome State Fault Refusal :=
  s.perform fun s e =>
    match e with
    | .hbmChannelRequest r pa leaf =>
      let d := devOf r.src.core
      match s.serveHbm r pa leaf with
      | some s => some (s.recheckChannels d)
      | none =>
        if 256 ≤ (s.hub d).hbmWaiting.countP fun x => channelOf x.2.1 == channelOf pa then some (s.after busyTime (.busy (.req r)))
        else some (s.modHub d fun h => { h with hbmWaiting := h.hbmWaiting ++ [(r, pa, leaf)] })
    | _ => none

/-! ## Line controllers' own steps (R139, R143) -/

/-- A version that a bundle store could not spill is counted at the record (R139). -/
def State.settleSpill (s : State) (r : Req) (fr : Nat) : State :=
  match r.op with
  | .bundleStore _ _ v => if fr = 1 then s.countLost v.record r.asid else s
  | _ => s

/-- The spill entry that an access under an entry reaches at a line, with its package and station, if it reaches one (R139, R143). -/
def State.spillOf (s : State) (l asid : Nat) (op : MemOp) : List (Nat × Nat × Word) :=
  let x := s.lineMeta l
  let entry (v : ViewRef) : List (Nat × Nat × Word) :=
    let r := s.recordNow v.record asid
    if metaName x = v.name ∧ s.recordSound r then [(devOfKey l, 64, r.spill + BitVec.ofNat 64 (128 * metaCidx x))] else []
  match op with
  | .viewLoad _ v =>
    let fits (k : Nat) : Bool := metaSerial x k != 0 && decide (metaSerial x k ≤ v.serial)
    if fits 0 || fits 1 || !(metaSpilled x 0 || metaSpilled x 1) then [] else entry v
  | .bundleStore _ _ v =>
    let k := storeSlot x v.serial
    if metaSerial x k = v.serial ∨ metaSerial x k = 0 ∨ !v.sp ∨ (s.recordNow v.record asid).spcap ≤ metaCidx x then [] else entry v
  | _ => []

/-- The versioned line of a request, where it has one. -/
def State.lineOf (s : State) (r : Req) : Option Nat :=
  let c := r.src.core
  if isFabric r.addr then (s.tilePlace (coreNamed r.addr) (offsetOf r.addr)).line.map (·.1)
  else
    match s.leafOf (devOf c) (stationOf c) r.asid (virtualOf r.addr) (opWrites r.op) with
    | none => none
    | some (leaf, _, _) => (hbmPlace (devOf c) (physOf leaf (virtualOf r.addr)) leaf).line.map (·.1)

/-- A request under an entry waits for the expansion of its spill entry's page (R109). -/
def State.stallSpill (s : State) (r : Req) (ev : Event) : Option State :=
  match s.lineOf r with
  | none => none
  | some l => s.stalledAt r.src.core r.asid (s.spillOf l r.asid r.op) ev

/-- An access under an entry, at the line's home. -/
def State.lineStep (s : State) (r : Req) : State :=
  let c := r.src.core
  if isFabric r.addr then
    let home := coreNamed r.addr
    let s := s.hookFor home r
    match s.performAt (s.tilePlace home (offsetOf r.addr)) r.asid r.op with
    | .done s v tag fr => ((s.settleSpill r fr).served home r v tag fr).recheckAll home
    | .refuse cause => s.refuseReq home r cause
    | .wait => s
  else
    match s.translate (devOf c) (stationOf c) r.asid (virtualOf r.addr) (opWrites r.op) with
    | none => s.after 0 (.refusal r.src 11)
    | some (pa, leaf, s) =>
      match s.performAt (hbmPlace (devOf c) pa leaf) r.asid r.op with
      | .done s v tag fr =>
        let s := s.settleSpill r fr
        match s.doneParts r v tag fr with
        | some ps => s.after (4 * Config.cycle) (.fill ⟨r.src, ps⟩)
        | none => s.after (4 * Config.cycle) (.acknowledgement r.src)
      | .refuse cause => s.after 0 (.refusal r.src cause)
      | .wait => s

/-- BUNDLE_STORE (R139): under a write entry. -/
def execBundleStore (s : State) : Host.Outcome State Fault Refusal :=
  s.perform fun s e =>
    match e with
    | .bundleStore r => some ((s.stallSpill r e).getD (s.lineStep r))
    | _ => none

/-- VIEW_LOAD (R143): under a view or write entry. -/
def execViewLoad (s : State) : Host.Outcome State Fault Refusal :=
  s.perform fun s e =>
    match e with
    | .viewLoad r => some ((s.stallSpill r e).getD (s.lineStep r))
    | _ => none

/-! ## The station (R103 to R106) -/

/-- A request translated, and sent to its channel; one that does not translate is refused. -/
def State.toChannel (s : State) (r : Req) : State :=
  let c := r.src.core
  match s.translate (devOf c) (stationOf c) r.asid (virtualOf r.addr) (opWrites r.op) with
  | none => s.after 0 (.refusal r.src 11)
  | some (pa, leaf, s) => s.after hbmTime (.hbmChannelRequest r pa leaf)

/-- TRANSLATION_REQUEST (R104): a buffered entry, or a walk. -/
def execTranslationRequest (s : State) : Host.Outcome State Fault Refusal :=
  s.perform fun s e =>
    match e with
    | .translationRequest r =>
      let c := r.src.core
      match s.stalled c r.asid [r.addr] (.translationRequest r) with
      | some s => some s
      | none =>
        if ((s.hub (devOf c)).buffered (stationOf c) r.asid (virtualOf r.addr)).isSome || !(s.hub (devOf c)).xltRoot.getLsbD 0 then
          some (s.toChannel r)
        else some (s.after walkTime (.translationWalkComplete r))
    | _ => none

/-- TRANSLATION_WALK_COMPLETE (R105). -/
def execTranslationWalkComplete (s : State) : Host.Outcome State Fault Refusal :=
  s.perform fun s e =>
    match e with
    | .translationWalkComplete r =>
      match s.stalled r.src.core r.asid [r.addr] (.translationRequest r) with
      | some s => some s
      | none => some (s.toChannel r)
    | _ => none

/-! ## Errors of lines (R422 to R427) -/

/-- Every word of an HBM line is poisoned (R424). -/
def State.poisonLine (s : State) (d line : Nat) : State := (cellsOf (hbmKey d (64 * line)) 64).foldl State.setPoison s

/-- The attribute of the page of a line: of a page on record that is still mapped, a job's before the supervisor's, or that a station has buffered;
guarded where there is none (DESIGN CHOICE, log 66). -/
def State.attrOf (s : State) (d line : Nat) : Nat :=
  let inside (a n : Nat) : Bool := decide (a ≤ 64 * line) && decide (64 * line < a + n)
  let mapped := (s.hub d).pages.filter fun p => inside p.frame p.span && s.stillMapped d p
  match mapped.find? (fun p => p.asid != 0) <|> mapped.head? with
  | some p => leafAttr (s.value (hbmKey d p.at_) 8)
  | none => (((s.hub d).tlb.find? fun b => inside (leafFrame b.leaf) (leafSpan b.leaf b.big)).map fun b => leafAttr b.leaf).getD 0

/-- Whether an uncorrectable line can be rebuilt; `parity`: the rest of its parity group is sound (R424). -/
def State.canRebuild (s : State) (d line : Nat) (parity : Bool) : Bool :=
  match s.attrOf d line with
  | 1 => (s.hub d).retained.contains (line / 2 ^ 10)
  | 3 => false
  | _ => parity

/-- HBM_REFRESH (R219): content stays as it is; only latencies change, within the bounds of R219. -/
def execHbmRefresh (s : State) : Host.Outcome State Fault Refusal :=
  s.perform fun s e =>
    match e with
    | .hbmRefresh _ _ => some s
    | _ => none

/-- HBM_SCRUB (R424, R427): an uncorrectable line is rebuilt or poisoned, and the hub sends a notice. -/
def execHbmScrub (s : State) : Host.Outcome State Fault Refusal :=
  s.perform fun s e =>
    match e with
    | .hbmScrub d line err source =>
      if !err || (s.hub d).lost.contains line then some s
      else if s.canRebuild d line source then some (s.hubNotice d 2 (line / 2 ^ 30) (line % 2 ^ 30))
      else some ((s.poisonLine d line).hubNotice d 3 (line / 2 ^ 30) (line % 2 ^ 30))
    | _ => none

/-- The content of an HBM line is gone: zeros, with presence empty (R426). -/
def State.loseLine (s : State) (d line : Nat) : State :=
  let a := hbmKey d (64 * line)
  let s := s.setBytes a (List.replicate 64 0)
  let s := (cellsOf a 64).foldl (fun s k => (s.setPresent k false).cleanse k) s
  s.modHub d fun h => { h with lost := line :: h.lost.filter (· != line), lastWrite := h.lastWrite.drop line,
                               lineBufs := h.lineBufs.filter fun b => b.line != a / 64 }

/-- NOT_LIVE_LINE_EXPIRY (R426): 32 ms after its last write. -/
def execNotLiveLineExpiry (s : State) : Host.Outcome State Fault Refusal :=
  s.perform fun s e =>
    match e with
    | .notLiveLineExpiry d line since =>
      if (s.hub d).lastWrite.has line && (s.hub d).lastWrite.get 0 line == since then
        -- a line whose page is not a not-live one any more keeps its content
        if s.attrOf d line = 3 then some ((s.loseLine d line).recheckChannels d)
        else some (s.modHub d fun h => { h with lastWrite := h.lastWrite.drop line })
      else some s
    | _ => none

/-- TILE_SCRUB (R422): a single-bit error is corrected and counted; a double-bit error poisons the granule. Poisoned granules are passed over. -/
def execTileScrub (s : State) : Host.Outcome State Fault Refusal :=
  s.perform fun s e =>
    match e with
    | .tileScrub c granule err =>
      let a := tileKey c (16 * (granule % 2 ^ 16))
      if s.poisoned a then some s
      else if err = 1 then some (s.modCore c fun k => k.count 0)
      else if err = 2 then some ((s.setPoison a).modCore c fun k => k.count 1)
      else some s
    | _ => none

end Sys2Proof.Machine
end

