-- ==== Sys2Proof/Machine/Copies.lean ====
section
/-!
DEFINITION. Shape records, copies, transforms and streams (spec/08 R149 to R168, spec/14 R310 to R312): the forms of page 5 that name them, and the
engine's steps.
-/

namespace Sys2Proof.Machine

/-! ## Shapes (R151 to R154) -/

/-- The bytes of an element-size code (R152). -/
def eszBytes (esz : Nat) : Nat := if esz = 5 then 64 else 2 ^ esz

def Shape.base (k : Shape) : Word := BitVec.ofNat 64 (field k.image 0 64)
def Shape.count (k : Shape) (d : Nat) : Nat := field k.image (64 + 16 * d) 16
def Shape.stride (k : Shape) (d : Nat) : Int := sval 32 (field k.image (128 + 32 * d) 32)
def Shape.valid (k : Shape) : Bool := decide (k.esz < 6)
def Shape.size (k : Shape) : Nat := eszBytes k.esz
def Shape.elements (k : Shape) : Nat := k.count 0 * k.count 1 * k.count 2 * k.count 3

/-- The length of the byte stream. -/
def Shape.bytes (k : Shape) : Nat := k.elements * k.size

/-- The address of element e in traversal order (R153). -/
def Shape.elemAddr (k : Shape) (e : Nat) : Word :=
  let i0 := e % k.count 0
  let i1 := e / k.count 0 % k.count 1
  let i2 := e / k.count 0 / k.count 1 % k.count 2
  let i3 := e / k.count 0 / k.count 1 / k.count 2
  k.base + BitVec.ofInt 64 (i0 * k.stride 0 + i1 * k.stride 1 + i2 * k.stride 2 + i3 * k.stride 3)

/-- The addresses of n bytes of the stream from position i, in runs within elements. -/
def Shape.runs (k : Shape) : Nat → Nat → Nat → List (Word × Nat)
  | 0, _, _ => []
  | f + 1, i, n =>
    if n = 0 then []
    else
      let off := i % k.size
      let m := min n (k.size - off)
      (k.elemAddr (i / k.size) + BitVec.ofNat 64 off, m) :: k.runs f (i + m) (n - m)

/-- Runs that follow each other within a granule, as one write of it (R157). -/
def joinRuns (rs : List (Word × Nat)) : List (Word × Nat) :=
  rs.foldr (fun (x : Word × Nat) (acc : List (Word × Nat)) =>
    match acc with
    | (b, m) :: rest => if x.1 + BitVec.ofNat 64 x.2 = b ∧ x.1.toNat % 16 + x.2 + m ≤ 16 then (x.1, x.2 + m) :: rest else x :: acc
    | [] => [x]) []

/-- The least and greatest offsets from BASE that a shape's dimensions reach, its last byte left out. -/
def Shape.reach (k : Shape) : Int × Int :=
  (List.range 4).foldl (fun (lo, hi) d =>
    let x := ((k.count d : Int) - 1) * k.stride d
    (lo + min 0 x, hi + max 0 x)) (0, 0)

/-- A shape reaches only where its form may (R155). -/
def Shape.reachOk (k : Shape) (c : Nat) : Bool :=
  addrOk k.base &&
  (!isFabric k.base ||
    (let (lo, hi) := k.reach
     decide (0 ≤ (offsetOf k.base : Int) + lo) && decide ((offsetOf k.base : Int) + hi + k.size ≤ 2 ^ 20)))

/-- Why an instruction of the core itself may not read n bytes of its tile store: a hole or a line of a versioned window (R133, R134), or poison,
whose old bytes no instruction reads (R423; an exact trap here is DESIGN CHOICE, log 95: its table names neither `shape` nor `cpx`). -/
def State.readCause (s : State) (c off n : Nat) : Option Nat :=
  match (s.core c).windowCause off n with
  | some cause => some cause
  | none => if s.anyPoison (tileKey c off) n then some 29 else none

/-- shape (R154, R310): the checks pass, or the record is unchanged. -/
def execShape (m : Mods) (o : OpShape) (s : State) : Host.Outcome State Fault Refusal :=
  s.guarded m fun s => s.withEa o.b o.off fun ea =>
    let c := s.cur.core
    let n := o.k.toNat
    s.serviceLocal (homeOf c ea) <|
    s.mayIssue {} (homeOf c ea) 0 <|
    ensure (addrOk ea && homeOf c ea == .own && decide (offsetOf ea + 32 ≤ 2 ^ 20)) 6 ea 0 <|
    ensure (ea.toNat % 32 == 0) 7 ea 0 <|
    ensure (s.readCause c (offsetOf ea) 32).isNone ((s.readCause c (offsetOf ea) 32).getD 0) ea 0 <|
      let img := BitVec.ofNat 256 (leNat (s.bytes (tileKey c (offsetOf ea)) 32))
      let k : Shape := ⟨img, o.esz.toNat⟩
      ensure k.valid 14 0 n <|
      ensure ((List.range 4).all fun d => k.count d != 0) 14 0 n <|
      ensure (decide (k.bytes ≤ 2 ^ 40)) 14 0 n <|
      ensure ((List.range 4).all fun d => decide (k.count d ≤ 1) || k.stride d % k.size == 0) 7 ea 0 <|
        .ok ((s.consume [(o.b, o.q)]).modMyCore fun x => { x with shapes := x.shapes.put n k })

/-! ## Pushing (R124, R311) -/

/-- A form that pushes waits Held until its queue takes it, with the instruction as it was fetched (R232); then it goes on. -/
def State.pushing (s : State) (p : Push) (i : Instr) (can : Bool) (k : Try State) : Try State :=
  if can then k
  else .ok (s.modMe fun t =>
    { t with st := .held, why := .access, push := some p, pushSince := s.now, pushed := some (i, s.cur.next), pc := s.cur.addr })

/-- A handle that a copy of this core must find free (R155). -/
def Core.handleFree (k : Core) (h : Nat) : Bool := let x := k.handle h; !x.buffer || x.bst == 0

/-- The mask E. -/
def maskE : BitVec 5 := 0b00010

/-- The bytes that a shape's inner dimensions place one behind the other, and whether the dimensions outside them keep lines aligned. -/
def Shape.inner (k : Shape) : Nat × Bool :=
  let x := (List.range 4).foldl (fun (x : Nat × Bool × Bool) d =>
    if k.count d ≤ 1 then x
    else if x.2.1 && k.stride d == x.1 then (x.1 * k.count d, true, x.2.2)
    else (x.1, false, x.2.2 && k.stride d % 64 == 0)) (k.size, true, true)
  (x.1, x.2.2)

/-- An element's line is written whole: every place of an element in it is some element's. -/
def Shape.covers (k : Shape) (e : Nat) : Bool :=
  let line := (k.elemAddr e).toNat / 64 * 64
  (List.range (64 / k.size)).all fun u => (List.range k.elements).any fun f => (k.elemAddr f).toNat == line + u * k.size

/-- Destination whole 64-aligned lines (R155), whatever the order of traversal; the first test sees most of them at once. -/
def Shape.wholeLines (k : Shape) : Bool :=
  (k.base.toNat % 64 == 0 && k.inner.1 % 64 == 0 && k.inner.2) || (List.range k.elements).all k.covers

/-- The checks of R155 on a source or destination by itself, row by row over both. -/
def shapeChecks (c : Nat) (ks : List (Nat × Shape)) (k : Try State) : Try State :=
  let bad (ok : Shape → Bool) (t : Nat → Shape → Stop) (k : Try State) : Try State :=
    match ks.find? fun x => !ok x.2 with
    | some x => .error (t x.1 x.2)
    | none => k
  bad (fun x => x.reachOk c) (fun _ x => .trap 6 x.base 0) <|
  bad (fun x => x.base.toNat % x.size == 0) (fun _ x => .trap 7 x.base 0) <|
  bad (fun x => isFabric x.base || isBulk x.base) (fun _ x => .trap 8 x.base 0) <|
  bad (fun x => isFabric x.base || decide (8 ≤ x.size)) (fun _ x => .trap 7 x.base 0) k

/-! ## Transform descriptors (R159) -/

def descTx (b : List Byte) : Nat := imageAt b 0 1 % 8
def descCk (b : List Byte) : Bool := bitAt (imageAt b 0 1) 3
def descNoise (b : List Byte) : Noise :=
  { fmt := imageAt b 1 1 % 4, sigma := imageAt b 4 4, seed := BitVec.ofNat 64 (imageAt b 8 8), gen := imageAt b 16 4,
    child := bitsOf (imageAt b 28 4) 0 12, device := bitsOf (imageAt b 28 4) 12 6 }

/-- The zero fields of a descriptor, and its TX. -/
def descOk (b : List Byte) : Bool :=
  decide (descTx b ≤ 3) && decide (imageAt b 0 1 < 16) && decide (imageAt b 1 1 < 4) && imageAt b 2 2 == 0 &&
  decide (imageAt b 28 4 < 2 ^ 18) && imageAt b 40 24 == 0

/-- A copy as its form describes it. -/
structure CopyPlan where
  instr : Instr
  kd : VNum
  ks : VNum
  h : HNum
  onDest : Bool := false
  /-- the write entry of `cp.bv` -/
  view : Option Word := none
  /-- the descriptor's offset of `cpx` -/
  desc : Option Word := none
  /-- the read that its acceptance consumes -/
  takes : List (SReg × Bool) := []

/-- The bytes that a copy subtracts in all (R160). -/
def Copy.total (x : Copy) : Nat :=
  match x.desc with
  | some (_, b) => if descTx b = 2 then x.ks.bytes else x.kd.bytes
  | none => x.kd.bytes

/-- The queue takes a copy; its handle, if it is a local buffer, fills (R149, R175); a `.d` form fills none (R158, R413). -/
def State.acceptCopy (s : State) (c : Nat) (x : Copy) : State :=
  let s := s.modCore c fun k => { k with copies := k.copies ++ [x], copyq := k.copyq ++ [x.id] }
  let hd := (s.core c).handle x.h
  let s := if x.hcore = c ∧ hd.buffer ∧ !x.onDest then s.modCore c fun k => k.setHandle x.h { hd with bst := 1, pend := x.total } else s
  s.after Config.cycle (.copyTransferLine c x.id 0 true none)

/-- The copy forms (R155, R159, R311). -/
def State.copyForm (s : State) (p : CopyPlan) : Try State :=
  let c := s.cur.core
  let core := s.myCore
  let kd := core.shape p.kd.toNat
  let ks := core.shape p.ks.toNat
  let n := p.h.toNat
  let desc : List Byte := match p.desc with | none => List.replicate 64 0 | some v => s.bytes (tileKey c (v.toNat % 2 ^ 20)) 64
  let tx := descTx desc
  let dv := p.desc.getD 0
  let far := p.onDest && coreNamed kd.base != c
  ensure (dv.toNat % 64 == 0) 7 dv 0 <|
  ensure (decide (dv.toNat + 64 ≤ 2 ^ 20)) 6 dv 0 <|
  ensure (p.desc.isNone || (s.readCause c dv.toNat 64).isNone) ((s.readCause c dv.toNat 64).getD 0) dv 0 <|
  ensure (p.desc.isNone || descOk desc) 18 dv 0 <|
  ensure kd.valid 14 0 p.kd.toNat <|
  ensure ks.valid 14 0 p.ks.toNat <|
  ensure (kd.bytes == ks.bytes || tx == 1 || tx == 2) 14 0 p.kd.toNat <|
  ensure (tx != 1 || kd.bytes % 64 == 0) 14 0 p.kd.toNat <|
  ensure (tx != 2 || ks.bytes % 64 == 0) 14 0 p.ks.toNat <|
  shapeChecks c [(p.kd.toNat, kd), (p.ks.toNat, ks)] <|
  ensure (!p.onDest || isFabric kd.base) 15 0 n <|
  ensure (far || (core.handle n).buffer || (core.handle n).tgt != 0) 15 0 n <|
  ensure (s.entryOk (p.view.map fun v => (v, true))) 13 0 ((p.view.map fun v => v.toNat).getD 0) <|
  ensure (p.view.isNone || kd.wholeLines) 7 kd.base 0 <|
  ensure (tx != 3 || decide ((imageAt desc 20 4 + imageAt desc 24 4) * mutateBytes (imageAt desc 1 1 % 4) ≤ ks.bytes)) 18 dv 0 <|
    let hcore := if p.onDest then coreNamed kd.base else c
    let can := s.mayPush maskE && decide (core.copyq.length < 16) && (p.onDest || core.handleFree n)
    s.pushing .copy p.instr can <|
      let (id, s) := (s.consume p.takes).fresh
      let total := if tx = 2 then ks.bytes else kd.bytes
      let x : Copy := {
        id := id, slot := s.cur.slot, asid := s.me.asid, sup := s.me.sup, kd := kd, ks := ks, h := n, hcore := hcore, onDest := p.onDest,
        view := p.view.map fun v => viewRef c v.toNat (core.view v.toNat),
        desc := p.desc.map fun v => (v.toNat, desc), lines := (total + 63) / 64 }
      .ok (s.acceptCopy c x)

/-- cp (R155). -/
def execCp (m : Mods) (o : OpCp) (s : State) : Host.Outcome State Fault Refusal :=
  s.guarded m fun s => s.copyForm { instr := .cp m o, kd := o.kd, ks := o.ks, h := o.h }

/-- cp.d (R155): the handle lies on the destination core. -/
def execCpD (m : Mods) (o : OpCp) (s : State) : Host.Outcome State Fault Refusal :=
  s.guarded m fun s => s.copyForm { instr := .cpD m o, kd := o.kd, ks := o.ks, h := o.h, onDest := true }

/-- cp.bv (R155): every destination line is a bundle store. -/
def execCpBv (m : Mods) (o : OpCpc) (s : State) : Host.Outcome State Fault Refusal :=
  s.guarded m fun s => s.withReg o.c fun v => s.copyForm { instr := .cpBv m o, kd := o.kd, ks := o.ks, h := o.h, view := some v, takes := [(o.c, false)] }

/-- cpx (R159). -/
def execCpx (m : Mods) (o : OpCpc) (s : State) : Host.Outcome State Fault Refusal :=
  s.guarded m fun s => s.withReg o.c fun v => s.copyForm { instr := .cpx m o, kd := o.kd, ks := o.ks, h := o.h, desc := some v, takes := [(o.c, false)] }

/-- cpx.d (R159). -/
def execCpxD (m : Mods) (o : OpCpc) (s : State) : Host.Outcome State Fault Refusal :=
  s.guarded m fun s => s.withReg o.c fun v =>
    s.copyForm { instr := .cpxD m o, kd := o.kd, ks := o.ks, h := o.h, onDest := true, desc := some v, takes := [(o.c, false)] }

/-! ## Streams (R166, R168, R312) -/

/-- `stream` into a register: number or bank place. -/
def State.streamForm (s : State) (i : Instr) (reg : Nat) (shown : Nat) (vec normal : Bool) (ks : VNum) (h : HNum) : Try State :=
  let c := s.cur.core
  let core := s.myCore
  let k := core.shape ks.toNat
  let hd := core.handle h.toNat
  ensure normal 5 0 (shown + 32 * b2n vec) <|
  ensure k.valid 14 0 ks.toNat <|
  shapeChecks c [(ks.toNat, k)] <|
  ensure (vec || decide (k.esz < 4)) 14 0 ks.toNat <|
  ensure (!vec || k.bytes % 256 == 0) 14 0 ks.toNat <|
  ensure (hd.buffer && hd.bst == 0) 15 0 h.toNat <|
  ensure (decide (core.streams.length < 8)) 17 0 shown <|
    s.pushing .copy i (s.mayPush maskE && decide (core.copyq.length < 16)) <|
      let (id, s) := s.fresh
      let x : Stream := { id := id, slot := s.cur.slot, reg := reg, vec := vec, shape := k, h := h.toNat, asid := s.me.asid, sup := s.me.sup }
      let s := s.modMyCore fun k =>
        { k.setHandle h.toNat { hd with bst := 1 } with streams := k.streams ++ [x], copyq := k.copyq ++ [id] }
      let s :=
        if vec then s.modMyCore fun k => k.setVreg reg { k.vreg reg with stream := true, full := false, pend := false, failed := false }
        else s.modMe fun t => t.modReg reg fun r => { r with mode := 1, full := false, pend := false, failed := false }
      .ok (s.after Config.cycle (.streamRefill c id))

/-- stream into a scalar register (R312). -/
def execStreamScalar (m : Mods) (o : OpStrS) (s : State) : Host.Outcome State Fault Refusal :=
  s.guarded m fun s => s.streamForm (.streamScalar m o) o.a.toNat o.a.toNat false ((s.me.reg o.a.toNat).mode == 0) o.ks o.h

/-- stream into a vector register (R312). -/
def execStreamVector (m : Mods) (o : OpStrV) (s : State) : Host.Outcome State Fault Refusal :=
  s.issue m fun s => s.holdsAll [o.a] [] <|
    if guardHolds m s.me then
      s.banksUp [o.a] <| s.streamForm (.streamVector m o) ((s.me.place o.a.toNat).getD 0) o.a.toNat true (!(s.vregAt o.a).stream) o.ks o.h
    else .ok s

/-- The end of a stream by its thread: forms held for its handle look again. -/
def State.unstream (s : State) (x : Option Stream) (shown : Nat) : Try State :=
  match x with
  | none => .error (.trap 5 0 shown)
  | some x =>
    .ok ((s.modMyCore fun k => k.endStream x).evalHandle s.cur.core x.h)

/-- unstream of a scalar register (R168). -/
def execUnstreamScalar (m : Mods) (o : OpA) (s : State) : Host.Outcome State Fault Refusal :=
  s.guarded m fun s =>
    if (s.me.reg o.a.toNat).mode ≠ 1 then .error (.trap 5 0 o.a.toNat)
    else s.unstream (s.myCore.streamAt s.cur.slot o.a.toNat false) o.a.toNat

/-- unstream of a vector register (R168). -/
def execUnstreamVector (m : Mods) (o : OpV) (s : State) : Host.Outcome State Fault Refusal :=
  s.issue m fun s => s.holdsAll [o.a] [] <|
    if guardHolds m s.me then
      if !(s.vregAt o.a).stream then .error (.trap 5 0 (o.a.toNat + 32))
      else s.unstream (s.myCore.streamAt s.cur.slot ((s.me.place o.a.toNat).getD 0) true) (o.a.toNat + 32)
    else .ok s

/-- COPY_ACCEPTANCE (R311): a held copy or stream form, as it was fetched, is tried again, with the shapes and descriptor as they are now. -/
def execCopyAcceptance (s : State) : Host.Outcome State Fault Refusal :=
  s.perform fun s e =>
    match e with
    | .copyAcceptance c n =>
      let t := s.slot c n
      if t.push ≠ some .copy ∨ t.stopped ∨ t.saving then some s
      else
        let s' := s.setSlot c n { t with push := none, pushed := none, st := .ready, why := .none }
        let go (next : Nat) (f : State → Host.Outcome State Fault Refusal) : Option State :=
          match f { s' with cur := ⟨c, n, t.pc, next⟩ } with
          | .next x => some (x.afterRetry s c n)
          | _ => some s
        match t.pushed with
        | some (.cp m o, next) => go next (execCp m o)
        | some (.cpD m o, next) => go next (execCpD m o)
        | some (.cpBv m o, next) => go next (execCpBv m o)
        | some (.cpx m o, next) => go next (execCpx m o)
        | some (.cpxD m o, next) => go next (execCpxD m o)
        | some (.streamScalar m o, next) => go next (execStreamScalar m o)
        | some (.streamVector m o, next) => go next (execStreamVector m o)
        | _ => some s'
    | _ => none

/-! ## Lines (R156 to R162) -/

/-- What went wrong at a location, by FC (R158). -/
abbrev Copied (α : Type) := Except Nat α

/-- Where an engine's access of an ASID stands: FC 1 where it does not translate, FC 2 where it is refused (R156). -/
def State.copyPlace (s : State) (c asid : Nat) (sup : Bool) (a : Word) (write : Bool) : Copied (Place × State) :=
  if isFabric a then
    let d := s.homeNow (coreNamed a) asid
    let far := devOf d != devOf c && ((s.hub (devOf c)).livePaths (devOf d)).isEmpty
    if far ∨ 2 ^ 20 ≤ offsetOf a ∨ !s.reaches c d asid sup ∨ (s.core d).windowHole (offsetOf a) then .error 2
    else .ok (s.tilePlace d (offsetOf a), s)
  else
    match s.translate (devOf c) (stationOf c) asid (virtualOf a) write with
    | none => .error 1
    | some (pa, leaf, s) => .ok (hbmPlace (devOf c) pa leaf, s)

/-- A line buffer of the bulk path (R111). -/
def Hub.lineBuf (h : Hub) (st line : Nat) : Option (List Byte) := (h.lineBufs.find? fun b => b.station == st && b.line == line).map (·.bytes)

/-- n bytes read through the engine at a place, and whether they are poisoned: a versioned line by its newer slot, HBM through the station's line
buffer. -/
def State.bulkRead (s : State) (c : Nat) (p : Place) (n : Nat) : List Byte × Bool × State :=
  match p.line with
  | some (l, j) =>
    let k := newerSlot (s.lineMeta l)
    (s.bytes (l + 64 * k + j) n, s.anyPoison (l + 64 * k + j) n || s.anyPoison (l + 128) 16, s)
  | none =>
    if p.key < 2 ^ 50 then (s.bytes p.key n, s.anyPoison p.key n, s)
    else
      let d := devOf c
      let line := p.key / 64
      let poisoned := s.anyPoison p.key n
      let s := s.deadRead d c p.key
      match (s.hub d).lineBuf (stationOf c) line with
      | some bs => ((bs.drop (p.key % 64)).take n, poisoned, s)
      | none =>
        let bs := s.bytes (line * 64) 64
        let s := s.modHub d fun h => { h with lineBufs := (⟨stationOf c, line, bs, []⟩ :: h.lineBufs).take 256 }
        ((bs.drop (p.key % 64)).take n, poisoned, s)

/-- The runs of a stream read: bytes, and the first faults with their addresses. -/
def State.readRuns (s : State) (c asid : Nat) (sup : Bool) : List (Word × Nat) → List Byte × List (Nat × Word) × State
  | [] => ([], [], s)
  | (a, n) :: rest =>
    match s.copyPlace c asid sup a false with
    | .error fc =>
      let (bs, fs, s) := s.readRuns c asid sup rest
      (List.replicate n 0 ++ bs, (fc, a) :: fs, s)
    | .ok (p, s) =>
      let (xs, bad, s) := s.bulkRead c p n
      let (bs, fs, s) := s.readRuns c asid sup rest
      (xs ++ bs, if bad then (5, a) :: fs else fs, s)

/-- Whether a run may be written: translated, admitted, and of a kind that its home takes (R134, R423). -/
def State.runFault (s : State) (c asid : Nat) (sup : Bool) (view : Option ViewRef) (a : Word) (n : Nat) : Option Nat × State :=
  match s.copyPlace c asid sup a true with
  | .error fc => (some fc, s)
  | .ok (p, s) =>
    match p.line, view with
    | some (l, _), some v =>
      (if metaName (s.lineMeta l) ≠ v.name ∨ s.anyPoison (l + 128) 16 then some 2 else none, s)
    | some _, none => (some 2, s)
    | none, some _ => (some 2, s)
    | none, none =>
      let z := cellSize p.key
      let narrow := (cellsOf p.key n).any fun k => s.poisoned k && !(decide (p.key ≤ k) && decide (k + z ≤ p.key + n))
      (if narrow then some 2 else none, s)

/-- One run written at its home; `poison`: the line is written poisoned (R158). -/
def State.writeRun (s : State) (c asid : Nat) (sup : Bool) (view : Option ViewRef) (poison : Bool) (a : Word) (bs : List Byte) : State :=
  match s.copyPlace c asid sup a true with
  | .error _ => s
  | .ok (p, s) =>
    match p.line, view with
    | some (l, j), some v =>
      let s := if l < 2 ^ 50 then s.beforeWrite (l / 2 ^ 20) (l % 2 ^ 20) 144 else s
      match s.bundleWrite l j bs asid v with
      | .done s _ _ lost =>
        let s := if lost = 1 then s.countLost v.record asid else s
        if poison then
          let k := if metaSerial (s.lineMeta l) 0 = v.serial then 0 else 1
          (cellsOf (l + 64 * k + j) bs.length).foldl State.setPoison s
        else s
      | _ => s
    | _, _ =>
      let s := if p.key < 2 ^ 50 then s.beforeWrite (p.key / 2 ^ 20) (p.key % 2 ^ 20) bs.length else s
      let s := s.writeAt p.key bs
      let s := if poison then (cellsOf p.key bs.length).foldl State.setPoison s else s
      if p.key < 2 ^ 50 then s.recheckAll (p.key / 2 ^ 20) else s.wroteBulk (devOf c) p

/-- The faults of the runs to be written. -/
def State.runFaults (s : State) (c asid : Nat) (sup : Bool) (view : Option ViewRef) : List (Word × Nat) → List (Nat × Word) × State
  | [] => ([], s)
  | (a, n) :: rest =>
    let (f, s) := s.runFault c asid sup view a n
    let (fs, s) := s.runFaults c asid sup view rest
    (match f with | some fc => (fc, a) :: fs | none => fs, s)

def State.writeRuns (s : State) (c asid : Nat) (sup : Bool) (view : Option ViewRef) (poison : Bool) : List (Word × Nat) → List Byte → State
  | [], _ => s
  | (a, n) :: rest, bs => (s.writeRun c asid sup view poison a (bs.take n)).writeRuns c asid sup view poison rest (bs.drop n)

/-- The order in which a line's faults are reported (R428). -/
def fcRank (fc : Nat) : Nat := if fc = 1 then 0 else if fc = 2 then 1 else if fc = 5 then 2 else if fc = 4 then 3 else 4

/-- The first fault that a line reports. -/
def worstFault (fs : List (Nat × Word)) : Option (Nat × Word) :=
  fs.foldl (fun b f =>
    match b with
    | none => some f
    | some x => if fcRank f.1 < fcRank x.1 then some f else some x) none

/-- A copy's handle faults at its core (R158). -/
def State.faultHandle (s : State) (c h fc : Nat) : State :=
  (s.modCore c fun k => k.setHandle h ((k.handle h).fault fc)).evalHandle c h

def State.modCopy (s : State) (c id : Nat) (f : Copy → Copy) : State :=
  s.modCore c fun k => { k with copies := k.copies.map fun x => if x.id == id then f x else x }

/-- A fault of a copy's line: the handle, and a record at the pushing core; the population manager keeps the record of its own copies for
the end (R158, R183). -/
def State.copyFault (s : State) (c : Nat) (x : Copy) (fc : Nat) (a : Word) : State :=
  let s := s.modCopy c x.id fun y => { y with fault := some (y.fault.getD (fc, a)) }
  if x.pop.isSome then s
  else (s.faultHandle (s.homeNow x.hcore x.asid) x.h fc).asyncRec (s.homeNow c x.asid) x.slot x.asid 31 a (x.h + fc * 2 ^ 8)

/-- The mutation of the bytes of a line from position i (R160). -/
def mutateLine (b : List Byte) (i : Nat) (bs : List Byte) : List Byte :=
  let p := descNoise b
  let w := mutateBytes p.fmt
  let first := imageAt b 20 4
  let count := imageAt b 24 4
  let elem (j : Nat) (xs : List Byte) : List Byte :=
    if first ≤ j ∧ j < first + count ∧ xs.length = w then natLe w (p.apply (j - first) (leNat xs)) else xs
  (List.range ((bs.length + w - 1) / w)).flatMap fun e => elem (i / w + e) ((bs.drop (w * e)).take w)

/-- Subtracted bytes on their way to the handle (R156). -/
def State.subtract (s : State) (c : Nat) (x : Copy) (n : Nat) : State :=
  if x.pop.isSome then s
  else s.after Config.cycle (.handleSubtraction (s.homeNow x.hcore x.asid) x.h n ⟨s.homeNow c x.asid, x.slot, x.id⟩ x.asid)

/-- A supervisor's compression of a whole page into the frame of a capacity page, without a fault, returns that page to the compressed state
(R109; log 67). -/
def State.returnPage (s : State) (c : Nat) (x : Copy) : State :=
  let tx := match x.desc with | some (_, b) => descTx b | none => 0
  if tx = 2 ∧ x.sup ∧ x.fault.isNone ∧ !x.failed ∧ x.ks.bytes = 2 ^ 16 ∧ !isFabric x.kd.base then
    match s.leafOf (devOf c) (stationOf c) x.asid (virtualOf x.kd.base) false with
    | some (leaf, _, _) =>
      if leafAttr leaf = 1 ∧ physOf leaf (virtualOf x.kd.base) = leafFrame leaf then s.restCompressed (devOf c) (leafFrame leaf / 2 ^ 16) else s
    | none => s
  else s

/-- The end of a copy: the descriptor is written back before the last subtraction, and its queue entry is free (R149, R160). -/
def State.endCopy (s : State) (c : Nat) (x : Copy) (last : Nat) : State :=
  let s :=
    match if x.pop.isSome then none else x.desc with
    | none => s
    | some (off, b) =>
      let crc := if descCk b then x.crc ^^^ 0xFFFFFFFF else 0
      let outlen := if descTx b = 1 ∨ descTx b = 2 then x.outlen - x.unwritten else x.kd.bytes
      let d := s.homeNow c x.asid
      (s.writeTile d (off + 32) (natLe 4 outlen ++ natLe 4 crc)).recheckAll d
  let s := if last = 0 then s else s.subtract c x last
  let s := s.returnPage c x
  let s := s.modCore c fun k => { k with copies := k.copies.filter fun y => y.id != x.id, copyq := k.copyq.filter (· != x.id) }
  let s :=
    match x.pop with
    | none => s
    | some (d, i, j) =>
      let note (p : PopChild) : PopChild := { p with crc := x.crc ^^^ 0xFFFFFFFF, fault := x.fault }
      let kids (ys : Table PopChild) : Table PopChild := ys.map fun (y : Nat × PopChild) => (y.1, if y.1 = j then note y.2 else y.2)
      let put (p : Nat × Pop) : Nat × Pop := (p.1, if p.1 = i then { p.2 with children := kids p.2.children } else p.2)
      let s := s.modHub d fun h => { h with pops := h.pops.map put }
      s.after 0 (.popChildCommit d i j)
  s.kickAll c

/-- Whether the handle of a `.d` form takes nothing from the copy: one in buffer mode or with TGT 0, on whatever core (R158, R413). -/
def State.destHandleBad (s : State) (x : Copy) : Bool :=
  x.onDest && (let h := (s.core (s.homeNow x.hcore x.asid)).handle x.h; h.buffer || h.tgt == 0)

/-- The most bytes that a block takes in its coded form: two of header and 65 (R164). -/
def blockMax : Nat := 67

/-- A line of a plain copy, a mutation or a decompression: its output bytes, its faults, and the copy's progress. The bytes of a decompression beyond
a block's own are looked at only to find its length. -/
def State.lineData (s : State) (c : Nat) (x : Copy) (j : Nat) : List Byte × List (Nat × Word) × Copy × State :=
  let pos := 64 * j
  let n := min 64 (x.kd.bytes - pos)
  match x.desc with
  | some (_, b) =>
    if descTx b = 1 then
      let avail := min blockMax (x.ks.bytes - x.outlen)
      let runs := x.ks.runs 70 x.outlen avail
      let (bs, fs, s) := s.readRuns c x.asid x.sup runs
      match if x.failed then none else decodeBlock bs with
      | some (out, used) =>
        -- only the bytes of the block are read: faults behind it do not count
        (out, (s.readRuns c x.asid x.sup (x.ks.runs 70 x.outlen used)).2.1, { x with outlen := x.outlen + used }, s)
      | none => (List.replicate n 0, fs ++ [(4, (runs.headD (x.ks.base, 0)).1)], { x with failed := true }, s)
    else
      let (bs, fs, s) := s.readRuns c x.asid x.sup (x.ks.runs 70 pos n)
      (if descTx b = 3 then mutateLine b pos bs else bs, fs, x, s)
  | none =>
    let (bs, fs, s) := s.readRuns c x.asid x.sup (x.ks.runs 70 pos n)
    (bs, fs, x, s)

/-- Whether a copy compresses. -/
def Copy.packs (x : Copy) : Bool := match x.desc with | some (_, b) => descTx b == 2 | none => false

/-- One transfer line of a plain copy, a mutation or a decompression read and checked (R156, R160, R162): what goes to its destination. -/
def State.readLine (s : State) (c : Nat) (x : Copy) (j : Nat) (ok : Bool) : LineData × State :=
  let n := min 64 (x.kd.bytes - 64 * j)
  let (bs, fs, x, s) := s.lineData c x j
  let cs := if ok || fs.any (fun f => f.1 == 5) then [] else [(3, ((x.kd.runs 70 (64 * j) n).headD (x.kd.base, 0)).1)]
  (⟨64 * j, bs, fs ++ cs, false, true⟩,
   s.modCopy c x.id fun y => { y with next := j + 1, crc := crcBytes x.crc bs, outlen := x.outlen, failed := x.failed })

/-- Output bytes that go out with a block: those of an HBM word that the next block completes stay behind (R131), but for the last ones. -/
def Copy.keeps (x : Copy) (n : Nat) (last : Bool) : Nat := if last || isFabric x.kd.base then 0 else n % 8

/-- One block of a compression: coded and put behind the output so far (R160). -/
def State.packBlock (s : State) (c : Nat) (x : Copy) (j : Nat) (ok : Bool) : LineData × State :=
  let sruns := x.ks.runs 70 (64 * j) 64
  let (bs, fs, s) := s.readRuns c x.asid x.sup sruns
  let code := encodeBlock bs
  let fits := !x.failed && decide (x.outlen + code.length ≤ x.kd.bytes)
  let out := if fits then code else []
  let n := x.outlen + out.length
  let keep := x.keeps n (j + 1 = x.lines || !fits)
  let start := x.outlen - x.tail.length
  let now_ := (x.tail ++ out).take (n - keep - start)
  let here := (sruns.headD (x.ks.base, 0)).1
  let cs := (if fits then [] else [(4, here)]) ++ (if ok || fs.any (fun f => f.1 == 5) then [] else [(3, here)])
  let faults := fs ++ (if x.failed then [] else cs)
  let fc := ((worstFault faults).map (·.1)).getD 0
  (⟨start, now_, faults, x.tailBad, fits⟩,
   s.modCopy c x.id fun y =>
    { y with next := j + 1, outlen := n, failed := x.failed || !fits, crc := crcBytes x.crc out
             tail := (x.tail ++ out).drop now_.length, tailBad := fc == 5 || fc == 3 })

/-- A line has been dealt with at its destination; with the last one the copy ends. A compression subtracts all its bytes at the end (R160). -/
def State.lineDone (s : State) (c id sub : Nat) (badHandle : Bool) : State :=
  match (s.core c).copies.find? fun x => x.id == id with
  | none => s
  | some x =>
    let x := { x with landed := x.landed + 1 }
    let s := s.modCopy c id fun _ => x
    if x.landed = x.lines then s.endCopy c x (if badHandle then 0 else if x.packs then x.ks.bytes else sub)
    else if badHandle || x.packs || sub = 0 then s
    else s.subtract c x sub

/-- A transfer line at its destination: its check and its faults, and the writes (R156, R158, R162, R428). -/
def State.landLine (s : State) (c : Nat) (x : Copy) (l : LineData) : State :=
  let druns := joinRuns (x.kd.runs 80 l.start l.bytes.length)
  let (ds, s) := s.runFaults c x.asid x.sup x.view druns
  let badHandle := s.destHandleBad x
  let hs := if badHandle && l.fits then [(2, (druns.headD (x.kd.base, 0)).1)] else []
  let worst := worstFault (l.faults ++ ds ++ hs)
  let fc := (worst.map (·.1)).getD 0
  let bad := fc == 5 || fc == 3
  let writes := fc == 0 || bad || (x.packs && fc == 4 && ds.isEmpty && hs.isEmpty)
  let s := if writes then s.writeRuns c x.asid x.sup x.view (bad || l.bad) druns l.bytes
           else s.modCopy c x.id fun y => { y with unwritten := y.unwritten + (if x.packs then l.bytes.length else 0) }
  let s := match worst with | none => s | some (fc, a) => s.copyFault c x fc a
  s.lineDone c x.id l.bytes.length badHandle

/-- The tile store in which a copy reads, if it is one, else the engine's own core; and likewise where it writes. -/
def State.lineEnds (s : State) (c : Nat) (x : Copy) : Nat × Nat :=
  let home (k : Shape) : Nat := if isFabric k.base then s.homeNow (coreNamed k.base) x.asid else c
  (home x.ks, home x.kd)

/-- The engine's turn at a copy: the next line is read, and goes to its destination, over the fabric where that is another core than the one it was
read at, as one message (DESIGN CHOICE, log 118); with the last line read the queue's entry is free (R149). -/
def State.copyLine (s : State) (c id j : Nat) (ok : Bool) : State :=
  match (s.core c).copies.find? fun x => x.id == id with
  | none => s
  | some x =>
    if x.lines = 0 then s.endCopy c x 0
    else if x.next ≠ j ∨ x.lines ≤ j then s
    else
      let (l, s) := if x.packs then s.packBlock c x j ok else s.readLine c x j ok
      let s :=
        if j + 1 = x.lines then (s.modCore c fun k => { k with copyq := k.copyq.filter (· != id) }).kickAll c
        else s.after 2 (.copyTransferLine c id (j + 1) true none)
      let (a, b) := s.lineEnds c x
      let far := devOf a != devOf b && ((s.hub (devOf a)).livePaths (devOf b)).isEmpty
      if a = b ∨ far then
        match (s.core c).copies.find? fun x => x.id == id with
        | none => s
        | some x => s.landLine c x l
      else s.send a b (.copyTransferLine c id j ok (some l))

/-- A line comes to its destination; a core that is frozen for its evacuation takes it later (R213). -/
def State.lineArrives (s : State) (c id j : Nat) (ok : Bool) (l : LineData) : State :=
  match (s.core c).copies.find? fun x => x.id == id with
  | none => s
  | some x =>
    if (s.core (s.lineEnds c x).2).frozen then s.after busyTime (.copyTransferLine c id j ok (some l)) else s.landLine c x l

/-- Where a transfer line reads. -/
def Copy.reads (x : Copy) (j : Nat) : List Word :=
  match x.desc with
  | some (_, b) => if descTx b = 1 then (x.ks.runs 70 x.outlen blockMax).map (·.1) else (x.ks.runs 70 (64 * j) 64).map (·.1)
  | none => (x.ks.runs 70 (64 * j) 64).map (·.1)

/-- Where a transfer line may write. -/
def Copy.writes (x : Copy) (j : Nat) : List Word := (x.kd.runs 80 (if x.packs then x.outlen - x.tail.length else 64 * j) 74).map (·.1)

/-- The addresses that a transfer line may touch. -/
def Copy.touches (x : Copy) (j : Nat) : List Word := x.reads j ++ x.writes j

/-- The spill entries that the bundle stores of a line may reach, with package and station (R139). -/
def State.lineSpills (s : State) (c : Nat) (x : Copy) (j : Nat) : List (Nat × Nat × Word) :=
  match x.view with
  | none => []
  | some v => (x.writes j).flatMap fun a =>
    match s.copyPlace c x.asid x.sup a true with
    | .ok (p, s) => match p.line with | some (l, _) => s.spillOf l x.asid (.bundleStore 1 0 v) | none => []
    | .error _ => []

/-- A line waits while a page it touches rests compressed (R109). -/
def State.stallLine (s : State) (c j : Nat) (x : Copy) (ev : Event) : Option State :=
  s.stalledAt c x.asid (((x.touches j).map fun a => (devOf c, stationOf c, a)) ++ s.lineSpills c x j) ev

/-- COPY_TRANSFER_LINE (R156): the engine's turn, or a line's arrival. -/
def execCopyTransferLine (s : State) : Host.Outcome State Fault Refusal :=
  s.perform fun s e =>
    match e with
    | .copyTransferLine c id j ok data =>
      match (s.core c).copies.find? fun x => x.id == id with
      | none => some s
      | some x =>
        match s.stallLine c j x e with
        | some s => some s
        | none => some (match data with | none => s.copyLine c id j ok | some l => s.lineArrives c id j ok l)
    | _ => none

/-- HANDLE_SUBTRACTION (R156): a copy's bytes leave PEND, behind the cycle's other changes (R415); the record of one turned away goes to the pushing
core (R158). -/
def execHandleSubtraction (s : State) : Host.Outcome State Fault Refusal :=
  s.perform fun s e =>
    match e with
    | .handleSubtraction c h n src asid =>
      some (s.changeHandle c { h := h, rank := 2, change := .subtract n, slot := some src.slot, asid := asid, reply := none, owner := some src.core })
    | _ => none

/-! ## Refilling a stream (R166, R167) -/

/-- The values that a stream delivers in all. -/
def Stream.total (x : Stream) : Nat := if x.vec then x.shape.bytes / 256 else x.shape.elements

/-- A thread that waits for the head of a stream looks again: an element has come, or a fault, which the read then takes as its trap (R38, R167). -/
def State.wakeReader (s : State) (c : Nat) (x : Stream) : State :=
  let t := s.slot c x.slot
  let t := if x.vec then (match (List.range 32).find? fun j => t.place j == some x.reg with | none => t | some j => t.filled j true)
           else t.filled x.reg false
  (s.modCore c fun k => (k.setSlot x.slot t).ungate).kickAll c

/-- The next element of a stream, or run of 256 bytes, enters the FIFO; the last one moves the handle from filling to full (R166, R175). -/
def State.refill (s : State) (c id : Nat) : State :=
  match (s.core c).streams.find? fun x => x.id == id with
  | none => s
  | some x =>
    -- the queue's entry is free once the engine has started (R149)
    let s := if (s.core c).copyq.contains id then (s.modCore c fun k => { k with copyq := k.copyq.filter (· != id) }).kickAll c else s
    if x.dead || (s.slot c x.slot).saving || decide (x.depth ≤ x.fifo.length) || decide (x.total ≤ x.fetched) then s
    -- an element for a bank in Retain takes effect at the end of its rise (R402)
    else if x.vec && (((s.core c).bank (x.reg / 8)).power == .retain) then s.afterRise c (x.reg / 8) (.streamRefill c id)
    else
      let size := if x.vec then 256 else x.shape.size
      let (bs, fs, s) := s.readRuns c x.asid x.sup (x.shape.runs 260 (size * x.fetched) size)
      match worstFault fs with
      | some (fc, a) =>
        let s := s.modCore c fun k => k.modStream id fun y => { y with dead := true }
        ((s.faultHandle c x.h fc).asyncRec c x.slot x.asid 31 a (x.h + fc * 2 ^ 8)).wakeReader c x
      | none =>
        let s := s.modCore c fun k => k.modStream id fun y =>
          { y with fifo := y.fifo ++ [BitVec.ofNat 2048 (leNat bs)], fetched := y.fetched + 1 }
        let s :=
          if x.fetched + 1 = x.total then
            (s.modCore c fun k => let y := k.handle x.h; k.setHandle x.h (if y.bst = 1 then y.fill else y)).evalHandle c x.h
          else if x.fifo.length + 1 < x.depth then s.after Config.cycle (.streamRefill c id)
          else s
        s.wakeReader c x

/-- STREAM_REFILL (R166). -/
def execStreamRefill (s : State) : Host.Outcome State Fault Refusal :=
  s.perform fun s e =>
    match e with
    | .streamRefill c id =>
      match (s.core c).streams.find? fun x => x.id == id with
      | none => some s
      | some x =>
        let size := if x.vec then 256 else x.shape.size
        match s.stalled c x.asid ((x.shape.runs 260 (size * x.fetched) size).map (·.1)) (.streamRefill c id) with
        | some s => some s
        | none => some (s.refill c id)
    | _ => none

/-! ## A line rebuilt under a request (R424) -/

/-- An engine's read at an address of HBM meets a line. -/
def State.meetsLine (s : State) (c asid line : Nat) (a : Word) : Bool :=
  !isFabric a && (match s.leafOf (devOf c) (stationOf c) asid (virtualOf a) false with
    | some (leaf, _, _) => physOf leaf (virtualOf a) / 64 == line
    | none => false)

/-- The core whose request reads a line of a package, and whose event is on its way: for a copy or a stream the core that pushed it (R421, R424). -/
def State.asksLine (s : State) (d line : Nat) (ev : Event) : Option Nat :=
  match ev with
  | .hbmChannelRequest r pa _ => if devOf r.src.core = d ∧ pa / 64 = line then some r.src.core else none
  | .copyTransferLine c id j _ none =>
    if devOf c = d ∧ ((s.core c).copies.any fun x => x.id == id && (x.reads j).any (s.meetsLine c x.asid line)) then some c else none
  | .viewLoad r =>
    match s.lineOf r with
    | none => none
    | some l =>
      let hit (x : Nat × Nat × Word) : Bool := x.1 == d && !isFabric x.2.2 && (match s.leafOf d x.2.1 r.asid (virtualOf x.2.2) false with
        | some (leaf, _, _) => let i := physOf leaf (virtualOf x.2.2) / 64; i == line || i + 1 == line
        | none => false)
      if (s.spillOf l r.asid r.op).any hit then some r.src.core else none
  | .streamRefill c id =>
    let reads (x : Stream) : List Word := let n := if x.vec then 256 else x.shape.size; (x.shape.runs 260 (n * x.fetched) n).map (·.1)
    if devOf c = d ∧ ((s.core c).streams.any fun x => x.id == id && (reads x).any (s.meetsLine c x.asid line)) then some c else none
  | _ => none

/-- The first request on its way to a line, with its core. -/
def State.requestTo (s : State) (d line : Nat) : Option (Due × Nat) :=
  s.agenda.findSome? fun e => (s.asksLine d line e.ev).map fun c => (e, c)

/-- PARITY_REBUILD (R424): the line keeps its content, and the request to it completes with delay; without a source the line is poisoned. -/
def execParityRebuild (s : State) : Host.Outcome State Fault Refusal :=
  s.perform fun s e =>
    match e with
    | .parityRebuild d line source =>
      if (s.hub d).lost.contains line then some s
      else if !s.canRebuild d line source then some (s.poisonLine d line)
      else
        match s.requestTo d line with
        | none => some s
        | some (x, c) =>
          let s := { s with agenda := s.agenda.filter fun y => y != x }
          some ((s.modCore c fun k => k.count 2).after (3 * Config.us) x.ev)
    | _ => none

end Sys2Proof.Machine
end

