-- ==== Sys2Proof/Machine/Matrix.lean ====
section
/-!
DEFINITION. The matrix unit (spec/04 R82 to R89, spec/14 R314 to R321, spec/20 R416): the packet, `mxs` and `mxr`, the command queue, the
commands, drains and the status FIFO.
-/

namespace Sys2Proof.Machine

/-! ## The packet (R316 to R320) -/

def pktCmd (p : List Byte) : Nat := imageAt p 0 1 % 8
def pktTag (p : List Byte) : Nat := imageAt p 1 1
def pktAcc (p : List Byte) : Nat := imageAt p 2 1 % 4
def pktRel (p : List Byte) : Bool := bitAt (imageAt p 2 1) 2
def pktBset (p : List Byte) : Bool := bitAt (imageAt p 2 1) 3
def pktSteps (p : List Byte) : Nat := imageAt p 3 1 % 8
def pktCons (p : List Byte) : Bool := bitAt (imageAt p 3 1) 3
def pktBf16 (p : List Byte) : Bool := bitAt (imageAt p 3 1) 4

/-- The 32-bit field at byte i. -/
def pktWord (p : List Byte) (i : Nat) : Nat := imageAt p i 4

/-- names_acc (R314). -/
def namesAcc (p : List Byte) : Bool := pktCmd p == 0 || pktCmd p == 2 || pktCmd p == 3 || pktCmd p == 4

/-- Bytes i to j − 1 are zero. -/
def pktZero (p : List Byte) (i j : Nat) : Bool := imageAt p i (j - i) == 0

/-- Fields at the listed bytes stay below 2^20. -/
def pktShort (p : List Byte) (is : List Nat) : Bool := is.all fun i => decide (pktWord p i < 2 ^ 20)

/-- header_ok: the rules of header and packet (R316 to R320). -/
def headerOk (p : List Byte) : Bool :=
  let c := pktCmd p
  decide (imageAt p 0 1 < 8) && decide (c ≠ 7) && decide (imageAt p 2 1 < 16) && decide (imageAt p 3 1 < 32) &&
  (namesAcc p || (pktAcc p == 0 && !pktRel p)) &&
  (if c = 0 ∨ c = 1 then decide (1 ≤ pktSteps p) && decide (pktSteps p ≤ 4) else !pktBset p && pktSteps p == 0) &&
  (c == 2 || (!pktCons p && !pktBf16 p)) &&
  (match c with
   | 0 | 1 => pktShort p [4, 8, 12, 16, 20, 24] && pktZero p 28 64
   | 2 => pktZero p 4 8 && pktShort p [16] && pktZero p 20 24 && pktZero p 32 64
   | 4 => pktShort p [4, 8] && pktZero p 12 64
   | 5 => decide (imageAt p 5 1 < 4) && pktZero p 6 64
   | _ => pktZero p 4 64)

/-! ## mxs and mxr (R314, R315) -/

/-- The base word of the instruction being issued. -/
def State.baseWord (s : State) : Nat := leNat (s.bytes (tileKey s.cur.core (s.cur.next - 2)) 2)

/-- A core without a matrix unit takes the illegal-instruction trap (R356). -/
def State.hasArray {α : Type} (s : State) (k : Try α) : Try α := ensure (!isSuper s.cur.core) 1 0 s.baseWord k

/-- The values of registers, waiting for each in turn. -/
def State.peekAll (s : State) : List SReg → Try (List Word)
  | [] => .ok []
  | r :: rs =>
    match s.peek r with
    | .error e => .error e
    | .ok v =>
      match s.peekAll rs with
      | .error e => .error e
      | .ok vs => .ok (v :: vs)

/-- s8 to s15. -/
def packetRegs : List SReg := (List.range 8).map fun i => BitVec.ofNat 4 (8 + i)

/-- A bank is held against a thread: by another one, or by a command whose thread is gone (R37, R321). -/
def Core.accHeld (k : Core) (b slot : Nat) : Bool :=
  (match (k.acc b).holder with | none => false | some n => n != slot) ||
  (k.matrix.queue.any fun e => !e.cmd.alive && !e.cmd.orphan && namesAcc e.cmd.pkt && pktAcc e.cmd.pkt == b)

/-- The mask M. -/
def maskM : BitVec 5 := 0b00100

/-- The time that n array cycles take at the matrix clock (R16, R69, R364): a fraction of a time unit at the end counts as a whole one (DESIGN
CHOICE, log 85). -/
def Hub.arrayTime (h : Hub) (n : Nat) : Nat := let f := max 1 h.matrixMHz; (12000 * n + f - 1) / f

/-- The array cycles that a command takes (R76, R85). -/
def commandCycles (p : List Byte) : Nat :=
  match pktCmd p with
  | 0 => 24 * pktSteps p + 16
  | 1 => 24 * pktSteps p
  | 3 | 4 => 32
  | _ => 1

/-- The step that executes a command. -/
def commandEvent (c : Nat) (k : MatCmd) : Event :=
  match pktCmd k.pkt with
  | 0 => .mm c k
  | 1 => .ldb c k
  | 2 => .drain c k
  | 3 => .accZero c k
  | 4 => .ldacc c k
  | 5 => .setfmt c k
  | _ => .mfence c k

/-- Whether an entry has been executed, or is a drain whose bank has been read. -/
def MatSt.past : MatSt → Bool
  | .done _ _ | .draining _ => true
  | _ => false

/-- Whether a command reads a bank that a drain before it has emptied, and may yet leave full (R85, R416). -/
def Core.readsDrained (k : Core) (first : List MatEntry) (p : List Byte) : Bool :=
  (pktCmd p == 0 || pktCmd p == 2) && !(k.acc (pktAcc p)).full &&
  first.any fun e => (match e.st with | .draining _ => true | _ => false) && pktCons e.cmd.pkt && pktAcc e.cmd.pkt == pktAcc p

/-- The first command that has not started begins, if every one before it has been executed; an MFENCE waits for their completion, and the
array completes nothing while the status FIFO is full (R84 to R86). -/
def State.startCommand (s : State) (c : Nat) : State :=
  let m := (s.core c).matrix
  let first := m.queue.takeWhile fun e => e.st.past
  match m.queue.drop first.length with
  | ⟨k, .waiting⟩ :: rest =>
    if (s.core c).frozen || (pktCmd k.pkt == 6 && !first.isEmpty) || (s.core c).readsDrained first k.pkt || decide (8 ≤ m.fifo.length) then s
    else
      let s := s.modCore c fun x => x.modMatrix fun m => { m with queue := first ++ ⟨k, .busy⟩ :: rest }
      s.after ((s.hub (devOf c)).arrayTime (commandCycles k.pkt)) (commandEvent c k)
  | _ => s

/-- mxs (R314): the packet is pushed; the acceptance decides who holds the bank. -/
def execMxs (m : Mods) (s : State) : Host.Outcome State Fault Refusal :=
  s.issue m fun s => s.hasArray <|
    if !guardHolds m s.me then .ok s
    else
      match packetRegs.find? fun r => (s.me.reg r.toNat).mode != 0 with
      | some r => .error (.trap 5 0 r.toNat)
      | none =>
        match s.peekAll packetRegs with
        | .error e => .error e
        | .ok vs =>
          let pkt := vs.flatMap fun v => natLe 8 v.toNat
          let b := pktAcc pkt
          ensure (headerOk pkt) 23 0 (imageAt pkt 0 1) <|
          s.pushing .matrix (.mxs m) (decide (s.myCore.matrix.queue.length < 8) && s.mayPush maskM) <|
          ensure (!namesAcc pkt || !s.myCore.accHeld b s.cur.slot) 24 0 b <|
            let k : MatCmd := { pkt := pkt, slot := s.cur.slot, asid := s.me.asid, sup := s.me.sup }
            let s := s.modMyCore fun x => x.modMatrix fun y => { y with queue := y.queue ++ [⟨k, .waiting⟩] }
            let s := if namesAcc pkt then s.modMyCore fun x => x.setAcc b { x.acc b with holder := some s.cur.slot } else s
            .ok (s.startCommand s.cur.core)

/-- MATRIX_PUSH_ACCEPTANCE (R314): a held `mxs` is tried again. -/
def execMatrixPushAcceptance (s : State) : Host.Outcome State Fault Refusal :=
  s.perform fun s e =>
    match e with
    | .matrixPushAcceptance c n =>
      let t := s.slot c n
      if t.push ≠ some .matrix ∨ t.stopped ∨ t.saving then some s
      else
        let s' := s.setSlot c n { t with push := none, pushed := none, st := .ready, why := .none }
        match t.pushed with
        | some (.mxs m, next) =>
          match execMxs m { s' with cur := ⟨c, n, t.pc, next⟩ } with
          | .next x => some (x.afterRetry s c n)
          | _ => some s
        | _ => some s'
    | _ => none

/-- Requests for statuses are answered in order while there are records (R315). -/
def State.serveAsks (s : State) (c : Nat) : Nat → State
  | 0 => s
  | n + 1 =>
    let m := (s.core c).matrix
    match m.asks, m.fifo with
    | (asker, reg, seq) :: asks, v :: fifo =>
      let s := s.modCore c fun k => k.modMatrix fun m => { m with asks := asks, fifo := fifo }
      (s.after (4 * Config.cycle) (.fill ⟨asker, [.scalar reg seq v]⟩)).serveAsks c n
    | _, _ => s

/-- The head of the queue completes when it has been executed and the FIFO has room (R86). -/
def State.completeNext (s : State) (c : Nat) : State :=
  let m := (s.core c).matrix
  match m.queue with
  | ⟨k, .done v _⟩ :: _ => if m.fifo.length < 8 then s.after 0 (.matrixCommandCompletion c v k) else s
  | _ => s

/-- The FIFO has changed: requests, completions and commands go on. -/
def State.matrixOn (s : State) (c : Nat) : State := ((s.serveAsks c 8).completeNext c).startCommand c

/-- mxr (R315): sa awaits the next status; a plain access. -/
def execMxr (m : Mods) (o : OpA) (s : State) : Host.Outcome State Fault Refusal :=
  s.issue m fun s => s.hasArray <|
    if !guardHolds m s.me then .ok s
    else
      s.fillable o.a <|
      s.mayIssue {} .own 0 <|
        let c := s.cur.core
        let (id, s) := s.fresh
        let (q, s) := s.startLoad o.a
        let s := s.addOut { id := id, addr := 0, home := .own, regs := [(o.a.toNat, q, false, o.a.toNat)], asid := s.me.asid, sup := s.me.sup }
        let s := s.modMyCore fun k => k.modMatrix fun x => { x with asks := x.asks ++ [(⟨c, s.cur.slot, id⟩, o.a.toNat, q)] }
        .ok (s.matrixOn c)

/-! ## Completion (R86, R37, R321) -/

/-- The status record of a command (R86). -/
def statusWord (p : List Byte) (err : Nat) (f : MatFlags) : Word :=
  BitVec.ofNat 64 (pktTag p + pktCmd p * 2 ^ 8 + err % 32 * 2 ^ 11 + b2n f.nan * 2 ^ 16 + b2n f.inf * 2 ^ 17 + b2n f.ovf * 2 ^ 18 +
    b2n f.trunc * 2 ^ 19 + b2n f.clamp * 2 ^ 20)

/-- The entry that has a state, with another one. -/
def setEntry (old new : MatSt) : List MatEntry → List MatEntry
  | [] => []
  | e :: es => if e.st = old then { e with st := new } :: es else e :: setEntry old new es

/-- A command in a state has been executed, with what it has captured. -/
def State.executedWith (s : State) (c : Nat) (old : MatSt) (k : MatCmd) (err : Nat) (f : MatFlags) (cap : Option Capture) : State :=
  let s := s.modCore c fun x => x.modMatrix fun m => { m with queue := setEntry old (.done (statusWord k.pkt err f) cap) m.queue }
  (s.completeNext c).startCommand c

/-- A command in a state has been executed. -/
def State.executed (s : State) (c : Nat) (old : MatSt) (k : MatCmd) (err : Nat) (f : MatFlags) : State := s.executedWith c old k err f none

/-- The completion of a command shows its capture, while EN is set (R89): the window and NGRP are replaced as one. Entries of groups that it has
not captured read 0 (DESIGN CHOICE, log 82). -/
def Matrix.show (m : Matrix) (cap : Option Capture) : Matrix :=
  match cap with
  | some x => if m.ctl.getLsbD 10 then { m with ctl := setField m.ctl 11 5 x.groups, capture := x.window } else m
  | none => m

/-- A thread's hold on a bank ends with a command that releases it (R37). -/
def Core.releaseBank (x : Core) (k : MatCmd) : Core :=
  let b := pktAcc k.pkt
  if namesAcc k.pkt && pktRel k.pkt && k.alive && (x.acc b).holder == some k.slot then x.setAcc b { x.acc b with holder := none } else x

/-- MATRIX_COMMAND_COMPLETION (R86, R89): the status enters the FIFO, the bank may be released, and a held push may be accepted. -/
def execMatrixCommandCompletion (s : State) : Host.Outcome State Fault Refusal :=
  s.perform fun s e =>
    match e with
    | .matrixCommandCompletion c v k =>
      let m := (s.core c).matrix
      match m.queue with
      | ⟨k', .done v' cap⟩ :: rest =>
        -- the thread may have gone since: the queue's entry says whether it has
        if k'.pkt = k.pkt ∧ v' = v ∧ m.fifo.length < 8 then
          let s := s.modCore c fun x => (x.modMatrix fun m => ({ m with queue := rest, fifo := m.fifo ++ [v] } : Matrix).show cap).releaseBank k'
          some ((s.matrixOn c).kickAll c)
        else some s
      | _ => some s
    | _ => none

/-! ## Operands (R317, R85) -/

/-- A row or column of a command as the port reads it, whatever its presence bits are; poisoned bytes spoil their elements (R85). A poisoned
scale spoils every element it covers, so the first of them gives the k index of array_nan (DESIGN CHOICE, log 83: the cycle that reads a scale
is not stated). -/
def State.matLine (s : State) (c code gsz : Nat) (p : List Byte) (r : Nat) : Line :=
  let n := pktSteps p
  let k := n * stepElems code
  let at_ (base stride : Nat) : Nat := tileKey c (pktWord p base + r * pktWord p stride)
  let lo := at_ 4 8
  let hi := at_ 12 16
  let sc := at_ 20 24
  let ln := n * lowBytesOf code
  let hn := n * highBytesOf code
  let sn := scaleBytes code gsz k
  -- the byte of a plane that element i stands in
  let lowOf (i : Nat) : Nat := i * lowBytesOf code / stepElems code
  let highOf (i : Nat) : Nat := i * highBytesOf code / stepElems code
  let scaleOf (i : Nat) : Nat := if isMx code then i / 32 else 3 * (i / intGroup gsz)
  let badScale (i : Nat) : Bool :=
    sn != 0 && (s.poisoned (sc + scaleOf i) || (isIntFmt code && s.poisoned (sc + scaleOf i + 2)))
  let bad :=
    if s.poison.isEmpty then []
    else (List.range k).filter fun i => s.poisoned (lo + lowOf i) || (hn != 0 && s.poisoned (hi + highOf i)) || badScale i
  { low := s.bytes lo ln, high := if hn = 0 then [] else s.bytes hi hn, scale := if sn = 0 then [] else s.bytes sc sn, bad := bad }

/-- Whether the operand block breaks an alignment or range rule: error code 5 (R317). The scale base and stride are among the bases and strides of
R317 where the format has scales; the scales of a row stand byte by byte behind them (R84; log 84). -/
def operandBad (code gsz : Nat) (p : List Byte) : Bool :=
  let n := pktSteps p
  let sn := scaleBytes code gsz (n * stepElems code)
  let plane (base stride w : Nat) : Bool :=
    pktWord p base % 16 != 0 || pktWord p stride % 16 != 0 || decide (2 ^ 20 ≤ pktWord p base + 31 * pktWord p stride + n * w - 1)
  plane 4 8 (lowBytesOf code) || (highBytesOf code != 0 && plane 12 16 (highBytesOf code)) ||
  (sn != 0 && (pktWord p 20 % 16 != 0 || pktWord p 24 % 16 != 0 || decide (2 ^ 20 ≤ pktWord p 20 + 31 * pktWord p 24 + sn - 1)))

/-- n bytes of the tile store meet an enabled versioned window. -/
def Core.inWindow (x : Core) (off n : Nat) : Bool :=
  x.windows.any fun w => decide (w.1 < off + n) && decide (off < w.1 + 144 * w.2)

/-- Whether rows of the operand block lie in a versioned window, whose home refuses the reads (R134). The spec names no error code for that: the
model takes 5 (DESIGN CHOICE, log 89). -/
def Core.operandIn (x : Core) (code gsz : Nat) (p : List Byte) : Bool :=
  let n := pktSteps p
  let sn := scaleBytes code gsz (n * stepElems code)
  (List.range 32).any fun r =>
    let meets (base stride m : Nat) : Bool := m != 0 && x.inWindow (pktWord p base + r * pktWord p stride) m
    meets 4 8 (n * lowBytesOf code) || meets 12 16 (n * highBytesOf code) || meets 20 24 sn

/-- The lowest error code whose condition holds, 0 for none (R317). -/
def lowestErr : List (Bool × Nat) → Nat
  | [] => 0
  | (b, n) :: rest => let r := lowestErr rest; if b && (r == 0 || decide (n < r)) then n else r

/-- A restored command whose bank another thread has come to hold since its save: by the restore (R397), or by now (R321). -/
def Core.orphaned (x : Core) (k : MatCmd) : Bool :=
  namesAcc k.pkt && (k.orphan || (k.restored && (x.acc (pktAcc k.pkt)).holder.any fun n => n != k.slot || !k.alive))

/-- A B column of a set. -/
def BSet.line (b : BSet) (n : Nat) : Line :=
  { low := b.low.getD n [], high := b.high.getD n [], scale := b.scale.getD n [], bad := if b.poisoned.contains n then [0] else [] }

def Matrix.bset (m : Matrix) (one : Bool) : BSet := if one then m.bset1 else m.bset0
def Matrix.setBset (m : Matrix) (one : Bool) (b : BSet) : Matrix := if one then { m with bset1 := b } else { m with bset0 := b }

/-- The values of a bank, zeros left out. -/
def accTable (vs : List Nat) : Table (BitVec 32) :=
  ((List.range vs.length).zip vs).filterMap fun x => if x.2 = 0 then none else some (x.1, BitVec.ofNat 32 x.2)

/-- The scale groups of a line. -/
def scaleGroups (code gsz size ng : Nat) (l : Line) : List Group := (List.range ng).map fun g => l.group code gsz (g * size) size

/-- The queue's entry of the command that executes; it says whether the thread that pushed the command is still there (R321). -/
def State.runningCommand (s : State) (c : Nat) (k : MatCmd) : Option MatCmd :=
  ((s.core c).matrix.queue.find? fun e => e.st = .busy ∧ e.cmd.pkt = k.pkt).map (·.cmd)

/-- An executing command's step. -/
def State.command (s : State) (c : Nat) (k : MatCmd) (f : MatCmd → State) : Option State :=
  match s.runningCommand c k with
  | none => some s
  | some k => some (f k)

/-- MM (R75 to R77, R318). The cell of R88 is captured as the command executes, and shown as it completes (R89; DEDUCED, log 81). One that uses a set with
poisoned columns has error code 7 too (DESIGN CHOICE, log 121). A command whose bank another thread holds changes nothing, also where the lower code 7 is
what it reports (R317, R419; log 120). -/
def State.multiply (s : State) (c : Nat) (k : MatCmd) : State :=
  let x := s.core c
  let m := x.matrix
  let p := k.pkt
  let b := m.bset (pktBset p)
  let n := pktSteps p
  let kAll := n * stepElems m.afmt
  let usable := b.loaded && b.fmt == m.bfmt
  let size := min (groupOf m.afmt m.gsz) (groupOf m.bfmt (if usable then b.gsz else m.gsz))
  let acc := x.acc (pktAcc p)
  let rows := (List.range 32).map fun r => s.matLine c m.afmt m.gsz p r
  let bad := rows.any (fun r => !r.bad.isEmpty) || !b.poisoned.isEmpty
  let err := lowestErr [(kAll % size != 0, 2), (!usable || decide (b.steps < n), 3), (!acc.full, 4),
    (operandBad m.afmt m.gsz p || x.operandIn m.afmt m.gsz p, 5), (x.orphaned k && bad, 7), (x.orphaned k, 8)]
  if err ≠ 0 then s.executed c .busy k err {}
  else
    let ng := kAll / size
    let cols := (List.range 32).map fun r => b.line r
    let ga := rows.map (scaleGroups m.afmt m.gsz size ng)
    let gb := cols.map (scaleGroups m.bfmt b.gsz size ng)
    let port : MatFlags := { trunc := ga.any fun r => r.any (·.trunc), clamp := ga.any fun r => r.any (·.clamp) }
    let cells := (List.range 1024).map fun i =>
      closeAll (idOf c) m.afmt size (acc.vals.get 0 i).toNat {} 0 ((ga.getD (i / 32) []).zip (gb.getD (i % 32) []))
    let flags := cells.foldl (fun f r => f.or r.2) port
    let s := s.modCore c fun x => x.setAcc (pktAcc p) { x.acc (pktAcc p) with vals := accTable (cells.map (·.1)) }
    let sums := ((ga.getD (field m.ctl 0 5) []).zip (gb.getD (field m.ctl 5 5) [])).flatMap fun g => captureOf g.1 g.2
    let cap : Capture := ⟨ng, ((List.range sums.length).zip sums).map fun e => (e.1, BitVec.ofInt 64 e.2)⟩
    s.executedWith c .busy k (if bad then 7 else 0) flags (if bad then none else some cap)

def execMm (s : State) : Host.Outcome State Fault Refusal :=
  s.perform fun s e => match e with | .mm c k => s.command c k (s.multiply c) | _ => none

/-- LDB (R82, R318). -/
def execLdb (s : State) : Host.Outcome State Fault Refusal :=
  s.perform fun s e =>
    match e with
    | .ldb c k =>
      s.command c k fun k =>
        let m := (s.core c).matrix
        let p := k.pkt
        let n := pktSteps p
        let err := lowestErr [(m.bfmt == 7 && decide (2 < n), 3), (operandBad m.bfmt m.gsz p || (s.core c).operandIn m.bfmt m.gsz p, 5)]
        if err ≠ 0 then s.executed c .busy k err {}
        else
          let cols := (List.range 32).map fun r => s.matLine c m.bfmt m.gsz p r
          let size := groupOf m.bfmt m.gsz
          let gs := cols.flatMap (scaleGroups m.bfmt m.gsz size ((n * stepElems m.bfmt + size - 1) / size))
          let poisoned := (List.range 32).filter fun i => !((cols[i]?.map (·.bad)).getD []).isEmpty
          let b : BSet := { loaded := true, fmt := m.bfmt, steps := n, gsz := m.gsz, low := cols.map (·.low), high := cols.map (·.high),
                            scale := cols.map (·.scale), poisoned := poisoned }
          let s := s.modCore c fun x => x.modMatrix fun y => y.setBset (pktBset p) b
          s.executed c .busy k (if poisoned.isEmpty then 0 else 7) { trunc := gs.any (·.trunc), clamp := gs.any (·.clamp) }
    | _ => none

/-- ZERO (R84). -/
def execAccZero (s : State) : Host.Outcome State Fault Refusal :=
  s.perform fun s e =>
    match e with
    | .accZero c k =>
      s.command c k fun k =>
        let b := pktAcc k.pkt
        if (s.core c).orphaned k then s.executed c .busy k 8 {}
        else (s.modCore c fun x => x.setAcc b { x.acc b with full := true, vals := [] }).executed c .busy k 0 {}
    | _ => none

/-- LDACC (R84, R85, R320). -/
def execLdacc (s : State) : Host.Outcome State Fault Refusal :=
  s.perform fun s e =>
    match e with
    | .ldacc c k =>
      s.command c k fun k =>
        let b := pktAcc k.pkt
        let base := pktWord k.pkt 4
        let stride := pktWord k.pkt 8
        let row (r : Nat) : Nat := tileKey c (base + r * stride)
        let bad (r : Nat) : Bool := s.anyPoison (row r) 128
        let err := lowestErr [(base % 16 != 0 || stride % 16 != 0 || decide (2 ^ 20 ≤ base + 31 * stride + 127) ||
          (List.range 32).any (fun r => (s.core c).inWindow (base + r * stride) 128), 5),
          ((s.core c).orphaned k && (List.range 32).any bad, 7), ((s.core c).orphaned k, 8)]
        let vals := (List.range 32).flatMap fun r =>
          if bad r then List.replicate 32 (arrayNan (idOf c) 0)
          else (List.range 32).map fun n => (s.value (row r + 4 * n) 4).toNat
        let any := (List.range 32).any bad
        if err ≠ 0 then s.executed c .busy k err {}
        else (s.modCore c fun x => x.setAcc b { x.acc b with full := true, vals := accTable vals }).executed c .busy k
          (if any then 7 else 0) { nan := any }
    | _ => none

/-- SETFMT (R74, R320). -/
def execSetfmt (s : State) : Host.Outcome State Fault Refusal :=
  s.perform fun s e =>
    match e with
    | .setfmt c k =>
      s.command c k fun k =>
        let a := imageAt k.pkt 4 1 % 16
        let b := imageAt k.pkt 4 1 / 16
        let g := imageAt k.pkt 5 1 % 4
        let ok := decide (a ≤ 10) && decide (b ≤ 10) && g != 3 && lanesOf a == lanesOf b && (!(isIntFmt a || isIntFmt b) || a == b)
        if ok then (s.modCore c fun x => x.modMatrix fun m => { m with afmt := a, bfmt := b, gsz := g }).executed c .busy k 0 {}
        else s.executed c .busy k 1 {}
    | _ => none

/-- MFENCE (R84): it starts only once every earlier command has completed. -/
def execMfence (s : State) : Host.Outcome State Fault Refusal :=
  s.perform fun s e =>
    match e with
    | .mfence c k => s.command c k fun k => s.executed c .busy k 0 {}
    | _ => none

/-! ## Drains (R87, R319, R393) -/

/-- The 16-byte granules of a bank's row: their distance from the row's start, and their two words. -/
def rowGranules (acc : AccBank) (bf : Bool) (r : Nat) : List (Nat × Word × Word) :=
  let bytes := (List.range 32).flatMap fun n =>
    let v := (acc.vals.get 0 (32 * r + n)).toNat
    if bf then natLe 2 (fp32.convert bf16 {} v).1 else natLe 4 v
  (List.range (bytes.length / 16)).map fun i =>
    (16 * i, BitVec.ofNat 64 (imageAt bytes (16 * i) 8), BitVec.ofNat 64 (imageAt bytes (16 * i + 8) 8))

/-- A drain's refusal goes on record at its core (R393). -/
def State.drainRecord (s : State) (c : Nat) (k : MatCmd) : State :=
  s.asyncRec c k.slot k.asid 33 (BitVec.ofNat 64 (imageAt k.pkt 8 8)) (pktTag k.pkt)

/-- One write of a drain: into the own tile store without an admit check, or by message (R87). -/
def State.drainWrite (s : State) (c : Nat) (r : Req) : State :=
  if coreNamed r.addr = c then s.toBank c r 2 else s.send c (coreNamed r.addr) (.remoteWrite (coreNamed r.addr) r)

/-- DRAIN (R87, R319): the bank is read, and its writes go out. -/
def execDrain (s : State) : Host.Outcome State Fault Refusal :=
  s.perform fun s e =>
    match e with
    | .drain c k =>
      s.command c k fun k =>
        let x := s.core c
        let p := k.pkt
        let b := pktAcc p
        let acc := x.acc b
        let dest : Word := BitVec.ofNat 64 (imageAt p 8 8)
        let stride := pktWord p 16
        let wake : Word := BitVec.ofNat 64 (imageAt p 24 8)
        let size := if pktBf16 p then 64 else 128
        let off := offsetOf dest
        let dev := devOf (coreNamed dest)
        let fabric (a : Word) : Bool := isFabric a && bitsOf a.toNat 21 24 == 0
        let err := lowestErr [(!acc.full, 4),
          (!fabric dest || off % 16 != 0 || stride % 16 != 0 || decide (stride < size) || decide (2 ^ 20 ≤ off + 31 * stride + size - 1) ||
            !(wake == 0 || (fabric wake && offsetOf wake % 64 == 0)), 5),
          (dev != devOf c && !(s.hub (devOf c)).routev.getLsbD dev, 6), (x.orphaned k, 8)]
        if err ≠ 0 then (if err = 6 then s.drainRecord c k else s).executed c .busy k err {}
        else
          let (id, s) := s.fresh
          let gs := (List.range 32).flatMap fun r => (rowGranules acc (pktBf16 p) r).map fun g => (off + r * stride + g.1, g.2)
          let s := s.modCore c fun y =>
            let y := if pktCons p then y.setAcc b { y.acc b with full := false, vals := [] } else y
            y.modMatrix fun m => { m with queue := setEntry .busy (.draining id) m.queue,
                                          drains := m.drains ++ [{ id := id, cmd := k, left := gs.length, vals := acc.vals }] }
          let s := gs.foldl (fun s g => s.drainWrite c
            { src := ⟨c, k.slot, id⟩, asid := k.asid, sup := k.sup, addr := fabricAddr (coreNamed dest) g.1, op := .granule g.2.1 g.2.2,
              engine := true }) s
          s.startCommand c
    | _ => none

/-- A refused drain has changed nothing but the rows it wrote: the bank that it read and emptied is full again, unless a later command has filled it
(R416). -/
def State.undrain (s : State) (c : Nat) (d : Drain) : State :=
  let b := pktAcc d.cmd.pkt
  s.modCore c fun x => if pktCons d.cmd.pkt && !(x.acc b).full then x.setAcc b { x.acc b with full := true, vals := d.vals } else x

/-- DRAIN_WAKE_UP (R87): every write is answered: the wake-up goes out, or the drain ends. -/
def execDrainWakeUp (s : State) : Host.Outcome State Fault Refusal :=
  s.perform fun s e =>
    match e with
    | .drainWakeUp c id =>
      match (s.core c).matrix.drains.find? fun d => d.id == id with
      | none => some s
      | some d =>
        let wake : Word := BitVec.ofNat 64 (imageAt d.cmd.pkt 24 8)
        let gone (s : State) : State := s.modCore c fun x => x.modMatrix fun m => { m with drains := m.drains.filter fun y => y.id != id }
        if d.left ≠ 0 then some s
        else if d.refused then some ((((gone s).undrain c d).drainRecord c d.cmd).executed c (.draining id) d.cmd 6 {})
        else if d.waking ∨ wake = 0 then some ((gone s).executed c (.draining id) d.cmd 0 {})
        else
          let s := s.modCore c fun x => x.modMatrix fun m =>
            { m with drains := m.drains.map fun y => if y.id == id then { y with left := 1, waking := true } else y }
          some (s.sendDecr { src := ⟨c, d.cmd.slot, id⟩, kind := .drain, tcb := wake, asid := d.cmd.asid, sup := d.cmd.sup })
    | _ => none

end Sys2Proof.Machine
end

