-- ==== Sys2Proof/Machine/Tasks.lean ====
section
/-!
DEFINITION. Scheduling (spec/10 R190 to R200, spec/02 R36, R40 to R42): the ready and spawn queues, dispatch, decrements and `tenq` at a TCB's home,
spawn requests, and the power and clocks of a core.
-/

namespace Sys2Proof.Machine

/-! ## Task control blocks (R194, R195) -/

/-- A TCB's first 16 bytes as one number. -/
abbrev Tcb := Nat

def State.tcb (s : State) (c off : Nat) : Tcb := leNat (s.bytes (tileKey c off) 16)

def tcbCnt (t : Tcb) : Nat := bitsOf t 0 16
def tcbState (t : Tcb) : Nat := bitsOf t 16 8
def tcbHome (t : Tcb) : Nat := bitsOf t 32 12
def tcbNbank (t : Tcb) : Nat := bitsOf t 44 2
def tcbNsucc (t : Tcb) : Nat := bitsOf t 46 3
def tcbAsid (t : Tcb) : Nat := bitsOf t 49 14
def tcbFlush (t : Tcb) : Bool := bitAt t 63
def tcbZero (t : Tcb) : Nat := bitsOf t 92 4
def tcbPc (t : Tcb) : Nat := bitsOf t 96 32

/-- A TCB that a dispatch refuses (R198). -/
def tcbBad (c : Nat) (t : Tcb) : Bool := tcbHome t != idOf c % 4096 || decide (4 < tcbNsucc t) || tcbZero t != 0

/-- Bytes of a TCB written by the core. -/
def State.writeTcb (s : State) (c off at_ : Nat) (bs : List Byte) : State := (s.writeTile c (off + at_) bs).recheckAll c

/-- STATE, with FAULT where a fault is given. -/
def State.setTcb (s : State) (c off st : Nat) (fault : Option Nat) : State :=
  s.writeTcb c off 2 (natLe 1 st ++ (match fault with | none => [] | some f => natLe 1 f))

/-! ## The queues (R191 to R193, R197) -/

/-- The mode follows the number queued (R192). -/
def Sched.settle (q : Sched) : Sched :=
  let n := q.spawns.length + q.ready.length
  { q with depthFirst := if 48 < n then true else if n < 16 then false else q.depthFirst }

def Core.modSched (k : Core) (f : Sched → Sched) : Core := { k with sched := (f k.sched).settle }

/-- The order of ready entries: the cycle they became Ready in, source core, TCB offset. -/
def readyBefore (x y : Nat × Nat × Nat) : Bool :=
  let cx := x.2.1 / Config.cycle
  let cy := y.2.1 / Config.cycle
  decide (cx < cy) || (cx == cy && (decide (x.2.2 < y.2.2) || (x.2.2 == y.2.2 && decide (x.1 < y.1))))

def insertReady (x : Nat × Nat × Nat) : List (Nat × Nat × Nat) → List (Nat × Nat × Nat)
  | [] => [x]
  | y :: ys => if readyBefore x y then x :: y :: ys else y :: insertReady x ys

/-- NEXT and PREV of the entry at position i (R194). -/
def linkField (q : List (Nat × Nat × Nat)) (i : Nat) : Nat :=
  let at_ (j : Nat) : Nat := ((q[j]?.map (·.1)).getD 0) / 64
  at_ (i + 1) % 2 ^ 14 + (if i = 0 then 0 else at_ (i - 1) % 2 ^ 14 * 2 ^ 14)

/-- The links of the ready queue written where they have changed. -/
def State.relink (s : State) (c : Nat) : State :=
  let q := (s.core c).sched.ready
  (List.range q.length).foldl (fun s i =>
    let off := (q[i]?.map (·.1)).getD 0
    let old := leNat (s.bytes (tileKey c (off + 8)) 4)
    let new := linkField q i + old / 2 ^ 28 * 2 ^ 28
    if old = new then s else s.writeTcb c off 8 (natLe 4 new)) s

/-- A TCB joins the ready queue, and the core looks for a slot. -/
def State.enqueue (s : State) (c off src : Nat) : State :=
  let s := s.modCore c fun k => k.modSched fun q => { q with ready := insertReady (off, s.now, src) q.ready }
  (s.relink c).after 0 (.dispatch c)

/-- A TCB leaves the ready queue. -/
def State.unqueue (s : State) (c off : Nat) : State :=
  (s.modCore c fun k => k.modSched fun q => { q with ready := q.ready.filter fun e => e.1 != off }).relink c

/-! ## Dispatch (R190, R193, R198) -/

/-- Whether a queue's next dispatch takes its oldest entry (R193). -/
def takesOldest (df : Bool) (run n : Nat) : Bool := !df || decide (15 ≤ run) || n == 1

/-- A queue's selected entry. -/
def selected {α : Type} (oldest : Bool) (q : List α) : Option α := if oldest then q.head? else q.getLast?

/-- A queue without its selected entry. -/
def unselected {α : Type} (oldest : Bool) (q : List α) : List α := if oldest then q.tail else q.dropLast

def Sched.spawnOldest (q : Sched) : Bool := takesOldest q.depthFirst q.spawnRun q.spawns.length
def Sched.readyOldest (q : Sched) : Bool := takesOldest q.depthFirst q.readyRun q.ready.length

/-- The head TCB is malformed: it faults (R198). -/
def State.faultTcb (s : State) (c off : Nat) : State :=
  let t := s.tcb c off
  let s := (s.unqueue c off).setTcb c off 5 (some 1)
  s.coreRec c (tcbAsid t) 39 2 (fabricAddr c off) 0

/-- The selected spawn is dispatched; `keep`: the choice for the next dispatch is unchanged. -/
def State.dispatchSpawn (s : State) (c n : Nat) (keep : Bool) : State :=
  let q := (s.core c).sched
  match selected q.spawnOldest q.spawns with
  | none => s
  | some x =>
    let s := s.modCore c fun k => k.modSched fun q =>
      { q with spawns := unselected q.spawnOldest q.spawns, spawnRun := if q.spawnOldest then 0 else q.spawnRun + 1,
               lastReady := if keep then q.lastReady else false }
    (s.enterSlot c n (newThread x.pc x.asid (statusOf x.flush x.sup false false x.nbank false) x.args 0)).kickAll c

/-- The selected task is dispatched: Running, its context from its TCB (R198). -/
def State.dispatchTask (s : State) (c n off : Nat) (keep : Bool) : State :=
  let t := s.tcb c off
  let args := (List.range 4).map fun i => s.value (tileKey c (off + 32 + 8 * i)) 8
  let s := s.modCore c fun k => k.modSched fun q =>
    { q with ready := q.ready.filter fun e => e.1 != off, readyRun := if q.readyOldest then 0 else q.readyRun + 1,
             lastReady := if keep then q.lastReady else true }
  let s := (s.relink c).setTcb c off 3 none
  let x := newThread (tcbPc t) (tcbAsid t) (statusOf (tcbFlush t) false true false (tcbNbank t) false) args (fabricAddr c off)
  s.enterSlot c n { x with succs := some (tcbNsucc t) }

/-- A TCB that is not dispatched: malformed (R198), or with a STATE that R401 never dispatches, which is taken as malformed (DEDUCED, log 122). -/
def State.unfit (s : State) (c off : Nat) : Bool := tcbBad c (s.tcb c off) || decide (7 ≤ tcbState (s.tcb c off))

/-- One dispatch, or none: whether anything was done (R190). -/
def State.dispatchOne (s : State) (c : Nat) : Option State :=
  let k := s.core c
  let q := k.sched
  match k.openSlot with
  | none => none
  | some n =>
    if k.halted || k.frozen then none
    else
      let sp := selected q.spawnOldest q.spawns
      let rd := selected q.readyOldest q.ready
      match rd with
      | some (off, _) =>
        if s.unfit c off && (sp.isNone || !q.lastReady) then some (s.faultTcb c off)
        else
          let rdFits := k.banksFor (tcbNbank (s.tcb c off))
          match sp with
          | none => if rdFits then some (s.dispatchTask c n off false) else none
          | some x =>
            let spFits := k.banksFor x.nbank
            if q.lastReady then
              if spFits then some (s.dispatchSpawn c n false)
              else if s.unfit c off then some (s.faultTcb c off)
              else if rdFits then some (s.dispatchTask c n off true) else none
            else if rdFits then some (s.dispatchTask c n off false)
            else if spFits then some (s.dispatchSpawn c n true) else none
      | none =>
        match sp with
        | none => none
        | some x => if k.banksFor x.nbank then some (s.dispatchSpawn c n false) else none

/-- Dispatches until no more is possible. -/
def State.dispatchAll (s : State) (c : Nat) : Nat → State
  | 0 => s
  | n + 1 =>
    match s.dispatchOne c with
    | none => s
    | some s => s.dispatchAll c n

/-- DISPATCH (R190). -/
def execDispatch (s : State) : Host.Outcome State Fault Refusal :=
  s.perform fun s e =>
    match e with
    | .dispatch c => some (s.dispatchAll c (16 + (s.core c).sched.ready.length))
    | _ => none

/-! ## Decrements (R196) -/

/-- The source core id that a decrement shows: 4,096 for the hub. -/
def decrSource (c : Nat) : Nat := min (idOf c) 4096

/-- A decrement performed at the TCB's bank; none where it is refused. -/
def State.decrement (s : State) (c off src : Nat) : Option State :=
  let t := s.tcb c off
  if 1 < tcbState t ∨ tcbCnt t = 0 then none
  else
    let s := s.writeTcb c off 0 (natLe 2 (tcbCnt t - 1))
    some (if tcbCnt t = 1 ∧ tcbState t = 1 then (s.setTcb c off 2 none).enqueue c off src else s)

/-- DECREMENT (R196): a `tdep` hears its answer; any other refusal goes on record at the home core. -/
def execDecrement (s : State) : Host.Outcome State Fault Refusal :=
  s.perform fun s e =>
    match e with
    | .decrement m =>
      let c := coreNamed m.tcb
      let off := offsetOf m.tcb
      let heard (s : State) : State := if m.kind = .tdep ∨ m.kind = .drain then s.tell c m.src.core (.acknowledgement m.src) else s
      let refuse (cause : Nat) : State :=
        if m.kind = .tdep then s.tell c m.src.core (.refusal m.src cause)
        else heard (s.raise c
          { cause := 34, cls := 1, slot := none, asid := m.asid, addr := m.tcb, aux := decrSource m.src.core, toSup := true })
      let gate := (s.core c).gateFrom m.src.core c m.asid m.sup
      match gate with
      | .refused => some (refuse 10)
      | .onward d => some (s.send c d (.decrement { m with tcb := fabricAddr d off }))
      | .pass =>
        if (s.core c).frozen then some (s.after busyTime (.decrement m))
        else if 2 ^ 20 < off + 64 then some (refuse 6)
        else if (s.readCause c off 16).isSome then some (refuse ((s.readCause c off 16).getD 0))
        else
          match s.decrement c off (decrSource m.src.core) with
          | none => some (refuse 21)
          | some s => some (if m.kind = .tdep ∨ m.kind = .drain then s.tell c m.src.core (.acknowledgement m.src) else s)
    | _ => none

/-! ## tenq at its home (R199) -/

/-- TASK_ARM_REQUEST (R199). -/
def execTaskArmRequest (s : State) : Host.Outcome State Fault Refusal :=
  s.perform fun s e =>
    match e with
    | .taskArmRequest m =>
      let c := coreNamed m.tcb
      let off := offsetOf m.tcb
      let gate := (s.core c).gateFrom m.src.core c m.asid m.sup
      let answer (s : State) (st : Nat) : State :=
        s.tell c m.src.core (.fill ⟨m.src, [.scalar m.reg m.seq (BitVec.ofNat 64 st)]⟩)
      match gate with
      | .refused => some (s.tell c m.src.core (.refusal m.src 10))
      | .onward d => some (s.send c d (.taskArmRequest { m with tcb := fabricAddr d off }))
      | .pass =>
        let t := s.tcb c off
        if (s.core c).frozen then some (s.after busyTime (.taskArmRequest m))
        else if 2 ^ 20 < off + 64 then some (s.tell c m.src.core (.refusal m.src 6))
        else if (s.readCause c off 16).isSome then some (s.tell c m.src.core (.refusal m.src ((s.readCause c off 16).getD 0)))
        else if tcbState t ≠ 0 then some (answer s 2)
        else if tcbBad c t ∨ 2 ^ 20 ≤ tcbPc t ∨ (tcbAsid t ≠ m.asid ∧ !m.sup) then some (answer s 3)
        else if tcbCnt t ≠ 0 then some (answer (s.setTcb c off 1 none) 0)
        else some (answer ((s.setTcb c off 2 none).enqueue c off (idOf m.src.core)) 1)
    | _ => none

/-! ## Spawn requests (R41, R191, R322) -/

/-- When the same core takes a request of this cycle that goes before m: of a lower spawning core, or of a lower slot of the same one (R191). -/
def State.spawnAhead (s : State) (m : SpawnMsg) : Option Nat :=
  s.agenda.findSome? fun e =>
    match e.ev with
    | .spawnRequest x =>
      if x.core = m.core ∧ e.at_ / Config.cycle = s.now / Config.cycle ∧ (idOf x.src.core < idOf m.src.core ∨ (idOf x.src.core = idOf m.src.core ∧
        x.src.slot < m.src.slot)) then some e.at_ else none
    | _ => none

/-- SPAWN_REQUEST: into a slot, into the spawn queue, or busy; the requests of one cycle at its end, in the order of R191. -/
def execSpawnRequest (s : State) : Host.Outcome State Fault Refusal :=
  s.perform fun s e =>
    match e with
    | .spawnRequest m =>
      let c := m.core
      let k := s.core c
      let gate := k.gateFrom m.src.core c m.asid m.sup
      if s.now < s.cycleEnd then some (s.due s.cycleEnd (.spawnRequest m))
      else if (s.spawnAhead m).isSome then some (s.due ((s.spawnAhead m).getD 0) (.spawnRequest m))
      else
      let ack (s : State) : State := s.tell c m.src.core (.acknowledgement m.src)
      let busy : State := s.tell c m.src.core (.busy (.spawn m))
      match gate with
      | .refused => some (s.tell c m.src.core (.refusal m.src 10))
      | .onward d => some (s.sendBig c d Config.spawnFlits (.spawnRequest { m with core := d }))
      | .pass =>
        if k.frozen then some busy
        else if m.handler then
          if (k.slot 14).isOpen && k.banksFor m.nbank then some (ack (s.enterSlot c 14 (SpawnMsg_slot m))) else some busy
        else
          match (if k.banksFor m.nbank && !k.halted then k.openSlot else none) with
          | some n => some (ack (s.enterSlot c n (SpawnMsg_slot m)))
          | none =>
            if 64 ≤ k.sched.spawns.length then some busy
            else some (ack (s.modCore c fun k => k.modSched fun q =>
              { q with spawns := q.spawns ++ [⟨m.pc, m.nbank, m.asid, m.flush, m.sup, m.args⟩] }))
    | _ => none

/-- In depth-first mode a thread that issues `spawn` or `tenq` is Held for 16 cycles (R193). -/
def State.throttle (s : State) : State :=
  if s.myCore.sched.depthFirst then
    (s.modMe fun t => ({ t with throttled := true, why := .throttle })).after (16 * Config.cycle) (.spawnThrottleExpiry s.cur.core s.cur.slot)
  else s

/-- SPAWN_THROTTLE_EXPIRY (R193). -/
def execSpawnThrottleExpiry (s : State) : Host.Outcome State Fault Refusal :=
  s.perform fun s e =>
    match e with
    | .spawnThrottleExpiry c n =>
      some (s.modCore c fun k => (k.setSlot n ({ k.slot n with throttled := false } : Slot).kick).ungate)
    | _ => none

/-! ## Banks and clocks (R36, R40) -/

/-- BANK_RISE_COMPLETE (R36): a bank whose rise ends is On, and the fills that waited for it take effect (R402). -/
def execBankRiseComplete (s : State) : Host.Outcome State Fault Refusal :=
  s.perform fun s e =>
    match e with
    | .bankRiseComplete c b =>
      let x := (s.core c).bank b
      if x.rising.any (· ≤ s.now) then some (((s.modCore c fun k => k.setBank b { x with power := .on, rising := none }).kickAll c).risen c b) else some s
    | _ => none

/-- A bank whose clearing has ended (R36). -/
def Bank.cleared (b : Bank) (now : Nat) : Bank := { b with clears := b.clears.filter fun t => decide (now < t) }

/-- BANK_CLEAR_COMPLETE (R36). -/
def execBankClearComplete (s : State) : Host.Outcome State Fault Refusal :=
  s.perform fun s e =>
    match e with
    | .bankClearComplete c n => 
      let free (b : Bank) : Bank := if b.holder == some n then b.cleared s.now else b
      some ((s.modCore c fun k => { k with banks := Table.mapVals free k.banks }).kickAll c)
    | _ => none

/-- CLOCK_GATE (R40): a core with nothing to issue; held banks enter Retain if the control is set (R36). -/
def execClockGate (s : State) : Host.Outcome State Fault Refusal :=
  s.perform fun s e =>
    match e with
    | .clockGate c =>
      let k := s.core c
      if s.busy c || !k.running then some s
      else
        let retain (b : Bank) : Bank := if b.holder.isSome && b.power == .on then { b with power := .retain } else b
        some (s.setCore c { k with running := false, banks := if k.retainCtl then Table.mapVals retain k.banks else k.banks })
    | _ => none

/-! ## The end of a thread (R42, R441) -/

/-- The decrements of a task's `count` successors, in list order; those of the own core are presented at their banks in one cycle (R441). -/
def State.decrementSuccessors (s : State) (c n asid count tcbKey : Nat) : State :=
  let succ := (List.range count).map fun i =>
    let w := leNat (s.bytes (tcbKey + 16 + 4 * i) 4)
    (coreOf (bitsOf w 26 6) (bitsOf w 14 12), bitsOf w 0 14 * 64)
  (List.range count).foldl (fun s i =>
    let (d, off) := succ.getD i (0, 0)
    let m : Decr := { src := ⟨c, n, 0⟩, kind := .quit, tcb := fabricAddr d off, asid := asid, sup := false }
    if d = c then s.after 0 (.decrement m) else s.sendDecr m) s

/-- A task ends at its TCB: Done and its successors decremented, or Faulted with none (R42, R392). -/
def State.endTask (s : State) (c n : Nat) (t : Slot) (fault : Nat) : State :=
  if !t.task then s
  else
    let h := s.homeNow (coreNamed t.work) t.asid
    let off := offsetOf t.work
    if fault ≠ 0 then s.setTcb h off 5 (some fault)
    else
      let count := t.succs.getD (min 4 (tcbNsucc (s.tcb h off)))
      (s.setTcb h off 4 none).decrementSuccessors c n t.asid count (tileKey h off)

end Sys2Proof.Machine
end

