-- ==== Sys2Proof/Machine/Work.lean ====
section
/-!
DEFINITION. Page 6: threads, tasks, links and population (spec/14 R321 to R330, spec/10 R199 to R210, spec/09 R177, R188, R189), and the service
slot's handlers.
-/

namespace Sys2Proof.Machine

/-! ## Operands -/

/-- An operand that must be a fabric-direct address: it keeps R90 and does not name HBM. -/
def State.fabricOperand {α : Type} (s : State) (v : Word) (k : Try α) : Try α := ensure (isFabric v && addrOk v) 6 v 0 k

/-- The device of an address is the own one, or has a route (R351). -/
def State.routed {α : Type} (s : State) (v : Word) (k : Try α) : Try α :=
  let d := devOf (coreNamed v)
  ensure (d == devOf s.cur.core || s.myRoutes.getLsbD d) 9 v d k

/-- s4 to s7, the words that `spawn` and `amsg` carry. -/
def argList : List SReg := (List.range 4).map fun i => BitVec.ofNat 4 (4 + i)

/-- The order of a non-posted request and of a posted message of page 6: plain, and a release with mask C and P (R309). -/
def requestOrder : Order := { rel := maskCP }

/-! ## spawn, tenq, tdep (R199, R200, R322, R327) -/

/-- spawn (R322). -/
def execSpawn (m : Mods) (o : OpAB) (s : State) : Host.Outcome State Fault Refusal :=
  s.guarded m fun s =>
    notInService s <|
    s.readableAll ([o.a, o.b] ++ argList) <|
      match s.peekAll ([o.a, o.b] ++ argList) with
      | .ok (a :: b :: args) =>
        let pc := offsetOf a
        let h := homeOf s.cur.core a
        s.fabricOperand a <|
        ensure (pc % 2 == 0) 7 a 0 <|
        ensure (decide (pc < 2 ^ 16)) 6 a 0 <|
        ensure (decide (b.toNat < 8)) 6 b 0 <|
        ensure (!b.getLsbD 2 || s.me.sup) 3 0 0 <|
        s.routed a <|
        s.mayIssue requestOrder h 0 <|
          let (id, s) := s.fresh
          let msg : SpawnMsg := { src := ⟨s.cur.core, s.cur.slot, id⟩, core := coreNamed a, pc := pc, nbank := field b 0 2, handler := b.getLsbD 2,
                                  asid := s.me.asid, flush := s.me.flush, sup := s.me.sup, args := args }
          let acc : Acc := { id := id, addr := a, home := h, store := true, asid := s.me.asid, sup := s.me.sup }
          let s := s.holdFor acc ([(o.a, false), (o.b, o.q)] ++ argList.map fun r => (r, false))
          let s := s.throttle
          .ok (if msg.core = s.cur.core then s.after Config.cycle (.spawnRequest msg)
               else s.sendBig s.cur.core msg.core Config.spawnFlits (.spawnRequest msg))
      | .ok _ => .ok s
      | .error e => .error e

/-- The address of a TCB: fabric-direct and 64-byte aligned (R327). No TCB stands at offset 0 (R194): the address cause there is DESIGN CHOICE
(log 99). -/
def State.tcbOperand {α : Type} (s : State) (v : Word) (k : Try α) : Try α :=
  s.fabricOperand v <| ensure (offsetOf v % 64 == 0) 7 v 0 <| ensure (offsetOf v != 0) 6 v 0 <| s.routed v k

/-- tenq (R199): Held until the status arrives. -/
def execTenq (m : Mods) (o : OpAB) (s : State) : Host.Outcome State Fault Refusal :=
  s.guarded m fun s =>
    notInService s <|
    s.fillable o.a <|
    s.withReg o.b fun v =>
      let h := homeOf s.cur.core v
      s.tcbOperand v <|
      s.mayIssue requestOrder h 0 <|
        let (id, s) := s.fresh
        let acc : Acc := { id := id, addr := v, home := h, store := true, asid := s.me.asid, sup := s.me.sup }
        let q := ((s.me.reg o.a.toNat).seq + 1) % 8
        let arm : TaskArm := { src := ⟨s.cur.core, s.cur.slot, id⟩, reg := o.a.toNat, seq := q, tcb := v, asid := s.me.asid, sup := s.me.sup }
        let s := (s.holdFill o.a acc [(o.b, o.q)]).throttle
        .ok (s.tell s.cur.core (coreNamed v) (.taskArmRequest arm))

/-- tdep (R200). -/
def execTdep (m : Mods) (o : OpB) (s : State) : Host.Outcome State Fault Refusal :=
  s.guarded m fun s =>
    s.withReg o.b fun v =>
      let h := homeOf s.cur.core v
      s.tcbOperand v <|
      s.serviceLocal h <|
      s.mayIssue requestOrder h 0 <|
        let (id, s) := s.fresh
        let acc : Acc := { id := id, addr := v, home := h, store := true, asid := s.me.asid, sup := s.me.sup }
        let s := s.holdFor acc [(o.b, o.q)]
        .ok (s.sendDecr { src := ⟨s.cur.core, s.cur.slot, id⟩, kind := .tdep, tcb := v, asid := s.me.asid, sup := s.me.sup })

/-! ## quit, yield, park, wake (R42, R323) -/

/-- quit (R42): Held until the thread's accesses have completed; its entries close, its slot is Free, and a task ends at its TCB. In the service
slot it ends the handler (R209). -/
def execQuit (m : Mods) (s : State) : Host.Outcome State Fault Refusal :=
  s.guarded m fun s =>
    hold (!s.me.pendingAccess) .access <|
      let c := s.cur.core
      let n := s.cur.slot
      let t := s.me
      if n = 15 then
        let s := s.modMyCore Core.endHandler
        .ok (if s.myCore.service.isEmpty then s else s.modMyCore Core.ungate)
      else
        let s := (s.closeEntries c n).freeSlot c n
        .ok ((s.endTask c n t t.faultAtQuit).kickAll c)

/-- yield (R323). -/
def execYield (m : Mods) (s : State) : Host.Outcome State Fault Refusal :=
  s.guarded m fun s => .ok (s.modMe fun t => { t with yielded := true })

/-- park (R38): the wake bit lets it pass; else the slot waits. -/
def execPark (m : Mods) (s : State) : Host.Outcome State Fault Refusal :=
  s.guarded m fun s =>
    notInService s <|
      .ok (s.modMe fun t =>
        if t.wake then { t with wake := false }
        else { t with st := .waiting, why := .park, resume := some (s.cur.next, m.sw), pc := s.cur.addr })

/-- wake (R323): at once on the own core, else posted. -/
def execWake (m : Mods) (o : OpB) (s : State) : Host.Outcome State Fault Refusal :=
  s.guarded m fun s =>
    s.withReg o.b fun v =>
      let c := s.cur.core
      let d := coreNamed v
      let n := offsetOf v % 16
      s.fabricOperand v <|
      ensure (field v 4 17 == 0) 6 v 0 <|
      if d = c then .ok ((s.consume [(o.b, o.q)]).wakeSlot (wakeOf c n))
      else
        s.routed v <|
        s.mayIssue requestOrder (homeOf c v) 1 <|
          let s := s.consume [(o.b, o.q)]
          let (id, s) := s.fresh
          let (j, s) := s.takeEntry (journalImage s.cur.slot 0 6 0 0 0 (s.pathFor v) 0 s.me.asid v 0 0)
          let s := s.addOut { id := id, addr := v, home := homeOf c v, store := true, jrn := some j, asid := s.me.asid, sup := s.me.sup }
          .ok (s.send c d (.wakeMessage ⟨⟨c, s.cur.slot, id⟩, d, n, s.me.asid, s.me.sup, true⟩))

/-! ## mig and link (R43, R205 to R207, R324, R325) -/

/-- mig (R43, R324). -/
def execMig (m : Mods) (o : OpB) (s : State) : Host.Outcome State Fault Refusal :=
  s.guarded m fun s =>
    notInService s <|
    s.withReg o.b fun v =>
      s.fabricOperand v <|
      s.routed v <|
      s.mayMove v <|
        let after := s.consume [(o.b, o.q)]
        if coreNamed v = s.cur.core then .ok after else .ok (s.depart v { after.me with pc := s.cur.next })

/-- A register of the core is bound to a direction with a mode. -/
def Core.boundTo (k : Core) (dir mode : Nat) : Bool :=
  k.slots.any fun e => (List.range 16).any fun i => let r := e.2.reg i; r.mode == mode && r.dir == dir

/-- link (R206, R207, R325). A supervisor core has no neighbours (R205 names compute cores only). -/
def execLink (m : Mods) (o : OpLink) (s : State) : Host.Outcome State Fault Refusal :=
  s.guarded m fun s =>
    notInService s <|
    let c := s.cur.core
    let n := o.a.toNat
    let dir := o.idx.toNat % 4
    let sense := o.idx.toNat / 4
    let r := s.me.reg n
    if sense = 0 then
      ensure ((r.mode == 2 || r.mode == 3) && r.dir == dir) 20 0 dir <|
        .ok (s.modMe fun t => t.setReg n { r with mode := 0, full := false, pend := false })
    else
      ensure (r.mode == 0) 5 0 n <|
      ensure (isCompute c && !s.myCore.boundTo dir (sense + 1)) 20 0 dir <|
      ensure (sense == 1 || (s.core (neighbour c dir)).lists s.me.asid) 10 0 0 <|
        .ok (s.modMe fun t => t.setReg n { r with mode := sense + 1, dir := dir, full := false, pend := false, failed := false })

/-! ## Active messages (R209, R210, R326) -/

/-- amsg (R326): posted, with two journal entries. -/
def execAmsg (m : Mods) (o : OpB) (s : State) : Host.Outcome State Fault Refusal :=
  s.guarded m fun s =>
    s.readableAll (o.b :: argList) <|
      match s.peekAll (o.b :: argList) with
      | .ok (v :: args) =>
        let c := s.cur.core
        let d := coreNamed v
        let off := offsetOf v
        s.fabricOperand v <|
        ensure (decide (off < 2 ^ 16)) 6 v 0 <|
        ensure (off % 2 == 0) 7 v 0 <|
        s.routed v <|
        s.mayIssue requestOrder (homeOf c v) 2 <|
          let s := s.consume ((o.b, o.q) :: argList.map fun r => (r, false))
          let (id, s) := s.fresh
          let entry (kind i : Nat) : BitVec 256 :=
            journalImage s.cur.slot 3 kind 0 0 0 (s.pathFor v) 0 s.me.asid v (args.getD i 0) (args.getD (i + 1) 0)
          let (j, s) := s.takeEntry (entry 5 0)
          let (i, s) := s.takeEntry (entry 7 2)
          let s := s.addOut { id := id, addr := v, home := homeOf c v, store := true, jrn := some j, jrn2 := some i, asid := s.me.asid, sup := s.me.sup }
          let msg : ActiveMsg := ⟨⟨c, s.cur.slot, id⟩, d, off, args, s.me.asid, s.me.sup⟩
          .ok (if d = c then s.after 0 (.activeMessage msg) else s.sendBig c d Config.amsgFlits (.activeMessage msg))
      | .ok _ => .ok s
      | .error e => .error e

/-- ACTIVE_MESSAGE (R209): into the service queue, or busy (R208). -/
def execActiveMessage (s : State) : Host.Outcome State Fault Refusal :=
  s.perform fun s e =>
    match e with
    | .activeMessage m =>
      let c := m.core
      let k := s.core c
      let gate := k.gateFrom m.src.core c m.asid m.sup
      match gate with
      | .refused => some (s.tell c m.src.core (.refusal m.src 10))
      | .onward d => some (s.sendBig c d Config.amsgFlits (.activeMessage { m with core := d }))
      | .pass =>
        if k.frozen || decide (64 ≤ k.service.length) then some (s.tell c m.src.core (.busy (.amsg m)))
        else
          let s := s.modCore c fun k => ({ k with service := k.service ++ [Service.message m] }).ungate
          some (s.tell c m.src.core (.acknowledgement m.src))
    | _ => none

/-- The context of a handler (R209). -/
def handlerSlot (m : ActiveMsg) : Slot :=
  { st := .ready, regs := [(0, { v := fabricAddr m.src.core 0 }), (1, { v := BitVec.ofNat 64 m.src.slot })] ++ argRegs m.args,
    pc := m.off, asid := m.asid }

/-- SERVICE_HANDLER_START (R209): the message at the head of the queue runs in slot 15. -/
def execServiceHandlerStart (s : State) : Host.Outcome State Fault Refusal :=
  s.perform fun s e =>
    match e with
    | .serviceHandlerStart c =>
      match (s.core c).service with
      | .message m :: rest =>
        some (s.modCore c fun k => { k with service := rest, handler := some (m, 0), slots := k.slots.put 15 { handlerSlot m with orders := (k.slot 15).orders } })
      | _ => some s
    | _ => none

/-- SERVICE_HANDLER_LIMIT (R210): the 257th instruction abandons the handler. -/
def execServiceHandlerLimit (s : State) : Host.Outcome State Fault Refusal :=
  s.perform fun s e =>
    match e with
    | .serviceHandlerLimit c => some (s.actAs c 15 (s.slot c 15).pc 0 fun s => s.abandon c)
    | _ => none

/-! ## bar (R204) -/

/-- bar (R204): one arrival at the record's core, then the wait for the next phase. A restored thread that had arrived only waits. -/
def execBar (m : Mods) (s : State) : Host.Outcome State Fault Refusal :=
  s.guarded m fun s =>
    notInService s <|
    ensure s.me.gang 22 0 0 <|
    s.releasing maskCP <|
      let c := s.cur.core
      let h := s.me.hb
      let x := s.myCore.handle h
      ensure (!x.f) 16 0 (h + x.fc * 2 ^ 8) <|
        let sent := s.me.barSeq
        let seq := (sent.getD x.seq.toNat) % 2 ^ 32
        let w : HWaiter := { h := h, slot := s.cur.slot, kind := 1, v := BitVec.ofNat 32 (seq + 1) }
        let s :=
          if sent.isSome then s
          else s.tell c (coreNamed s.me.work) (.barrierArrival ⟨c, s.cur.slot, 0⟩ s.me.work s.me.asid)
        if x.holds 1 w.v then .ok (s.modMe fun t => { t with barSeq := none })
        else .ok ((s.modMe fun t => { t with barSeq := some seq }).waitAt w m.sw)

/-- BARRIER_ARRIVAL (R204): the record counts it, unless it is refused there (R134, R423); the last one arrives at every member's handle. -/
def execBarrierArrival (s : State) : Host.Outcome State Fault Refusal :=
  s.perform fun s e =>
    match e with
    | .barrierArrival src rec_ asid =>
      let c := coreNamed rec_
      let off := offsetOf rec_
      match (s.core c).gateFrom src.core c asid false with
      | .refused => some s
      | .onward d => some (s.send c d (.barrierArrival src (fabricAddr d off) asid))
      | .pass =>
        if (s.core c).frozen then some (s.after busyTime (.barrierArrival src rec_ asid))
        else if (s.readCause c off 64).isSome then some s
        else
        let key := tileKey c off
        let count := (s.value key 2).toNat
        let n := (s.value (key + 24) 2).toNat + 1
        let hb := (s.value (key + 2) 1).toNat % 64
        -- the entries are read with the last arrival: from poison nothing is taken (R423)
        if count ≤ n ∧ s.anyPoison (key + 64) (48 * count) then some s
        else if n < count then some (s.writeTcb c off 24 (natLe 2 n))
        else
          let s := s.writeTcb c off 24 (natLe 2 0)
          some ((List.range count).foldl (fun s i =>
            let w := (s.value (key + 64 + 48 * i) 4).toNat
            let d := coreOf (bitsOf w 12 6) (bitsOf w 0 12)
            if d = c then s.changeHandle c { h := hb, rank := 1, change := .arrive, slot := none, asid := asid, reply := none }
            else s.send c d (.remoteHandleArrival { src := ⟨c, src.slot, 0⟩, core := d, h := hb, change := .arrive, asid := asid, sup := false })) s)
    | _ => none

/-! ## Population and identity (R177, R188, R189, R328 to R330) -/

/-- fitw (R177): a store to the own control space. -/
def execFitw (m : Mods) (o : OpB) (s : State) : Host.Outcome State Fault Refusal :=
  s.guarded m fun s => s.withReg o.b fun v =>
    s.mayIssue {} .own 0 <|
      let s := s.consume [(o.b, o.q)]
      .ok ((s.modMyCore fun k => { k with fit := BitVec.ofNat 33 (2 ^ 32 + v.toNat % 2 ^ 32) }).fitChanged)

/-- A non-posted request to a hub, which fills sa or is acknowledged (R309, R331). -/
def State.askHub (s : State) (dev : Nat) (addr : Word) (ask : HubAsk) (a : Option SReg) (takes : List (SReg × Bool)) : State :=
  let (id, s) := s.fresh
  let acc : Acc := { id := id, addr := addr, home := if dev = devOf s.cur.core then .device else .other dev, asid := s.me.asid, sup := s.me.sup }
  let dest := a.map fun r => (r.toNat, ((s.me.reg r.toNat).seq + 1) % 8)
  let msg : HubMsg := { src := ⟨s.cur.core, s.cur.slot, id⟩, dev := dev, asid := s.me.asid, sup := s.me.sup, ask := ask, dest := dest }
  let s := match a with | none => s.holdFor acc takes | some r => s.holdFill r acc takes
  s.send s.cur.core (hubOf dev) (.hubRequest msg)

/-- popq (R188). -/
def execPopq (m : Mods) (o : OpAB) (s : State) : Host.Outcome State Fault Refusal :=
  s.guarded m fun s =>
    s.fillable o.a <|
    s.withReg o.b fun v =>
      s.serviceLocal .device <|
      ensure (decide (v.toNat < 256)) 19 0 (v.toNat % 2 ^ 32) <|
      s.mayIssue {} .device 0 <|
        .ok (s.askHub (devOf s.cur.core) 0 (.popq v.toNat) (some o.a) [(o.b, o.q)])

/-- popmig (R189, R328). -/
def execPopmig (m : Mods) (o : OpAB) (s : State) : Host.Outcome State Fault Refusal :=
  s.guarded m fun s =>
    s.fillable o.a <|
    s.withReg o.b fun v =>
      s.serviceLocal .device <|
      ensure (v.toNat % 32 == 0) 7 v 0 <|
      ensure (decide (v.toNat < 2 ^ 20)) 6 v 0 <|
        let key := tileKey s.cur.core v.toNat
        let desc := s.bytes key 32
        let idx := imageAt desc 0 2
        s.mayIssue {} .device 0 <|
        ensure (s.readCause s.cur.core v.toNat 32).isNone ((s.readCause s.cur.core v.toNat 32).getD 0) v 0 <|
        ensure (decide (idx < 256)) 19 0 idx <|
          .ok (s.askHub (devOf s.cur.core) 0 (.popmig desc) (some o.a) [(o.b, o.q)])

/-- tick (R329): the core's copy of the time base. -/
def execTick (m : Mods) (o : OpA) (s : State) : Host.Outcome State Fault Refusal :=
  s.guarded m fun s => s.produce o.a { v := BitVec.ofNat 64 (s.timeOf (devOf s.cur.core)) }

/-- The identity word (R329). -/
def identity (c n asid : Nat) : Word :=
  BitVec.ofNat 64 (idOf c % 4096 + devOf c % 64 * 2 ^ 12 + n % 16 * 2 ^ 18 + asid % 2 ^ 14 * 2 ^ 22 +
    (if isSuper c then 2 ^ 39 else dieOf c % 8 * 2 ^ 36))

/-- selfid (R329). -/
def execSelfid (m : Mods) (o : OpA) (s : State) : Host.Outcome State Fault Refusal :=
  s.guarded m fun s => s.produce o.a { v := identity s.cur.core s.cur.slot s.me.asid }

/-- rdsw (R330). -/
def execRdsw (m : Mods) (o : OpA) (s : State) : Host.Outcome State Fault Refusal :=
  s.guarded m fun s => s.produce o.a { v := s.me.status.setWidth 64 }

/-- wrsw (R330): only FLUSH. -/
def execWrsw (m : Mods) (o : OpB) (s : State) : Host.Outcome State Fault Refusal :=
  s.guarded m fun s => s.reading o.b o.q fun v s =>
    .ok (s.modMe fun t => { t with status := setField t.status 0 1 (b2n (v.getLsbD 0)) })

end Sys2Proof.Machine
end

