-- ==== Sys2Proof/Machine/Context.lean ====
section
/-!
DEFINITION. Saving, restoring, discarding and killing a slot's thread (spec/19 R394 to R398, spec/20 R404, spec/10 R211, R212).
-/

namespace Sys2Proof.Machine

/-! ## The operation named by CTXCTL (R394) -/

/-- The slot that CTXCTL names. -/
def Core.ctxSlot (k : Core) : Nat := field k.ctxctl 0 4

/-- The time between two looks at what an operation waits for (log 8). -/
def ctxPeriod : Nat := 16 * Config.cycle

/-- How long a save waits for fills (R395). -/
def saveLimit : Nat := 64 * Config.us

/-- A thread is resident in a slot: in one of the states that a save accepts (R394). -/
def Slot.resident (t : Slot) : Bool := !t.saved && (t.st == .ready || t.st == .waiting || t.st == .held)

/-- The ASID and mark that the operation's accesses to its area carry: those of the thread that wrote CTXCTL. -/
def State.ctxRights (s : State) (c : Nat) : Nat × Bool :=
  match (s.core c).ctxop with
  | some ⟨some t, _, _⟩ => ((s.slot t.core t.slot).asid, true)
  | _ => (0, true)

/-- Where the save area stands; none where CTXAREA breaks R90, leaves the tile store, or is refused at its home, by a versioned window among others
(R134). -/
def State.area (s : State) (c size : Nat) : Option (Nat × Nat) :=
  let a := (s.core c).ctxarea
  let d := coreNamed a
  let (asid, sup) := s.ctxRights c
  if isFabric a && addrOk a && a.toNat % 64 == 0 && decide (offsetOf a + size ≤ 2 ^ 20) && s.reaches c d asid sup &&
      ((s.core d).windowCause (offsetOf a) size).isNone then some (d, offsetOf a)
  else none

/-- Bytes of the save area written. -/
def State.writeArea (s : State) (at_ : Nat × Nat) (off : Nat) (bs : List Byte) : State :=
  (s.writeTile at_.1 (at_.2 + off) bs).recheckAll at_.1

/-! ## Save (R395, R396) -/

/-- An access that a save waits for: not posted, and not a wait for a matrix status. -/
def Core.savedBehind (k : Core) (a : Acc) : Bool := a.jrn.isNone && !a.done && !(k.matrix.asks.any fun x => x.1.id == a.id)

/-- The thread's accesses that a save waits for. -/
def Core.waitsFor (k : Core) (n : Nat) : List Acc := (k.slot n).out.filter k.savedBehind

/-- A command of the thread has started and not yet completed: a save waits for it, a DRAIN's acknowledgements and wake-up included (R85 to R87,
R395). -/
def Core.executing (k : Core) (n : Nat) : Bool := k.matrix.queue.any fun e => e.st != .waiting && e.cmd.slot == n && e.cmd.alive

/-- Issue of a slot stops, its commands that have not started leave the queue, and its streams' FIFOs are discarded (R395, steps 1, 2 and 4). -/
def State.beginSave (s : State) (c n : Nat) : State :=
  let mine (e : MatEntry) : Bool := e.st == .waiting && e.cmd.slot == n && e.cmd.alive
  let s := s.modCore c fun k =>
    let t := k.slot n
    let op := k.ctxop.getD ⟨none, none, []⟩
    { k.setSlot n { t with saving := true, st := if t.st == .ready then .held else t.st } with
      ctxop := some { op with since := some s.now, cmds := k.matrix.queue.filter mine }
      streams := k.streams.map fun x => if x.slot == n then x.rewind else x
      matrix := { k.matrix with queue := k.matrix.queue.filter fun e => !mine e } }
  s.startCommand c

/-- A save or kill is given up: the slot goes on as before, its streams too, and its commands return to the head of the queue. -/
def State.endSave (s : State) (c n : Nat) : State :=
  let k := s.core c
  let cmds := match k.ctxop with | some op => op.cmds | none => []
  let first := k.matrix.queue.takeWhile fun e => e.st != .waiting
  let s := s.modCore c fun k =>
    ({ k.setSlot n ({ k.slot n with saving := false } : Slot).kick with
      matrix := { k.matrix with queue := first ++ cmds ++ k.matrix.queue.drop first.length } }).ungate
  let s := s.soon ((k.streams.filter fun x => x.slot == n).map fun x => .streamRefill c x.id)
  (s.startCommand c).kickAll c

/-- A stream's 64 bytes in the area (R396). -/
def streamBytes (k : Core) (n : Nat) (x : Stream) : List Byte :=
  let t := k.slot n
  let reg := if x.vec then ((List.range 32).find? fun j => t.place j == some x.reg).getD 0 else x.reg
  natLe 32 x.shape.image.toNat ++ natLe 1 x.shape.esz ++ natLe 1 (reg % 32 + 32 * b2n x.vec) ++ natLe 1 x.h ++ List.replicate 5 0 ++
    natLe 8 x.popped ++ List.replicate 16 0

/-- A bank's 32 rows of 32 values. -/
def bankBytes (a : AccBank) : List Byte := (List.range 1024).flatMap fun i => natLe 4 (a.vals.get 0 i).toNat

/-- The banks that a slot holds, in ascending order. -/
def Core.heldAccs (k : Core) (n : Nat) : List Nat := (List.range 4).filter fun b => (k.acc b).holder == some n

/-- The streams of a slot. -/
def Core.streamsOf (k : Core) (n : Nat) : List Stream := k.streams.filter fun x => x.slot == n

/-- The first 2,048 bytes of the area, in pieces with their offsets. -/
def Core.areaHead (k : Core) (n : Nat) (cmds : List MatEntry) : List (Nat × List Byte) :=
  let t := k.slot n
  let streams := k.streamsOf n
  let accs := k.heldAccs n
  [(0, t.image (k.shows n) ++ natLe 1 (streams.length % 16 + 16 * (cmds.length % 16)) ++ natLe 1 (maskOf accs + 16 * b2n t.wake + 32 * b2n t.stopped) ++
    List.replicate 30 0)] ++
  ((List.range streams.length).zip streams).map (fun x => (192 + 64 * x.1, streamBytes k n x.2)) ++
  ((List.range cmds.length).zip cmds).map (fun x => (704 + 64 * x.1, x.2.cmd.pkt))

/-- The thread's context is in the area; the slot keeps it (R211). Its banks of accumulators are released and empty, its streams stop. -/
def Core.keepSaved (k : Core) (n : Nat) : Core :=
  let ids := (k.streamsOf n).map (·.id)
  let t := k.slot n
  { k.setSlot n { t with st := .free, why := .none, saved := true, saving := false, stopped := false, push := none, pushed := none, resume := none,
                         marker := false, throttled := false, wake := false } with
    matrix := { k.matrix with accs := Table.mapVals (fun a => if a.holder == some n then {} else a) k.matrix.accs }
    streams := k.streams.filter fun x => x.slot != n
    copyq := k.copyq.filter fun id => !ids.contains id
    hwaiters := k.hwaiters.filter fun w => w.slot != n }

/-- The context and what belongs to it are written, and the slot keeps a saved context (R395, steps 3, 4 and 6). -/
def State.writeSaved (s : State) (c n : Nat) (at_ : Nat × Nat) : State :=
  let k := s.core c
  let cmds := match k.ctxop with | some op => op.cmds | none => []
  let accs := k.heldAccs n
  let s := (k.areaHead n cmds).foldl (fun s x => s.writeArea at_ x.1 x.2) s
  let s := ((List.range accs.length).zip accs).foldl (fun s x => s.writeArea at_ (2048 + 4096 * x.1) (bankBytes (k.acc x.2))) s
  ((s.modCore c fun k => k.keepSaved n).startCommand c).kickAll c

/-- CONTEXT_SAVE (R395): the first step stops issue; it looks again until nothing is awaited. -/
def execContextSave (s : State) : Host.Outcome State Fault Refusal :=
  s.perform fun s e =>
    match e with
    | .contextSave c =>
      let k := s.core c
      let n := k.ctxSlot
      let t := k.slot n
      match k.ctxop with
      | none => some s
      | some op =>
        match op.since with
        | none =>
          if !t.resident || t.saving then some (s.ctxDone c 1)
          else
            match s.area c (2048 + 4096 * (k.heldAccs n).length) with
            | none => some (s.ctxDone c 4)
            | some _ => some ((((s.beginSave c n).after ctxPeriod (.contextSave c)).after saveLimit (.saveFillTimeout c)))
        | some _ =>
          if k.executing n || !(k.waitsFor n).isEmpty then some (s.after ctxPeriod (.contextSave c))
          else
            match s.area c (2048 + 4096 * (k.heldAccs n).length) with
            | none => some ((s.endSave c n).ctxDone c 4)
            | some at_ => some ((s.writeSaved c n at_).ctxDone c 0)
    | _ => none

/-- The number that a record shows for an access awaited: its first register. -/
def awaitedReg (as : List Acc) : Nat := ((as.flatMap (·.regs)).head?.map fun r => r.2.2.2).getD 0

/-- SAVE_FILL_TIMEOUT (R395): after 64 µs the save stops with ST 2, and the slot goes on as before. -/
def execSaveFillTimeout (s : State) : Host.Outcome State Fault Refusal :=
  s.perform fun s e =>
    match e with
    | .saveFillTimeout c =>
      let k := s.core c
      let n := k.ctxSlot
      match k.ctxop with
      | some ⟨_, some since, _⟩ =>
        if field k.ctxctl 4 3 = 1 ∧ since + saveLimit ≤ s.now then
          let s := (s.endSave c n).asyncRec c n (k.slot n).asid 30 0 (awaitedReg (k.waitsFor n))
          some (s.ctxDone c 2)
        else some s
      | _ => some s
    | _ => none

/-! ## Restore (R397, R212) -/

/-- The area's zero bytes hold zero, and its image is one that R32 accepts. -/
def areaOk (b : List Byte) : Bool :=
  imageOk (b.take 160) && decide (imageAt b 161 1 < 64) && imageAt b 162 30 == 0 &&
  (List.range (imageAt b 160 1 % 16)).all fun j =>
    imageAt b (192 + 64 * j + 33) 1 < 64 && imageAt b (192 + 64 * j + 35) 5 == 0 && imageAt b (192 + 64 * j + 48) 16 == 0

/-- A stream of the area, for the slot it belongs to. -/
def streamOf (t : Slot) (n : Nat) (b : List Byte) (id : Nat) : Stream :=
  let vec := bitAt (imageAt b 33 1) 5
  let reg := imageAt b 33 1 % 32
  { id := id, slot := n, reg := if vec then (t.place reg).getD 0 else reg % 16, vec := vec,
    shape := ⟨BitVec.ofNat 256 (imageAt b 0 32), imageAt b 32 1 % 8⟩, h := imageAt b 34 1 % 64, asid := t.asid, sup := t.sup,
    fetched := imageAt b 40 8, popped := imageAt b 40 8 }

/-- The values of a saved bank. -/
def accOfBytes (b : List Byte) : AccBank :=
  { full := true, vals := accTable ((List.range 1024).map fun i => imageAt b (4 * i) 4) }

/-- Each stream takes an engine stream again (R397); it is no push, and takes no entry of the copy queue (R149). -/
def State.restreams (s : State) (c n : Nat) (b : List Byte) : Nat → State
  | 0 => s
  | j + 1 =>
    let s := s.restreams c n b j
    let (id, s) := s.fresh
    let x := streamOf (s.slot c n) n ((b.drop (192 + 64 * j)).take 64) id
    let s := s.modCore c fun k =>
      let k := { k with streams := k.streams ++ [x] }
      if x.vec then k.setVreg x.reg { k.vreg x.reg with stream := true, full := false }
      else k.setSlot n ((k.slot n).modReg x.reg fun r => { r with full := false })
    s.after Config.cycle (.streamRefill c id)

/-- The saved banks that are loaded: those that no other thread holds (R397). -/
def Core.freeAccs (k : Core) (saved : List Nat) : List Nat := saved.filter fun b => (k.acc b).holder.isNone

/-- The slot's parked records are replayed, in the order in which they came (R212). -/
def State.replayParked (s : State) (c n : Nat) : State :=
  let evs := ((s.core c).overflow.filter fun e => e.1 == n).map (·.2)
  let s := s.modCore c fun k => { k with overflow := k.overflow.filter fun e => e.1 != n }
  evs.foldl (fun s ev =>
    match ev with
    | .fill f => f.parts.foldl (fun s p => s.fillPart { f.asker with core := c } p) s
    | .wakeMessage m => s.wakeSlot { m with core := c }
    | _ => s) s

/-- The context of an area in its slot: the fills still awaited stay so; a slot saved stopped stays stopped. -/
def Slot.restored (t : Slot) (b : List Byte) : Slot :=
  let x := t.load (b.take 160)
  let regs := (List.range 16).map fun i => (i, { x.reg i with seq := (t.reg i).seq, pend := (t.reg i).pend && !(x.reg i).full, dir := (t.reg i).dir })
  let stop := bitAt (imageAt b 161 1) 5
  { x with regs := regs, banks := t.banks, saved := false, wake := bitAt (imageAt b 161 1) 4, stopped := stop,
           st := if stop then .held else .ready, why := .none, prior := t.out.map (·.id) }

/-- A restore from the bytes of an area and its saved banks (R397). -/
def State.restoreSlot (s : State) (c n : Nat) (at_ : Nat × Nat) (b : List Byte) : State :=
  let k := s.core c
  let saved := (List.range 4).filter fun i => bitAt (imageAt b 161 1) i
  let load := k.freeAccs saved
  let bank (j : Nat) : List Byte := s.bytes (tileKey at_.1 (at_.2 + 2048 + 4096 * j)) 4096
  let t := (k.slot n).restored b
  let cmds := (List.range (imageAt b 160 1 / 16)).map fun j =>
    let pkt := (b.drop (704 + 64 * j)).take 64
    ({ cmd := { pkt := pkt, slot := n, asid := t.asid, sup := t.sup,
                restored := true, orphan := namesAcc pkt && (k.acc (pktAcc pkt)).holder.any (· != n) } } : MatEntry)
  let first := k.matrix.queue.takeWhile fun e => e.st != .waiting
  let s := s.modCore c fun k =>
    { k.setSlot n t with matrix := { k.matrix with queue := first ++ cmds ++ k.matrix.queue.drop first.length } }
  let s := ((List.range saved.length).zip saved).foldl (fun s x =>
    if load.contains x.2 then s.modCore c fun k => k.setAcc x.2 { accOfBytes (bank x.1) with holder := some n } else s) s
  let s := (s.restreams c n b (imageAt b 160 1 % 16)).replayParked c n
  ((s.modCore c Core.ungate).startCommand c).kickAll c

/-- CONTEXT_RESTORE (R397). -/
def execContextRestore (s : State) : Host.Outcome State Fault Refusal :=
  s.perform fun s e =>
    match e with
    | .contextRestore c =>
      let k := s.core c
      let n := k.ctxSlot
      if !(k.slot n).saved then some (s.ctxDone c 1)
      else
        match s.area c 2048 with
        | none => some (s.ctxDone c 4)
        | some at_ =>
          let key := tileKey at_.1 at_.2
          let b := s.bytes key 2048
          let saved := (List.range 4).filter fun i => bitAt (imageAt b 161 1) i
          let banksIn := (s.area c (2048 + 4096 * saved.length)).isSome
          if s.anyPoison key 2048 || !banksIn || (!saved.isEmpty && s.anyPoison (key + 2048) (4096 * saved.length)) then some (s.ctxDone c 4)
          else if !areaOk b then some (s.ctxDone c 5)
          else if 8 < k.streams.length + imageAt b 160 1 % 16 then some (s.ctxDone c 1)
          else if !k.ctxctl.getLsbD 7 ∧ (k.freeAccs saved).length ≠ saved.length then some (s.ctxDone c 3)
          else some ((s.restoreSlot c n at_ b).ctxDone c 0)
    | _ => none

/-! ## Discard and kill (R398, R404) -/

/-- The thread of a slot is gone with everything it held; a task faults and decrements nothing. -/
def State.removeThread (s : State) (c n fault : Nat) : State :=
  let t := s.slot c n
  let s := s.closeEntries c n
  let s := s.modCore c fun k =>
    { k with overflow := k.overflow.filter fun e => e.1 != n,
             matrix := { k.matrix with asks := k.matrix.asks.filter fun a => a.1.core != c || a.1.slot != n } }
  ((s.freeSlot c n).endTask c n t fault).kickAll c

/-- CONTEXT_DISCARD (R398). -/
def execContextDiscard (s : State) : Host.Outcome State Fault Refusal :=
  s.perform fun s e =>
    match e with
    | .contextDiscard c =>
      let n := (s.core c).ctxSlot
      if (s.slot c n).saved then some ((s.removeThread c n 4).ctxDone c 0) else some (s.ctxDone c 1)
    | _ => none

/-- A request of a slot's wait form. -/
def isWaitOf (c n : Nat) (ids : List Nat) (r : Req) : Bool := r.src.core == c && r.src.slot == n && ids.contains r.src.id

/-- The slot's wait forms are withdrawn from the homes that hold them, and count as completed (R404). -/
def State.withdraw (s : State) (c n : Nat) : State :=
  let ids := ((s.slot c n).out.filter fun a => a.waits || a.home == .own).map (·.id)
  let gone (r : Req) : Bool := isWaitOf c n ids r
  let held := s.cores.flatMap (fun e => (e.2.waiting.filter gone).map (·.src)) ++
    s.hubs.flatMap fun e => (e.2.hbmWaiting.filter fun x => gone x.1).map (·.1.src)
  let s := { s with
    cores := Table.mapVals (fun (k : Core) => { k with waiting := k.waiting.filter fun r => !gone r }) s.cores
    hubs := Table.mapVals (fun (h : Hub) => { h with hbmWaiting := h.hbmWaiting.filter fun x => !gone x.1 }) s.hubs }
  let held := held ++ ((s.core c).heldBack.filter fun e => gone e.req).map (·.req.src)
  let s := s.modCore c fun k =>
    { k with vecs := k.vecs.filter fun f => !(held.any fun t => t.id == f.id), heldBack := k.heldBack.filter fun e => !gone e.req }
  held.foldl (fun s t => s.modSlot t.core t.slot fun x => { x with out := x.out.filter fun a => a.id != t.id }) s

/-- Whether a kill may take a slot: stopped, Waiting or parked (R394), or Held, as in the run of R442 (DEDUCED, log 119). -/
def Slot.killable (t : Slot) : Bool := !t.saved && (t.stopped || t.st == .waiting || t.st == .held)

/-- CONTEXT_KILL (R398, R404): the wait forms held at homes are withdrawn, and it waits for the slot's other accesses. -/
def execContextKill (s : State) : Host.Outcome State Fault Refusal :=
  s.perform fun s e =>
    match e with
    | .contextKill c =>
      let k := s.core c
      let n := k.ctxSlot
      match k.ctxop with
      | none => some s
      | some op =>
        if op.since.isNone && !(k.slot n).killable then some (s.ctxDone c 1)
        else
          let s := s.modCore c fun k =>
            { k.setSlot n { k.slot n with saving := true } with ctxop := some { op with since := some (op.since.getD s.now) } }
          let s := s.withdraw c n
          if ((s.core c).waitsFor n).isEmpty then some ((s.removeThread c n 2).ctxDone c 0)
          else some (s.after ctxPeriod (.contextKill c))
    | _ => none

end Sys2Proof.Machine
end

