-- ==== Sys2Proof/Machine/Hub.lean ====
section
/-!
DEFINITION. The hub's registers, its time base, and the life of its links (spec/15 R351 to R355, spec/21 R430, R431).
-/

namespace Sys2Proof.Machine

/-! ## The registers (R354, R355) -/

/-- An offset that the table of R354 lists. -/
def hubAssigned (off : Nat) : Bool :=
  decide (off < 0x28) || (decide (0x100 ≤ off) && decide (off < 0x300)) || (decide (0x400 ≤ off) && decide (off < 0x500))

/-- LINKSTn (R355); EN of a bridge reads 1. -/
def Link.image (l : Link) (n : Nat) : Nat :=
  b2n l.up + 2 * b2n (l.en || decide (16 ≤ n)) + l.resync % 65536 * 2 ^ 16 + l.retry % 65536 * 2 ^ 32 + l.retrain % 65536 * 2 ^ 48

/-- What a read of a hub register gives. -/
def State.hubRead (s : State) (d off : Nat) : Word :=
  let h := s.hub d
  let nat (v : Nat) : Word := BitVec.ofNat 64 v
  if off = 0 then nat (h.hubdev % 64)
  else if off = 8 then nat h.time
  else if off = 0x10 then nat (b2n h.tmaster)
  else if off = 0x18 then nat (h.tstat % 1024)
  else if off = 0x20 then h.xltRoot
  else if off < 0x300 then h.routes.get 0 ((off - 0x100) / 8)
  else nat ((h.link ((off - 0x400) / 8)).image ((off - 0x400) / 8))

/-- What a write of a hub register does; the read-only ones ignore it. XLT_ROOT takes the write of a supervisor thread of any core, a compute core's
included (DESIGN CHOICE, log 124: R104 names supervisor cores and gives no refusal). -/
def State.hubWrite (s : State) (d off : Nat) (v : Word) : State :=
  if off = 0x10 then s.after 0 (.tmasterWrite d v)
  else if off = 0x20 then s.modHub d fun h => { h with xltRoot := maskTo 0 v 0x1FFFFFFF001 }
  else if off < 0x100 then s
  else if off < 0x300 then s.after 0 (.routeWrite d ((off - 0x100) / 8) v)
  else s.after 0 (.linkstWrite d ((off - 0x400) / 8) v)

/-! ## Routes (R351, R431) -/

/-- The cores see which devices have a valid path; a device that has lost its last one begins its millisecond (R351, R431). -/
def State.refreshRoutes (s : State) (d : Nat) : State :=
  let h := s.hub d
  let lost := h.peers.filter fun p => (h.livePaths p.1).isEmpty && p.2.lostAt.isNone
  let s := s.modHub d fun h =>
    { h with
      routev := h.validRoutes d
      peers := h.peers.map fun p => (p.1, { p.2 with lostAt := if (h.livePaths p.1).isEmpty then some (p.2.lostAt.getD s.now) else none }) }
  lost.foldl (fun s p => s.after Config.ms (.routeRefusalTimeout d p.1)) s

/-- ROUTE_WRITE (R351, R355). -/
def execRouteWrite (s : State) : Host.Outcome State Fault Refusal :=
  s.perform fun s e =>
    match e with
    | .routeWrite d peer v => some ((s.modHub d fun h => { h with routes := h.routes.put peer (maskTo 0 v 0xFFFFF) }).refreshRoutes d)
    | _ => none

/-- The issuer of a message hears that it is refused with the route cause; of an answer, the one that waits for it: its request may have been performed,
with only the answer lost (R431). -/
def State.refuseMessage (s : State) (ev : Event) : State :=
  let no (s : State) (t : Asker) : State := s.after 0 (.refusal t 9)
  match ev with
  | .remoteRead _ r | .remoteWrite _ r | .remoteAtomic _ r | .orderedStore _ r _ => no s r.src
  | .spawnRequest m => no s m.src
  | .taskArmRequest m => no s m.src
  | .decrement m =>
    if m.kind = .tdep then no s m.src
    else
      let s := s.coreRec m.src.core m.asid 34 1 m.tcb (decrSource m.src.core)
      if m.kind = .drain then s.after 0 (.acknowledgement m.src) else s
  | .contextImage m => no s m.src
  | .activeMessage m => no s m.src
  | .wakeMessage m => if m.posted then no s m.src else s
  | .commitRecordOperation m => if m.quiet then s.bundleRefused m else no (s.bundleRefused m) m.src
  | .remoteHandleArrival m => if m.reply.isSome then no s m.src else s
  | .hubRequest m => s.after 0 (.hubAnswer m 0 (some 9))
  | .copyTransferLine c id _ _ (some l) =>
    match (s.core c).copies.find? fun x => x.id == id with
    | none => s
    | some x => s.landLine c x { l with faults := (2, ((x.kd.runs 80 l.start l.bytes.length).headD (x.kd.base, 0)).1) :: l.faults }
  | .fill f => no s f.asker
  | .acknowledgement t | .refusal t _ => no s t
  | .hubAnswer m _ _ => s.after 0 (.hubAnswer m 0 (some 9))
  | .busy (.req r) | .busy (.ordered _ r _) => no s r.src
  | .busy (.spawn m) => no s m.src
  | .busy (.image m) => no s m.src
  | .busy (.amsg m) => no s m.src
  | .busy (.wake m) => if m.posted then no s m.src else s
  | .busy (.fill f) => no s f.asker
  | .fabricOpen token src _ | .fabricGrant token src _ | .busy (.openMsg token src _) =>
    match (s.core src).outbox.find? fun x => x.token == token with
    | none => s
    | some x =>
      let s := s.modCore src fun k => { k with outbox := k.outbox.filter fun y => y.token != token }
      match x.ev with
      | .spawnRequest m => no s m.src
      | .contextImage m => no s m.src
      | .activeMessage m => no s m.src
      | _ => s
  | _ => s

/-- ROUTE_REFUSAL_TIMEOUT (R431): a millisecond after the last path failed, what is still unacknowledged is refused. An answer stays in the retransmit
buffer (R347); one that comes after the refusal is discarded. -/
def execRouteRefusalTimeout (s : State) : Host.Outcome State Fault Refusal :=
  s.perform fun s e =>
    match e with
    | .routeRefusalTimeout d peer =>
      let h := s.hub d
      let p := h.peer peer
      match p.lostAt with
      | none => some s
      | some t =>
        if (h.livePaths peer).isEmpty && decide (t + Config.ms ≤ s.now) then
          let evs := p.unacked.map (·.ev) ++ p.held.map (·.ev)
          let s := s.modHub d fun h => h.setPeer peer
            { p with unacked := p.unacked.filter fun u => isAnswer u.ev, held := p.held.filter fun u => isAnswer u.ev }
          some (evs.foldl State.refuseMessage s)
        else some s
    | _ => none

/-! ## Links (R355, R430) -/

/-- How long a link trains (R355: within 1 ms; log 8). -/
def trainTime : Nat := Config.ms / 2

/-- LINKST_WRITE (R355): EN of a chip link, and counters that a zero clears; another value written to a counter leaves it (DESIGN CHOICE, log 106).
With EN set on both packages the link trains. -/
def execLinkstWrite (s : State) : Host.Outcome State Fault Refusal :=
  s.perform fun s e =>
    match e with
    | .linkstWrite d n v =>
      let l := (s.hub d).link n
      let keep (lo old : Nat) : Nat := if field v lo 16 = 0 then 0 else old
      let l' := { l with resync := keep 16 l.resync, retry := keep 32 l.retry, retrain := keep 48 l.retrain,
                         en := if n < 16 then v.getLsbD 1 else l.en }
      let s := s.modHub d fun h => h.setLink n l'
      match s.linkPeer d n with
      | some (e, m) =>
        if l'.en && !l.up && !l.training && ((s.hub e).link m).en then
          let train (l : Link) : Link := { l with training := true }
          let s := (s.modHub d fun h => h.setLink n (train (h.link n))).modHub e fun h => h.setLink m (train (h.link m))
          some ((s.after trainTime (.linkUp d n)).after trainTime (.linkUp e m))
        else some s
      | none => some s
    | _ => none

/-- The exchange of a hub's links is on the agenda. -/
def State.exchangeArmed (s : State) (d : Nat) : Bool := s.agenda.any fun x => x.ev == .timeExchangePeriod d

/-- Whether a link's training may end in UP: a bridge's always, a chip link's while EN is set on both its packages (R355). -/
def State.mayRise (s : State) (d n : Nat) : Bool :=
  decide (16 ≤ n) || (((s.hub d).link n).en && (s.linkPeer d n).any fun x => ((s.hub x.1).link x.2).en)

/-- LINK_UP (R430): UP is set with empty channels, and a notice goes out; what waited for a link leaves (R347), and the time exchanges begin. A link
whose EN has been cleared meanwhile stops training. A bridge has a failed module back, and UP with it. -/
def execLinkUp (s : State) : Host.Outcome State Fault Refusal :=
  s.perform fun s e =>
    match e with
    | .linkUp d n =>
      let l := (s.hub d).link n
      if l.up && (decide (n < 16) || l.lost == 0) then some s
      else if !s.mayRise d n then some (s.modHub d fun h => h.setLink n { l with training := false })
      else
        let s := s.modHub d fun h => h.setLink n
          { l with up := true, training := false, lost := l.lost - 1, chans := if n < 16 then [] else l.chans }
        let s := ((s.hubNotice d 4 n 0).refreshRoutes d).leaveWaiting d
        some (if n < 16 ∧ !s.exchangeArmed d then s.after Config.ms (.timeExchangePeriod d) else s)
    | _ => none

/-- LINK_DOWN (R430): UP is clear, of a chip link at both ends, and a notice goes out; what was on it is resent on another path (R348). A bridge has
lost a module, and its channels go on over the others (R345). -/
def execLinkDown (s : State) : Host.Outcome State Fault Refusal :=
  s.perform fun s e =>
    match e with
    | .linkDown d n =>
      let l := (s.hub d).link n
      if 16 ≤ n then
        if l.modules n = 0 then some s
        else some ((s.modHub d fun h => h.setLink n { l with up := false, training := false, lost := l.lost + 1 }).hubNotice d 1 n 0)
      else if !l.up && !l.training then some s
      else
        let s := s.modHub d fun h => h.setLink n { l with up := false, training := false, chans := [] }
        let s := (s.hubNotice d 1 n 0).refreshRoutes d
        match s.linkPeer d n with
        | some (e, m) => some (s.after 0 (.linkDown e m))
        | none => some s
    | _ => none

/-! ## The time base (R352, R353) -/

/-- The hubs that have TMASTER set, in order of their devices. -/
def State.masters (s : State) : List Nat := s.hubs.filterMap fun e => if e.2.tmaster then some e.1 else none

/-- TMASTER_WRITE (R353): the acting master's TSTAT[8] is set at once, and that of the last master to go is clear; the others learn of it by the
exchanges. -/
def execTmasterWrite (s : State) : Host.Outcome State Fault Refusal :=
  s.perform fun s e =>
    match e with
    | .tmasterWrite d v =>
      let s := s.modHub d fun h => { h with tmaster := v.getLsbD 0 }
      let acting := s.masters.head? == some d
      some (s.modHub d fun h =>
        { h with tstat := if acting then setBits (setBits h.tstat 0 8 0) 8 1 1 else if s.masters.isEmpty then setBits h.tstat 8 1 0 else h.tstat,
                 slew := if acting then 0 else h.slew })
    | _ => none

/-- TIME_BASE_TICK (R352): one tick passes. -/
def execTimeBaseTick (s : State) : Host.Outcome State Fault Refusal :=
  s.perform fun s e =>
    match e with
    | .timeBaseTick _ => some (s.passTo ((s.now / Config.tick + 1) * Config.tick))
    | _ => none

/-- TIME_EXCHANGE_PERIOD (R352): every millisecond each chip link that is UP carries the exchange, in a frame (R346). -/
def execTimeExchangePeriod (s : State) : Host.Outcome State Fault Refusal :=
  s.perform fun s e =>
    match e with
    | .timeExchangePeriod d =>
      let ms := s.masters
      let peers := (List.range 16).filterMap fun n => if ((s.hub d).link n).up then (s.linkPeer d n).map fun x => (n, x.1) else none
      let ev (e : Nat) : Event := .timeExchange e ms.head? (s.timeOf (ms.head?.getD d)) (decide (2 ≤ ms.length))
      let s := peers.foldl (fun s x => s.queueFrames d x.1 [{ src := d, dst := x.2, seq := 0, path := 0, ev := ev x.2, token := none, ack := true }]) s
      some (if peers.isEmpty then s else s.after Config.ms (.timeExchangePeriod d))
    | _ => none

/-- The eight bits of an offset, held to their range. -/
def offsetByte (x : Int) : Nat := (max (-128) (min 127 x) % 256).toNat

/-- TIME_EXCHANGE (R352, R353): TSTAT takes the offset, and the hub slews toward the acting master; without one nothing is corrected. -/
def execTimeExchange (s : State) : Host.Outcome State Fault Refusal :=
  s.perform fun s e =>
    match e with
    | .timeExchange d master time many =>
      some (s.modHub d fun h =>
        let tstat := setBits h.tstat 9 1 (b2n many)
        match master with
        | none => { h with tstat := setBits tstat 8 1 0, slew := 0 }
        | some m =>
          if m = d then { h with tstat := setBits (setBits tstat 0 8 0) 8 1 1, slew := 0 }
          else
            let x : Int := (h.time : Int) - time
            { h with tstat := setBits (setBits tstat 0 8 (offsetByte x)) 8 1 (b2n (decide (-4 ≤ x) && decide (x ≤ 4))),
                     slew := max (-100) (min 100 (-x)) })
    | _ => none

end Sys2Proof.Machine
end

