-- ==== Sys2Proof/Machine/Gangs.lean ====
section
/-!
DEFINITION. Gang launches (spec/10 R201 to R203, spec/15 R353): the gang record, the staging at the issuing hub, reservations at the member cores, and
the start of the members.
-/

namespace Sys2Proof.Machine

/-! ## The gang record (R201) -/

/-- The bytes of member entry i of the record at a memory key. -/
def State.entryBytes (s : State) (key i : Nat) : List Byte := s.bytes (key + 64 + 48 * i) 48

/-- What a member entry says. -/
def memberOf (b : List Byte) : Member :=
  let w := imageAt b 0 4
  { core := coreOf (bitsOf w 12 6) (bitsOf w 0 12), slot := bitsOf w 18 4, nbank := bitsOf w 22 2, pc := imageAt b 4 4,
    args := (List.range 4).map fun j => BitVec.ofNat 64 (imageAt b (8 + 8 * j) 8) }

/-- A member entry's zero fields hold zero, and its slot and program counter lie in their ranges. -/
def memberOk (b : List Byte) : Bool :=
  let w := imageAt b 0 4
  bitsOf w 24 8 == 0 && bitsOf w 18 4 != 15 && decide (imageAt b 4 4 < 2 ^ 20) && imageAt b 40 8 == 0

def State.member (s : State) (key i : Nat) : Member := memberOf (s.entryBytes key i)
def State.members (s : State) (key n : Nat) : List Member := (List.range n).map fun i => s.member key i

/-- The record's header keeps its ranges and zero fields, and no slot is named twice. -/
def State.gangOk (s : State) (key off : Nat) : Bool :=
  let h := s.bytes key 64
  let n := imageAt h 0 2
  let ms := s.members key n
  decide (1 ≤ n) && decide (n ≤ 16384) && decide (off + 64 + 48 * n ≤ 2 ^ 20) && decide (imageAt h 2 1 < 64) && decide (imageAt h 3 1 < 2) &&
  decide (imageAt h 4 2 < 2 ^ 14) && imageAt h 6 2 == 0 && decide (imageAt h 16 1 ≤ 3) && imageAt h 18 2 == 0 && imageAt h 26 6 == 0 &&
  imageAt h 40 24 == 0 && (List.range n).all (fun i => memberOk (s.entryBytes key i)) && decide ((ms.map fun m => (m.core, m.slot)).Nodup)

/-! ## Staging at the issuing hub (R202) -/

def Hub.launch? (h : Hub) (id : Nat) : Option Launch := (h.launches.find? fun e => e.1 == id).map (·.2)

def Launch.count (l : Launch) : Nat := l.members.length
def Launch.member (l : Launch) (i : Nat) : Member := l.members.getD i {}

/-- Bytes of a gang record written. -/
def State.writeGang (s : State) (record : Word) (at_ : Nat) (bs : List Byte) : State :=
  (s.writeTile (coreNamed record) (offsetOf record + at_) bs).recheckAll (coreNamed record)

/-- The hubs of a launch's members. -/
def Launch.hubs (l : Launch) : List Nat := (l.members.map fun m => devOf m.core).eraseDups

/-- A message of hub d to another hub. -/
def State.tellHub (s : State) (d e : Nat) (ev : Event) : State := if d = e then s.after 0 ev else s.send (hubOf d) (hubOf e) ev

/-- A launch is decided: state 2 or 3 is written, and then the completion TCB hears (R202). -/
def State.decideLaunch (s : State) (d id : Nat) (l : Launch) (code index : Nat) : State :=
  let s := s.modHub d fun h => { h with launches := h.launches.put id { l with decided := true, failed := code != 0 } }
  let s := if code = 0 then s.writeGang l.record 16 [2] else s.writeGang l.record 16 ([3] ++ natLe 1 code ++ [0, 0] ++ natLe 4 index)
  let s := l.hubs.foldl (fun s e => s.tellHub d e (if code = 0 then .gangGo d id e else .gangCancel d id e)) s
  if isFabric l.wake then s.sendDecr { src := ⟨hubOf d, 0, 0⟩, kind := .gang, tcb := l.wake, asid := l.asid, sup := true } else s

/-- The first failing member in list order, with its code: those without an answer count as missing once the deadline has passed. -/
def Launch.failing (l : Launch) (late : Bool) : Option (Nat × Nat) :=
  (List.range l.count).findSome? fun i =>
    if l.answers.has i then (if l.answers.get 0 i = 0 then none else some (i, l.answers.get 0 i)) else if late then some (i, 5) else none

/-- A launch is decided as far as its answers allow. -/
def State.settle (s : State) (d id : Nat) (late : Bool) : State :=
  match (s.hub d).launch? id with
  | none => s
  | some l =>
    if l.decided then s
    else
      match l.failing late with
      | some (i, code) => s.decideLaunch d id l code i
      | none => if (List.range l.count).all fun i => l.answers.has i then s.decideLaunch d id l 0 0 else s

/-- When a hub's time base reaches a tick. -/
def State.whenTick (s : State) (d tick : Nat) : Nat := s.now + (tick - s.timeOf d) * Config.tick

/-- A launch is staged: T and state 1 in the record, and every member is asked (R202). -/
def State.stage (s : State) (d : Nat) (record : Word) (tick : Nat) : State :=
  let key := tileKey (coreNamed record) (offsetOf record)
  let h := s.bytes key 64
  let id := (s.hub d).nextLaunch
  let l : Launch := { record := record, tick := tick, asid := imageAt h 4 2, flush := bitAt (imageAt h 3 1) 0, hb := imageAt h 2 1,
                      wake := BitVec.ofNat 64 (imageAt h 32 8), members := s.members key (imageAt h 0 2) }
  let s := (s.writeGang record 8 (natLe 8 tick)).writeGang record 16 [1]
  let s := s.modHub d fun h => { h with nextLaunch := id + 1, launches := h.launches.put id l }
  let s := ((List.range l.count).zip l.members).foldl (fun s x =>
    let e := devOf x.2.core
    if e ≠ d ∧ ((s.hub d).livePaths e).isEmpty then s.after 0 (.gangConfirmation d id x.1 6)
    else s.send (hubOf d) x.2.core (.gangReserve d id x.1)) s
  s.due (s.whenTick d (tick - 2000)) (.gangConfirmDeadline d id)

/-- `glaunch` at its hub: its status, 3 before 1 before 2 (R202). -/
def State.glaunch (s : State) (d : Nat) (record : Word) (tick : Nat) : Nat × State :=
  let off := offsetOf record
  let key := tileKey (coreNamed record) off
  if off % 64 ≠ 0 ∨ 2 ^ 20 < off + 64 then (1, s)
  else if (s.value (key + 16) 1).toNat = 1 then (3, s)
  else if !s.gangOk key off then (1, s)
  else if tick < s.timeOf d + 20000 then (2, s)
  else (0, s.stage d record tick)

/-! ## Reservations (R202) -/

/-- Why a member core does not reserve, 0 where it does. -/
def State.refusesMember (s : State) (l : Launch) (m : Member) (many : Bool) : Nat :=
  let k := s.core m.core
  let x := k.handle l.hb
  if many && !bitAt (s.hub (devOf m.core)).tstat 8 then 7
  else if !(k.slot m.slot).isOpen then 1
  else if !k.banksFor m.nbank then 2
  else if x.arr != 0 || x.pend != 0 || s.handleBusy m.core l.hb then 3
  else if !k.lists l.asid then 4
  else 0

/-- GANG_RESERVE (R202): the slot is reserved, and hb stands in barrier mode with as many arrivals to await as the core has members. -/
def execGangReserve (s : State) : Host.Outcome State Fault Refusal :=
  s.perform fun s e =>
    match e with
    | .gangReserve d id i =>
      match (s.hub d).launch? id with
      | none => some s
      | some l =>
        -- the core's place is the one that its forwarding entries give (R214)
        let m := { l.member i with core := s.homeNow (l.member i).core l.asid }
        let many := decide (1 < l.hubs.length)
        let code := s.refusesMember l m many
        let back (s : State) : State := s.send m.core (hubOf d) (.gangConfirmation d id i code)
        if (s.core m.core).frozen then some (s.after busyTime (.gangReserve d id i))
        else if code ≠ 0 then some (back s)
        else
          let here := l.members.countP fun x => s.homeNow x.core l.asid == m.core
          let r : Reservation := { launch := id, hub := d, tick := l.tick, pc := m.pc, args := m.args, nbank := m.nbank, hb := l.hb,
                                   asid := l.asid, flush := l.flush, record := l.record }
          let s := s.modCore m.core fun k =>
            let k := k.setSlot m.slot { k.slot m.slot with rsv := some r }
            k.setHandle l.hb { k.handle l.hb with buffer := false, tgt := here % 256, f := false, fc := 0, hv := false, bst := 0 }
          some (back s)
    | _ => none

/-- GANG_CONFIRMATION (R202): with the last one the hub sends go, and at the first refusal cancel; a confirmation after a cancel is cancelled. -/
def execGangConfirmation (s : State) : Host.Outcome State Fault Refusal :=
  s.perform fun s e =>
    match e with
    | .gangConfirmation d id i code =>
      match (s.hub d).launch? id with
      | none => some s
      | some l =>
        if l.decided then
          some (if l.failed ∧ code = 0 then s.tellHub d (devOf (l.member i).core) (.gangCancel d id (devOf (l.member i).core)) else s)
        else
          let s := s.modHub d fun h => { h with launches := h.launches.put id { l with answers := l.answers.put i code } }
          some (s.settle d id false)
    | _ => none

/-- GANG_CONFIRM_DEADLINE (R202): at T − 2,000 a missing confirmation fails the launch. -/
def execGangConfirmDeadline (s : State) : Host.Outcome State Fault Refusal :=
  s.perform fun s e =>
    match e with
    | .gangConfirmDeadline d id =>
      match (s.hub d).launch? id with
      | none => some s
      | some l =>
        if s.timeOf d + 2000 < l.tick then some (s.due (s.whenTick d (l.tick - 2000)) (.gangConfirmDeadline d id))
        else some (s.settle d id true)
    | _ => none

/-- The slots of a package that a launch has reserved. -/
def State.reservedFor (s : State) (d id e : Nat) : List (Nat × Nat) :=
  s.cores.flatMap fun k =>
    if devOf k.1 = e then
      k.2.slots.filterMap fun t =>
        match t.2.rsv with
        | some r => if r.launch = id ∧ r.hub = d then some (k.1, t.1) else none
        | none => none
    else []

/-- GANG_GO (R203): the members of a hub's package start when their copies of the time base reach T. -/
def execGangGo (s : State) : Host.Outcome State Fault Refusal :=
  s.perform fun s e =>
    match e with
    | .gangGo d id e =>
      match (s.hub d).launch? id with
      | none => some s
      | some l => some ((s.reservedFor d id e).foldl (fun s x => s.due (s.whenTick e l.tick) (.gangMemberStart x.1 x.2 id)) s)
    | _ => none

/-- GANG_CANCEL (R202): the reservations of a hub's package are released. -/
def execGangCancel (s : State) : Host.Outcome State Fault Refusal :=
  s.perform fun s e =>
    match e with
    | .gangCancel d id e =>
      some ((s.reservedFor d id e).foldl (fun s x => (s.modSlot x.1 x.2 fun t => { t with rsv := none }).after 0 (.dispatch x.1)) s)
    | _ => none

/-- The context of a member (R203). -/
def Reservation.thread (r : Reservation) : Slot :=
  { newThread r.pc r.asid (statusOf r.flush false false true r.nbank false) r.args r.record with hb := r.hb }

/-- GANG_MEMBER_START (R203): the reserved slot is Ready once the core's copy of the time base has reached T. -/
def execGangMemberStart (s : State) : Host.Outcome State Fault Refusal :=
  s.perform fun s e =>
    match e with
    | .gangMemberStart c n id =>
      match (s.slot c n).rsv with
      | none => some s
      | some r =>
        if r.launch ≠ id then some s
        else if s.timeOf (devOf c) < r.tick then some (s.due (max (s.now + 1) (s.whenTick (devOf c) r.tick)) (.gangMemberStart c n id))
        else some ((s.modSlot c n fun t => { t with rsv := none }).enterSlot c n r.thread)
    | _ => none

end Sys2Proof.Machine
end

