-- ==== Sys2Proof/Machine/Population.lean ====
section
/-!
DEFINITION. The population manager of a hub (spec/09 R176 to R189): population records, generation steps, replacements, lineage records, and
migrations of individuals.
-/

namespace Sys2Proof.Machine

/-! ## The record (R178) -/

def Hub.pop (h : Hub) (i : Nat) : Pop := h.pops.get {} i
def Hub.setPop (h : Hub) (i : Nat) (p : Pop) : Hub := { h with pops := h.pops.put i p }
def State.pop (s : State) (d i : Nat) : Pop := (s.hub d).pop i
def State.setPop (s : State) (d i : Nat) (p : Pop) : State := s.modHub d fun h => h.setPop i p
def State.modPop (s : State) (d i : Nat) (f : Pop → Pop) : State := s.setPop d i (f (s.pop d i))

def Pop.field (p : Pop) (at_ n : Nat) : Nat := imageAt p.desc at_ n
def Pop.size (p : Pop) : Nat := p.field 4 2
def Pop.losers (p : Pop) : Nat := p.field 6 2
def Pop.region (p : Pop) : Nat := p.field 16 4
def Pop.length (p : Pop) : Nat := p.field 20 4
def Pop.handle (p : Pop) : Nat := p.field 25 1
def Pop.record (p : Pop) : Nat := p.field 26 2

/-- An f32 that is neither an infinity nor a NaN. -/
def finite32 (v : Nat) : Bool := bitsOf v 23 8 != 255

/-- The bytes of an element of a weight format (R178). -/
def weightBytes (fmt : Nat) : Nat := mutateBytes fmt

/-- A descriptor whose fields lie in their ranges (R178, R179). -/
def popDescOk (b : List Byte) : Bool :=
  let f (at_ n : Nat) : Nat := imageAt b at_ n
  let list : Word := BitVec.ofNat 64 (f 8 8)
  let ring : Word := BitVec.ofNat 64 (f 56 8)
  decide (1 ≤ f 0 4) && decide (f 0 4 < 2 ^ 20) && decide (2 ≤ f 4 2) && decide (f 4 2 ≤ 4096) && decide (f 6 2 ≤ f 4 2 / 2) &&
  isFabric list && bitsOf list.toNat 21 24 == 0 && decide (offsetOf list + 4 * f 4 2 ≤ 2 ^ 20) &&
  f 16 4 % 64 == 0 && f 20 4 != 0 && f 20 4 % 64 == 0 && decide (f 24 1 ≤ 3) && decide (f 25 1 < 64) && f 26 2 % 64 == 0 && finite32 (f 28 4) &&
  decide (64 ≤ f 52 4) && decide (f 52 4 ≤ 2 ^ 24) && 2 ^ Nat.log2 (f 52 4) == f 52 4 &&
  !isFabric ring && isBulk ring && bitsOf ring.toNat 57 5 == 0 && ring.toNat % 64 == 0 &&
  decide ((f 44 4 + f 48 4) * weightBytes (f 24 1) ≤ f 20 4) && decide (f 16 4 + f 20 4 ≤ 2 ^ 20)

/-- Where n bytes that a hub reads under an ASID stand now (R214), or why it is refused there: another ASID than the list holds (R100), a
versioned window (R134), or poison (R423). -/
def State.hubReads (s : State) (asid : Nat) (v : Word) (n : Nat) : Except Nat Word :=
  let c := s.homeNow (coreNamed v) asid
  let a := if isSuper c then v else fabricAddr c (offsetOf v)
  if (s.core c).gate c asid true ≠ .pass then .error 10
  else
    match s.readCause c (offsetOf v) n with
    | some cause => .error cause
    | none => .ok a

/-- The words of a member list, read under the population's ASID (R178). -/
def State.popList (s : State) (asid : Nat) (b : List Byte) : Except Nat (List Nat) :=
  let n := imageAt b 4 2
  (s.hubReads asid (BitVec.ofNat 64 (imageAt b 8 8)) (4 * n)).map fun list =>
    (List.range n).map fun i => (s.value (tileKey (coreNamed list) (offsetOf list) + 4 * i) 4).toNat

def memberCore (w : Nat) : Nat := coreOf (bitsOf w 12 6) (bitsOf w 0 12)

/-- What `popcfg` comes to: a cause of an exact trap, or the record replaced whole (R178, R179). Migrations under way are no part of the
record: they go on as they began (R189; DESIGN CHOICE, log 96). -/
def State.popcfg (s : State) (d : Nat) (desc : Word) (i asid : Nat) : Except Nat State :=
  let key := tileKey (coreNamed desc) (offsetOf desc)
  let b := s.bytes key 64
  if 2 ^ 20 < offsetOf desc + 64 then .error 6
  else if !popDescOk b then .error 18
  else
    match s.popList asid b with
    | .error cause => .error cause
    | .ok ws =>
      let cs := ws.map memberCore
      let old := s.pop d i
      if ws.any (fun w => w >>> 18 != 0) || cs.eraseDups.length != cs.length then .error 18
      else if old.phase ≠ 0 then .error 19
      else .ok (s.setPop d i { configured := true, desc := b, members := cs.map fun c => { core := c }, asid := asid,
                               gen := BitVec.ofNat 32 (imageAt b 40 4), children := old.children, nextChild := old.nextChild,
                               nextLog := old.nextLog })

/-! ## Steps and queries (R180, R188) -/

/-- `popstep` at the manager: its status (R180). -/
def State.popstep (s : State) (d i : Nat) (cancel : Bool) : Nat × State :=
  let p := s.pop d i
  if cancel then (if p.phase = 1 then (3, s.setPop d i { p with phase := 0 }) else (1, s))
  else if !p.configured then (2, s)
  else if p.phase ≠ 0 then (1, s)
  else (0, (s.setPop d i { p with phase := 1 }).after 0 (.popConsume d i))

/-- A core's FIT where it stands now, under the population's ASID (R178, R214); a core whose list refuses the ASID shows it empty, so that the
step waits until the list admits it (DESIGN CHOICE, log 97). -/
def State.fitAt (s : State) (c asid : Nat) : BitVec 33 :=
  let e := s.homeNow c asid
  if (s.core e).gate e asid true = .pass then (s.core e).fit else 0

/-- What `popq` reads (R188). -/
def State.popWord (s : State) (d i : Nat) : Word :=
  let p := s.pop d i
  if !p.configured then 0
  else
    let empty := p.members.countP fun m => !(s.fitAt m.core p.asid).getLsbD 32
    BitVec.ofNat 64 (p.gen.toNat + p.phase % 4 * 2 ^ 32 + (if p.phase = 1 then empty % 2 ^ 13 * 2 ^ 34 else 0))

/-! ## Ranking (R181, R182) -/

/-- An f32's place among the values that are not NaN. -/
def fitOrder (v : BitVec 32) : Int := if v.getLsbD 31 then -((v.toNat % 2 ^ 31 : Nat) : Int) else v.toNat

def isNan32 (v : BitVec 32) : Bool := decide (0x7F800000 < v.toNat % 2 ^ 31)

/-- A member that ranks above another. -/
def PopMember.above (x y : PopMember) : Bool :=
  let byCore := decide (idOf x.core < idOf y.core) || (idOf x.core == idOf y.core && decide (devOf x.core < devOf y.core))
  if isNan32 x.fit != isNan32 y.fit then isNan32 y.fit
  else if !isNan32 x.fit && fitOrder x.fit != fitOrder y.fit then decide (fitOrder y.fit < fitOrder x.fit)
  else byCore

def insertMember (x : PopMember) : List PopMember → List PopMember
  | [] => [x]
  | y :: ys => if x.above y then x :: y :: ys else y :: insertMember x ys

/-- The members by rank, the highest first. -/
def ranked (ms : List PopMember) : List PopMember := ms.foldl (fun acc m => insertMember m acc) []

/-! ## One replacement (R183) -/

/-- The address of a member's commit record. -/
def Pop.recordAddr (p : Pop) (c : Nat) : Word := fabricAddr c p.record

/-- An operation of the manager at a commit record. -/
def managerReq (d asid c : Nat) (kind : BundleKind) (record : Word) (serial : Nat) (lost : Bool) : BundleReq :=
  { src := ⟨hubOf d, 0, 0⟩, reg := 0, seq := 0, kind := kind, record := record, entry := c % 16, serial := serial, fr := b2n lost, opener := true,
    write := true, asid := asid, sup := true, quiet := true }

/-- The open of a selection: as `bopen`, with the generation as its serial (R183, step 1). -/
def State.openGeneration (s : State) (d asid c : Nat) (record : Word) (gen : Nat) : RecordRes × State :=
  let r := s.recordAt record
  if r.opened = 0 ∧ r.high < gen ∧ gen < 2 ^ 24 ∧ r.crcOk ∧ !s.anyPoison r.key 64 then
    let (x, s) := s.recordOp c (managerReq d asid c .bopen record 0 false)
    if x.status ≠ 0 then (x, s)
    else
      let r := s.recordAt record
      ({ x with serial := gen }, s.updateRecord c ((r.set 64 24 gen).set 416 24 gen))
  else (⟨1, 0, 0, false⟩, s)

/-- The descriptor of a replacement's mutation (R159, R183). -/
def Pop.mutation (p : Pop) (x : PopChild) : List Byte :=
  natLe 1 (3 + 8) ++ natLe 1 (p.field 24 1) ++ [0, 0] ++ natLe 4 x.sigma.toNat ++ natLe 8 x.seed.toNat ++ natLe 4 x.gen ++ natLe 4 (p.field 44 4) ++
    natLe 4 (p.field 48 4) ++ natLe 4 (idOf x.child % 4096 + devOf x.child % 64 * 2 ^ 12) ++ List.replicate 32 0

/-- The population record as it stood when a replacement began. -/
def PopChild.pop (x : PopChild) (p : Pop) : Pop := { p with desc := x.desc, asid := x.asid }

/-- A member's weight region as 64-byte elements. -/
def Pop.shape (p : Pop) (c : Nat) : Shape :=
  ⟨BitVec.ofNat 256 ((fabricAddr c p.region).toNat + p.length / 64 * 2 ^ 64 + 2 ^ 80 + 2 ^ 96 + 2 ^ 112 + 64 * 2 ^ 128), 5⟩

/-- Children that are ready append their lineage records, in order (R187). -/
def State.logNext (s : State) (d i : Nat) : State :=
  let p := s.pop d i
  if p.children.has p.nextLog && (p.children.find? fun x => x.1 == p.nextLog).any (fun x => x.2.ready) then
    s.after 0 (.popLineageAppend d i p.nextLog)
  else s

/-- A child's replacement has ended: committed, or skipped. -/
def State.childReady (s : State) (d i j : Nat) (skip : Bool) : State :=
  let s := s.modPop d i fun p =>
    { p with children := p.children.map fun x => (x.1, if x.1 = j then { x.2 with ready := true, skip := skip } else x.2) }
  s.logNext d i

/-- The bundle is opened at the child, and the copy goes to the child's engine (R183, steps 1 and 2). -/
def State.openChild (s : State) (d i j : Nat) (x : PopChild) : State :=
  let p := x.pop (s.pop d i)
  let c := s.homeNow x.child p.asid
  let record := p.recordAddr c
  let add (x : PopChild) (s : State) : State := s.modPop d i fun p => { p with children := p.children.put j { x with opening := false } }
  if (s.core c).gate c p.asid true ≠ .pass then
    ((add x s).coreRec c p.asid 10 1 record 0).childReady d i j true
  else
    let (r, s) := if ((s.core c).windowCause p.record 64).isSome then (⟨4, 0, 0, false⟩, s)
                  else if x.kind = 0 then s.openGeneration d p.asid c record x.gen
                  else s.recordOp c (managerReq d p.asid c .bopen record 0 false)
    if r.status ≠ 0 then (add x s).childReady d i j true
    else
      let (id, s) := (add { x with serial := r.serial } s).fresh
      let copy : Copy := {
        id := id, slot := 0, asid := p.asid, sup := true, kd := p.shape c, ks := p.shape x.parent, h := 0, hcore := c,
        view := some ⟨c, 0, r.name, r.serial, r.sp, record⟩, desc := some (0, p.mutation x), lines := p.length / 64, pop := some (d, i, j) }
      (s.modCore c fun k => { k with copies := k.copies ++ [copy] }).after Config.cycle (.copyTransferLine c id 0 true none)

/-- A replacement begins; its open waits where the record's manifest lies in a page that rests compressed (R109). -/
def State.startChild (s : State) (d i : Nat) (x : PopChild) : State :=
  let p := s.pop d i
  let j := p.nextChild
  let c := s.homeNow x.child p.asid
  let x := { x with desc := p.desc, asid := p.asid }
  let s := s.modPop d i fun p => { p with nextChild := j + 1 }
  match s.stalledAt c p.asid (s.recordReads c (managerReq d p.asid c .bopen (p.recordAddr c) 0 false)) (.popChildCommit d i j) with
  | some s => s.modPop d i fun p => { p with children := p.children.put j { x with opening := true } }
  | none => s.openChild d i j x

/-- A replacement has failed: its record is written, and its serial is aborted, or reverted where it was lost (R183). -/
def State.childFails (s : State) (d i j : Nat) (lost : Bool) : State :=
  (s.modPop d i fun p =>
    { p with children := p.children.map fun x => (x.1, if x.1 = j then { x.2 with abort := some lost } else x.2) }).after 0 (.popChildCommit d i j)

/-- POP_CHILD_COMMIT (R183, step 3): an open that waited for a page is made (R109), or the replacement is committed if the copy did not fault, else
aborted; a lost serial is reverted. While a joined writer holds the serial the abort waits for it, since the region is to stand at its committed
version, and the abort of the manager's own serial asks no admit list (DESIGN CHOICE, log 98). -/
def execPopChildCommit (s : State) : Host.Outcome State Fault Refusal :=
  s.perform fun s e =>
    match e with
    | .popChildCommit d i j =>
      match (s.pop d i).children.find? fun x => x.1 == j with
      | none => some s
      | some (_, x) =>
        let p := x.pop (s.pop d i)
        let c := s.homeNow x.child p.asid
        let op (s : State) (kind : BundleKind) (lost : Bool) : RecordRes × State :=
          s.recordOp c (managerReq d p.asid c kind (p.recordAddr c) x.serial lost)
        let again (s : State) : State := s.after busyTime (.popChildCommit d i j)
        if x.ready then some s
        else if (s.core c).frozen then some (again s)
        else if x.opening then some (s.openChild d i j x)
        else
          match x.abort, x.fault with
          | some lost, _ =>
            let (r, s) := op s .babort lost
            some (if r.status = 6 then again s else s.childReady d i j true)
          | none, some (fc, a) =>
            some ((s.coreRec c p.asid 31 1 a (fc * 2 ^ 8 + i * 2 ^ 12 + 2 ^ 20)).childFails d i j false)
          | none, none =>
            if (s.core c).gate c p.asid true ≠ .pass then some ((s.coreRec c p.asid 10 1 (p.recordAddr c) 0).childFails d i j false)
            else
              let (r, s) := op s .bcommit false
              some (if r.status = 0 then s.childReady d i j false else s.childFails d i j (r.status == 7))
    | _ => none

/-! ## Lineage (R186, R187) -/

/-- A lineage record. -/
def PopChild.lineage (x : PopChild) : List Byte :=
  natLe 4 x.gen ++ natLe 2 (idOf x.child % 4096 + b2n x.skip * 2 ^ 12) ++ natLe 2 (idOf x.parent % 4096) ++ natLe 8 x.seed.toNat ++
    natLe 4 x.pfit.toNat ++ natLe 4 x.cfit.toNat ++ natLe 4 (devOf x.child % 64 + devOf x.parent % 64 * 2 ^ 6 + x.kind % 4 * 2 ^ 12) ++
    natLe 4 (if x.skip then 0 else x.crc)

/-- The write of a lineage record to the bulk-path point; none where it fails. -/
def State.writeLineage (s : State) (d asid : Nat) (a : Word) (bs : List Byte) : Option State :=
  match s.translate d 64 asid (virtualOf a) true with
  | none => none
  | some (pa, leaf, s) =>
    let p := hbmPlace d pa leaf
    if s.anyPoison p.key 32 || p.line.isSome then none
    else
      some ((s.writeAt p.key bs).wroteBulk d p)

/-- An arrival of the manager at a member's generation handle. -/
def State.popArrive (s : State) (d i : Nat) (p : Pop) (c : Nat) : State :=
  s.send (hubOf d) c (.remoteHandleArrival
    { src := ⟨hubOf d, 0, 0⟩, core := c, h := p.handle, change := .arrive, asid := p.asid, sup := true, pop := some i })

/-- The address of the next lineage record (R187). -/
def Pop.ringNext (p : Pop) : Word := BitVec.ofNat 64 (p.field 56 8 + 32 * (p.head % p.field 52 4))

/-- The lineage record of a child is written, and the child's handle has its arrival (R187, R183 steps 4 and 5): a record that cannot be written goes
out as a notice of kind 5. -/
def State.appendLineage (s : State) (d i j : Nat) : State :=
  let p := s.pop d i
  match p.children.find? fun x => x.1 == j with
  | none => s
  | some (_, x) =>
    if p.nextLog ≠ j ∨ !x.ready then s
    else
      let s :=
        match s.writeLineage d p.asid p.ringNext x.lineage with
        | some s => s
        | none => s.hubNotice d 5 0 (i + p.head % 2 ^ 24 * 2 ^ 8)
      let children := p.children.drop j
      let s := s.modPop d i fun p => { p with head := p.head + 1, nextLog := j + 1, children := children }
      let s := s.popArrive d i (x.pop p) x.child
      let s := if x.kind = 0 ∧ !(children.any fun y => y.2.kind == 0) then s.after 0 (.popStepClose d i) else s
      s.logNext d i

/-- POP_LINEAGE_APPEND (R187): it waits while the ring's page rests compressed (R109). -/
def execPopLineageAppend (s : State) : Host.Outcome State Fault Refusal :=
  s.perform fun s e =>
    match e with
    | .popLineageAppend d i j =>
      let p := s.pop d i
      let c := match p.children.find? fun x => x.1 == j with | some (_, x) => s.homeNow x.child p.asid | none => hubOf d
      some ((s.stalledAt c p.asid [(d, 64, p.ringNext)] (.popLineageAppend d i j)).getD (s.appendLineage d i j))
    | _ => none

/-! ## A step's phases (R180) -/

/-- The members' FIT are read and cleared, in the list's order (R177). -/
def State.takeFits (s : State) (asid : Nat) : List PopMember → List PopMember × State
  | [] => ([], s)
  | m :: ms =>
    let c := s.homeNow m.core asid
    let v := (s.core c).fit
    let s := s.modCore c fun k => { k with fit := setField k.fit 32 1 0 }
    let (rest, s) := s.takeFits asid ms
    ({ m with fit := BitVec.ofNat 32 (v.toNat % 2 ^ 32), loser := false } :: rest, s)

/-- The losers of a ranking with their parents: the child at rank N − 1 − j and the winner at rank j (R182). -/
def pairing (order : List PopMember) (l : Nat) : List (PopMember × PopMember) := (order.reverse.zip order).take l

/-- POP_CONSUME (R180): phase 1 ends once every FIT is full; after at most 2 µs the ranking stands, and the losers are replaced. -/
def execPopConsume (s : State) : Host.Outcome State Fault Refusal :=
  s.perform fun s e =>
    match e with
    | .popConsume d i =>
      let p := s.pop d i
      let here (m : PopMember) : Nat := s.homeNow m.core p.asid
      if (p.phase = 1 ∨ p.phase = 2) ∧ p.members.any fun m => (s.core (here m)).frozen then some (s.after busyTime (.popConsume d i))
      else if p.phase = 1 then
        if p.members.all fun m => (s.fitAt m.core p.asid).getLsbD 32 then
          let (ms, s) := s.takeFits p.asid p.members
          some ((s.setPop d i { p with phase := 2, members := ms }).after Config.us (.popConsume d i))
        else some s
      else if p.phase = 2 then
        let prs := pairing (ranked p.members) p.losers
        let isChild (m : PopMember) : Bool := prs.any fun x => x.1.core == m.core
        let s := s.setPop d i { p with phase := 3, members := p.members.map fun m => { m with loser := isChild m } }
        let child (x : PopMember × PopMember) : PopChild :=
          { child := x.1.core, parent := x.2.core, pfit := x.2.fit, cfit := x.1.fit, serial := 0, kind := 0,
            seed := BitVec.ofNat 64 (p.field 32 8), sigma := BitVec.ofNat 32 (p.field 28 4), gen := p.gen.toNat }
        let s := prs.foldl (fun s x => s.startChild d i (child x)) s
        some (if prs.isEmpty then s.after 0 (.popStepClose d i) else s)
      else some s
    | _ => none

/-- POP_STEP_CLOSE (R180): the members that were not replaced get their arrivals, and the generation advances. -/
def execPopStepClose (s : State) : Host.Outcome State Fault Refusal :=
  s.perform fun s e =>
    match e with
    | .popStepClose d i =>
      let p := s.pop d i
      if p.phase ≠ 3 then some s
      else
        let s := (p.members.filter fun m => !m.loser).foldl (fun s m => s.popArrive d i p m.core) s
        some (s.modPop d i fun p => { p with gen := p.gen + 1, phase := 0 })
    | _ => none

/-! ## Migration (R189) -/

/-- A migration descriptor that keeps its ranges. -/
def migDescOk (b : List Byte) : Bool :=
  decide (imageAt b 0 2 < 256) && imageAt b 2 2 == 0 && finite32 (imageAt b 4 4) && decide (imageAt b 8 4 < 2 ^ 18) &&
  decide (imageAt b 12 4 < 2 ^ 18) && imageAt b 24 8 == 0

/-- A member's fitness as a migration shows it. -/
def State.fitShown (s : State) (asid c : Nat) : BitVec 32 :=
  let v := s.fitAt c asid
  if v.getLsbD 32 then BitVec.ofNat 32 (v.toNat % 2 ^ 32) else 0x7FC00000

/-- A core that a migration names is frozen by an evacuation: the request is retried (R213). -/
def State.migFrozen (s : State) (d : Nat) (b : List Byte) : Bool :=
  [8, 12].any fun at_ => (s.core (s.homeNow (memberCore (imageAt b at_ 4)) (s.pop d (imageAt b 0 2)).asid)).frozen

/-- `popmig` at the manager: its status. -/
def State.popmig (s : State) (d : Nat) (b : List Byte) : Nat × State :=
  let i := imageAt b 0 2
  let p := s.pop d i
  if !migDescOk b then (4, s)
  else if !p.configured then (2, s)
  else if p.phase = 3 then (1, s)
  else
    let src := memberCore (imageAt b 8 4)
    let dst := memberCore (imageAt b 12 4)
    (0, s.startChild d i
      { child := dst, parent := src, pfit := s.fitShown p.asid src, cfit := s.fitShown p.asid dst, serial := 0, kind := 1,
        seed := BitVec.ofNat 64 (imageAt b 16 8), sigma := BitVec.ofNat 32 (imageAt b 4 4), gen := p.gen.toNat })

end Sys2Proof.Machine
end

