-- ==== Sys2Proof/Machine/Ecdsa.lean ====
section
/-!
DEFINITION. ECDSA on the curve P-384, which R359 and R361 name: the curve of FIPS 186-5 (SP 800-186) and its signatures (log 63).
-/

namespace Sys2Proof.Machine

/-- The field's prime, the order of the base point, and the base point of P-384. -/
def curveP : Nat := 2 ^ 384 - 2 ^ 128 - 2 ^ 96 + 2 ^ 32 - 1
def curveN : Nat := 0xFFFFFFFFFFFFFFFFFFFFFFFFFFFFFFFFFFFFFFFFFFFFFFFFC7634D81F4372DDF581A0DB248B0A77AECEC196ACCC52973
def curveG : Nat × Nat :=
  (0xAA87CA22BE8B05378EB1C71EF320AD746E1D3B628BA79B9859F741E082542A385502F25DBF55296C3A545E3872760AB7,
   0x3617DE4A96262C6F5D9E98BF9292DC29F8F41DBD289A147CE9DA3113B5F0B8C00A60B1CE1D7E819D7A431D7C90EA0E5F)

/-- b to the low k bits of e, modulo m. -/
def powMod (m : Nat) : Nat → Nat → Nat → Nat
  | 0, _, _ => 1
  | k + 1, b, e => (if e % 2 = 1 then b else 1) * powMod m k (b * b % m) (e / 2) % m

/-- The inverse modulo a prime of at most 384 bits. -/
def invMod (m x : Nat) : Nat := powMod m 384 (x % m) (m - 2)

def subMod (m x y : Nat) : Nat := (x + (m - y % m)) % m

/-- The sum of two points; none is the point at infinity. -/
def pointAdd : Option (Nat × Nat) → Option (Nat × Nat) → Option (Nat × Nat)
  | none, q => q
  | q, none => q
  | some (x, y), some (u, v) =>
    if x = u ∧ (y + v) % curveP = 0 then none
    else
      let slope := if x = u then subMod curveP (3 * x * x) 3 * invMod curveP (2 * y) % curveP
                   else subMod curveP v y * invMod curveP (subMod curveP u x) % curveP
      let w := subMod curveP (slope * slope) (x + u)
      some (w, subMod curveP (slope * subMod curveP x w) y)

/-- The low k bits of e times a point. -/
def pointMul : Nat → Option (Nat × Nat) → Nat → Option (Nat × Nat)
  | 0, _, _ => none
  | k + 1, p, e =>
    let rest := pointMul k (pointAdd p p) (e / 2)
    if e % 2 = 1 then pointAdd p rest else rest

/-- A number as a scalar from 1 to the order less 1. -/
def scalarOf (x : Nat) : Nat := 1 + x % (curveN - 1)

/-- The public key of a private key, X then Y. -/
def publicKey (d : Nat) : Nat × Nat := (pointMul 384 (some curveG) (scalarOf d)).getD (0, 0)

/-- The signature (r, s) of a digest with a private key and the signature's own secret number. -/
def signature (d k : Nat) (digest : BitVec 384) : Nat × Nat :=
  let r := ((pointMul 384 (some curveG) (scalarOf k)).getD (0, 0)).1 % curveN
  (r, invMod curveN (scalarOf k) * ((digest.toNat + r * scalarOf d) % curveN) % curveN)

end Sys2Proof.Machine
end

