-- ==== Sys2Proof/Machine/Power.lean ====
section
/-!
DEFINITION. Bring-up, measurement and power (spec/16 R358 to R366), resets and what they lose (spec/22 R434), and fatal errors of a core's own state
storage (spec/19 R389).
-/

namespace Sys2Proof.Machine

/-! ## What is lost -/

/-- A range of memory with its presence and poison back at reset: zero, empty, sound (R97). -/
def State.wipe (s : State) (a b : Nat) : State :=
  let inside (k : Nat) : Bool := decide (cellKey a ≤ k) && decide (k < cellKey b)
  { s with mem := memClear s.mem a b, pres := s.pres.filter fun e => !inside e.1, poison := s.poison.filter fun k => !inside k }

/-- The core whose own units perform an event: what a reset of that core ends. A message on its way to a core is not among them. -/
def unitCore : Event → Option Nat
  | .matrixPushAcceptance c _ | .mm c _ | .ldb c _ | .drain c _ | .drainWakeUp c _ | .accZero c _ | .ldacc c _ | .setfmt c _ | .mfence c _
  | .matrixCommandCompletion c _ _ | .copyAcceptance c _ | .copyTransferLine c _ _ _ _ | .handleSubtraction c _ _ _ _ | .streamRefill c _
  | .handleEvaluation c _ | .snapshotBlockCopy c | .viewAgeExpiry c _ _ | .dispatch c | .spawnThrottleExpiry c _ | .bankRiseComplete c _
  | .bankClearComplete c _ | .clockGate c | .gangMemberStart c _ _ | .serviceHandlerStart c | .serviceBuiltinAccess c
  | .serviceHandlerLimit c | .bankAccess c _ | .trapRecordEntry c | .journalReplay c _
  | .journalCancel c _ | .contextSave c | .saveFillTimeout c | .contextRestore c | .contextDiscard c | .contextKill c | .vwinWrite c _ _
  | .registerWrite c _ _ | .windowMetadataClearingEnd c _ | .linkWord c _ _ _ _ | .linkCreditReturn c _ => some c
  | .translationRequest r | .translationWalkComplete r | .hbmChannelRequest r _ _ | .bundleStore r | .viewLoad r => some r.src.core
  | .bulkBufferInvalidationAck t _ => some t.core
  | _ => none

/-- The hub that performs an event, of those that a package's own reset or loss of power ends: what comes from outside is not among them, nor is the
next release of its reset. -/
def eventHub : Event → Option Nat
  | .popConsume d _ | .popChildCommit d _ _ | .popLineageAppend d _ _ | .popStepClose d _ | .gangReserve d _ _ | .gangConfirmation d _ _ _
  | .gangConfirmDeadline d _ | .gangGo _ _ d | .gangCancel _ _ d | .orderedStore d _ _ | .orderedStoreRelease d _ _ | .ucieFlit d _ _ _
  | .linkFrame d _ _ | .deviceAcknowledgement d _ _ | .retransmitTimeout d _ _ | .creditSyncDue d _ _ _ | .creditSync d _ _ _ _ _ _ | .linkRetrain d _ _
  | .linkUp d _ | .linkDown d _ | .routeRefusalTimeout d _ | .timeExchangePeriod d | .timeExchange d _ _ _ | .capacityExpansion d _ _
  | .poolExhaustedTimeout d _ | .notLiveLineExpiry d _ _ | .routeWrite d _ _ | .tmasterWrite d _ | .linkstWrite d _ _
  | .packageResetRelease d (_ + 1) => some d
  | .hubRequest m => some m.dev
  | _ => none

/-- Events of other cores that wait at a core's banks (R218). -/
def Core.banked (c : Nat) (k : Core) : List Event := (k.bankq.flatMap fun e => e.2.filterMap (·.ev)).filter fun e => unitCore e != some c

/-- Cores and what their units were about are gone. -/
def State.dropUnits (s : State) (gone : Nat → Bool) : State :=
  { s with
    cores := s.cores.filter fun e => !gone e.1
    turns := s.turns.filter fun t => !gone t.core
    granted := s.granted.filter fun e => !(unitCore e).any gone
    agenda := s.agenda.filter fun x => !(unitCore x.ev).any gone }

/-- Cores are gone, with their routers. -/
def State.dropCores (s : State) (gone : Nat → Bool) : State :=
  let cycle (e : Event) : Bool := match e with | .routerCycle c => gone c | _ => false
  let s := s.dropUnits gone
  { s with routers := s.routers.filter fun e => !gone e.1, agenda := s.agenda.filter fun x => !cycle x.ev }

/-- A compute core of package d. -/
def computeOf (d c : Nat) : Bool := devOf c == d && isCompute c

/-- A core of package d, its hub's among them. -/
def anyOf (d c : Nat) : Bool := devOf c == d

/-- The keys of a core's tile store begin here and end where the next core's begin. -/
def State.wipeTiles (s : State) (first last : Nat) : State := s.wipe (tileKey first 0) (tileKey last 0)

/-! ## Resets (R363, R434) -/

/-- The not-live pages of a package that walks have met (R108). -/
def State.notLivePages (s : State) (d : Nat) : List PageUse :=
  (s.hub d).pages.filter fun p => s.stillMapped d p && leafAttr (s.value (hbmKey d p.at_) 8) == 3

/-- Every line of a not-live page is lost, written or not (R426, R434). -/
def State.loseLive (s : State) (d : Nat) : State :=
  let lines := (s.notLivePages d).flatMap fun p => (List.range (p.span / 64)).map (p.frame / 64 + ·)
  lines.foldl (fun s l => s.loseLine d l) ((s.hub d).lastWrite.foldl (fun s e => s.loseLine d e.1) s)

/-- What no reset and no loss of power takes from a package: its part, its form, and its boot flash with the log (R359, R365, R366, R434). -/
def Hub.fresh (h : Hub) : Hub :=
  { part := h.part, formM := h.formM, flash := h.flash, config := h.config, flashLog := h.flashLog }

/-- The chip links of a package are down: their other ends hear of it (R430). -/
def State.dropLinks (s : State) (d : Nat) : State :=
  s.soon ((List.range 16).filterMap fun n => (s.linkPeer d n).bind fun x => if ((s.hub x.1).link x.2).up then some (.linkDown x.1 x.2) else none)

/-- The compute dies are reset: their state is lost, and the package is in Standby (R363, R434). -/
def State.resetDies (s : State) (d : Nat) : State :=
  let s := ((s.dropCores (computeOf d)).wipeTiles (coreOf d 0) (coreOf d 4096)).loseLive d
  s.modHub d fun h =>
    { h with power := .standby, tlb := [], xltRoot := setField h.xltRoot 0 1 0, expanding := [], lineBufs := h.lineBufs.filter fun b => b.station == 64,
             hbmWaiting := h.hbmWaiting.filter fun x => !computeOf d x.1.src.core }

/-- COMPUTE_DIE_RESET (R363, R434): of a package that is not Off. -/
def execComputeDieReset (s : State) : Host.Outcome State Fault Refusal :=
  s.perform fun s e => match e with | .computeDieReset d => some (if (s.hub d).power = .off then s else s.resetDies d) | _ => none

/-- CORE_RESET (R332, R389, R434): the only end of the halted and the fatal state. -/
def execCoreReset (s : State) : Host.Outcome State Fault Refusal :=
  s.perform fun s e =>
    match e with
    | .coreReset c =>
      -- the flits of others that are in the core's router go on
      let others (r : Router) : Router := { r with inject := r.inject.filter fun f => f.src != c }
      let s := ((s.dropUnits fun x => x == c).wipeTiles c (c + 1)).soon ((s.core c).banked c)
      some { s with routers := s.routers.map fun e => (e.1, if e.1 = c then others e.2 else e.2) }
    | _ => none

/-- POWER_LOSS (R434): everything on the package is lost but its boot flash. -/
def execPowerLoss (s : State) : Host.Outcome State Fault Refusal :=
  s.perform fun s e =>
    match e with
    | .powerLoss d =>
      let h := s.hub d
      let s := ((s.dropCores (anyOf d)).wipeTiles (coreOf d 0) (coreOf (d + 1) 0)).wipe (hbmKey d 0) (hbmKey (d + 1) 0)
      let s := { s with agenda := s.agenda.filter fun x => eventHub x.ev != some d }
      some ((s.setHub d { h.fresh with power := .off }).dropLinks d)
    | _ => none

/-! ## Boot (R358) -/

/-- Where the boot ROM places the configuration block in supervisor core 0's tile store (log 2: the spec names no place). -/
def configPlace : Nat := 0xFE000

/-- The 4 KiB configuration block in the boot flash: the bytes written there, and zeros behind them. -/
def Hub.configBlock (h : Hub) : List Byte := (h.config ++ List.replicate 4096 0).take 4096

/-- n bytes of memory from a key on, with their presence and poison, moved to another key. -/
def State.moveRange (s : State) (a b n : Nat) : State :=
  let z := cellSize a
  let inside (k : Nat) : Bool := decide (cellKey a ≤ k) && decide (k < cellKey (a + n))
  let shift (k : Nat) : Nat := k + b / z - a / z
  let cells := s.mem.filter fun e => decide (a ≤ e.1) && decide (e.1 < a + n)
  let t := (s.wipe a (a + n)).wipe b (b + n)
  { t with
    mem := cells.foldl (fun m e => memPut m (e.1 + b - a) e.2) t.mem
    pres := (s.pres.filter fun e => inside e.1).foldl (fun p e => p.put (shift e.1) e.2) t.pres
    poison := (s.poison.filter inside).map shift ++ t.poison }

/-- Whether a package may take a device number: no other package has it, but one that is still to take its own, being Off or at boot step 1. -/
def State.numberFree (s : State) (d n : Nat) : Bool := d == n || !s.hubs.has n || decide ((s.hub n).boot ≤ 1)

/-- A package takes its device number, by which the domain and the model name it from now on: its hub, its HBM and its links go there, its cores being
in reset (R91, R351, R358). A package there that has not taken its own yet is named by the other number until it does. Where another package has taken
the number already, the model goes on to name this one by the old one (DESIGN CHOICE, log 74). -/
def State.renumber (s : State) (d n : Nat) : State :=
  if d = n ∨ !s.numberFree d n then s
  else
    let size := hbmKey 1 0 - hbmKey 0 0
    let s := (s.dropCores fun c => anyOf d c || anyOf n c).wipeTiles (coreOf d 0) (coreOf (d + 1) 0)
    let s := ((s.moveRange (hbmKey n 0) (hbmKey 64 0) size).moveRange (hbmKey d 0) (hbmKey n 0) size).moveRange (hbmKey 64 0) (hbmKey d 0) size
    let other (x : Nat) : Nat := if x = d then n else if x = n then d else x
    let end_ (x : Nat) : Nat := other (x / 16) * 16 + x % 16
    let step (e : Event) : Event := match e with | .packageResetRelease x k => .packageResetRelease (other x) k | e => e
    { s with
      hubs := s.hubs.foldl (fun t e => t.put (other e.1) e.2) []
      wiring := s.wiring.foldl (fun t e => t.put (end_ e.1) (end_ e.2)) []
      agenda := s.agenda.map fun e => { e with ev := step e.ev } }

/-- One boot step, and how long the next one takes. -/
def State.bootStep (s : State) (d : Nat) : Nat → State × Nat
  | 0 =>
    let h := s.hub d
    let s := ((s.dropCores (anyOf d)).wipeTiles (coreOf d 0) (coreOf (d + 1) 0)).loseLive d
    let s := { s with agenda := s.agenda.filter fun x => eventHub x.ev != some d }
    ((s.setHub d { h.fresh with power := .standby, boot := 1 }).dropLinks d, 200 * Config.ms)
  | 1 =>
    let h := s.hub d
    let sup := coreOf d 4096
    let s := (s.writeAt (tileKey sup 0) h.flash).writeAt (tileKey sup configPlace) h.configBlock
    (s.modHub d fun h => { h with boot := 2, hubdev := imageAt h.configBlock 0 1 % 64 }, 20 * Config.ms)
  | 2 =>
    ({ s with freeCtr := s.freeCtr + 1 }.modHub d fun h =>
      { h with boot := 3, meas0 := sha384 h.flash, meas1 := sha384 h.configBlock, measured := true, certified := s.freeCtr }, Config.ms)
  | 3 => (s.modHub d fun h => { h with boot := 4, links := bootLinks, power := .active }, 0)
  | _ =>
    let s := s.modCore (coreOf d 4096) fun k => { k.setSlot 0 bootSlot with running := true }
    (s.modHub d fun h => { h with boot := 5 }, 0)

/-- PACKAGE_RESET_RELEASE (R358): the steps follow one another; a release of the package reset begins with the first one. In the second one the package
takes its device number. -/
def execPackageResetRelease (s : State) : Host.Outcome State Fault Refusal :=
  s.perform fun s e =>
    match e with
    | .packageResetRelease d n =>
      let dev := imageAt (s.hub d).configBlock 0 1 % 64
      let e := if n = 1 ∧ s.numberFree d dev then dev else d
      let s := if n = 1 then s.renumber d dev else s
      let (s, t) := s.bootStep e n
      some (if 4 ≤ n then s else s.after t (.packageResetRelease e (n + 1)))
    | _ => none

/-! ## Measurement reports (R337, R360 to R362) -/

/-- The n bytes of a number, most significant first. -/
def natBe (n v : Nat) : List Byte := (natLe n v).reverse

/-- A pair of 48-byte integers: a point, or a signature. -/
def pairBe (x : Nat × Nat) : List Byte := natBe 48 x.1 ++ natBe 48 x.2

/-- A report of 448 bytes (R361), signed with the attestation key, whose public key the identity key signed at boot (R360). The private keys and the
secret numbers of the signatures are free values (log 5). -/
def State.report (s : State) (d : Nat) (nonce : List Byte) : List Byte :=
  let h := s.hub d
  let key := Config.attestationKey h.part h.meas0
  let pub := pairBe (publicKey key)
  let head := natLe 4 1 ++ natLe 1 h.hubdev ++ [0, 0, 0] ++ nonce ++ natLe 8 h.time ++ natBe 48 h.meas0.toNat ++ natBe 48 h.meas1.toNat ++ pub ++
    pairBe (signature (Config.identityKey h.part) (Config.signatureNonce h.certified) (sha384 pub))
  head ++ pairBe (signature key (Config.signatureNonce s.freeCtr) (sha384 head))

/-- `attest` at the hub: the report written into the area, and what sa receives. -/
def State.attest (s : State) (d asid : Nat) (area : Word) : Nat × State :=
  let c := s.homeNow (coreNamed area) asid
  let off := offsetOf area
  if !(s.hub d).measured then (2 ^ 16, s)
  else if 2 ^ 20 < off + 1024 ∨ (s.core c).gate c asid true ≠ .pass ∨ s.anyPoison (tileKey c off) 48 ∨ ((s.core c).windowCause off 1024).isSome then
    (2 ^ 17, s)
  else
    let bs := s.report d (s.bytes (tileKey c off) 48)
    (448, ({ s with freeCtr := s.freeCtr + 1 }.writeTile c off bs).recheckAll c)

/-- The management port answers a request's source with a datagram. -/
def State.answerPort (s : State) (d source : Nat) (bs : List Byte) : State := s.modHub d fun h => { h with datagrams := h.datagrams ++ [⟨source, bs⟩] }

/-- MEASUREMENT_REPORT_REQUEST (R362): the hub answers a datagram of the management port with one. A datagram to another port than 4096, or whose
payload is not the 48 bytes of a nonce, is no request: the hub does not answer it (DESIGN CHOICE, log 108). -/
def execMeasurementReportRequest (s : State) : Host.Outcome State Fault Refusal :=
  s.perform fun s e =>
    match e with
    | .measurementReportRequest d source port nonce =>
      let h := s.hub d
      if h.power = .off ∨ port ≠ 4096 ∨ nonce.length ≠ 48 then some s
      else if !h.measured then some (s.answerPort d source (natLe 4 1))
      else some ({ s with freeCtr := s.freeCtr + 1 }.answerPort d source (s.report d nonce))
    | _ => none

/-! ## The governor (R364, R365) -/

/-- The sum of a list. -/
def total : List Nat → Nat
  | [] => 0
  | x :: xs => x + total xs

/-- A step of the matrix clock in MHz, between 1,200 and 2,400. -/
def clockDown (m : Nat) : Nat := max 1200 (m - 100)
def clockUp (m : Nat) : Nat := min 2400 (m + 100)

/-- The limit in watts of the package's form (R364, R366). -/
def Hub.powerLimit (h : Hub) : Nat := if h.formM then 3200 else 3000

/-- The hub after a sample of power in watts; `hot`: a junction is above 100 °C. The average of the samples of the last millisecond is compared with
the limit without rounding. -/
def Hub.sample (h : Hub) (power : Nat) (hot : Bool) : Hub :=
  let xs := (power :: h.samples).take 100
  let above := decide (h.powerLimit * xs.length < total xs)
  let low := if decide (100 * total xs < 95 * h.powerLimit * xs.length) then h.belowFor + 1 else 0
  let heat := if hot then h.hotFor + 1 else 0
  let m := if above then clockDown h.matrixMHz else if low = 100 then clockUp h.matrixMHz else h.matrixMHz
  let m := if heat = 100 then clockDown m else m
  { h with samples := xs, belowFor := low % 100, hotFor := heat % 100, matrixMHz := m }

/-- The end of a matrix command on a core of package d. -/
def endsCommand (d : Nat) : Event → Bool
  | .mm c _ | .ldb c _ | .drain c _ | .accZero c _ | .ldacc c _ | .setfmt c _ | .mfence c _ => devOf c == d
  | _ => false

/-- Commands that are executing finish at the new matrix clock: what is left of their cycles takes as much longer, or shorter (R364). -/
def State.retime (s : State) (d old new : Nat) : State :=
  let at_ (t : Nat) : Nat := s.now + ((t - s.now) * old + new - 1) / max 1 new
  let mine := s.agenda.filter fun x => endsCommand d x.ev
  { s with agenda := mine.foldl (fun a x => agendaAdd { x with at_ := at_ x.at_ } a) (s.agenda.filter fun x => !endsCommand d x.ev) }

/-- GOVERNOR_SAMPLE (R364): every 10 µs while the compute dies run. -/
def execGovernorSample (s : State) : Host.Outcome State Fault Refusal :=
  s.perform fun s e =>
    match e with
    | .governorSample d power hot =>
      let h := s.hub d
      let h' := h.sample power hot
      if h.power ≠ .active then some s
      else if h'.matrixMHz = h.matrixMHz then some (s.setHub d h')
      else some ((s.setHub d h').retime d h.matrixMHz h'.matrixMHz)
    | _ => none

/-- JUNCTION_OVER_TEMPERATURE (R365): the compute dies of a package that is not Off stop, and the flash log keeps the reason. -/
def execJunctionOverTemperature (s : State) : Host.Outcome State Fault Refusal :=
  s.perform fun s e =>
    match e with
    | .junctionOverTemperature d =>
      if (s.hub d).power = .off then some s else some ((s.resetDies d).modHub d fun h => { h with flashLog := h.flashLog ++ [115] })
    | _ => none

/-! ## State storage (R389) -/

/-- STATE_STORAGE_ERROR (R389): a fatal record with cause 40; AUX holds the structure. STOP is 0: the slot that it stops is at no exact trap (R385). -/
def execStateStorageError (s : State) : Host.Outcome State Fault Refusal :=
  s.perform fun s e =>
    match e with
    | .stateStorageError c slot what =>
      let t := s.slot c (slot.getD 0)
      some (s.raise c { cause := 40, cls := 3, slot := slot, asid := if slot.isSome then t.asid else 0,
                        pc := if slot.isSome then t.pc else 0, aux := what, toSup := true })
    | _ => none

end Sys2Proof.Machine
end

