-- ==== Sys2Proof/Machine/Scalar.lean ====
section
/-!
DEFINITION. Page 0: scalar integer arithmetic, logic, comparisons, predicates and control transfer (spec/12 R249 to R264).
-/

namespace Sys2Proof.Machine

/-- nop (R264). -/
def execNop (m : Mods) (s : State) : Host.Outcome State Fault Refusal := s.guarded m fun s => .ok s

/-- mov (R257). -/
def execMov (m : Mods) (o : OpAB) (s : State) : Host.Outcome State Fault Refusal := s.guarded m fun s => s.unary o fun x => { v := x }

/-- movi (R257). -/
def execMovi (m : Mods) (o : OpImm) (s : State) : Host.Outcome State Fault Refusal :=
  s.guarded m fun s => s.produce o.a { v := immWord o.imm }

/-- add (R253). -/
def execAdd (m : Mods) (x : Option ArithX) (o : OpBin) (s : State) : Host.Outcome State Fault Refusal :=
  s.guarded m fun s => s.binary o (addRes (intTy x true) (satOf x))

/-- addi (R253): the immediate is read at the type's width. -/
def execAddi (m : Mods) (x : Option ArithX) (o : OpImm) (s : State) : Host.Outcome State Fault Refusal :=
  s.guarded m fun s => s.inPlace o.a fun v => addRes (intTy x true) (satOf x) v (immWord o.imm)

/-- sub (R253). -/
def execSub (m : Mods) (x : Option ArithX) (o : OpBin) (s : State) : Host.Outcome State Fault Refusal :=
  s.guarded m fun s => s.binary o (subRes (intTy x true) (satOf x))

/-- mul (R253). -/
def execMul (m : Mods) (x : Option ArithX) (o : OpBin) (s : State) : Host.Outcome State Fault Refusal :=
  s.guarded m fun s => s.binary o (mulRes (intTy x true) (satOf x))

/-- mulh (R253). -/
def execMulh (m : Mods) (x : Option ArithX) (o : OpBin) (s : State) : Host.Outcome State Fault Refusal :=
  s.guarded m fun s => s.binary o (mulhRes (intTy x true) (satOf x))

/-- mulhu (R253). -/
def execMulhu (m : Mods) (x : Option ArithX) (o : OpBin) (s : State) : Host.Outcome State Fault Refusal :=
  s.guarded m fun s => s.binary o (mulhRes (intTy x false) (satOf x))

/-- div (R253, R254). -/
def execDiv (m : Mods) (x : Option ArithX) (o : OpBin) (s : State) : Host.Outcome State Fault Refusal :=
  s.guarded m fun s => s.binary o (divRes (intTy x true) (satOf x))

/-- divu (R253, R254). -/
def execDivu (m : Mods) (x : Option ArithX) (o : OpBin) (s : State) : Host.Outcome State Fault Refusal :=
  s.guarded m fun s => s.binary o (divRes (intTy x false) (satOf x))

/-- rem (R253, R254). -/
def execRem (m : Mods) (x : Option ArithX) (o : OpBin) (s : State) : Host.Outcome State Fault Refusal :=
  s.guarded m fun s => s.binary o (remRes (intTy x true) (satOf x))

/-- remu (R253, R254). -/
def execRemu (m : Mods) (x : Option ArithX) (o : OpBin) (s : State) : Host.Outcome State Fault Refusal :=
  s.guarded m fun s => s.binary o (remRes (intTy x false) (satOf x))

/-- and (R255). -/
def execAnd (m : Mods) (o : OpBin) (s : State) : Host.Outcome State Fault Refusal :=
  s.guarded m fun s => s.binary o fun x y => logicRes (x &&& y)

/-- andi (R255). -/
def execAndi (m : Mods) (o : OpImm) (s : State) : Host.Outcome State Fault Refusal :=
  s.guarded m fun s => s.inPlace o.a fun x => logicRes (x &&& immWord o.imm)

/-- or (R255). -/
def execOr (m : Mods) (o : OpBin) (s : State) : Host.Outcome State Fault Refusal :=
  s.guarded m fun s => s.binary o fun x y => logicRes (x ||| y)

/-- ori (R255). -/
def execOri (m : Mods) (o : OpImm) (s : State) : Host.Outcome State Fault Refusal :=
  s.guarded m fun s => s.inPlace o.a fun x => logicRes (x ||| immWord o.imm)

/-- xor (R255). -/
def execXor (m : Mods) (o : OpBin) (s : State) : Host.Outcome State Fault Refusal :=
  s.guarded m fun s => s.binary o fun x y => logicRes (x ^^^ y)

/-- xori (R255). -/
def execXori (m : Mods) (o : OpImm) (s : State) : Host.Outcome State Fault Refusal :=
  s.guarded m fun s => s.inPlace o.a fun x => logicRes (x ^^^ immWord o.imm)

/-- not (R255). -/
def execNot (m : Mods) (o : OpAB) (s : State) : Host.Outcome State Fault Refusal :=
  s.guarded m fun s => s.unary o fun x => logicRes (~~~x)

/-- neg (R253): 0 − x. -/
def execNeg (m : Mods) (x : Option ArithX) (o : OpAB) (s : State) : Host.Outcome State Fault Refusal :=
  s.guarded m fun s => s.unary o fun v => subRes (intTy x true) (satOf x) 0 v

/-- shl (R255). -/
def execShl (m : Mods) (o : OpBin) (s : State) : Host.Outcome State Fault Refusal :=
  s.guarded m fun s => s.binary o fun x y => shlRes x (amount y)

/-- shli (R255). -/
def execShli (m : Mods) (o : OpShift) (s : State) : Host.Outcome State Fault Refusal :=
  s.guarded m fun s => s.inPlace o.a fun x => shlRes x o.n.toNat

/-- shr (R255). -/
def execShr (m : Mods) (o : OpBin) (s : State) : Host.Outcome State Fault Refusal :=
  s.guarded m fun s => s.binary o fun x y => shrRes x (amount y)

/-- shri (R255). -/
def execShri (m : Mods) (o : OpShift) (s : State) : Host.Outcome State Fault Refusal :=
  s.guarded m fun s => s.inPlace o.a fun x => shrRes x o.n.toNat

/-- sar (R255). -/
def execSar (m : Mods) (o : OpBin) (s : State) : Host.Outcome State Fault Refusal :=
  s.guarded m fun s => s.binary o fun x y => sarRes x (amount y)

/-- sari (R255). -/
def execSari (m : Mods) (o : OpShift) (s : State) : Host.Outcome State Fault Refusal :=
  s.guarded m fun s => s.inPlace o.a fun x => sarRes x o.n.toNat

/-- rol (R255). -/
def execRol (m : Mods) (o : OpBin) (s : State) : Host.Outcome State Fault Refusal :=
  s.guarded m fun s => s.binary o fun x y => logicRes (x.rotateLeft (amount y))

/-- min (R253). -/
def execMin (m : Mods) (x : Option ArithX) (o : OpBin) (s : State) : Host.Outcome State Fault Refusal :=
  s.guarded m fun s => s.binary o (minRes (intTy x true) (satOf x))

/-- max (R253). -/
def execMax (m : Mods) (x : Option ArithX) (o : OpBin) (s : State) : Host.Outcome State Fault Refusal :=
  s.guarded m fun s => s.binary o (maxRes (intTy x true) (satOf x))

/-- minu (R253). -/
def execMinu (m : Mods) (x : Option ArithX) (o : OpBin) (s : State) : Host.Outcome State Fault Refusal :=
  s.guarded m fun s => s.binary o (minRes (intTy x false) (satOf x))

/-- maxu (R253). -/
def execMaxu (m : Mods) (x : Option ArithX) (o : OpBin) (s : State) : Host.Outcome State Fault Refusal :=
  s.guarded m fun s => s.binary o (maxRes (intTy x false) (satOf x))

/-- clz (R256). -/
def execClz (m : Mods) (o : OpAB) (s : State) : Host.Outcome State Fault Refusal :=
  s.guarded m fun s => s.unary o fun x => { v := BitVec.ofNat 64 (leadingZeros x 64) }

/-- ctz (R256). -/
def execCtz (m : Mods) (o : OpAB) (s : State) : Host.Outcome State Fault Refusal :=
  s.guarded m fun s => s.unary o fun x => { v := BitVec.ofNat 64 (trailingZeros x 0 64) }

/-- popc (R256). -/
def execPopc (m : Mods) (o : OpAB) (s : State) : Host.Outcome State Fault Refusal :=
  s.guarded m fun s => s.unary o fun x => { v := BitVec.ofNat 64 (onesBelow x 64) }

/-- sext (R256). -/
def execSext (m : Mods) (o : OpExt) (s : State) : Host.Outcome State Fault Refusal :=
  s.guarded m fun s => s.inPlace o.a fun x => { v := sextVal o.n.toNat x }

/-- zext (R256). -/
def execZext (m : Mods) (o : OpExt) (s : State) : Host.Outcome State Fault Refusal :=
  s.guarded m fun s => s.inPlace o.a fun x => { v := zextVal o.n.toNat x }

/-- bfx (R256). -/
def execBfx (m : Mods) (o : OpABC) (s : State) : Host.Outcome State Fault Refusal :=
  s.guarded m fun s => s.binary ⟨o.a, o.b, o.q, some o.c⟩ fun x y => { v := bfxVal x y }

/-- bfi (R256). -/
def execBfi (m : Mods) (o : OpABC) (s : State) : Host.Outcome State Fault Refusal :=
  s.guarded m fun s => s.ternary o fun a b c => { v := bfiVal a b c }

/-- lea (R257): no access, no check. -/
def execLea (m : Mods) (o : OpLea) (s : State) : Host.Outcome State Fault Refusal :=
  s.guarded m fun s =>
    match o.c with
    | none => s.unary ⟨o.a, o.b, o.q⟩ fun x => { v := x + immWord o.off }
    | some c => s.binary ⟨o.a, o.b, o.q, some c⟩ fun x y => { v := x + y + immWord o.off }

/-- sel (R259): with c it writes b or c; without, b or nothing. -/
def execSel (m : Mods) (o : OpSel) (s : State) : Host.Outcome State Fault Refusal :=
  s.guarded m fun s =>
    let yes := s.me.pread o.p != o.neg
    match o.c with
    | some c => s.binary ⟨o.a, o.b, o.q, some c⟩ fun x y => { v := if yes then x else y }
    | none =>
      if yes then s.unary ⟨o.a, o.b, o.q⟩ fun x => { v := x }
      else s.writable o.a <| s.reading o.b o.q fun _ s => .ok s

/-- plog (R260): bit 2x + y of the table. -/
def execPlog (m : Mods) (o : OpPlog) (s : State) : Host.Outcome State Fault Refusal :=
  s.guarded m fun s =>
    let x := s.me.pread (match o.c with | none => o.a | some _ => o.b)
    let y := s.me.pread (match o.c with | none => o.b | some c => c)
    .ok (s.pwrite o.a (o.tt.getLsbD (2 * b2n x + b2n y)))

/-- rdp (R261). -/
def execRdp (m : Mods) (o : OpA) (s : State) : Host.Outcome State Fault Refusal :=
  s.guarded m fun s => s.produce o.a { v := s.me.pred.setWidth 64 }

/-- wrp (R261): the bits that a selects take b's. -/
def execWrp (m : Mods) (o : OpAB) (s : State) : Host.Outcome State Fault Refusal :=
  s.guarded m fun s =>
    s.readable o.a <| s.readable o.b <|
      match s.peek2 o.a o.b with
      | .error e => .error e
      | .ok (x, y) =>
        let msk := x.setWidth 16
        .ok ((s.consume [(o.a, false), (o.b, o.q)]).modPred fun p => (p &&& ~~~msk) ||| (y.setWidth 16 &&& msk))

/-- A comparison's effect (R258): the predicate, and the flags of the subtraction. -/
def State.compared (s : State) (p : PNum) (neg : Bool) (reads : List (SReg × Bool)) (x y : Word) (yes : Bool) : State :=
  ((s.consume reads).modPred (subRes ⟨64, true⟩ false x y).flags.apply).pwrite p (yes != neg)

/-- cmp (R258). -/
def State.compare (s : State) (o : OpCmp) (f : Word → Word → Bool) : Try State :=
  s.readable o.a <| s.readable o.b <|
    match s.peek2 o.a o.b with
    | .error e => .error e
    | .ok (x, y) => .ok (s.compared o.p o.neg [(o.a, false), (o.b, o.q)] x y (f x y))

/-- cmpi (R258). -/
def State.compareImm (s : State) (o : OpCmpI) (f : Word → Word → Bool) : Try State :=
  s.readable o.a <|
    match s.peek o.a with
    | .error e => .error e
    | .ok x => .ok (s.compared o.p o.neg [(o.a, false)] x (immWord o.imm) (f x (immWord o.imm)))

/-- cmp.eq (R258). -/
def execCmpEq (m : Mods) (o : OpCmp) (s : State) : Host.Outcome State Fault Refusal :=
  s.guarded m fun s => s.compare o fun x y => x == y

/-- cmp.lt (R258). -/
def execCmpLt (m : Mods) (o : OpCmp) (s : State) : Host.Outcome State Fault Refusal :=
  s.guarded m fun s => s.compare o fun x y => x.slt y

/-- cmp.ltu (R258). -/
def execCmpLtu (m : Mods) (o : OpCmp) (s : State) : Host.Outcome State Fault Refusal :=
  s.guarded m fun s => s.compare o fun x y => x.ult y

/-- cmpi.eq (R258). -/
def execCmpiEq (m : Mods) (o : OpCmpI) (s : State) : Host.Outcome State Fault Refusal :=
  s.guarded m fun s => s.compareImm o fun x y => x == y

/-- cmpi.lt (R258). -/
def execCmpiLt (m : Mods) (o : OpCmpI) (s : State) : Host.Outcome State Fault Refusal :=
  s.guarded m fun s => s.compareImm o fun x y => x.slt y

/-- cmpi.ltu (R258). -/
def execCmpiLtu (m : Mods) (o : OpCmpI) (s : State) : Host.Outcome State Fault Refusal :=
  s.guarded m fun s => s.compareImm o fun x y => x.ult y

/-- cmpi.le (R258). -/
def execCmpiLe (m : Mods) (o : OpCmpI) (s : State) : Host.Outcome State Fault Refusal :=
  s.guarded m fun s => s.compareImm o fun x y => x.sle y

/-- cmpi.leu (R258). -/
def execCmpiLeu (m : Mods) (o : OpCmpI) (s : State) : Host.Outcome State Fault Refusal :=
  s.guarded m fun s => s.compareImm o fun x y => x.ule y

/-! ## Control transfer (R262) -/

/-- The address modulo 2⁴⁸ (R230). -/
def pcOf (x : Int) : Nat := (x % (2 ^ 48 : Nat)).toNat

/-- A branch: address + 2 × offset (R230). -/
def State.branchTo {n : Nat} (s : State) (off : BitVec n) : State := s.modMe fun t => { t with pc := pcOf (s.cur.addr + 2 * off.toInt) }

/-- A jump to an address in a register, which must be even (R262). -/
def State.jumpTo (s : State) (x : Word) : Try State :=
  ensure (!x.getLsbD 0) 7 x 0 <| .ok (s.modMe fun t => { t with pc := x.toNat % 2 ^ 48 })

/-- br (R262). -/
def execBr (m : Mods) (o : OpJ) (s : State) : Host.Outcome State Fault Refusal := s.guarded m fun s => .ok (s.branchTo o.off)

/-- brp (R262). -/
def execBrp (m : Mods) (o : OpP) (s : State) : Host.Outcome State Fault Refusal :=
  s.guarded m fun s => .ok (if s.me.pread o.p != o.neg then s.branchTo o.off else s)

/-- call (R262): s15 must be in normal mode. -/
def execCall (m : Mods) (o : OpJ) (s : State) : Host.Outcome State Fault Refusal :=
  s.guarded m fun s => s.fillable 15 <| .ok ((s.swrite 15 (BitVec.ofNat 64 s.cur.next)).branchTo o.off)

/-- ret (R262). -/
def execRet (m : Mods) (s : State) : Host.Outcome State Fault Refusal :=
  s.guarded m fun s => s.reading 15 false fun x s => s.jumpTo x

/-- jmpr (R262). -/
def execJmpr (m : Mods) (o : OpB) (s : State) : Host.Outcome State Fault Refusal :=
  s.guarded m fun s => s.reading o.b o.q fun x s => s.jumpTo x

/-- loop (R262): a branch while the decremented register is not zero. -/
def execLoop (m : Mods) (o : OpImm) (s : State) : Host.Outcome State Fault Refusal :=
  s.guarded m fun s =>
    s.writable o.a <| s.readable o.a <|
      match s.peek o.a with
      | .error e => .error e
      | .ok x =>
        let s := s.result o.a [] { v := x - 1 }
        .ok (if x - 1 = 0 then s else s.branchTo o.imm)

/-- clr (R264): empty, without a failed bit, a pending fill cancelled; the value stays. -/
def execClr (m : Mods) (o : OpA) (s : State) : Host.Outcome State Fault Refusal :=
  s.guarded m fun s =>
    s.fillable o.a <| .ok (s.modMe fun t => t.modReg o.a.toNat fun r => { r with full := false, failed := false, pend := false })

end Sys2Proof.Machine
end

