-- ==== Sys2Proof/Machine/System.lean ====
section
/-!
DEFINITION. The privileged forms of page 7 (spec/14 R331 to R338), what the hub does for them, snapshots (spec/07 R147) and evacuation (spec/10
R213, R215).
-/

namespace Sys2Proof.Machine

/-! ## Operands -/

/-- A core address: the fabric-direct address of offset 0 of a core (R213, R333, R336). -/
def coreAddrOk (c : Nat) (v : Word) : Bool := isFabric v && addrOk v && offsetOf v == 0

/-- The hub form of a register's address (R331). -/
def isHubForm (v : Word) : Bool := isFabric v && v.getLsbD 44 && bitsOf v.toNat 45 12 == 0 && bitsOf v.toNat 21 23 == 0

/-- The device of a fabric-direct address. -/
def devNamed (v : Word) : Nat := bitsOf v.toNat 57 6

/-- Where a request to a package's hub goes. -/
def State.hubHome (s : State) (dev : Nat) : Home := if dev = devOf s.cur.core then .device else .other dev

/-- The address of a block of n bytes in a core's tile store, which the hub reads or writes. -/
def State.blockAt {α : Type} (s : State) (v : Word) (n : Nat) (k : Try α) : Try α :=
  ensure (isFabric v && addrOk v && decide (offsetOf v + n ≤ 2 ^ 20)) 6 v 0 <| s.routed v k

/-- A non-posted request to another core or to the own one, which fills a register or is acknowledged. -/
def State.askCore (s : State) (v : Word) (op : MemOp) (a : Option SReg) (takes : List (SReg × Bool)) : State :=
  let c := s.cur.core
  let (id, s) := s.fresh
  let acc : Acc := { id := id, addr := v, home := homeOf c v, asid := s.me.asid, sup := s.me.sup }
  let r : Req := { src := ⟨c, s.cur.slot, id⟩, asid := s.me.asid, sup := true, addr := v, op := op }
  let s := match a with | none => s.holdFor acc takes | some r => s.holdFill r acc takes
  s.tell c (coreNamed v) (arrivalOf (coreNamed v) r)

/-! ## Control registers (R331) -/

/-- The register that sb names: `core` and `hub` say what becomes of either form. -/
def State.register (s : State) (v : Word) (core : Try State) (hub : Nat → Nat → Try State) : Try State :=
  if isHubForm v then
    ensure (offsetOf v % 8 == 0) 7 v 0 <| s.routed v <| ensure (hubAssigned (offsetOf v)) 6 v 0 <|
    s.mayIssue {} (s.hubHome (devNamed v)) 0 (hub (devNamed v) (offsetOf v))
  else
    ensure (isFabric v && addrOk v) 6 v 0 <| ensure (offsetOf v % 8 == 0) 7 v 0 <| s.routed v <|
    ensure (decide (2 ^ 20 ≤ offsetOf v) && ctlAssigned (coreNamed v) (offsetOf v)) 6 v 0 <|
    s.mayIssue {} (homeOf s.cur.core v) 0 core

/-- crd (R331). -/
def execCrd (m : Mods) (o : OpAB) (s : State) : Host.Outcome State Fault Refusal :=
  s.privileged m fun s =>
    s.fillable o.a <|
    s.withReg o.b fun v =>
      s.register v (.ok (s.askCore v .ctlRead (some o.a) [(o.b, o.q)]))
        fun dev off => .ok (s.askHub dev v (.crd off) (some o.a) [(o.b, o.q)])

/-- cwr (R331). -/
def execCwr (m : Mods) (o : OpAB) (s : State) : Host.Outcome State Fault Refusal :=
  s.privileged m fun s =>
    s.withTwo o.a o.b fun x v =>
      s.register v (.ok (s.askCore v (.ctlWrite x) none [(o.b, o.q), (o.a, false)]))
        fun dev off => .ok (s.askHub dev v (.cwr off x) none [(o.b, o.q), (o.a, false)])

/-! ## Trap and halt forms (R332) -/

/-- trap (R332): allowed at any privilege. -/
def execTrap (m : Mods) (o : OpTrap) (s : State) : Host.Outcome State Fault Refusal :=
  s.guarded m fun _ => .error (.trap 28 (o.imm.signExtend 64) 0)

/-- tret (R332, R388). -/
def execTret (m : Mods) (s : State) : Host.Outcome State Fault Refusal :=
  s.privileged m fun s => .ok ((s.returnFromTrap s.cur.core).modMyCore Core.ungate)

/-- halt (R332). -/
def execHalt (m : Mods) (s : State) : Host.Outcome State Fault Refusal :=
  s.privileged m fun s => .ok (s.modMyCore Core.halt)

/-! ## Requests to the hub (R333 to R337) -/

/-- bankpw (R333). -/
def execBankpw (m : Mods) (o : OpAB) (s : State) : Host.Outcome State Fault Refusal :=
  s.privileged m fun s =>
    s.withTwo o.a o.b fun x v =>
      ensure (decide (v.toNat < 2 ^ 11)) 6 v 0 <|
      ensure (coreAddrOk s.cur.core x) 6 x 0 <| s.routed x <|
      s.mayIssue {} (s.hubHome (devNamed x)) 0 <|
        .ok (s.askHub (devNamed x) x (.bankpw (coreNamed x) v) none [(o.b, o.q), (o.a, false)])

/-- xinv (R334). -/
def execXinv (m : Mods) (o : OpAB) (s : State) : Host.Outcome State Fault Refusal :=
  s.privileged m fun s =>
    s.withTwo o.a o.b fun x v =>
      let all := v.getLsbD 14
      let global := v.getLsbD 15
      ensure (decide (v.toNat < 2 ^ 16)) 6 v 0 <|
      ensure (all || global || (!isFabric x && addrOk x)) 6 x 0 <|
      s.mayIssue {} .device 0 <|
        .ok (s.askHub (devOf s.cur.core) x (.xinv x (field v 0 14) all global) none [(o.b, o.q), (o.a, false)])

/-- snap (R147, R335). -/
def execSnap (m : Mods) (o : OpAB) (s : State) : Host.Outcome State Fault Refusal :=
  s.privileged m fun s =>
    s.fillable o.a <|
    s.withReg o.b fun v =>
      s.blockAt v 64 <|
      s.mayIssue {} .device 0 <|
        .ok (s.askHub (devOf s.cur.core) v (.snap v) (some o.a) [(o.b, o.q)])

/-- evac (R213, R335). -/
def execEvac (m : Mods) (o : OpABC) (s : State) : Host.Outcome State Fault Refusal :=
  s.privileged m fun s =>
    s.fillable o.a <|
    s.withTwo o.b o.c fun x y =>
      ensure (coreAddrOk s.cur.core x) 6 x 0 <| s.routed x <| ensure (coreAddrOk s.cur.core y) 6 y 0 <|
      s.mayIssue {} (s.hubHome (devNamed x)) 0 <|
        .ok (s.askHub (devNamed x) x (.evac x y) (some o.a) [(o.b, o.q), (o.c, false)])

/-- fwd (R215, R335). -/
def execFwd (m : Mods) (o : OpBC) (s : State) : Host.Outcome State Fault Refusal :=
  s.privileged m fun s =>
    s.withTwo o.b o.c fun x v =>
      ensure (coreAddrOk s.cur.core x) 6 x 0 <| s.routed x <| ensure (field v 4 12 == 0) 6 v 0 <|
      s.mayIssue {} (s.hubHome (devNamed x)) 0 <|
        .ok (s.askHub (devNamed x) x (.fwd (coreNamed x) (field v 0 4) (BitVec.ofNat 64 (field v 16 48))) none
          [(o.b, o.q), (o.c, false)])

/-- glaunch (R202, R335). -/
def execGlaunch (m : Mods) (o : OpABC) (s : State) : Host.Outcome State Fault Refusal :=
  s.privileged m fun s =>
    s.fillable o.a <|
    s.withTwo o.b o.c fun x t =>
      ensure (isFabric x && addrOk x) 6 x 0 <| s.routed x <|
      s.mayIssue {} .device 0 <|
        .ok (s.askHub (devOf s.cur.core) x (.glaunch x t.toNat) (some o.a) [(o.b, o.q), (o.c, false)])

/-- popcfg (R178, R179, R335). -/
def execPopcfg (m : Mods) (o : OpABC) (s : State) : Host.Outcome State Fault Refusal :=
  s.privileged m fun s =>
    s.fillable o.a <|
    s.withTwo o.b o.c fun x v =>
      s.blockAt x 64 <|
      ensure (decide (v.toNat < 2 ^ 8)) 19 0 (v.toNat % 2 ^ 8) <|
      s.mayIssue {} .device 0 <|
        .ok (s.askHub (devOf s.cur.core) x (.popcfg x v.toNat) (some o.a) [(o.b, o.q), (o.c, false)])

/-- popstep (R180, R335). -/
def execPopstep (m : Mods) (o : OpAB) (s : State) : Host.Outcome State Fault Refusal :=
  s.privileged m fun s =>
    s.fillable o.a <|
    s.withReg o.b fun v =>
      ensure (decide (v.toNat < 2 ^ 9)) 19 0 (v.toNat % 2 ^ 8) <|
      s.mayIssue {} .device 0 <|
        .ok (s.askHub (devOf s.cur.core) 0 (.popstep (v.toNat % 256) (v.getLsbD 8)) (some o.a) [(o.b, o.q)])

/-- attest (R337). -/
def execAttest (m : Mods) (o : OpAB) (s : State) : Host.Outcome State Fault Refusal :=
  s.privileged m fun s =>
    s.fillable o.a <|
    s.withReg o.b fun v =>
      ensure (isFabric v && addrOk v) 6 v 0 <| ensure (v.toNat % 64 == 0) 7 v 0 <| s.routed v <|
      s.mayIssue {} .device 0 <|
        .ok (s.askHub (devOf s.cur.core) v (.attest v) (some o.a) [(o.b, o.q)])

/-! ## Handles of other cores (R336) -/

/-- A change of a handle of the core whose address is in sb; its status fills sa. -/
def State.askHandle (s : State) (o : OpABH) (change : HandleChange) : Try State :=
  s.fillable o.a <|
  s.withReg o.b fun v =>
    ensure (coreAddrOk s.cur.core v) 6 v 0 <| s.routed v <|
    s.mayIssue {} (homeOf s.cur.core v) 0 <|
      let c := s.cur.core
      let (id, s) := s.fresh
      let acc : Acc := { id := id, addr := v, home := homeOf c v, asid := s.me.asid, sup := s.me.sup }
      let seq := ((s.me.reg o.a.toNat).seq + 1) % 8
      let msg : HandleMsg := { src := ⟨c, s.cur.slot, id⟩, core := coreNamed v, h := o.h.toNat, change := change, asid := s.me.asid,
                               sup := s.me.sup, reply := some (o.a.toNat, seq) }
      .ok ((s.holdFill o.a acc [(o.b, o.q)]).tell c (coreNamed v) (.remoteHandleArrival msg))

/-- hdead (R336). -/
def execHdead (m : Mods) (o : OpABH) (s : State) : Host.Outcome State Fault Refusal := s.privileged m fun s => s.askHandle o .dead

/-- hcomp (R336). -/
def execHcomp (m : Mods) (o : OpABH) (s : State) : Host.Outcome State Fault Refusal := s.privileged m fun s => s.askHandle o .complete

/-! ## asid (R338) -/

/-- asid (R338). -/
def execAsid (m : Mods) (o : OpAB) (s : State) : Host.Outcome State Fault Refusal :=
  s.privileged m fun s =>
    s.writable o.a <| s.readable o.b <|
      match s.peek o.b with
      | .error e => .error e
      | .ok v =>
        ensure (decide (v.toNat < 2 ^ 14)) 6 v 0 <|
        s.room o.a <|
          let old := s.me.asid
          let s := s.result o.a [(o.b, o.q)] { v := BitVec.ofNat 64 old }
          .ok (s.modMe fun t => { t with asid := v.toNat })

/-! ## What the hub does (R331 to R337) -/

/-- When the last result that the holders of the banks in a mask of `bankpw` owe to them is written, for a move to Retain (R402); 0 if none is owed. -/
def Core.owedBanks (k : Core) (v : Word) : Nat :=
  let owed (e : Nat × Slot) : List Nat :=
    e.2.due.filterMap fun d =>
      if 32 ≤ d.1 ∧ d.1 < 64 then
        match e.2.place (d.1 - 32) with
        | none => none
        | some p => if v.getLsbD (p / 8) then some d.2 else none
      else none
  if v.getLsbD 8 then (k.slots.flatMap owed).foldl max 0 else 0

/-- What waits for the rise of a bank that `bankpw` has moved happens, or waits for a new rise (R402). -/
def State.settleRises (s : State) (c : Nat) : State :=
  (List.range 8).foldl (fun s b =>
    if (s.core c).atRise.any (·.1 == b) then (if ((s.core c).bank b).power == .retain then s.startRise c [b] else s.risen c b) else s) s

/-- The power control of `bankpw` applied at a core: only banks that a thread holds move (R333, R36). -/
def Core.bankPower (k : Core) (v : Word) : Core :=
  let move (k : Core) (b : Nat) : Core :=
    let x := k.bank b
    if v.getLsbD b && x.holder.isSome then k.setBank b { x with power := if v.getLsbD 8 then .retain else .on, rising := none } else k
  let k := (List.range 8).foldl move k
  if v.getLsbD 9 then { k with retainCtl := v.getLsbD 10 } else k

/-- The scope of `xinv`: the entries of pages of an ASID, by their size (R334). -/
def inScope (va : Word) (asid : Nat) (all global : Bool) (a : Nat) (big : Bool) (page : Nat) : Bool :=
  global || (a == asid && (all || page == pageNo big (virtualOf va)))

/-- Removed translations leave the buffers of every station. -/
def Hub.invalidate (h : Hub) (va : Word) (asid : Nat) (all global : Bool) : Hub :=
  { h with tlb := h.tlb.filter fun b => !inScope va asid all global b.asid b.big b.page }

/-- An access that used a removed entry is still on its way. -/
def State.translating (s : State) (d : Nat) (va : Word) (asid : Nat) (all global : Bool) : Bool :=
  let uses (r : Req) : Bool := devOf r.src.core == d && inScope va asid all global r.asid true (pageNo true (virtualOf r.addr))
  (s.agenda.any fun e => match e.ev with | .hbmChannelRequest r _ _ | .bundleStore r | .viewLoad r => !isFabric r.addr && uses r | _ => false) ||
  ((s.hub d).hbmWaiting.any fun x => uses x.1)

/-! ### Snapshots (R147) -/

/-- How long a block takes. -/
def blockTime : Nat := Config.us

/-- The fields of a snapshot descriptor. -/
structure SnapDesc where
  target : Word
  record : Word
  image : Word
  wake : Word
  delta : Bool
  ok : Bool
  deriving DecidableEq, Repr

def snapDesc (b : List Byte) : SnapDesc :=
  let w (i : Nat) : Word := BitVec.ofNat 64 (imageAt b i 8)
  let plain (v : Word) : Bool := isFabric v && bitsOf v.toNat 21 24 == 0
  { target := w 0, record := w 8, image := w 16, wake := w 24, delta := bitAt (imageAt b 32 1) 0,
    ok := plain (w 0) && offsetOf (w 0) == 0 && plain (w 8) && offsetOf (w 8) % 64 == 0 && decide (offsetOf (w 8) < 2 ^ 20) &&
      !isFabric (w 16) && isBulk (w 16) && bitsOf (w 16).toNat 57 5 == 0 && (w 16).toNat % 2 ^ 16 == 0 &&
      (w 24 == 0 || (plain (w 24) && offsetOf (w 24) % 64 == 0)) && decide (imageAt b 32 1 < 2) && imageAt b 33 31 == 0 }

/-- The blocks of a core that a snapshot takes. -/
def Core.snapBlocks (k : Core) (delta : Bool) : List Nat :=
  (List.range 256).filter fun b => !delta || (k.dirty.get 0 (b / 64)).getLsbD (b % 64)

/-- An operation of the hub at a commit record. -/
def hubReq (d asid : Nat) (kind : BundleKind) (record : Word) (serial : Nat) : BundleReq :=
  { src := ⟨hubOf d, 0, 0⟩, reg := 0, seq := 0, kind := kind, record := record, entry := 0, serial := serial, fr := 0, opener := false,
    write := true, asid := asid, sup := true, quiet := true }

/-- A snapshot starts; none while another one of the core runs. -/
def State.snapStart (s : State) (d asid : Nat) (v : Word) : Option (Except Nat Word × State) :=
  match s.hubReads asid v 64 with
  | .error e => some (.error e, s)
  | .ok a =>
    let x := snapDesc (s.bytes (tileKey (coreNamed a) (offsetOf a)) 64)
    if !x.ok then some (.error 6, s)
    else
      let t := s.homeNow (coreNamed x.target) asid
      if (s.core t).snapshot.isSome then none
      else
        match s.hubReads asid x.record 0 with
        | .error e => some (.error e, s)
        | .ok record =>
          match (s.core (coreNamed record)).windowCause (offsetOf record) 64 with
          | some e => some (.error e, s)
          | none =>
            let (r, s) := s.recordOp (coreNamed record) (hubReq d asid .bopenJ record 0)
            if r.status ≠ 0 then some (.ok (resultWord 0 r.status 0), s)
            else
              let n : Snapshot := { pending := (s.core t).snapBlocks x.delta, image := x.image, view := ⟨t, 0, r.name, r.serial, r.sp, record⟩,
                                    wake := x.wake, asid := asid }
              let s := (s.modCore t fun k => { k with snapshot := some n, dirty := [] }).after blockTime (.snapshotBlockCopy t)
              some (.ok (resultWord 0 0 r.serial), s)

/-- The spill entries that the lines of a snapshot's block reach, with package and station (R139). -/
def State.snapSpills (s : State) (c b : Nat) (n : Snapshot) : List (Nat × Nat × Word) :=
  (List.range 64).flatMap fun i =>
    let va := virtualOf (n.image + BitVec.ofNat 64 (4096 * b + 64 * i))
    match s.leafOf (devOf c) (stationOf c) n.asid va true with
    | none => []
    | some (leaf, _, _) =>
      match (hbmPlace (devOf c) (physOf leaf va) leaf).line with
      | none => []
      | some (l, _) => s.spillOf l n.asid (.bundleStore 8 0 n.view)

/-- A snapshot ends: its join is released, and its TCB hears (R147). -/
def State.endSnapshot (s : State) (c : Nat) (n : Snapshot) : State :=
  let s := s.modCore c fun k => { k with snapshot := none }
  let s := s.toRecord (hubReq (devOf c) n.asid .vclose n.view.record n.view.serial)
  -- the hub sends it, and the snapped core is its source (R196)
  let wake : Decr := { src := ⟨c, 0, 0⟩, kind := .snap, tcb := n.wake, asid := n.asid, sup := true }
  if n.wake = 0 then s else s.send (hubOf (devOf c)) (coreNamed n.wake) (.decrement wake)

/-- The next pending block of a core's snapshot is copied, in ascending order; after the last one the snapshot ends. -/
def State.snapStep (s : State) (c : Nat) : State :=
  match (s.core c).snapshot with
  | none => s
  | some n =>
    match n.pending with
    | b :: _ => (State.snapBlock c b s.pendingBlocks s).after blockTime (.snapshotBlockCopy c)
    | [] => s.endSnapshot c n

/-- SNAPSHOT_BLOCK_COPY (R147): a block waits while a spill entry of its lines lies in a page that rests compressed (R109). -/
def execSnapshotBlockCopy (s : State) : Host.Outcome State Fault Refusal :=
  s.perform fun s e =>
    match e with
    | .snapshotBlockCopy c =>
      match (s.core c).snapshot with
      | none => some s
      | some n =>
        match n.pending with
        | b :: _ => some ((s.stalledAt c n.asid (s.snapSpills c b n) e).getD (s.snapStep c))
        | [] => some (s.snapStep c)
    | _ => none

/-! ### Evacuation (R213) -/

/-- A core that may receive another's state: its slots Free and open, with no banks held. -/
def Core.vacant (k : Core) : Bool :=
  (List.range 16).all (fun n => (k.slot n).isOpen) && k.freeBanks.length == 8 && !k.frozen && !k.halted && k.handler.isNone

/-- The admit-list entries of a core that are valid. -/
def Core.admitted (k : Core) : List Nat :=
  (List.range 4).filterMap fun i => let e := k.admitList.get 0 i; if e.getLsbD 15 then some (field e 0 14) else none

/-- The forwarding entries that are free. -/
def Core.freeFwds (k : Core) : List Nat := (List.range 16).filter fun i => !(k.fwds.get 0 i).getLsbD 14

/-- The source stops issue and dispatch, and every context waits to be saved (step 1). -/
def Core.freeze (k : Core) (now id : Nat) : Core :=
  { k with frozen := true, evac := some (now, id),
           slots := Table.mapVals (fun t => if t.resident then { t with saving := true, st := if t.st == .ready then .held else t.st } else t) k.slots }

/-- The source goes on as it was. -/
def State.thaw (s : State) (c : Nat) : State :=
  let s := s.modCore c fun k =>
    { k with frozen := false, evac := none, slots := Table.mapVals (fun t => ({ t with saving := false } : Slot).kick) k.slots }
  let s := (s.thawLinks c).soon ((s.core c).streams.map fun x => .streamRefill c x.id)
  ((s.startCommand c).kickAll c).after 0 (.dispatch c)

/-- Nothing of the source is under way any more that a save waits for. -/
def Core.still (k : Core) : Bool :=
  (List.range 16).all (fun n => (k.waitsFor n).isEmpty && (k.slot n).st != .departing && (k.slot n).rsv.isNone) && !(k.banks.any fun e => e.2.clears.isSome) &&
  !(k.matrix.queue.any fun e => e.st == .busy) && k.vecs.isEmpty && k.bankq.all (fun e => e.2.isEmpty) && k.hpending.isEmpty && k.ctxop.isNone

/-- An event of the source's units goes on at the target. -/
def rehome (a b : Nat) (e : Event) : Event :=
  let f (c : Nat) : Nat := if c = a then b else c
  let t (x : Asker) : Asker := { x with core := f x.core }
  match e with
  | .drainWakeUp c id => .drainWakeUp (f c) id
  | .matrixCommandCompletion c st k => .matrixCommandCompletion (f c) st k
  | .copyAcceptance c n => .copyAcceptance (f c) n
  | .matrixPushAcceptance c n => .matrixPushAcceptance (f c) n
  | .streamRefill c id => .streamRefill (f c) id
  | .handleEvaluation c h => .handleEvaluation (f c) h
  | .handleSubtraction c h n src asid => .handleSubtraction (f c) h n (t src) asid
  | .snapshotBlockCopy c => .snapshotBlockCopy (f c)
  | .viewAgeExpiry c i tick => .viewAgeExpiry (f c) i tick
  | .spawnThrottleExpiry c n => .spawnThrottleExpiry (f c) n
  | .bankRiseComplete c i => .bankRiseComplete (f c) i
  | .bankClearComplete c n => .bankClearComplete (f c) n
  | .trapRecordEntry c => .trapRecordEntry (f c)
  | .journalReplay c j => .journalReplay (f c) j
  | .journalCancel c j => .journalCancel (f c) j
  | .windowMetadataClearingEnd c i => .windowMetadataClearingEnd (f c) i
  | .fill m => .fill { m with asker := t m.asker }
  | .acknowledgement x => .acknowledgement (t x)
  | .refusal x cause => .refusal (t x) cause
  | .bulkBufferInvalidationAck x line => .bulkBufferInvalidationAck (t x) line
  | .hbmChannelRequest r pa leaf => .hbmChannelRequest { r with src := t r.src } pa leaf
  | e => e

/-- The counts of ordered stores by slot, which stand for the core's own number at its destinations (R349, R350), in slots that are otherwise free. -/
def Core.countsOnly (k : Core) : Table Slot := (Table.mapVals (fun (t : Slot) => { orders := t.orders }) k.slots).filter fun e => !e.2.orders.isEmpty

/-- What the target holds once it has installed the source's state (steps 2 and 3); a thread's posted accesses of before hold its later ones
(R118), and its ordered stores count on as the target's slot does. -/
def Core.install (b : Nat) (k x : Core) : Core :=
  let mine (r : Req) : Req := { r with src := { r.src with core := b } }
  let slot (e : Nat × Slot) : Nat × Slot :=
    (e.1, { e.2 with saving := false, prior := e.2.out.map Acc.id, orders := (k.slot e.1).orders }.kick)
  { k with
    slots := (x.slots.map slot).foldl (fun t e => t.put e.1 e.2) k.countsOnly
    vregs := x.vregs, banks := x.banks, handles := x.handles, hwaiters := x.hwaiters, shapes := x.shapes, journal := x.journal, traps := x.traps
    views := x.views, notes := x.notes, sched := x.sched, overflow := x.overflow, admitList := x.admitList, fit := x.fit, vwin := x.vwin
    clearing := x.clearing, dirty := x.dirty, streams := x.streams.map Stream.rewind, waiting := x.waiting, handler := x.handler, orphans := x.orphans
    heldBack := x.heldBack.map fun e => { e with req := mine e.req }
    snapshot := x.snapshot.map fun n => { n with view := { n.view with core := b } }
    copyq := k.copyq ++ x.copyq.filter fun id => x.streams.any fun y => y.id == id
    matrix := { k.matrix with accs := x.matrix.accs, queue := x.matrix.queue, drains := x.matrix.drains,
                              asks := x.matrix.asks.map fun y => ({ y.1 with core := b }, y.2) } }

/-- What the source keeps: its copies, its registers that R213 does not list, and a forwarding entry for each identifier (step 4). -/
def Core.vacated (b : Nat) (k : Core) : Core :=
  let entry (asid : Nat) : Word := BitVec.ofNat 64 (asid + 2 ^ 14 + idOf b % 4096 * 2 ^ 16)
  { k with
    slots := k.countsOnly, vregs := [], banks := [], handles := [], hwaiters := [], shapes := [], journal := [], traps := {}, views := [], notes := [], sched := {}
    overflow := [], admitList := [], fit := 0, vwin := [], clearing := [], dirty := [], streams := [], waiting := [], handler := none, orphans := [], atRise := []
    heldBack := [], snapshot := none, service := [], frozen := false, evac := none
    copyq := k.copyq.filter fun id => !(k.streams.any fun y => y.id == id)
    matrix := { k.matrix with accs := [], queue := [], drains := [], asks := [] }
    fwds := (k.freeFwds.zip k.admitted).foldl (fun t e => t.put e.1 (entry e.2)) k.fwds }

/-- The tile store with its presence and poison as it stands in a core, also in another one. -/
def State.copyTile (s : State) (a b : Nat) : State :=
  let inTile (k : Nat) : Bool := decide (tileKey a 0 / 16 ≤ k) && decide (k < tileKey (a + 1) 0 / 16)
  let move (k : Nat) : Nat := k + tileKey b 0 / 16 - tileKey a 0 / 16
  let cells := s.mem.filter fun e => decide (tileKey a 0 ≤ e.1) && decide (e.1 < tileKey (a + 1) 0)
  let s := s.wipeTiles b (b + 1)
  { s with
    mem := cells.foldl (fun m e => memPut m (e.1 + tileKey b 0 - tileKey a 0) e.2) s.mem
    pres := (s.pres.filter fun e => inTile e.1).foldl (fun t e => t.put (move e.1) e.2) s.pres
    poison := (s.poison.filter inTile).map move ++ s.poison }

/-- A snapshot of a core under way is done at once, before all of the core's tile store is written (R147). -/
def State.finishSnapshot (s : State) (c : Nat) : State :=
  let s := s.beforeWrite c 0 (2 ^ 20)
  match (s.core c).snapshot with
  | none => s
  | some n => { s.endSnapshot c n with agenda := (s.endSnapshot c n).agenda.filter fun e => e.ev != .snapshotBlockCopy c }

/-- The state of a source moves to its target, whose slots resume. -/
def State.moveCore (s : State) (a b : Nat) : State :=
  let s := s.finishSnapshot b
  let x := s.core a
  let s := s.copyTile a b
  let s := ((s.modCore b fun k => k.install b x).modCore a fun k => k.vacated b).thawLinks a
  let s := { s with
    agenda := s.agenda.map fun (e : Due) => { e with ev := rehome a b e.ev }
    hubs := Table.mapVals (fun (h : Hub) => { h with expanding := h.expanding.map fun (x : Stall) => { x with evs := x.evs.map (rehome a b) } }) s.hubs
    granted := s.granted.map (rehome a b)
    cores := Table.mapVals (fun (k : Core) =>
      { k with
        bankq := Table.mapVals (fun (q : List BankReq) => q.map fun (x : BankReq) => { x with ev := x.ev.map (rehome a b) }) k.bankq
        copies := k.copies.map fun (y : Copy) => if y.hcore == a && y.pop.isNone then { y with hcore := b } else y }) s.cores }
  let s := s.soon (x.service.map fun (v : Service) =>
    match v with
    | .access r => arrivalOf b { r with addr := fabricAddr b (offsetOf r.addr) }
    | .message m => .activeMessage { m with core := b })
  let s := s.soon (x.streams.map fun (y : Stream) => .streamRefill b y.id)
  ((((s.startCommand b).kickAll b).after 0 (.dispatch b)).modCore b Core.ungate).fitChanged

/-- The register that a record of an interrupted save shows: the first one awaited. -/
def Core.firstAwaited (k : Core) : Nat × Nat :=
  match (List.range 16).find? fun n => !(k.waitsFor n).isEmpty with
  | some n => (n, awaitedReg (k.waitsFor n))
  | none => (0, 0)

/-- `evac` at the hub: its status, or none while it goes on. -/
def State.evac (s : State) (id a b : Nat) : Option Nat × State :=
  let k := s.core a
  match k.evac with
  | none =>
    if devOf a ≠ devOf b ∨ a = b ∨ isSuper a ∨ isSuper b ∨ !(s.core b).vacant then (some 1, s)
    else if k.freeFwds.length < k.admitted.length then (some 3, s)
    else (none, s.modCore a fun k => k.freeze s.now id)
  | some (since, owner) =>
    if owner ≠ id then (none, s)
    else if k.still then (if (s.core b).vacant then (some 0, s.moveCore a b) else (some 1, s.thaw a))
    else if since + saveLimit ≤ s.now then
      let (n, r) := k.firstAwaited
      (some 2, (s.thaw a).asyncRec a n (k.slot n).asid 30 0 r)
    else (none, s)

/-! ### Serving a request -/

/-- The hub's answer to a request. -/
def State.hubSays (s : State) (m : HubMsg) (v : Word) : State := s.send (hubOf m.dev) m.src.core (.hubAnswer m v none)

/-- The hub refuses a request with a cause; `v` holds a population record's index. -/
def State.hubRefuses (s : State) (m : HubMsg) (cause v : Nat) : State :=
  s.send (hubOf m.dev) m.src.core (.hubAnswer m (BitVec.ofNat 64 v) (some cause))

/-- The request is looked at again after a while. -/
def State.hubAgain (s : State) (m : HubMsg) : State := s.after Config.us (.hubRequest m)

/-- A thread that may ask about a population record (R188). -/
def State.popMine (s : State) (m : HubMsg) (i : Nat) : Bool := m.sup || !(s.pop m.dev i).configured || (s.pop m.dev i).asid == m.asid

/-- What a request to the hub comes to. -/
def State.serveHub (s : State) (m : HubMsg) : State :=
  let d := m.dev
  let nat (v : Nat) : Word := BitVec.ofNat 64 v
  match m.ask with
  | .crd off => s.hubSays m (s.hubRead d off)
  | .cwr off v => (s.hubWrite d off v).hubSays m 0
  | .xinv va asid all global =>
    let s := (s.modHub d fun h => h.invalidate va asid all global).prunePages d
    if s.translating d va asid all global then s.hubAgain m else s.hubSays m 0
  | .snap v =>
    match s.snapStart d m.asid v with
    | none => s.hubAgain m
    | some (.error e, s) => s.hubRefuses m e 0
    | some (.ok w, s) => s.hubSays m w
  | .evac x y =>
    match s.evac m.src.id (coreNamed x) (coreNamed y) with
    | (none, s) => s.hubAgain m
    | (some st, s) => s.hubSays m (nat st)
  | .glaunch v tick =>
    match s.hubReads 0 v 64 with
    | .error e => s.hubRefuses m e 0
    | .ok a =>
      let key := tileKey (coreNamed a) (offsetOf a)
      let size := 64 + 48 * (s.value key 2).toNat
      -- the members are read only where the header does not decide the status
      match (if (s.value (key + 16) 1).toNat ≠ 1 ∧ offsetOf a + size ≤ 2 ^ 20 then s.hubReads 0 a size else .ok a) with
      | .error e => s.hubRefuses m e 0
      | .ok _ =>
        let (st, s) := s.glaunch d a tick
        s.hubSays m (nat st)
  | .popcfg v i =>
    match s.hubReads m.asid v 64 with
    | .error e => s.hubRefuses m e i
    | .ok a =>
      match s.popcfg d a i m.asid with
      | .error e => s.hubRefuses m e i
      | .ok s => s.hubSays m 0
  | .popstep i cancel =>
    let (st, s) := s.popstep d i cancel
    s.hubSays m (nat st)
  | .popq i => if s.popMine m i then s.hubSays m (s.popWord d i) else s.hubRefuses m 19 i
  | .popmig b =>
    let i := imageAt b 0 2
    if s.migFrozen d b then s.hubAgain m
    else if s.popMine m i then
      let (st, s) := s.popmig d b
      s.hubSays m (nat st)
    else s.hubRefuses m 19 i
  | .attest v =>
    let (x, s) := s.attest d m.asid v
    s.hubSays m (nat x)
  | .bankpw c v =>
    let owed := (s.core c).owedBanks v
    if s.now < owed then s.due owed (.hubRequest m)
    else (((s.modCore c fun k => k.bankPower v).settleRises c).kickAll c).hubSays m 0
  | .fwd c i v => (s.modCore c fun k => { k with fwds := k.fwds.put i (if v.getLsbD 14 then maskTo 0 v 0xFFF7FFF else 0) }).fitChanged.hubSays m 0

/-- HUB_REQUEST (R331). -/
def execHubRequest (s : State) : Host.Outcome State Fault Refusal :=
  s.perform fun s e => match e with | .hubRequest m => some (s.serveHub m) | _ => none

/-- HUB_ANSWER (R331): it fills the destination, or acknowledges; a refusal is the exact trap of the instruction. -/
def execHubAnswer (s : State) : Host.Outcome State Fault Refusal :=
  s.perform fun s e =>
    match e with
    | .hubAnswer m v cause =>
      let t := s.follow m.src
      match cause with
      | none =>
        match m.dest with
        | some (reg, seq) => some ((s.fillPart t (.scalar reg seq v)).complete t)
        | none => some (s.complete t)
      | some cause =>
        match s.accOf t with
        | none => some s
        | some a =>
          if cause = 19 then
            -- the population cause names the record, and no address (R384)
            let s := s.modSlot t.core t.slot fun x =>
              let x := { x with out := x.out.filter fun y => y.id != t.id }
              match a.hold.bind (·.old) with | none => x | some (n, r) => x.setReg n r
            let pc := (a.hold.map (·.addr)).getD (s.slot t.core t.slot).pc
            some ((s.takeTrap t.core t.slot pc 19 0 v.toNat).kickAll t.core)
          else some (s.refuseAcc t a cause)
    | _ => none

/-! ## A page for which no frame was found (R109) -/

/-- What becomes of one that waited, without the page: an access takes a translation fault, by its kind; an operation goes on without what it cannot
reach. -/
def State.noFrame (s : State) (ev : Event) : State :=
  match ev with
  | .translationRequest r => s.after 0 (.refusal r.src 11)
  | .bundleStore r | .viewLoad r => s.lineStep r
  | .commitRecordOperation m => s.recordStep (coreNamed m.record) m
  | .copyTransferLine c id j ok none => s.copyLine c id j ok
  | .copyTransferLine c id j ok (some l) => s.lineArrives c id j ok l
  | .streamRefill c id => s.refill c id
  | .snapshotBlockCopy c => s.snapStep c
  | .popLineageAppend d i j => s.appendLineage d i j
  | .popChildCommit d i j =>
    match (s.pop d i).children.find? fun x => x.1 == j with
    | some (_, x) => if x.opening then s.openChild d i j x else s
    | none => s
  | _ => s

/-- POOL_EXHAUSTED_TIMEOUT (R109): without a frame in all that time each that waited takes a translation fault. -/
def execPoolExhaustedTimeout (s : State) : Host.Outcome State Fault Refusal :=
  s.perform fun s e =>
    match e with
    | .poolExhaustedTimeout d frame =>
      if (s.hub d).expanding.any fun x => x.frame == frame && x.starved.any fun t => decide (t + poolTime ≤ s.now) then
        let (evs, s) := s.endStall d frame
        some (evs.foldl State.noFrame s)
      else some s
    | _ => none

end Sys2Proof.Machine
end

