-- ==== Sys2Proof/Machine/Vector.lean ====
section
/-!
DEFINITION. Page 3 and the lane-mask forms of page 4 (spec/13 R288 to R300, R306, R307).
-/

namespace Sys2Proof.Machine

/-- vadd (R291). -/
def execVadd (m : Mods) (x : Option ArithX) (o : OpVBin) (s : State) : Host.Outcome State Fault Refusal :=
  s.issue m fun s => s.vtyped m .f32 x o Fmt.add fun a b => a + b

/-- vsub (R291). -/
def execVsub (m : Mods) (x : Option ArithX) (o : OpVBin) (s : State) : Host.Outcome State Fault Refusal :=
  s.issue m fun s => s.vtyped m .f32 x o Fmt.sub fun a b => a - b

/-- vmul (R291). -/
def execVmul (m : Mods) (x : Option ArithX) (o : OpVBin) (s : State) : Host.Outcome State Fault Refusal :=
  s.issue m fun s => s.vtyped m .f32 x o Fmt.mul fun a b => a * b

/-- The three sources of vfma (R292). -/
def State.vfused (s : State) (m : Mods) (w : Nat) (o : OpVBin) (f : Nat → Nat → Nat → Nat × Sticky) : Try State :=
  let act := s.lanes m
  let fuse (x y z : BitVec 2048) : BitVec 2048 × Sticky :=
    let r := mapElems act w (fun i y => f (elemAt w x i) (elemAt w z i) y) 0 (List.range (256 / w)) (elems w y)
    (ofElems w r.1, r.2)
  s.vchecks m (o.a :: o.b :: vecsOf o.c) [] <|
  s.vwritable o.a <|
    match s.vpeek o.a with
    | .error e => .error e
    | .ok x =>
      match s.vpeek o.b with
      | .error e => .error e
      | .ok z =>
        match o.c with
        | .absent => .ok (s.vresult o.a act (fuse x z z))
        | .vec c =>
          match s.vpeek c with
          | .error e => .error e
          | .ok y => .ok ((s.vconsume [(o.a, false), (o.b, o.q), (c, false)]).vresult o.a act (fuse x y z))
        | .scal c =>
          s.readable c <|
            match s.peek c with
            | .error e => .error e
            | .ok y =>
              .ok (((s.vconsume [(o.a, false), (o.b, o.q)]).consume [(c, false)]).vresult o.a act (fuse x (splat w y) z))

/-- vfma (R292): a + b × c. -/
def execVfma (m : Mods) (x : Option ArithX) (o : OpVBin) (s : State) : Host.Outcome State Fault Refusal :=
  s.issue m fun s =>
    let t := tyOf .f32 x
    s.vfused m (elemBytes t) o fun a b c =>
      if t.isFloat then (elemFmt t).fma (s.fenv x) a b c
      else (elemInt t).lane (satOf x) ((elemInt t).elem a + (elemInt t).elem b * (elemInt t).elem c)

/-- vdiv (R291). -/
def execVdiv (m : Mods) (x : Option ArithX) (o : OpVBin) (s : State) : Host.Outcome State Fault Refusal :=
  s.issue m fun s => s.vtyped m .f32 x o Fmt.div fun a _ => a

/-- vsqrt (R291). -/
def execVsqrt (m : Mods) (x : Option ArithX) (o : OpVUn) (s : State) : Host.Outcome State Fault Refusal :=
  s.issue m fun s => s.vtyped1 m x o Fmt.sqrt fun a => a

/-- vmin (R291). -/
def execVmin (m : Mods) (x : Option ArithX) (o : OpVBin) (s : State) : Host.Outcome State Fault Refusal :=
  s.issue m fun s => s.vtyped m .f32 x o (fun f v => f.minMax v true) fun a b => min a b

/-- vmax (R291). -/
def execVmax (m : Mods) (x : Option ArithX) (o : OpVBin) (s : State) : Host.Outcome State Fault Refusal :=
  s.issue m fun s => s.vtyped m .f32 x o (fun f v => f.minMax v false) fun a b => max a b

/-- vabs (R291): floats as fabs. -/
def execVabs (m : Mods) (x : Option ArithX) (o : OpVUn) (s : State) : Host.Outcome State Fault Refusal :=
  s.issue m fun s => s.vtyped1 m x o (fun f _ c => (f.absCode c, {})) fun a => if a < 0 then -a else a

/-- vneg (R291). -/
def execVneg (m : Mods) (x : Option ArithX) (o : OpVUn) (s : State) : Host.Outcome State Fault Refusal :=
  s.issue m fun s => s.vtyped1 m x o (fun f _ c => (f.negCode c, {})) fun a => -a

/-- vmulh (R291): the upper half of the product; saturation ignored. -/
def execVmulh (m : Mods) (x : Option ArithX) (o : OpVBin) (s : State) : Host.Outcome State Fault Refusal :=
  s.issue m fun s =>
    let t := tyOf .i32 x
    s.vbinary m (elemBytes t) o fun act => lanes2 act (elemBytes t) fun a b =>
      (elemInt t).lane false ((elemInt t).elem a * (elemInt t).elem b / (2 ^ (8 * (elemBytes t)) : Nat))

/-- vand (R293). -/
def execVand (m : Mods) (o : OpVBin) (s : State) : Host.Outcome State Fault Refusal :=
  s.issue m fun s => s.vgroups m o fun a b => a &&& b

/-- vor (R293). -/
def execVor (m : Mods) (o : OpVBin) (s : State) : Host.Outcome State Fault Refusal :=
  s.issue m fun s => s.vgroups m o fun a b => a ||| b

/-- vxor (R293). -/
def execVxor (m : Mods) (o : OpVBin) (s : State) : Host.Outcome State Fault Refusal :=
  s.issue m fun s => s.vgroups m o fun a b => a ^^^ b

/-- vnot (R293). -/
def execVnot (m : Mods) (o : OpVUn) (s : State) : Host.Outcome State Fault Refusal :=
  s.issue m fun s => s.vunary m o fun _ x => (~~~x, {})

/-- vshl (R293). -/
def execVshl (m : Mods) (o : OpVBin) (s : State) : Host.Outcome State Fault Refusal :=
  s.issue m fun s => s.vgroups m o fun a b => a * 2 ^ (b % 32)

/-- vshr (R293). -/
def execVshr (m : Mods) (o : OpVBin) (s : State) : Host.Outcome State Fault Refusal :=
  s.issue m fun s => s.vgroups m o fun a b => a / 2 ^ (b % 32)

/-- vsar (R293). -/
def execVsar (m : Mods) (o : OpVBin) (s : State) : Host.Outcome State Fault Refusal :=
  s.issue m fun s => s.vgroups m o fun a b => ((BitVec.ofNat 32 a).sshiftRight (b % 32)).toNat

/-- vcmp.eq (R295). -/
def execVcmpEq (m : Mods) (x : Option ArithX) (o : OpVCmp) (s : State) : Host.Outcome State Fault Refusal :=
  s.issue m fun s => s.vcompare m x o .eq

/-- vcmp.lt (R295). -/
def execVcmpLt (m : Mods) (x : Option ArithX) (o : OpVCmp) (s : State) : Host.Outcome State Fault Refusal :=
  s.issue m fun s => s.vcompare m x o .lt

/-- vcmp.le (R295). -/
def execVcmpLe (m : Mods) (x : Option ArithX) (o : OpVCmp) (s : State) : Host.Outcome State Fault Refusal :=
  s.issue m fun s => s.vcompare m x o .le

/-- vcmp.un (R295). -/
def execVcmpUn (m : Mods) (x : Option ArithX) (o : OpVCmp) (s : State) : Host.Outcome State Fault Refusal :=
  s.issue m fun s => s.vcompare m x o .un

/-- vsel (R294): with c, b or c in each active group; without, b where the bit selects it. -/
def execVsel (m : Mods) (o : OpVSel) (s : State) : Host.Outcome State Fault Refusal :=
  s.issue m fun s =>
    let pick := if o.neg then ~~~(s.me.mask o.m.toNat) else s.me.mask o.m.toNat
    let act := s.lanes m
    s.vchecks m (o.a :: o.b :: vecsOf o.c) [o.m] <|
    s.vwritable o.a <|
      match o.c with
      | .absent =>
        match s.vpeek o.b with
        | .error e => .error e
        | .ok x => .ok ((s.vconsume [(o.b, o.q)]).vresult o.a (act &&& pick) (x, {}))
      | .vec c =>
        match s.vpeek o.b with
        | .error e => .error e
        | .ok x =>
          match s.vpeek c with
          | .error e => .error e
          | .ok y => .ok ((s.vconsume [(o.b, o.q), (c, false)]).vresult o.a act (overlay pick y x, {}))
      | .scal c =>
        s.readable c <|
          match s.vpeek o.b with
          | .error e => .error e
          | .ok x =>
            match s.peek c with
            | .error e => .error e
            | .ok y =>
              .ok (((s.vconsume [(o.b, o.q)]).consume [(c, false)]).vresult o.a act (overlay pick (splat 4 y) x, {}))

/-- The width in bytes of a conversion code (R283). -/
def codeBytes (c : Nat) : Nat :=
  match c with
  | 0 | 3 | 7 => 4
  | 1 | 2 | 4 => 2
  | _ => 1

/-- The elements of a conversion (R297): the source's from element `p` on, in the places from `q` on; flags of the active ones. -/
def convertElems (act : Word) (v : FEnv) (tgt src : Nat) (x : BitVec 2048) (p q : Nat) : Nat → List (Nat × Nat) × Sticky
  | 0 => ([], {})
  | n + 1 =>
    let t := convertElems act v tgt src x p q n
    if actElem act (codeBytes tgt) (q + n) then
      let r := cvtElem v tgt src (BitVec.ofNat 64 (elemAt (codeBytes src) x (p + n)))
      (t.1 ++ [(q + n, r.1.toNat % 2 ^ (8 * codeBytes tgt))], t.2.or r.2)
    else t

/-- Elements written into a register at their places. -/
def putElems (w : Nat) (v : Nat) : List (Nat × Nat) → Nat
  | [] => v
  | (i, e) :: rest => putElems w (setBits v (8 * w * i) (8 * w) e) rest

/-- vcvt and vcvtn (R296, R297): `high` is vcvtn. -/
def State.vconvert (s : State) (m : Mods) (x : Option ArithX) (o : OpVCvt) (high : Bool) : Try State :=
  let act := s.lanes m
  let wt := codeBytes o.tgt.toNat
  let ws := codeBytes o.src.toNat
  let n := 256 / max ws wt
  s.vchecks m [o.a, o.b] [] <|
  s.vwritable o.a <|
    match s.vpeek o.b with
    | .error e => .error e
    | .ok u =>
      let r := convertElems act (s.fenv x) o.tgt.toNat o.src.toNat u
        (if high && ws < wt then n else 0) (if high && wt < ws then n else 0) n
      let s := s.vconsume [(o.b, o.q)]
      let s := s.modVreg o.a fun v => v.write (BitVec.ofNat 2048 (putElems wt v.v.toNat r.1))
      .ok (s.modPred r.2.raise)

/-- vcvt (R296, R297). -/
def execVcvt (m : Mods) (x : Option ArithX) (o : OpVCvt) (s : State) : Host.Outcome State Fault Refusal :=
  s.issue m fun s => s.vconvert m x o false

/-- vcvtn (R296, R297). -/
def execVcvtn (m : Mods) (x : Option ArithX) (o : OpVCvt) (s : State) : Host.Outcome State Fault Refusal :=
  s.issue m fun s => s.vconvert m x o true

/-- The integers of the active elements. -/
def activeInts (t : ElemTy) (act : Word) (x : BitVec 2048) : List Int :=
  (activeElems act (elemBytes t) x).filterMap fun e => e.map (elemInt t).elem

/-- vredadd (R299, R300). -/
def execVredadd (m : Mods) (x : Option ArithX) (o : OpSV) (s : State) : Host.Outcome State Fault Refusal :=
  s.issue m fun s => s.vtoScalar m o fun act v =>
    let t := tyOf .f32 x
    if t.isFloat then
      let widen (c : Nat) : Nat × Sticky := if t = .f32 then (c, {}) else (elemFmt t).convert fp32 { flush := s.me.flush } c
      fres (reduceFloat (fp32.add (s.fenv x)) ((activeElems act (elemBytes t) v).map fun e => e.map widen) 0)
    else { v := (elemInt t).write (satOf x) ((activeInts t act v).foldl (fun a b => a + b) 0) }

/-- vredmin (R299, R300). -/
def execVredmin (m : Mods) (x : Option ArithX) (o : OpSV) (s : State) : Host.Outcome State Fault Refusal :=
  s.issue m fun s => s.vtoScalar m o fun act v =>
    let t := tyOf .f32 x
    let f := elemFmt t
    if t.isFloat then
      fres (reduceFloat (f.minMax (s.fenv x) true) ((activeElems act (elemBytes t) v).map fun e => e.map fun c => (c, {})) f.infCode)
    else { v := (elemInt t).write false ((activeInts t act v).foldl min (elemInt t).maxVal) }

/-- vredmax (R299, R300). -/
def execVredmax (m : Mods) (x : Option ArithX) (o : OpSV) (s : State) : Host.Outcome State Fault Refusal :=
  s.issue m fun s => s.vtoScalar m o fun act v =>
    let t := tyOf .f32 x
    let f := elemFmt t
    if t.isFloat then
      fres (reduceFloat (f.minMax (s.fenv x) false) ((activeElems act (elemBytes t) v).map fun e => e.map fun c => (c, {}))
        (f.signed true f.infCode))
    else { v := (elemInt t).write false ((activeInts t act v).foldl max (elemInt t).minVal) }

/-- vperm (R293). -/
def execVperm (m : Mods) (o : OpVBin) (s : State) : Host.Outcome State Fault Refusal :=
  s.issue m fun s => s.vbinary m 4 o fun _ x y =>
    (ofElems 4 ((elems 4 y).map fun e => elemAt 4 x (e % 64)), {})

/-- vrot (R293). -/
def execVrot (m : Mods) (o : OpVBin) (s : State) : Host.Outcome State Fault Refusal :=
  s.issue m fun s => s.vbinary m 4 o fun _ x y =>
    (ofElems 4 ((List.range 64).map fun j => elemAt 4 x ((j + elemAt 4 y 0 % 64) % 64)), {})

/-- vbcast (R299). -/
def execVbcast (m : Mods) (o : OpVS) (s : State) : Host.Outcome State Fault Refusal :=
  s.issue m fun s => s.vfromScalar m o fun act x => (act, splat 4 x)

/-- The one group that vins and vext name (R299): the lowest active one under idx[6]. -/
def namedGroup (act : Word) (idx : BitVec 7) : Nat := if idx.getLsbD 6 then lowestGroup act else idx.toNat % 64

/-- vext (R299). -/
def execVext (m : Mods) (o : OpVExt) (s : State) : Host.Outcome State Fault Refusal :=
  s.issue m fun s => s.vtoScalar m ⟨o.a, o.b, o.q⟩ fun act x =>
    let g := namedGroup act o.idx
    { v := if act.getLsbD g then BitVec.ofNat 64 (elemAt 4 x g) else 0 }

/-- vins (R299). -/
def execVins (m : Mods) (o : OpVIns) (s : State) : Host.Outcome State Fault Refusal :=
  s.issue m fun s => s.vfromScalar m ⟨o.a, o.b, o.q⟩ fun act x => (act &&& ((1 : Word) <<< namedGroup act o.idx), splat 4 x)

/-- vexp2 (R291). -/
def execVexp2 (m : Mods) (x : Option ArithX) (o : OpVUn) (s : State) : Host.Outcome State Fault Refusal :=
  s.issue m fun s => s.vtyped1 m x o (fun f v => f.fixed v f32exp2) fun a => a

/-- vrcp (R291). -/
def execVrcp (m : Mods) (x : Option ArithX) (o : OpVUn) (s : State) : Host.Outcome State Fault Refusal :=
  s.issue m fun s => s.vtyped1 m x o Fmt.rcp fun a => a

/-- vmov (R293). -/
def execVmov (m : Mods) (o : OpVUn) (s : State) : Host.Outcome State Fault Refusal :=
  s.issue m fun s => s.vunary m o fun _ x => (x, {})

/-- vclr (R306): empty, its content unchanged, a pending fill cancelled. -/
def execVclr (m : Mods) (o : OpV) (s : State) : Host.Outcome State Fault Refusal :=
  s.issue m fun s =>
    s.vchecks m [o.a] [] <| s.vwritable o.a <|
      .ok (s.modVreg o.a fun r => { r with full := false, failed := false, pend := false })

/-- mand (R307). -/
def execMand (m : Mods) (o : OpMBin) (s : State) : Host.Outcome State Fault Refusal :=
  s.issue m fun s => s.mbinary m o fun x y => x &&& y

/-- mor (R307). -/
def execMor (m : Mods) (o : OpMBin) (s : State) : Host.Outcome State Fault Refusal :=
  s.issue m fun s => s.mbinary m o fun x y => x ||| y

/-- mxor (R307). -/
def execMxor (m : Mods) (o : OpMBin) (s : State) : Host.Outcome State Fault Refusal :=
  s.issue m fun s => s.mbinary m o fun x y => x ^^^ y

/-- mnot (R307). -/
def execMnot (m : Mods) (o : OpMUn) (s : State) : Host.Outcome State Fault Refusal :=
  s.issue m fun s => s.vchecks m [] [o.a, o.b] <| .ok (s.mwrite m o.a (~~~(s.me.mask o.b.toNat)))

/-- mset (R307). -/
def execMset (m : Mods) (o : OpMSet) (s : State) : Host.Outcome State Fault Refusal :=
  s.issue m fun s => s.vchecks m [] [o.a] <| s.reading o.b o.q fun x s => .ok (s.mwrite m o.a x)

/-- mget (R307). -/
def execMget (m : Mods) (o : OpMGet) (s : State) : Host.Outcome State Fault Refusal :=
  s.issue m fun s => s.mtoScalar m o fun x => x

/-- mpopc (R307). -/
def execMpopc (m : Mods) (o : OpMGet) (s : State) : Host.Outcome State Fault Refusal :=
  s.issue m fun s => s.mtoScalar m o fun x => BitVec.ofNat 64 (onesBelow x 64)

/-- mfirst (R307): 64 when no bit is set. -/
def execMfirst (m : Mods) (o : OpMGet) (s : State) : Host.Outcome State Fault Refusal :=
  s.issue m fun s => s.mtoScalar m o fun x => BitVec.ofNat 64 (lowestGroup x)

end Sys2Proof.Machine
end

