-- ==== Sys2Proof/Machine/Dispatch.lean ====
section
/-!
DEFINITION. The meaning of every step: one arm per constructor, each one call of a meaning.
-/

namespace Sys2Proof.Machine

/-- The meaning of one step of the part (spec/opcode_table.json). -/
def exec (i : Instr) (s : State) : Host.Outcome State Fault Refusal :=
  match i with
  | .nop m => Sys2Proof.Machine.execNop m s
  | .mov m o => Sys2Proof.Machine.execMov m o s
  | .movi m o => Sys2Proof.Machine.execMovi m o s
  | .add m x o => Sys2Proof.Machine.execAdd m x o s
  | .addi m x o => Sys2Proof.Machine.execAddi m x o s
  | .sub m x o => Sys2Proof.Machine.execSub m x o s
  | .mul m x o => Sys2Proof.Machine.execMul m x o s
  | .mulh m x o => Sys2Proof.Machine.execMulh m x o s
  | .mulhu m x o => Sys2Proof.Machine.execMulhu m x o s
  | .div m x o => Sys2Proof.Machine.execDiv m x o s
  | .divu m x o => Sys2Proof.Machine.execDivu m x o s
  | .rem m x o => Sys2Proof.Machine.execRem m x o s
  | .remu m x o => Sys2Proof.Machine.execRemu m x o s
  | .and m o => Sys2Proof.Machine.execAnd m o s
  | .andi m o => Sys2Proof.Machine.execAndi m o s
  | .or m o => Sys2Proof.Machine.execOr m o s
  | .ori m o => Sys2Proof.Machine.execOri m o s
  | .xor m o => Sys2Proof.Machine.execXor m o s
  | .xori m o => Sys2Proof.Machine.execXori m o s
  | .not m o => Sys2Proof.Machine.execNot m o s
  | .neg m x o => Sys2Proof.Machine.execNeg m x o s
  | .shl m o => Sys2Proof.Machine.execShl m o s
  | .shli m o => Sys2Proof.Machine.execShli m o s
  | .shr m o => Sys2Proof.Machine.execShr m o s
  | .shri m o => Sys2Proof.Machine.execShri m o s
  | .sar m o => Sys2Proof.Machine.execSar m o s
  | .sari m o => Sys2Proof.Machine.execSari m o s
  | .rol m o => Sys2Proof.Machine.execRol m o s
  | .min m x o => Sys2Proof.Machine.execMin m x o s
  | .max m x o => Sys2Proof.Machine.execMax m x o s
  | .minu m x o => Sys2Proof.Machine.execMinu m x o s
  | .maxu m x o => Sys2Proof.Machine.execMaxu m x o s
  | .clz m o => Sys2Proof.Machine.execClz m o s
  | .ctz m o => Sys2Proof.Machine.execCtz m o s
  | .popc m o => Sys2Proof.Machine.execPopc m o s
  | .sext m o => Sys2Proof.Machine.execSext m o s
  | .zext m o => Sys2Proof.Machine.execZext m o s
  | .bfx m o => Sys2Proof.Machine.execBfx m o s
  | .bfi m o => Sys2Proof.Machine.execBfi m o s
  | .lea m o => Sys2Proof.Machine.execLea m o s
  | .sel m o => Sys2Proof.Machine.execSel m o s
  | .plog m o => Sys2Proof.Machine.execPlog m o s
  | .rdp m o => Sys2Proof.Machine.execRdp m o s
  | .wrp m o => Sys2Proof.Machine.execWrp m o s
  | .cmpEq m o => Sys2Proof.Machine.execCmpEq m o s
  | .cmpLt m o => Sys2Proof.Machine.execCmpLt m o s
  | .cmpLtu m o => Sys2Proof.Machine.execCmpLtu m o s
  | .cmpiEq m o => Sys2Proof.Machine.execCmpiEq m o s
  | .cmpiLt m o => Sys2Proof.Machine.execCmpiLt m o s
  | .cmpiLtu m o => Sys2Proof.Machine.execCmpiLtu m o s
  | .cmpiLe m o => Sys2Proof.Machine.execCmpiLe m o s
  | .cmpiLeu m o => Sys2Proof.Machine.execCmpiLeu m o s
  | .br m o => Sys2Proof.Machine.execBr m o s
  | .brp m o => Sys2Proof.Machine.execBrp m o s
  | .call m o => Sys2Proof.Machine.execCall m o s
  | .ret m => Sys2Proof.Machine.execRet m s
  | .jmpr m o => Sys2Proof.Machine.execJmpr m o s
  | .loop m o => Sys2Proof.Machine.execLoop m o s
  | .clr m o => Sys2Proof.Machine.execClr m o s
  | .ld m o => Sys2Proof.Machine.execLd m o s
  | .st m o => Sys2Proof.Machine.execSt m o s
  | .ldt m o => Sys2Proof.Machine.execLdt m o s
  | .ldf m o => Sys2Proof.Machine.execLdf m o s
  | .ldfe m o => Sys2Proof.Machine.execLdfe m o s
  | .stef m o => Sys2Proof.Machine.execStef m o s
  | .setf m o => Sys2Proof.Machine.execSetf m o s
  | .sete m o => Sys2Proof.Machine.execSete m o s
  | .fence m o => Sys2Proof.Machine.execFence m o s
  | .amoSwapW m o => Sys2Proof.Machine.execAmoSwapW m o s
  | .amoSwapD m o => Sys2Proof.Machine.execAmoSwapD m o s
  | .casW m o => Sys2Proof.Machine.execCasW m o s
  | .casD m o => Sys2Proof.Machine.execCasD m o s
  | .amoOp m o => Sys2Proof.Machine.execAmoOp m o s
  | .view m o => Sys2Proof.Machine.execView m o s
  | .vclose m o => Sys2Proof.Machine.execVclose m o s
  | .bopen m o => Sys2Proof.Machine.execBopen m o s
  | .bopenJ m o => Sys2Proof.Machine.execBopenJ m o s
  | .bcommit m o => Sys2Proof.Machine.execBcommit m o s
  | .babort m o => Sys2Proof.Machine.execBabort m o s
  | .fadd m x o => Sys2Proof.Machine.execFadd m x o s
  | .fsub m x o => Sys2Proof.Machine.execFsub m x o s
  | .fmul m x o => Sys2Proof.Machine.execFmul m x o s
  | .fdiv m x o => Sys2Proof.Machine.execFdiv m x o s
  | .fsqrt m x o => Sys2Proof.Machine.execFsqrt m x o s
  | .fma m x o => Sys2Proof.Machine.execFma m x o s
  | .fmin m x o => Sys2Proof.Machine.execFmin m x o s
  | .fmax m x o => Sys2Proof.Machine.execFmax m x o s
  | .fabs m x o => Sys2Proof.Machine.execFabs m x o s
  | .fneg m x o => Sys2Proof.Machine.execFneg m x o s
  | .fcmpEq m x o => Sys2Proof.Machine.execFcmpEq m x o s
  | .fcmpLt m x o => Sys2Proof.Machine.execFcmpLt m x o s
  | .fcmpLe m x o => Sys2Proof.Machine.execFcmpLe m x o s
  | .fcmpUn m x o => Sys2Proof.Machine.execFcmpUn m x o s
  | .fcvt m x o => Sys2Proof.Machine.execFcvt m x o s
  | .fround m x o => Sys2Proof.Machine.execFround m x o s
  | .fsin m x o => Sys2Proof.Machine.execFsin m x o s
  | .fcos m x o => Sys2Proof.Machine.execFcos m x o s
  | .fexp2 m x o => Sys2Proof.Machine.execFexp2 m x o s
  | .flog2 m x o => Sys2Proof.Machine.execFlog2 m x o s
  | .frcp m x o => Sys2Proof.Machine.execFrcp m x o s
  | .fclass m o => Sys2Proof.Machine.execFclass m o s
  | .fbit m o => Sys2Proof.Machine.execFbit m o s
  | .vadd m x o => Sys2Proof.Machine.execVadd m x o s
  | .vsub m x o => Sys2Proof.Machine.execVsub m x o s
  | .vmul m x o => Sys2Proof.Machine.execVmul m x o s
  | .vfma m x o => Sys2Proof.Machine.execVfma m x o s
  | .vdiv m x o => Sys2Proof.Machine.execVdiv m x o s
  | .vsqrt m x o => Sys2Proof.Machine.execVsqrt m x o s
  | .vmin m x o => Sys2Proof.Machine.execVmin m x o s
  | .vmax m x o => Sys2Proof.Machine.execVmax m x o s
  | .vabs m x o => Sys2Proof.Machine.execVabs m x o s
  | .vneg m x o => Sys2Proof.Machine.execVneg m x o s
  | .vmulh m x o => Sys2Proof.Machine.execVmulh m x o s
  | .vand m o => Sys2Proof.Machine.execVand m o s
  | .vor m o => Sys2Proof.Machine.execVor m o s
  | .vxor m o => Sys2Proof.Machine.execVxor m o s
  | .vnot m o => Sys2Proof.Machine.execVnot m o s
  | .vshl m o => Sys2Proof.Machine.execVshl m o s
  | .vshr m o => Sys2Proof.Machine.execVshr m o s
  | .vsar m o => Sys2Proof.Machine.execVsar m o s
  | .vcmpEq m x o => Sys2Proof.Machine.execVcmpEq m x o s
  | .vcmpLt m x o => Sys2Proof.Machine.execVcmpLt m x o s
  | .vcmpLe m x o => Sys2Proof.Machine.execVcmpLe m x o s
  | .vcmpUn m x o => Sys2Proof.Machine.execVcmpUn m x o s
  | .vsel m o => Sys2Proof.Machine.execVsel m o s
  | .vcvt m x o => Sys2Proof.Machine.execVcvt m x o s
  | .vcvtn m x o => Sys2Proof.Machine.execVcvtn m x o s
  | .vredadd m x o => Sys2Proof.Machine.execVredadd m x o s
  | .vredmin m x o => Sys2Proof.Machine.execVredmin m x o s
  | .vredmax m x o => Sys2Proof.Machine.execVredmax m x o s
  | .vperm m o => Sys2Proof.Machine.execVperm m o s
  | .vrot m o => Sys2Proof.Machine.execVrot m o s
  | .vbcast m o => Sys2Proof.Machine.execVbcast m o s
  | .vext m o => Sys2Proof.Machine.execVext m o s
  | .vins m o => Sys2Proof.Machine.execVins m o s
  | .vexp2 m x o => Sys2Proof.Machine.execVexp2 m x o s
  | .vrcp m x o => Sys2Proof.Machine.execVrcp m x o s
  | .vmov m o => Sys2Proof.Machine.execVmov m o s
  | .vld m o => Sys2Proof.Machine.execVld m o s
  | .vst m o => Sys2Proof.Machine.execVst m o s
  | .vldf m o => Sys2Proof.Machine.execVldf m o s
  | .vldfe m o => Sys2Proof.Machine.execVldfe m o s
  | .vstef m o => Sys2Proof.Machine.execVstef m o s
  | .vgath m o => Sys2Proof.Machine.execVgath m o s
  | .vscat m o => Sys2Proof.Machine.execVscat m o s
  | .vclr m o => Sys2Proof.Machine.execVclr m o s
  | .mand m o => Sys2Proof.Machine.execMand m o s
  | .mor m o => Sys2Proof.Machine.execMor m o s
  | .mxor m o => Sys2Proof.Machine.execMxor m o s
  | .mnot m o => Sys2Proof.Machine.execMnot m o s
  | .mset m o => Sys2Proof.Machine.execMset m o s
  | .mget m o => Sys2Proof.Machine.execMget m o s
  | .mpopc m o => Sys2Proof.Machine.execMpopc m o s
  | .mfirst m o => Sys2Proof.Machine.execMfirst m o s
  | .shape m o => Sys2Proof.Machine.execShape m o s
  | .cp m o => Sys2Proof.Machine.execCp m o s
  | .cpD m o => Sys2Proof.Machine.execCpD m o s
  | .cpBv m o => Sys2Proof.Machine.execCpBv m o s
  | .cpx m o => Sys2Proof.Machine.execCpx m o s
  | .cpxD m o => Sys2Proof.Machine.execCpxD m o s
  | .streamScalar m o => Sys2Proof.Machine.execStreamScalar m o s
  | .streamVector m o => Sys2Proof.Machine.execStreamVector m o s
  | .unstreamScalar m o => Sys2Proof.Machine.execUnstreamScalar m o s
  | .unstreamVector m o => Sys2Proof.Machine.execUnstreamVector m o s
  | .hcfg m o => Sys2Proof.Machine.execHcfg m o s
  | .hexpect m o => Sys2Proof.Machine.execHexpect m o s
  | .hexpectA m o => Sys2Proof.Machine.execHexpectA m o s
  | .harr m o => Sys2Proof.Machine.execHarr m o s
  | .hwaitP m o => Sys2Proof.Machine.execHwaitP m o s
  | .hwaitS m o => Sys2Proof.Machine.execHwaitS m o s
  | .hacq m o => Sys2Proof.Machine.execHacq m o s
  | .hrel m o => Sys2Proof.Machine.execHrel m o s
  | .mxs m => Sys2Proof.Machine.execMxs m s
  | .mxr m o => Sys2Proof.Machine.execMxr m o s
  | .spawn m o => Sys2Proof.Machine.execSpawn m o s
  | .quit m => Sys2Proof.Machine.execQuit m s
  | .yield m => Sys2Proof.Machine.execYield m s
  | .park m => Sys2Proof.Machine.execPark m s
  | .wake m o => Sys2Proof.Machine.execWake m o s
  | .mig m o => Sys2Proof.Machine.execMig m o s
  | .link m o => Sys2Proof.Machine.execLink m o s
  | .amsg m o => Sys2Proof.Machine.execAmsg m o s
  | .tenq m o => Sys2Proof.Machine.execTenq m o s
  | .tdep m o => Sys2Proof.Machine.execTdep m o s
  | .bar m => Sys2Proof.Machine.execBar m s
  | .fitw m o => Sys2Proof.Machine.execFitw m o s
  | .popq m o => Sys2Proof.Machine.execPopq m o s
  | .tick m o => Sys2Proof.Machine.execTick m o s
  | .selfid m o => Sys2Proof.Machine.execSelfid m o s
  | .popmig m o => Sys2Proof.Machine.execPopmig m o s
  | .rdsw m o => Sys2Proof.Machine.execRdsw m o s
  | .wrsw m o => Sys2Proof.Machine.execWrsw m o s
  | .crd m o => Sys2Proof.Machine.execCrd m o s
  | .cwr m o => Sys2Proof.Machine.execCwr m o s
  | .trap m o => Sys2Proof.Machine.execTrap m o s
  | .tret m => Sys2Proof.Machine.execTret m s
  | .halt m => Sys2Proof.Machine.execHalt m s
  | .bankpw m o => Sys2Proof.Machine.execBankpw m o s
  | .xinv m o => Sys2Proof.Machine.execXinv m o s
  | .snap m o => Sys2Proof.Machine.execSnap m o s
  | .evac m o => Sys2Proof.Machine.execEvac m o s
  | .fwd m o => Sys2Proof.Machine.execFwd m o s
  | .glaunch m o => Sys2Proof.Machine.execGlaunch m o s
  | .popcfg m o => Sys2Proof.Machine.execPopcfg m o s
  | .popstep m o => Sys2Proof.Machine.execPopstep m o s
  | .hdead m o => Sys2Proof.Machine.execHdead m o s
  | .hcomp m o => Sys2Proof.Machine.execHcomp m o s
  | .attest m o => Sys2Proof.Machine.execAttest m o s
  | .asid m o => Sys2Proof.Machine.execAsid m o s
  | .matrixPushAcceptance => Sys2Proof.Machine.execMatrixPushAcceptance s
  | .mm => Sys2Proof.Machine.execMm s
  | .ldb => Sys2Proof.Machine.execLdb s
  | .drain => Sys2Proof.Machine.execDrain s
  | .drainWakeUp => Sys2Proof.Machine.execDrainWakeUp s
  | .accZero => Sys2Proof.Machine.execAccZero s
  | .ldacc => Sys2Proof.Machine.execLdacc s
  | .setfmt => Sys2Proof.Machine.execSetfmt s
  | .mfence => Sys2Proof.Machine.execMfence s
  | .matrixCommandCompletion => Sys2Proof.Machine.execMatrixCommandCompletion s
  | .copyAcceptance => Sys2Proof.Machine.execCopyAcceptance s
  | .copyTransferLine => Sys2Proof.Machine.execCopyTransferLine s
  | .handleSubtraction => Sys2Proof.Machine.execHandleSubtraction s
  | .streamRefill => Sys2Proof.Machine.execStreamRefill s
  | .handleEvaluation => Sys2Proof.Machine.execHandleEvaluation s
  | .remoteHandleArrival => Sys2Proof.Machine.execRemoteHandleArrival s
  | .snapshotBlockCopy => Sys2Proof.Machine.execSnapshotBlockCopy s
  | .commitRecordOperation => Sys2Proof.Machine.execCommitRecordOperation s
  | .bundleStore => Sys2Proof.Machine.execBundleStore s
  | .viewLoad => Sys2Proof.Machine.execViewLoad s
  | .viewAgeExpiry => Sys2Proof.Machine.execViewAgeExpiry s
  | .popConsume => Sys2Proof.Machine.execPopConsume s
  | .popChildCommit => Sys2Proof.Machine.execPopChildCommit s
  | .popLineageAppend => Sys2Proof.Machine.execPopLineageAppend s
  | .popStepClose => Sys2Proof.Machine.execPopStepClose s
  | .spawnRequest => Sys2Proof.Machine.execSpawnRequest s
  | .taskArmRequest => Sys2Proof.Machine.execTaskArmRequest s
  | .decrement => Sys2Proof.Machine.execDecrement s
  | .dispatch => Sys2Proof.Machine.execDispatch s
  | .spawnThrottleExpiry => Sys2Proof.Machine.execSpawnThrottleExpiry s
  | .bankRiseComplete => Sys2Proof.Machine.execBankRiseComplete s
  | .bankClearComplete => Sys2Proof.Machine.execBankClearComplete s
  | .clockGate => Sys2Proof.Machine.execClockGate s
  | .gangReserve => Sys2Proof.Machine.execGangReserve s
  | .gangConfirmation => Sys2Proof.Machine.execGangConfirmation s
  | .gangConfirmDeadline => Sys2Proof.Machine.execGangConfirmDeadline s
  | .gangGo => Sys2Proof.Machine.execGangGo s
  | .gangCancel => Sys2Proof.Machine.execGangCancel s
  | .gangMemberStart => Sys2Proof.Machine.execGangMemberStart s
  | .barrierArrival => Sys2Proof.Machine.execBarrierArrival s
  | .contextImage => Sys2Proof.Machine.execContextImage s
  | .migrationResend => Sys2Proof.Machine.execMigrationResend s
  | .activeMessage => Sys2Proof.Machine.execActiveMessage s
  | .serviceHandlerStart => Sys2Proof.Machine.execServiceHandlerStart s
  | .serviceBuiltinAccess => Sys2Proof.Machine.execServiceBuiltinAccess s
  | .serviceHandlerLimit => Sys2Proof.Machine.execServiceHandlerLimit s
  | .bankAccess => Sys2Proof.Machine.execBankAccess s
  | .remoteRead => Sys2Proof.Machine.execRemoteRead s
  | .remoteWrite => Sys2Proof.Machine.execRemoteWrite s
  | .remoteAtomic => Sys2Proof.Machine.execRemoteAtomic s
  | .fill => Sys2Proof.Machine.execFill s
  | .acknowledgement => Sys2Proof.Machine.execAcknowledgement s
  | .refusal => Sys2Proof.Machine.execRefusal s
  | .trapRecordEntry => Sys2Proof.Machine.execTrapRecordEntry s
  | .busy => Sys2Proof.Machine.execBusy s
  | .wakeMessage => Sys2Proof.Machine.execWakeMessage s
  | .orderedStore => Sys2Proof.Machine.execOrderedStore s
  | .orderedStoreRelease => Sys2Proof.Machine.execOrderedStoreRelease s
  | .hubRequest => Sys2Proof.Machine.execHubRequest s
  | .hubAnswer => Sys2Proof.Machine.execHubAnswer s
  | .fabricOpen => Sys2Proof.Machine.execFabricOpen s
  | .fabricGrant => Sys2Proof.Machine.execFabricGrant s
  | .routerCycle => Sys2Proof.Machine.execRouterCycle s
  | .linkWord => Sys2Proof.Machine.execLinkWord s
  | .linkCreditReturn => Sys2Proof.Machine.execLinkCreditReturn s
  | .ucieFlit => Sys2Proof.Machine.execUcieFlit s
  | .linkFrame => Sys2Proof.Machine.execLinkFrame s
  | .deviceAcknowledgement => Sys2Proof.Machine.execDeviceAcknowledgement s
  | .retransmitTimeout => Sys2Proof.Machine.execRetransmitTimeout s
  | .creditSyncDue => Sys2Proof.Machine.execCreditSyncDue s
  | .creditSync => Sys2Proof.Machine.execCreditSync s
  | .linkRetrain => Sys2Proof.Machine.execLinkRetrain s
  | .linkUp => Sys2Proof.Machine.execLinkUp s
  | .linkDown => Sys2Proof.Machine.execLinkDown s
  | .routeRefusalTimeout => Sys2Proof.Machine.execRouteRefusalTimeout s
  | .timeBaseTick => Sys2Proof.Machine.execTimeBaseTick s
  | .timeExchangePeriod => Sys2Proof.Machine.execTimeExchangePeriod s
  | .timeExchange => Sys2Proof.Machine.execTimeExchange s
  | .translationRequest => Sys2Proof.Machine.execTranslationRequest s
  | .translationWalkComplete => Sys2Proof.Machine.execTranslationWalkComplete s
  | .hbmChannelRequest => Sys2Proof.Machine.execHbmChannelRequest s
  | .bulkBufferInvalidationAck => Sys2Proof.Machine.execBulkBufferInvalidationAck s
  | .capacityExpansion => Sys2Proof.Machine.execCapacityExpansion s
  | .poolExhaustedTimeout => Sys2Proof.Machine.execPoolExhaustedTimeout s
  | .parityRebuild => Sys2Proof.Machine.execParityRebuild s
  | .hbmRefresh => Sys2Proof.Machine.execHbmRefresh s
  | .hbmScrub => Sys2Proof.Machine.execHbmScrub s
  | .notLiveLineExpiry => Sys2Proof.Machine.execNotLiveLineExpiry s
  | .tileScrub => Sys2Proof.Machine.execTileScrub s
  | .stateStorageError => Sys2Proof.Machine.execStateStorageError s
  | .journalReplay => Sys2Proof.Machine.execJournalReplay s
  | .journalCancel => Sys2Proof.Machine.execJournalCancel s
  | .contextSave => Sys2Proof.Machine.execContextSave s
  | .saveFillTimeout => Sys2Proof.Machine.execSaveFillTimeout s
  | .contextRestore => Sys2Proof.Machine.execContextRestore s
  | .contextDiscard => Sys2Proof.Machine.execContextDiscard s
  | .contextKill => Sys2Proof.Machine.execContextKill s
  | .vwinWrite => Sys2Proof.Machine.execVwinWrite s
  | .routeWrite => Sys2Proof.Machine.execRouteWrite s
  | .tmasterWrite => Sys2Proof.Machine.execTmasterWrite s
  | .linkstWrite => Sys2Proof.Machine.execLinkstWrite s
  | .registerWrite => Sys2Proof.Machine.execRegisterWrite s
  | .governorSample => Sys2Proof.Machine.execGovernorSample s
  | .junctionOverTemperature => Sys2Proof.Machine.execJunctionOverTemperature s
  | .packageResetRelease => Sys2Proof.Machine.execPackageResetRelease s
  | .computeDieReset => Sys2Proof.Machine.execComputeDieReset s
  | .coreReset => Sys2Proof.Machine.execCoreReset s
  | .powerLoss => Sys2Proof.Machine.execPowerLoss s
  | .measurementReportRequest => Sys2Proof.Machine.execMeasurementReportRequest s
  | .windowMetadataClearingEnd => Sys2Proof.Machine.execWindowMetadataClearingEnd s

end Sys2Proof.Machine
end

