-- ==== Sys2Proof/Machine/Events.lean ====
section
/-!
DEFINITION. How an event that is due comes about: it is lost in a reset (R363), or asks its tile-store bank first (R218), or is performed; and one step
of the machine. `run` stands for `exec`.
-/

namespace Sys2Proof.Machine

/-- The core to which a message or an answer comes. -/
def receiver : Event → Option Nat
  | .remoteRead c _ | .remoteWrite c _ | .remoteAtomic c _ | .linkWord c _ _ _ _ | .linkCreditReturn c _ | .dispatch c => some c
  | .spawnRequest m => some m.core
  | .contextImage m => some m.core
  | .activeMessage m => some m.core
  | .wakeMessage m => some m.core
  | .remoteHandleArrival m => some m.core
  | .decrement m => some (coreNamed m.tcb)
  | .taskArmRequest m => some (coreNamed m.tcb)
  | .commitRecordOperation m => some (coreNamed m.record)
  | .barrierArrival _ a _ => some (coreNamed a)
  | .fill f => some f.asker.core
  | .acknowledgement t | .refusal t _ => some t.core
  | .hubAnswer m _ _ => some m.src.core
  | .fabricOpen _ _ dst => some dst
  | .fabricGrant _ src _ => some src
  | _ => none

/-- The cores whose tile store or registers a request of a hub is about. -/
def askedCores : HubAsk → List Nat
  | .bankpw c _ | .fwd c _ _ => [c]
  | .evac x _ | .snap x | .attest x | .glaunch x _ | .popcfg x _ => [coreNamed x]
  | _ => []

/-- The cores that an event needs: the one it comes to, those that a hub's request is about, a gang member's, a replacement's, and the one at which
a copy's line is read or written. -/
def State.needs (s : State) (e : Event) : List Nat :=
  match e with
  | .hubRequest m => askedCores m.ask
  | .gangReserve d id i => ((s.hub d).launches.find? fun e => e.1 == id).toList.map fun e => (e.2.members.getD i {}).core
  | .popChildCommit d i j => (((s.hub d).pops.get {} i).children.find? fun x => x.1 == j).toList.map fun x => x.2.child
  | .copyTransferLine c id _ _ data =>
    match (s.core c).copies.find? fun x => x.id == id with
    | none => []
    | some x =>
      let a := BitVec.ofNat 64 (field (if data.isSome then x.kd else x.ks).image 0 64)
      if isFabric a then [s.homeNow (coreNamed a) x.asid] else []
  | e => (receiver e).toList

/-- What comes to a core that is held in reset, or to a package that is off, is lost (R363). -/
def State.lostInReset (s : State) (e : Event) : Bool :=
  (s.needs e).any fun c =>
    match (s.hub (devOf c)).power with
    | .active => false
    | .standby => isCompute c
    | .off => true

/-- What an event that needs a tile-store bank presents there: the core and the offset, who asks, and the priority (R218). -/
structure BankAsk where
  core : Nat
  off : Nat
  src : Asker
  prio : Nat
  deriving DecidableEq, Repr

/-- What a copy engine presents for an address, if it lies in a tile store. -/
def State.engineAsk (s : State) (asid : Nat) (src : Asker) (a : Option Word) : Option BankAsk :=
  match a with
  | none => none
  | some a => if isFabric a && decide (offsetOf a < 2 ^ 20) then some ⟨s.homeNow (coreNamed a) asid, offsetOf a, src, 3⟩ else none

/-- The bank that an event other than an access asks before it is performed: the matrix unit's reads, decrements, the copy engine's lines, refills
and snapshot blocks, and scrub (R218); a whole command, line or block asks once, at its first byte (DESIGN CHOICE, log 94). -/
def State.bankOf (s : State) (e : Event) : Option BankAsk :=
  match e with
  | .mm c k | .ldb c k | .ldacc c k => some ⟨c, pktWord k.pkt 4 % 2 ^ 20, ⟨c, k.slot, 0⟩, 1⟩
  | .decrement m => if offsetOf m.tcb < 2 ^ 20 then some ⟨coreNamed m.tcb, offsetOf m.tcb, m.src, 2⟩ else none
  | .copyTransferLine c id j _ data =>
    match (s.core c).copies.find? fun x => x.id == id with
    | none => none
    | some x =>
      let at_ := match data with
        | none => (x.reads j).head?
        | some l => (x.kd.runs 80 l.start 1).head?.map (·.1)
      s.engineAsk x.asid ⟨c, x.slot, 0⟩ at_
  | .streamRefill c id =>
    match (s.core c).streams.find? fun x => x.id == id with
    | none => none
    | some x => s.engineAsk x.asid ⟨c, x.slot, 0⟩ ((x.shape.runs 1 ((if x.vec then 256 else x.shape.size) * x.fetched) 1).head?.map (·.1))
  | .snapshotBlockCopy c => (s.core c).snapshot.bind fun n => n.pending.head?.map fun b => ⟨c, 4096 * b % 2 ^ 20, ⟨c, 16, 0⟩, 3⟩
  | .tileScrub c granule _ => some ⟨c, 16 * (granule % 2 ^ 16), ⟨c, 16, 0⟩, 5⟩
  | _ => none

/-- An event presented at its bank. -/
def State.askBank (s : State) (a : BankAsk) (ev : Event) : State :=
  s.atBank a.core
    { req := { src := a.src, asid := 0, sup := true, addr := BitVec.ofNat 64 a.off, op := .vector }, prio := a.prio, since := s.now, ev := some ev }

/-- An event that is due: it is lost in a reset, or asks its bank first, or is performed. -/
def State.takeEvent (run : Run) (s : State) (ev : Event) : Host.Outcome State Fault Refusal :=
  let asks := (s.bankOf ev).filter fun _ => !s.granted.contains ev
  let s := { s with granted := s.granted.erase ev }
  if s.lostInReset ev then .next s
  else
    match asks with
    | some a => .next (s.askBank a ev)
    | none => run ev.step { s with event := some ev }

/-- One step: a turn of the current cycle, else the next event that is due, else time goes on. -/
def State.stepBy (run : Run) (s : State) : Host.Outcome State Fault Refusal :=
  match s.turns with
  | t :: ts => ({ s with turns := ts }).turn run t
  | [] =>
    match s.agenda with
    | e :: es =>
      if e.at_ ≤ s.now then ({ s with agenda := es } : State).takeEvent run e.ev
      else s.idle run
    | [] => s.idle run

/-- An instruction placed where a slot's next turn fetches it, and that turn as the next one. -/
def State.placeInstr (s : State) (c n : Nat) (bs : List Byte) : State :=
  let t := s.slot c n
  let pc := if t.pc + 16 ≤ 2 ^ 20 then t.pc else 0
  let a := tileKey c pc
  let s := s.setBytes a bs
  let s := ((s.setPresent a true).setPresent (a + 15) true).cleanse a |>.cleanse (a + 15)
  let s := s.modCore c fun k =>
    { k with halted := false, running := true, vbusy := 0, issued := [],
             slots := (Table.mapVals (fun x => { x with deferred := none }) k.slots) }
  let s := s.setSlot c n { t with pc := pc, st := .ready, stopped := false, throttled := false, deferred := none, strayed := none, due := [] }
  { s with turns := [⟨c, .owner, n⟩, ⟨c, .fillScalar, n⟩, ⟨c, .fillWide, n⟩] }

end Sys2Proof.Machine
end

