-- ==== Sys2Proof/Machine/Step.lean ====
section
/-!
DEFINITION. One step of the machine, and where the instruction stands that the next step issues.
-/

namespace Sys2Proof.Machine

/-- One step: a turn of the issue rule (R24), an event that is due, or the passing of time. -/
def step (s : State) : Host.Outcome State Fault Refusal := s.stepBy exec

/-- The state whose very next step fetches and runs the instruction with these bits, in the slot of `cur`: its words stand at that slot's program
counter with zeros behind them up to the longest instruction, in granules that are full, and the slot owns the cycle that begins. -/
def State.withFetchWord (s : State) (nbits w : Nat) : State :=
  let c := s.cur.core
  let n := s.cur.slot
  let bs := bytesOfHalves (tableWords nbits w)
  s.placeInstr c n (bs ++ List.replicate (10 - bs.length) 0)

end Sys2Proof.Machine
end

