-- ==== Sys2Proof/Laws/Table.lean ====
section
/-!
SUPPORT. What reading a table or the byte memory gives after a write, and that every memory operation keeps the canonical form.
-/

namespace Sys2Proof.Machine

variable {α : Type}

/-! ## Tables -/

@[simp] theorem Table.get_put_same (d : α) (t : Table α) (n : Nat) (x : α) : Table.get d (Table.put t n x) n = x := by
  induction t with
  | nil => simp [Table.put, Table.get]
  | cons e t ih =>
    obtain ⟨k, v⟩ := e
    simp only [Table.put]
    split
    · simp [Table.get]
    · split
      · simp [Table.get]
      · rename_i h1 h2
        simp [Table.get, Ne.symm h1, h2, ih]

theorem Table.get_put_other (d : α) (t : Table α) (n m : Nat) (x : α) (h : m ≠ n) : Table.get d (Table.put t n x) m = Table.get d t m := by
  induction t with
  | nil => simp [Table.put, Table.get, Ne.symm h]
  | cons e t ih =>
    obtain ⟨k, v⟩ := e
    simp only [Table.put]
    split
    · rename_i h1
      subst h1
      simp [Table.get, Ne.symm h]
    · split
      · rename_i h1 h2
        by_cases hm : m < n
        · have : ¬ k = m := by omega
          simp [Table.get, Ne.symm h, hm, this]
          intro hk; omega
        · simp [Table.get, Ne.symm h, hm]
      · simp [Table.get, ih]

@[simp] theorem Table.put_put (t : Table α) (n : Nat) (x y : α) : Table.put (Table.put t n x) n y = Table.put t n y := by
  induction t with
  | nil => simp [Table.put]
  | cons e t ih =>
    obtain ⟨k, v⟩ := e
    simp only [Table.put]
    split
    · simp [Table.put]
    · split
      · simp [Table.put]
      · rename_i h1 h2
        simp [Table.put, h1, h2, ih]

theorem Table.get_mapVals (f : α → α) (d : α) (t : Table α) (n : Nat) (hd : f d = d) : Table.get d (Table.mapVals f t) n = f (Table.get d t n) := by
  induction t with
  | nil => simp [Table.mapVals, Table.get, hd]
  | cons e t ih =>
    obtain ⟨k, v⟩ := e
    simp only [Table.mapVals, Table.get]
    split
    · rfl
    · split
      · exact hd.symm
      · exact ih

/-! ## The byte memory -/

theorem memWfFrom_mono {a b : Nat} {m : List Host.Cell} (h : a ≤ b) (hw : memWfFrom b m = true) : memWfFrom a m = true := by
  cases m with
  | nil => rfl
  | cons e m =>
    obtain ⟨k, v⟩ := e
    simp only [memWfFrom, Bool.and_eq_true, decide_eq_true_eq] at hw ⊢
    exact ⟨⟨by omega, hw.1.2⟩, hw.2⟩

theorem memByte_below {lo n : Nat} {m : List Host.Cell} (hw : memWfFrom lo m = true) (h : n < lo) : memByte m n = unlistedByte := by
  cases m with
  | nil => rfl
  | cons e m =>
    obtain ⟨k, v⟩ := e
    simp only [memWfFrom, Bool.and_eq_true, decide_eq_true_eq] at hw
    simp [memByte, show ¬ k = n by omega, show n < k by omega]

theorem memPut_wfFrom {lo n : Nat} {m : List Host.Cell} (x : Byte) (h : lo ≤ n) (hw : memWfFrom lo m = true) :
    memWfFrom lo (memPut m n x) = true := by
  induction m generalizing lo with
  | nil => by_cases hx : x = unlistedByte <;> simp [memPut, memWfFrom, hx, h]
  | cons e m ih =>
    obtain ⟨k, v⟩ := e
    have hw' := hw
    simp only [memWfFrom, Bool.and_eq_true, decide_eq_true_eq] at hw'
    obtain ⟨⟨h1, h2⟩, h3⟩ := hw'
    simp only [memPut]
    split
    · rename_i hn
      subst hn
      by_cases hx : x = unlistedByte
      · simpa [hx] using memWfFrom_mono (by omega) h3
      · simpa [hx, memWfFrom, h] using h3
    · split
      · rename_i hn hk
        by_cases hx : x = unlistedByte
        · simpa [hx] using hw
        · simp [hx, memWfFrom, h, h2, h3]
          omega
      · rename_i hn hk
        simp [memWfFrom, h1, h2, ih (lo := k + 1) (by omega) h3]

/-- Writing a byte keeps the canonical form. -/
theorem memPut_wf {m : List Host.Cell} (n : Nat) (x : Byte) (h : Memory.wf m = true) : Memory.wf (memPut m n x) = true :=
  memPut_wfFrom x (Nat.zero_le n) h

/-- Writing bytes keeps the canonical form. -/
theorem memWrite_wf {m : List Host.Cell} (a : Nat) (bs : List Byte) (h : Memory.wf m = true) : Memory.wf (memWrite m a bs) = true := by
  induction bs generalizing m a with
  | nil => exact h
  | cons x xs ih => exact ih (a + 1) (memPut_wf a x h)

theorem memFilter_wfFrom {lo : Nat} {m : List Host.Cell} (p : Host.Cell → Bool) (h : memWfFrom lo m = true) :
    memWfFrom lo (m.filter p) = true := by
  induction m generalizing lo with
  | nil => rfl
  | cons e m ih =>
    obtain ⟨k, v⟩ := e
    simp only [memWfFrom, Bool.and_eq_true, decide_eq_true_eq] at h
    by_cases hp : p (k, v) = true
    · simp only [List.filter_cons, hp, if_true, memWfFrom, Bool.and_eq_true, decide_eq_true_eq]
      exact ⟨h.1, ih h.2⟩
    · simp only [List.filter_cons, hp]
      exact memWfFrom_mono (by omega) (ih h.2)

/-- Clearing a range keeps the canonical form. -/
theorem memClear_wf {m : List Host.Cell} (a b : Nat) (h : Memory.wf m = true) : Memory.wf (memClear m a b) = true :=
  memFilter_wfFrom _ h

/-- A byte written reads back. -/
theorem memByte_memPut_same {m : List Host.Cell} (n : Nat) (x : Byte) (h : Memory.wf m = true) : memByte (memPut m n x) n = x := by
  suffices H : ∀ lo, memWfFrom lo m = true → memByte (memPut m n x) n = x from H 0 h
  clear h
  induction m with
  | nil => intro lo _; by_cases hx : x = unlistedByte <;> simp [memPut, memByte, hx]
  | cons e m ih =>
    intro lo hw
    obtain ⟨k, v⟩ := e
    simp only [memWfFrom, Bool.and_eq_true, decide_eq_true_eq] at hw
    simp only [memPut]
    split
    · rename_i hn
      subst hn
      by_cases hx : x = unlistedByte
      · simp only [hx, if_true]; exact memByte_below hw.2 (by omega)
      · simp [hx, memByte]
    · split
      · rename_i hn hk
        by_cases hx : x = unlistedByte
        · simp [hx, memByte, Ne.symm hn, hk]
        · simp [hx, memByte]
      · rename_i hn hk
        simp only [memByte, Ne.symm hn, hk, if_false]
        exact ih (k + 1) hw.2

/-- Writing a byte leaves every other byte as it was. -/
theorem memByte_memPut_other {m : List Host.Cell} (n j : Nat) (x : Byte) (h : Memory.wf m = true) (hj : j ≠ n) :
    memByte (memPut m n x) j = memByte m j := by
  suffices H : ∀ lo, memWfFrom lo m = true → memByte (memPut m n x) j = memByte m j from H 0 h
  clear h
  induction m with
  | nil => intro lo _; by_cases hx : x = unlistedByte <;> simp [memPut, memByte, hx, Ne.symm hj]
  | cons e m ih =>
    intro lo hw
    obtain ⟨k, v⟩ := e
    simp only [memWfFrom, Bool.and_eq_true, decide_eq_true_eq] at hw
    simp only [memPut]
    split
    · rename_i hn
      subst hn
      by_cases hx : x = unlistedByte
      · simp only [hx, if_true, memByte, Ne.symm hj, if_false]
        split
        · exact memByte_below hw.2 (by omega)
        · rfl
      · simp [hx, memByte, Ne.symm hj]
    · split
      · rename_i hn hk
        by_cases hx : x = unlistedByte
        · simp [hx]
        · simp only [hx, if_false, memByte, Ne.symm hj]
          split
          · rw [if_neg (by omega), if_pos (by omega)]
          · rfl
      · simp only [memByte, ih (k + 1) hw.2]

/-- Writing bytes leaves every byte outside them as it was. -/
theorem memByte_memWrite_other {m : List Host.Cell} (a j : Nat) (bs : List Byte) (h : Memory.wf m = true)
    (hj : j < a ∨ a + bs.length ≤ j) : memByte (memWrite m a bs) j = memByte m j := by
  induction bs generalizing m a with
  | nil => rfl
  | cons x xs ih =>
    simp only [List.length_cons] at hj
    rw [memWrite, ih (a + 1) (memPut_wf a x h) (by omega), memByte_memPut_other a j x h (by omega)]

/-- The bytes written read back. -/
theorem memByte_memWrite_same {m : List Host.Cell} (a i : Nat) (bs : List Byte) (h : Memory.wf m = true) (hi : i < bs.length) :
    memByte (memWrite m a bs) (a + i) = bs[i] := by
  induction bs generalizing m a i with
  | nil => exact absurd hi (by simp)
  | cons x xs ih =>
    cases i with
    | zero => simp only [memWrite, Nat.add_zero, memByte_memWrite_other (a + 1) a xs (memPut_wf a x h) (by omega)]; simpa using memByte_memPut_same a x h
    | succ i =>
      have := ih (a + 1) i (memPut_wf a x h) (by simpa using hi)
      rw [show a + (i + 1) = a + 1 + i by omega]
      simpa [memWrite] using this

theorem memRead_length (m : List Host.Cell) (a n : Nat) : (memRead m a n).length = n := by
  induction n generalizing a with
  | zero => rfl
  | succ n ih => simp [memRead, ih]

theorem memRead_memWrite_same {m : List Host.Cell} (a : Nat) (bs : List Byte) (h : Memory.wf m = true) :
    memRead (memWrite m a bs) a bs.length = bs := by
  induction bs generalizing m a with
  | nil => rfl
  | cons x xs ih =>
    have h0 := memByte_memWrite_same a 0 (x :: xs) h (by simp)
    simp only [List.length_cons, memRead]
    rw [show memWrite m a (x :: xs) = memWrite (memPut m a x) (a + 1) xs from rfl, ih (a + 1) (memPut_wf a x h)]
    simpa [memWrite] using h0

end Sys2Proof.Machine
end

