-- ==== Sys2Proof/Laws/State.lean ====
section
/-!
SUPPORT. What each update of the state leaves in each of its fields, and what reading a core, a slot, a hub or a register gives after an update.
-/

namespace Sys2Proof.Machine

/-! ## Updates, field by field -/

@[simp] theorem State.setCore_mem (s : State) (c : Nat) (k : Core) : (s.setCore c k).mem = s.mem := rfl
@[simp] theorem State.setCore_pres (s : State) (c : Nat) (k : Core) : (s.setCore c k).pres = s.pres := rfl
@[simp] theorem State.setCore_poison (s : State) (c : Nat) (k : Core) : (s.setCore c k).poison = s.poison := rfl
@[simp] theorem State.setCore_hubs (s : State) (c : Nat) (k : Core) : (s.setCore c k).hubs = s.hubs := rfl
@[simp] theorem State.setCore_routers (s : State) (c : Nat) (k : Core) : (s.setCore c k).routers = s.routers := rfl
@[simp] theorem State.setCore_cur (s : State) (c : Nat) (k : Core) : (s.setCore c k).cur = s.cur := rfl
@[simp] theorem State.setCore_turns (s : State) (c : Nat) (k : Core) : (s.setCore c k).turns = s.turns := rfl
@[simp] theorem State.setCore_agenda (s : State) (c : Nat) (k : Core) : (s.setCore c k).agenda = s.agenda := rfl
@[simp] theorem State.setCore_event (s : State) (c : Nat) (k : Core) : (s.setCore c k).event = s.event := rfl
@[simp] theorem State.setCore_delays (s : State) (c : Nat) (k : Core) : (s.setCore c k).delays = s.delays := rfl
@[simp] theorem State.setCore_now (s : State) (c : Nat) (k : Core) : (s.setCore c k).now = s.now := rfl
@[simp] theorem State.setCore_nextId (s : State) (c : Nat) (k : Core) : (s.setCore c k).nextId = s.nextId := rfl
@[simp] theorem State.setCore_freeCtr (s : State) (c : Nat) (k : Core) : (s.setCore c k).freeCtr = s.freeCtr := rfl
@[simp] theorem State.setCore_granted (s : State) (c : Nat) (k : Core) : (s.setCore c k).granted = s.granted := rfl
@[simp] theorem State.setCore_wiring (s : State) (c : Nat) (k : Core) : (s.setCore c k).wiring = s.wiring := rfl

@[simp] theorem State.modCore_mem (s : State) (c : Nat) (f : Core → Core) : (s.modCore c f).mem = s.mem := rfl
@[simp] theorem State.modCore_pres (s : State) (c : Nat) (f : Core → Core) : (s.modCore c f).pres = s.pres := rfl
@[simp] theorem State.modCore_poison (s : State) (c : Nat) (f : Core → Core) : (s.modCore c f).poison = s.poison := rfl
@[simp] theorem State.modCore_hubs (s : State) (c : Nat) (f : Core → Core) : (s.modCore c f).hubs = s.hubs := rfl
@[simp] theorem State.modCore_routers (s : State) (c : Nat) (f : Core → Core) : (s.modCore c f).routers = s.routers := rfl
@[simp] theorem State.modCore_cur (s : State) (c : Nat) (f : Core → Core) : (s.modCore c f).cur = s.cur := rfl
@[simp] theorem State.modCore_turns (s : State) (c : Nat) (f : Core → Core) : (s.modCore c f).turns = s.turns := rfl
@[simp] theorem State.modCore_agenda (s : State) (c : Nat) (f : Core → Core) : (s.modCore c f).agenda = s.agenda := rfl
@[simp] theorem State.modCore_event (s : State) (c : Nat) (f : Core → Core) : (s.modCore c f).event = s.event := rfl
@[simp] theorem State.modCore_delays (s : State) (c : Nat) (f : Core → Core) : (s.modCore c f).delays = s.delays := rfl
@[simp] theorem State.modCore_now (s : State) (c : Nat) (f : Core → Core) : (s.modCore c f).now = s.now := rfl
@[simp] theorem State.modCore_nextId (s : State) (c : Nat) (f : Core → Core) : (s.modCore c f).nextId = s.nextId := rfl
@[simp] theorem State.modCore_freeCtr (s : State) (c : Nat) (f : Core → Core) : (s.modCore c f).freeCtr = s.freeCtr := rfl
@[simp] theorem State.modCore_granted (s : State) (c : Nat) (f : Core → Core) : (s.modCore c f).granted = s.granted := rfl
@[simp] theorem State.modCore_wiring (s : State) (c : Nat) (f : Core → Core) : (s.modCore c f).wiring = s.wiring := rfl

@[simp] theorem State.setSlot_mem (s : State) (c n : Nat) (t : Slot) : (s.setSlot c n t).mem = s.mem := rfl
@[simp] theorem State.setSlot_pres (s : State) (c n : Nat) (t : Slot) : (s.setSlot c n t).pres = s.pres := rfl
@[simp] theorem State.setSlot_poison (s : State) (c n : Nat) (t : Slot) : (s.setSlot c n t).poison = s.poison := rfl
@[simp] theorem State.setSlot_hubs (s : State) (c n : Nat) (t : Slot) : (s.setSlot c n t).hubs = s.hubs := rfl
@[simp] theorem State.setSlot_routers (s : State) (c n : Nat) (t : Slot) : (s.setSlot c n t).routers = s.routers := rfl
@[simp] theorem State.setSlot_cur (s : State) (c n : Nat) (t : Slot) : (s.setSlot c n t).cur = s.cur := rfl
@[simp] theorem State.setSlot_turns (s : State) (c n : Nat) (t : Slot) : (s.setSlot c n t).turns = s.turns := rfl
@[simp] theorem State.setSlot_agenda (s : State) (c n : Nat) (t : Slot) : (s.setSlot c n t).agenda = s.agenda := rfl
@[simp] theorem State.setSlot_event (s : State) (c n : Nat) (t : Slot) : (s.setSlot c n t).event = s.event := rfl
@[simp] theorem State.setSlot_delays (s : State) (c n : Nat) (t : Slot) : (s.setSlot c n t).delays = s.delays := rfl
@[simp] theorem State.setSlot_now (s : State) (c n : Nat) (t : Slot) : (s.setSlot c n t).now = s.now := rfl
@[simp] theorem State.setSlot_nextId (s : State) (c n : Nat) (t : Slot) : (s.setSlot c n t).nextId = s.nextId := rfl
@[simp] theorem State.setSlot_freeCtr (s : State) (c n : Nat) (t : Slot) : (s.setSlot c n t).freeCtr = s.freeCtr := rfl
@[simp] theorem State.setSlot_granted (s : State) (c n : Nat) (t : Slot) : (s.setSlot c n t).granted = s.granted := rfl
@[simp] theorem State.setSlot_wiring (s : State) (c n : Nat) (t : Slot) : (s.setSlot c n t).wiring = s.wiring := rfl

@[simp] theorem State.modSlot_mem (s : State) (c n : Nat) (f : Slot → Slot) : (s.modSlot c n f).mem = s.mem := rfl
@[simp] theorem State.modSlot_pres (s : State) (c n : Nat) (f : Slot → Slot) : (s.modSlot c n f).pres = s.pres := rfl
@[simp] theorem State.modSlot_poison (s : State) (c n : Nat) (f : Slot → Slot) : (s.modSlot c n f).poison = s.poison := rfl
@[simp] theorem State.modSlot_hubs (s : State) (c n : Nat) (f : Slot → Slot) : (s.modSlot c n f).hubs = s.hubs := rfl
@[simp] theorem State.modSlot_routers (s : State) (c n : Nat) (f : Slot → Slot) : (s.modSlot c n f).routers = s.routers := rfl
@[simp] theorem State.modSlot_cur (s : State) (c n : Nat) (f : Slot → Slot) : (s.modSlot c n f).cur = s.cur := rfl
@[simp] theorem State.modSlot_turns (s : State) (c n : Nat) (f : Slot → Slot) : (s.modSlot c n f).turns = s.turns := rfl
@[simp] theorem State.modSlot_agenda (s : State) (c n : Nat) (f : Slot → Slot) : (s.modSlot c n f).agenda = s.agenda := rfl
@[simp] theorem State.modSlot_event (s : State) (c n : Nat) (f : Slot → Slot) : (s.modSlot c n f).event = s.event := rfl
@[simp] theorem State.modSlot_delays (s : State) (c n : Nat) (f : Slot → Slot) : (s.modSlot c n f).delays = s.delays := rfl
@[simp] theorem State.modSlot_now (s : State) (c n : Nat) (f : Slot → Slot) : (s.modSlot c n f).now = s.now := rfl
@[simp] theorem State.modSlot_nextId (s : State) (c n : Nat) (f : Slot → Slot) : (s.modSlot c n f).nextId = s.nextId := rfl
@[simp] theorem State.modSlot_freeCtr (s : State) (c n : Nat) (f : Slot → Slot) : (s.modSlot c n f).freeCtr = s.freeCtr := rfl
@[simp] theorem State.modSlot_granted (s : State) (c n : Nat) (f : Slot → Slot) : (s.modSlot c n f).granted = s.granted := rfl
@[simp] theorem State.modSlot_wiring (s : State) (c n : Nat) (f : Slot → Slot) : (s.modSlot c n f).wiring = s.wiring := rfl

@[simp] theorem State.modMe_mem (s : State) (f : Slot → Slot) : (s.modMe f).mem = s.mem := rfl
@[simp] theorem State.modMe_pres (s : State) (f : Slot → Slot) : (s.modMe f).pres = s.pres := rfl
@[simp] theorem State.modMe_poison (s : State) (f : Slot → Slot) : (s.modMe f).poison = s.poison := rfl
@[simp] theorem State.modMe_hubs (s : State) (f : Slot → Slot) : (s.modMe f).hubs = s.hubs := rfl
@[simp] theorem State.modMe_routers (s : State) (f : Slot → Slot) : (s.modMe f).routers = s.routers := rfl
@[simp] theorem State.modMe_cur (s : State) (f : Slot → Slot) : (s.modMe f).cur = s.cur := rfl
@[simp] theorem State.modMe_turns (s : State) (f : Slot → Slot) : (s.modMe f).turns = s.turns := rfl
@[simp] theorem State.modMe_agenda (s : State) (f : Slot → Slot) : (s.modMe f).agenda = s.agenda := rfl
@[simp] theorem State.modMe_event (s : State) (f : Slot → Slot) : (s.modMe f).event = s.event := rfl
@[simp] theorem State.modMe_delays (s : State) (f : Slot → Slot) : (s.modMe f).delays = s.delays := rfl
@[simp] theorem State.modMe_now (s : State) (f : Slot → Slot) : (s.modMe f).now = s.now := rfl
@[simp] theorem State.modMe_nextId (s : State) (f : Slot → Slot) : (s.modMe f).nextId = s.nextId := rfl
@[simp] theorem State.modMe_freeCtr (s : State) (f : Slot → Slot) : (s.modMe f).freeCtr = s.freeCtr := rfl
@[simp] theorem State.modMe_granted (s : State) (f : Slot → Slot) : (s.modMe f).granted = s.granted := rfl
@[simp] theorem State.modMe_wiring (s : State) (f : Slot → Slot) : (s.modMe f).wiring = s.wiring := rfl

@[simp] theorem State.modMyCore_mem (s : State) (f : Core → Core) : (s.modMyCore f).mem = s.mem := rfl
@[simp] theorem State.modMyCore_pres (s : State) (f : Core → Core) : (s.modMyCore f).pres = s.pres := rfl
@[simp] theorem State.modMyCore_poison (s : State) (f : Core → Core) : (s.modMyCore f).poison = s.poison := rfl
@[simp] theorem State.modMyCore_hubs (s : State) (f : Core → Core) : (s.modMyCore f).hubs = s.hubs := rfl
@[simp] theorem State.modMyCore_routers (s : State) (f : Core → Core) : (s.modMyCore f).routers = s.routers := rfl
@[simp] theorem State.modMyCore_cur (s : State) (f : Core → Core) : (s.modMyCore f).cur = s.cur := rfl
@[simp] theorem State.modMyCore_turns (s : State) (f : Core → Core) : (s.modMyCore f).turns = s.turns := rfl
@[simp] theorem State.modMyCore_agenda (s : State) (f : Core → Core) : (s.modMyCore f).agenda = s.agenda := rfl
@[simp] theorem State.modMyCore_event (s : State) (f : Core → Core) : (s.modMyCore f).event = s.event := rfl
@[simp] theorem State.modMyCore_delays (s : State) (f : Core → Core) : (s.modMyCore f).delays = s.delays := rfl
@[simp] theorem State.modMyCore_now (s : State) (f : Core → Core) : (s.modMyCore f).now = s.now := rfl
@[simp] theorem State.modMyCore_nextId (s : State) (f : Core → Core) : (s.modMyCore f).nextId = s.nextId := rfl
@[simp] theorem State.modMyCore_freeCtr (s : State) (f : Core → Core) : (s.modMyCore f).freeCtr = s.freeCtr := rfl
@[simp] theorem State.modMyCore_granted (s : State) (f : Core → Core) : (s.modMyCore f).granted = s.granted := rfl
@[simp] theorem State.modMyCore_wiring (s : State) (f : Core → Core) : (s.modMyCore f).wiring = s.wiring := rfl

@[simp] theorem State.setHub_mem (s : State) (d : Nat) (h : Hub) : (s.setHub d h).mem = s.mem := rfl
@[simp] theorem State.setHub_pres (s : State) (d : Nat) (h : Hub) : (s.setHub d h).pres = s.pres := rfl
@[simp] theorem State.setHub_poison (s : State) (d : Nat) (h : Hub) : (s.setHub d h).poison = s.poison := rfl
@[simp] theorem State.setHub_cores (s : State) (d : Nat) (h : Hub) : (s.setHub d h).cores = s.cores := rfl
@[simp] theorem State.setHub_routers (s : State) (d : Nat) (h : Hub) : (s.setHub d h).routers = s.routers := rfl
@[simp] theorem State.setHub_cur (s : State) (d : Nat) (h : Hub) : (s.setHub d h).cur = s.cur := rfl
@[simp] theorem State.setHub_turns (s : State) (d : Nat) (h : Hub) : (s.setHub d h).turns = s.turns := rfl
@[simp] theorem State.setHub_agenda (s : State) (d : Nat) (h : Hub) : (s.setHub d h).agenda = s.agenda := rfl
@[simp] theorem State.setHub_event (s : State) (d : Nat) (h : Hub) : (s.setHub d h).event = s.event := rfl
@[simp] theorem State.setHub_delays (s : State) (d : Nat) (h : Hub) : (s.setHub d h).delays = s.delays := rfl
@[simp] theorem State.setHub_now (s : State) (d : Nat) (h : Hub) : (s.setHub d h).now = s.now := rfl
@[simp] theorem State.setHub_nextId (s : State) (d : Nat) (h : Hub) : (s.setHub d h).nextId = s.nextId := rfl
@[simp] theorem State.setHub_freeCtr (s : State) (d : Nat) (h : Hub) : (s.setHub d h).freeCtr = s.freeCtr := rfl
@[simp] theorem State.setHub_granted (s : State) (d : Nat) (h : Hub) : (s.setHub d h).granted = s.granted := rfl
@[simp] theorem State.setHub_wiring (s : State) (d : Nat) (h : Hub) : (s.setHub d h).wiring = s.wiring := rfl

@[simp] theorem State.modHub_mem (s : State) (d : Nat) (f : Hub → Hub) : (s.modHub d f).mem = s.mem := rfl
@[simp] theorem State.modHub_pres (s : State) (d : Nat) (f : Hub → Hub) : (s.modHub d f).pres = s.pres := rfl
@[simp] theorem State.modHub_poison (s : State) (d : Nat) (f : Hub → Hub) : (s.modHub d f).poison = s.poison := rfl
@[simp] theorem State.modHub_cores (s : State) (d : Nat) (f : Hub → Hub) : (s.modHub d f).cores = s.cores := rfl
@[simp] theorem State.modHub_routers (s : State) (d : Nat) (f : Hub → Hub) : (s.modHub d f).routers = s.routers := rfl
@[simp] theorem State.modHub_cur (s : State) (d : Nat) (f : Hub → Hub) : (s.modHub d f).cur = s.cur := rfl
@[simp] theorem State.modHub_turns (s : State) (d : Nat) (f : Hub → Hub) : (s.modHub d f).turns = s.turns := rfl
@[simp] theorem State.modHub_agenda (s : State) (d : Nat) (f : Hub → Hub) : (s.modHub d f).agenda = s.agenda := rfl
@[simp] theorem State.modHub_event (s : State) (d : Nat) (f : Hub → Hub) : (s.modHub d f).event = s.event := rfl
@[simp] theorem State.modHub_delays (s : State) (d : Nat) (f : Hub → Hub) : (s.modHub d f).delays = s.delays := rfl
@[simp] theorem State.modHub_now (s : State) (d : Nat) (f : Hub → Hub) : (s.modHub d f).now = s.now := rfl
@[simp] theorem State.modHub_nextId (s : State) (d : Nat) (f : Hub → Hub) : (s.modHub d f).nextId = s.nextId := rfl
@[simp] theorem State.modHub_freeCtr (s : State) (d : Nat) (f : Hub → Hub) : (s.modHub d f).freeCtr = s.freeCtr := rfl
@[simp] theorem State.modHub_granted (s : State) (d : Nat) (f : Hub → Hub) : (s.modHub d f).granted = s.granted := rfl
@[simp] theorem State.modHub_wiring (s : State) (d : Nat) (f : Hub → Hub) : (s.modHub d f).wiring = s.wiring := rfl

@[simp] theorem State.modPred_mem (s : State) (f : BitVec 16 → BitVec 16) : (s.modPred f).mem = s.mem := rfl
@[simp] theorem State.modPred_pres (s : State) (f : BitVec 16 → BitVec 16) : (s.modPred f).pres = s.pres := rfl
@[simp] theorem State.modPred_poison (s : State) (f : BitVec 16 → BitVec 16) : (s.modPred f).poison = s.poison := rfl
@[simp] theorem State.modPred_hubs (s : State) (f : BitVec 16 → BitVec 16) : (s.modPred f).hubs = s.hubs := rfl
@[simp] theorem State.modPred_routers (s : State) (f : BitVec 16 → BitVec 16) : (s.modPred f).routers = s.routers := rfl
@[simp] theorem State.modPred_cur (s : State) (f : BitVec 16 → BitVec 16) : (s.modPred f).cur = s.cur := rfl
@[simp] theorem State.modPred_turns (s : State) (f : BitVec 16 → BitVec 16) : (s.modPred f).turns = s.turns := rfl
@[simp] theorem State.modPred_agenda (s : State) (f : BitVec 16 → BitVec 16) : (s.modPred f).agenda = s.agenda := rfl
@[simp] theorem State.modPred_event (s : State) (f : BitVec 16 → BitVec 16) : (s.modPred f).event = s.event := rfl
@[simp] theorem State.modPred_delays (s : State) (f : BitVec 16 → BitVec 16) : (s.modPred f).delays = s.delays := rfl
@[simp] theorem State.modPred_now (s : State) (f : BitVec 16 → BitVec 16) : (s.modPred f).now = s.now := rfl
@[simp] theorem State.modPred_nextId (s : State) (f : BitVec 16 → BitVec 16) : (s.modPred f).nextId = s.nextId := rfl
@[simp] theorem State.modPred_freeCtr (s : State) (f : BitVec 16 → BitVec 16) : (s.modPred f).freeCtr = s.freeCtr := rfl
@[simp] theorem State.modPred_granted (s : State) (f : BitVec 16 → BitVec 16) : (s.modPred f).granted = s.granted := rfl
@[simp] theorem State.modPred_wiring (s : State) (f : BitVec 16 → BitVec 16) : (s.modPred f).wiring = s.wiring := rfl

@[simp] theorem State.pwrite_mem (s : State) (i : PNum) (b : Bool) : (s.pwrite i b).mem = s.mem := rfl
@[simp] theorem State.pwrite_pres (s : State) (i : PNum) (b : Bool) : (s.pwrite i b).pres = s.pres := rfl
@[simp] theorem State.pwrite_poison (s : State) (i : PNum) (b : Bool) : (s.pwrite i b).poison = s.poison := rfl
@[simp] theorem State.pwrite_hubs (s : State) (i : PNum) (b : Bool) : (s.pwrite i b).hubs = s.hubs := rfl
@[simp] theorem State.pwrite_routers (s : State) (i : PNum) (b : Bool) : (s.pwrite i b).routers = s.routers := rfl
@[simp] theorem State.pwrite_cur (s : State) (i : PNum) (b : Bool) : (s.pwrite i b).cur = s.cur := rfl
@[simp] theorem State.pwrite_turns (s : State) (i : PNum) (b : Bool) : (s.pwrite i b).turns = s.turns := rfl
@[simp] theorem State.pwrite_agenda (s : State) (i : PNum) (b : Bool) : (s.pwrite i b).agenda = s.agenda := rfl
@[simp] theorem State.pwrite_event (s : State) (i : PNum) (b : Bool) : (s.pwrite i b).event = s.event := rfl
@[simp] theorem State.pwrite_delays (s : State) (i : PNum) (b : Bool) : (s.pwrite i b).delays = s.delays := rfl
@[simp] theorem State.pwrite_now (s : State) (i : PNum) (b : Bool) : (s.pwrite i b).now = s.now := rfl
@[simp] theorem State.pwrite_nextId (s : State) (i : PNum) (b : Bool) : (s.pwrite i b).nextId = s.nextId := rfl
@[simp] theorem State.pwrite_freeCtr (s : State) (i : PNum) (b : Bool) : (s.pwrite i b).freeCtr = s.freeCtr := rfl
@[simp] theorem State.pwrite_granted (s : State) (i : PNum) (b : Bool) : (s.pwrite i b).granted = s.granted := rfl
@[simp] theorem State.pwrite_wiring (s : State) (i : PNum) (b : Bool) : (s.pwrite i b).wiring = s.wiring := rfl

@[simp] theorem State.advance_mem (s : State) : s.advance.mem = s.mem := rfl
@[simp] theorem State.advance_pres (s : State) : s.advance.pres = s.pres := rfl
@[simp] theorem State.advance_poison (s : State) : s.advance.poison = s.poison := rfl
@[simp] theorem State.advance_hubs (s : State) : s.advance.hubs = s.hubs := rfl
@[simp] theorem State.advance_routers (s : State) : s.advance.routers = s.routers := rfl
@[simp] theorem State.advance_cur (s : State) : s.advance.cur = s.cur := rfl
@[simp] theorem State.advance_turns (s : State) : s.advance.turns = s.turns := rfl
@[simp] theorem State.advance_agenda (s : State) : s.advance.agenda = s.agenda := rfl
@[simp] theorem State.advance_event (s : State) : s.advance.event = s.event := rfl
@[simp] theorem State.advance_delays (s : State) : s.advance.delays = s.delays := rfl
@[simp] theorem State.advance_now (s : State) : s.advance.now = s.now := rfl
@[simp] theorem State.advance_nextId (s : State) : s.advance.nextId = s.nextId := rfl
@[simp] theorem State.advance_freeCtr (s : State) : s.advance.freeCtr = s.freeCtr := rfl
@[simp] theorem State.advance_granted (s : State) : s.advance.granted = s.granted := rfl
@[simp] theorem State.advance_wiring (s : State) : s.advance.wiring = s.wiring := rfl

@[simp] theorem State.due_mem (s : State) (t : Nat) (ev : Event) : (s.due t ev).mem = s.mem := rfl
@[simp] theorem State.due_pres (s : State) (t : Nat) (ev : Event) : (s.due t ev).pres = s.pres := rfl
@[simp] theorem State.due_poison (s : State) (t : Nat) (ev : Event) : (s.due t ev).poison = s.poison := rfl
@[simp] theorem State.due_cores (s : State) (t : Nat) (ev : Event) : (s.due t ev).cores = s.cores := rfl
@[simp] theorem State.due_hubs (s : State) (t : Nat) (ev : Event) : (s.due t ev).hubs = s.hubs := rfl
@[simp] theorem State.due_routers (s : State) (t : Nat) (ev : Event) : (s.due t ev).routers = s.routers := rfl
@[simp] theorem State.due_cur (s : State) (t : Nat) (ev : Event) : (s.due t ev).cur = s.cur := rfl
@[simp] theorem State.due_turns (s : State) (t : Nat) (ev : Event) : (s.due t ev).turns = s.turns := rfl
@[simp] theorem State.due_event (s : State) (t : Nat) (ev : Event) : (s.due t ev).event = s.event := rfl
@[simp] theorem State.due_delays (s : State) (t : Nat) (ev : Event) : (s.due t ev).delays = s.delays := rfl
@[simp] theorem State.due_now (s : State) (t : Nat) (ev : Event) : (s.due t ev).now = s.now := rfl
@[simp] theorem State.due_nextId (s : State) (t : Nat) (ev : Event) : (s.due t ev).nextId = s.nextId := rfl
@[simp] theorem State.due_freeCtr (s : State) (t : Nat) (ev : Event) : (s.due t ev).freeCtr = s.freeCtr := rfl
@[simp] theorem State.due_granted (s : State) (t : Nat) (ev : Event) : (s.due t ev).granted = s.granted := rfl
@[simp] theorem State.due_wiring (s : State) (t : Nat) (ev : Event) : (s.due t ev).wiring = s.wiring := rfl

@[simp] theorem State.after_mem (s : State) (d : Nat) (ev : Event) : (s.after d ev).mem = s.mem := rfl
@[simp] theorem State.after_pres (s : State) (d : Nat) (ev : Event) : (s.after d ev).pres = s.pres := rfl
@[simp] theorem State.after_poison (s : State) (d : Nat) (ev : Event) : (s.after d ev).poison = s.poison := rfl
@[simp] theorem State.after_cores (s : State) (d : Nat) (ev : Event) : (s.after d ev).cores = s.cores := rfl
@[simp] theorem State.after_hubs (s : State) (d : Nat) (ev : Event) : (s.after d ev).hubs = s.hubs := rfl
@[simp] theorem State.after_routers (s : State) (d : Nat) (ev : Event) : (s.after d ev).routers = s.routers := rfl
@[simp] theorem State.after_cur (s : State) (d : Nat) (ev : Event) : (s.after d ev).cur = s.cur := rfl
@[simp] theorem State.after_turns (s : State) (d : Nat) (ev : Event) : (s.after d ev).turns = s.turns := rfl
@[simp] theorem State.after_event (s : State) (d : Nat) (ev : Event) : (s.after d ev).event = s.event := rfl
@[simp] theorem State.after_delays (s : State) (d : Nat) (ev : Event) : (s.after d ev).delays = s.delays := rfl
@[simp] theorem State.after_now (s : State) (d : Nat) (ev : Event) : (s.after d ev).now = s.now := rfl
@[simp] theorem State.after_nextId (s : State) (d : Nat) (ev : Event) : (s.after d ev).nextId = s.nextId := rfl
@[simp] theorem State.after_freeCtr (s : State) (d : Nat) (ev : Event) : (s.after d ev).freeCtr = s.freeCtr := rfl
@[simp] theorem State.after_granted (s : State) (d : Nat) (ev : Event) : (s.after d ev).granted = s.granted := rfl
@[simp] theorem State.after_wiring (s : State) (d : Nat) (ev : Event) : (s.after d ev).wiring = s.wiring := rfl

@[simp] theorem State.setBytes_pres (s : State) (a : Nat) (bs : List Byte) : (s.setBytes a bs).pres = s.pres := rfl
@[simp] theorem State.setBytes_poison (s : State) (a : Nat) (bs : List Byte) : (s.setBytes a bs).poison = s.poison := rfl
@[simp] theorem State.setBytes_cores (s : State) (a : Nat) (bs : List Byte) : (s.setBytes a bs).cores = s.cores := rfl
@[simp] theorem State.setBytes_hubs (s : State) (a : Nat) (bs : List Byte) : (s.setBytes a bs).hubs = s.hubs := rfl
@[simp] theorem State.setBytes_routers (s : State) (a : Nat) (bs : List Byte) : (s.setBytes a bs).routers = s.routers := rfl
@[simp] theorem State.setBytes_cur (s : State) (a : Nat) (bs : List Byte) : (s.setBytes a bs).cur = s.cur := rfl
@[simp] theorem State.setBytes_turns (s : State) (a : Nat) (bs : List Byte) : (s.setBytes a bs).turns = s.turns := rfl
@[simp] theorem State.setBytes_agenda (s : State) (a : Nat) (bs : List Byte) : (s.setBytes a bs).agenda = s.agenda := rfl
@[simp] theorem State.setBytes_event (s : State) (a : Nat) (bs : List Byte) : (s.setBytes a bs).event = s.event := rfl
@[simp] theorem State.setBytes_delays (s : State) (a : Nat) (bs : List Byte) : (s.setBytes a bs).delays = s.delays := rfl
@[simp] theorem State.setBytes_now (s : State) (a : Nat) (bs : List Byte) : (s.setBytes a bs).now = s.now := rfl
@[simp] theorem State.setBytes_nextId (s : State) (a : Nat) (bs : List Byte) : (s.setBytes a bs).nextId = s.nextId := rfl
@[simp] theorem State.setBytes_freeCtr (s : State) (a : Nat) (bs : List Byte) : (s.setBytes a bs).freeCtr = s.freeCtr := rfl
@[simp] theorem State.setBytes_granted (s : State) (a : Nat) (bs : List Byte) : (s.setBytes a bs).granted = s.granted := rfl
@[simp] theorem State.setBytes_wiring (s : State) (a : Nat) (bs : List Byte) : (s.setBytes a bs).wiring = s.wiring := rfl

@[simp] theorem State.setPresent_mem (s : State) (a : Nat) (b : Bool) : (s.setPresent a b).mem = s.mem := rfl
@[simp] theorem State.setPresent_poison (s : State) (a : Nat) (b : Bool) : (s.setPresent a b).poison = s.poison := rfl
@[simp] theorem State.setPresent_cores (s : State) (a : Nat) (b : Bool) : (s.setPresent a b).cores = s.cores := rfl
@[simp] theorem State.setPresent_hubs (s : State) (a : Nat) (b : Bool) : (s.setPresent a b).hubs = s.hubs := rfl
@[simp] theorem State.setPresent_routers (s : State) (a : Nat) (b : Bool) : (s.setPresent a b).routers = s.routers := rfl
@[simp] theorem State.setPresent_cur (s : State) (a : Nat) (b : Bool) : (s.setPresent a b).cur = s.cur := rfl
@[simp] theorem State.setPresent_turns (s : State) (a : Nat) (b : Bool) : (s.setPresent a b).turns = s.turns := rfl
@[simp] theorem State.setPresent_agenda (s : State) (a : Nat) (b : Bool) : (s.setPresent a b).agenda = s.agenda := rfl
@[simp] theorem State.setPresent_event (s : State) (a : Nat) (b : Bool) : (s.setPresent a b).event = s.event := rfl
@[simp] theorem State.setPresent_delays (s : State) (a : Nat) (b : Bool) : (s.setPresent a b).delays = s.delays := rfl
@[simp] theorem State.setPresent_now (s : State) (a : Nat) (b : Bool) : (s.setPresent a b).now = s.now := rfl
@[simp] theorem State.setPresent_nextId (s : State) (a : Nat) (b : Bool) : (s.setPresent a b).nextId = s.nextId := rfl
@[simp] theorem State.setPresent_freeCtr (s : State) (a : Nat) (b : Bool) : (s.setPresent a b).freeCtr = s.freeCtr := rfl
@[simp] theorem State.setPresent_granted (s : State) (a : Nat) (b : Bool) : (s.setPresent a b).granted = s.granted := rfl
@[simp] theorem State.setPresent_wiring (s : State) (a : Nat) (b : Bool) : (s.setPresent a b).wiring = s.wiring := rfl

@[simp] theorem State.cleanse_mem (s : State) (a : Nat) : (s.cleanse a).mem = s.mem := rfl
@[simp] theorem State.cleanse_pres (s : State) (a : Nat) : (s.cleanse a).pres = s.pres := rfl
@[simp] theorem State.cleanse_cores (s : State) (a : Nat) : (s.cleanse a).cores = s.cores := rfl
@[simp] theorem State.cleanse_hubs (s : State) (a : Nat) : (s.cleanse a).hubs = s.hubs := rfl
@[simp] theorem State.cleanse_routers (s : State) (a : Nat) : (s.cleanse a).routers = s.routers := rfl
@[simp] theorem State.cleanse_cur (s : State) (a : Nat) : (s.cleanse a).cur = s.cur := rfl
@[simp] theorem State.cleanse_turns (s : State) (a : Nat) : (s.cleanse a).turns = s.turns := rfl
@[simp] theorem State.cleanse_agenda (s : State) (a : Nat) : (s.cleanse a).agenda = s.agenda := rfl
@[simp] theorem State.cleanse_event (s : State) (a : Nat) : (s.cleanse a).event = s.event := rfl
@[simp] theorem State.cleanse_delays (s : State) (a : Nat) : (s.cleanse a).delays = s.delays := rfl
@[simp] theorem State.cleanse_now (s : State) (a : Nat) : (s.cleanse a).now = s.now := rfl
@[simp] theorem State.cleanse_nextId (s : State) (a : Nat) : (s.cleanse a).nextId = s.nextId := rfl
@[simp] theorem State.cleanse_freeCtr (s : State) (a : Nat) : (s.cleanse a).freeCtr = s.freeCtr := rfl
@[simp] theorem State.cleanse_granted (s : State) (a : Nat) : (s.cleanse a).granted = s.granted := rfl
@[simp] theorem State.cleanse_wiring (s : State) (a : Nat) : (s.cleanse a).wiring = s.wiring := rfl

/-! ## Reading after an update -/

@[simp] theorem State.core_setCore_same (s : State) (c : Nat) (k : Core) : (s.setCore c k).core c = k := Table.get_put_same _ _ _ _

theorem State.core_setCore_other (s : State) (c d : Nat) (k : Core) (h : d ≠ c) : (s.setCore c k).core d = s.core d :=
  Table.get_put_other _ _ _ _ _ h

@[simp] theorem State.setCore_setCore (s : State) (c : Nat) (k j : Core) : (s.setCore c k).setCore c j = s.setCore c j := by
  simp [State.setCore]

@[simp] theorem State.core_modCore_same (s : State) (c : Nat) (f : Core → Core) : (s.modCore c f).core c = f (s.core c) :=
  Table.get_put_same _ _ _ _

theorem State.core_modCore_other (s : State) (c d : Nat) (f : Core → Core) (h : d ≠ c) : (s.modCore c f).core d = s.core d :=
  Table.get_put_other _ _ _ _ _ h

@[simp] theorem State.modCore_modCore (s : State) (c : Nat) (f g : Core → Core) :
    (s.modCore c f).modCore c g = s.modCore c fun k => g (f k) := by
  simp [State.modCore]

@[simp] theorem State.hub_setHub_same (s : State) (d : Nat) (h : Hub) : (s.setHub d h).hub d = h := Table.get_put_same _ _ _ _

theorem State.hub_setHub_other (s : State) (d e : Nat) (h : Hub) (hd : e ≠ d) : (s.setHub d h).hub e = s.hub e :=
  Table.get_put_other _ _ _ _ _ hd

@[simp] theorem State.hub_modHub_same (s : State) (d : Nat) (f : Hub → Hub) : (s.modHub d f).hub d = f (s.hub d) := Table.get_put_same _ _ _ _

theorem State.hub_modHub_other (s : State) (d e : Nat) (f : Hub → Hub) (h : e ≠ d) : (s.modHub d f).hub e = s.hub e :=
  Table.get_put_other _ _ _ _ _ h

@[simp] theorem Core.slot_setSlot_same (k : Core) (n : Nat) (t : Slot) : (k.setSlot n t).slot n = t := Table.get_put_same _ _ _ _

theorem Core.slot_setSlot_other (k : Core) (n m : Nat) (t : Slot) (h : m ≠ n) : (k.setSlot n t).slot m = k.slot m :=
  Table.get_put_other _ _ _ _ _ h

@[simp] theorem Core.setSlot_setSlot (k : Core) (n : Nat) (t u : Slot) : (k.setSlot n t).setSlot n u = k.setSlot n u := by
  simp [Core.setSlot]

@[simp] theorem State.slot_setSlot_same (s : State) (c n : Nat) (t : Slot) : (s.setSlot c n t).slot c n = t := by
  simp [State.slot, State.setSlot]

theorem State.slot_setSlot_other (s : State) (c n d m : Nat) (t : Slot) (h : d ≠ c ∨ m ≠ n) : (s.setSlot c n t).slot d m = s.slot d m := by
  by_cases hd : d = c
  · subst hd
    have hm : m ≠ n := h.resolve_left (fun h => h rfl)
    simp [State.slot, State.setSlot, Core.slot_setSlot_other _ _ _ _ hm]
  · simp [State.slot, State.setSlot, State.core_modCore_other _ _ _ _ hd]

@[simp] theorem State.slot_modSlot_same (s : State) (c n : Nat) (f : Slot → Slot) : (s.modSlot c n f).slot c n = f (s.slot c n) := by
  simp [State.modSlot]

theorem State.slot_modSlot_other (s : State) (c n d m : Nat) (f : Slot → Slot) (h : d ≠ c ∨ m ≠ n) :
    (s.modSlot c n f).slot d m = s.slot d m := State.slot_setSlot_other _ _ _ _ _ _ h

@[simp] theorem State.setSlot_setSlot (s : State) (c n : Nat) (t u : Slot) : (s.setSlot c n t).setSlot c n u = s.setSlot c n u := by
  simp [State.setSlot]

@[simp] theorem State.modSlot_modSlot (s : State) (c n : Nat) (f g : Slot → Slot) :
    (s.modSlot c n f).modSlot c n g = s.modSlot c n fun t => g (f t) := by
  simp [State.modSlot]

@[simp] theorem State.me_modMe (s : State) (f : Slot → Slot) : (s.modMe f).me = f s.me := by
  simp [State.me, State.modMe]

@[simp] theorem State.modMe_modMe (s : State) (f g : Slot → Slot) : (s.modMe f).modMe g = s.modMe fun t => g (f t) := by
  simp [State.modMe]

@[simp] theorem State.me_advance (s : State) : s.advance.me = { s.me with pc := s.cur.next } := by
  simp [State.advance]

@[simp] theorem State.me_modPred (s : State) (f : BitVec 16 → BitVec 16) : (s.modPred f).me = { s.me with pred := f s.me.pred } := by
  simp [State.modPred]

@[simp] theorem State.me_pwrite (s : State) (i : PNum) (b : Bool) :
    (s.pwrite i b).me = { s.me with pred := withBit s.me.pred i.toNat b } := by
  simp [State.pwrite]

@[simp] theorem State.myCore_modMyCore (s : State) (f : Core → Core) : (s.modMyCore f).myCore = f s.myCore := by
  simp [State.myCore, State.modMyCore]

/-- Changing a slot of the issuing core changes nothing else of that core. -/
theorem State.myCore_modMe (s : State) (f : Slot → Slot) : (s.modMe f).myCore = s.myCore.setSlot s.cur.slot (f s.me) := by
  simp [State.myCore, State.modMe, State.modSlot, State.setSlot, State.me, State.slot]

@[simp] theorem State.hub_modCore (s : State) (c d : Nat) (f : Core → Core) : (s.modCore c f).hub d = s.hub d := rfl
@[simp] theorem State.hub_modSlot (s : State) (c n d : Nat) (f : Slot → Slot) : (s.modSlot c n f).hub d = s.hub d := rfl
@[simp] theorem State.hub_modMe (s : State) (d : Nat) (f : Slot → Slot) : (s.modMe f).hub d = s.hub d := rfl
@[simp] theorem State.hub_advance (s : State) (d : Nat) : s.advance.hub d = s.hub d := rfl
@[simp] theorem State.core_modHub (s : State) (c d : Nat) (f : Hub → Hub) : (s.modHub d f).core c = s.core c := rfl
@[simp] theorem State.core_after (s : State) (c d : Nat) (ev : Event) : (s.after d ev).core c = s.core c := rfl
@[simp] theorem State.hub_after (s : State) (e d : Nat) (ev : Event) : (s.after d ev).hub e = s.hub e := rfl
@[simp] theorem State.slot_after (s : State) (c n d : Nat) (ev : Event) : (s.after d ev).slot c n = s.slot c n := rfl
@[simp] theorem State.me_after (s : State) (d : Nat) (ev : Event) : (s.after d ev).me = s.me := rfl

@[simp] theorem Slot.reg_setReg_same (t : Slot) (n : Nat) (r : XReg) : (t.setReg n r).reg n = r := Table.get_put_same _ _ _ _

theorem Slot.reg_setReg_other (t : Slot) (n m : Nat) (r : XReg) (h : m ≠ n) : (t.setReg n r).reg m = t.reg m :=
  Table.get_put_other _ _ _ _ _ h

@[simp] theorem Slot.reg_modReg_same (t : Slot) (n : Nat) (f : XReg → XReg) : (t.modReg n f).reg n = f (t.reg n) := Table.get_put_same _ _ _ _

theorem Slot.reg_modReg_other (t : Slot) (n m : Nat) (f : XReg → XReg) (h : m ≠ n) : (t.modReg n f).reg m = t.reg m :=
  Table.get_put_other _ _ _ _ _ h

@[simp] theorem Slot.reg_with_pc (t : Slot) (p n : Nat) : ({ t with pc := p } : Slot).reg n = t.reg n := rfl
@[simp] theorem Slot.reg_with_pred (t : Slot) (p : BitVec 16) (n : Nat) : ({ t with pred := p } : Slot).reg n = t.reg n := rfl

/-! ## The other fields of a core and of a slot -/

@[simp] theorem Slot.setReg_st (t : Slot) (n : Nat) (r : XReg) : (t.setReg n r).st = t.st := rfl
@[simp] theorem Slot.modReg_st (t : Slot) (n : Nat) (f : XReg → XReg) : (t.modReg n f).st = t.st := rfl
@[simp] theorem Slot.setReg_why (t : Slot) (n : Nat) (r : XReg) : (t.setReg n r).why = t.why := rfl
@[simp] theorem Slot.modReg_why (t : Slot) (n : Nat) (f : XReg → XReg) : (t.modReg n f).why = t.why := rfl
@[simp] theorem Slot.setReg_stopped (t : Slot) (n : Nat) (r : XReg) : (t.setReg n r).stopped = t.stopped := rfl
@[simp] theorem Slot.modReg_stopped (t : Slot) (n : Nat) (f : XReg → XReg) : (t.modReg n f).stopped = t.stopped := rfl
@[simp] theorem Slot.setReg_pred (t : Slot) (n : Nat) (r : XReg) : (t.setReg n r).pred = t.pred := rfl
@[simp] theorem Slot.modReg_pred (t : Slot) (n : Nat) (f : XReg → XReg) : (t.modReg n f).pred = t.pred := rfl
@[simp] theorem Slot.setReg_pc (t : Slot) (n : Nat) (r : XReg) : (t.setReg n r).pc = t.pc := rfl
@[simp] theorem Slot.modReg_pc (t : Slot) (n : Nat) (f : XReg → XReg) : (t.modReg n f).pc = t.pc := rfl
@[simp] theorem Slot.setReg_asid (t : Slot) (n : Nat) (r : XReg) : (t.setReg n r).asid = t.asid := rfl
@[simp] theorem Slot.modReg_asid (t : Slot) (n : Nat) (f : XReg → XReg) : (t.modReg n f).asid = t.asid := rfl
@[simp] theorem Slot.setReg_status (t : Slot) (n : Nat) (r : XReg) : (t.setReg n r).status = t.status := rfl
@[simp] theorem Slot.modReg_status (t : Slot) (n : Nat) (f : XReg → XReg) : (t.modReg n f).status = t.status := rfl
@[simp] theorem Slot.setReg_banks (t : Slot) (n : Nat) (r : XReg) : (t.setReg n r).banks = t.banks := rfl
@[simp] theorem Slot.modReg_banks (t : Slot) (n : Nat) (f : XReg → XReg) : (t.modReg n f).banks = t.banks := rfl
@[simp] theorem Slot.setReg_masks (t : Slot) (n : Nat) (r : XReg) : (t.setReg n r).masks = t.masks := rfl
@[simp] theorem Slot.modReg_masks (t : Slot) (n : Nat) (f : XReg → XReg) : (t.modReg n f).masks = t.masks := rfl
@[simp] theorem Slot.setReg_wake (t : Slot) (n : Nat) (r : XReg) : (t.setReg n r).wake = t.wake := rfl
@[simp] theorem Slot.modReg_wake (t : Slot) (n : Nat) (f : XReg → XReg) : (t.modReg n f).wake = t.wake := rfl
@[simp] theorem Slot.setReg_work (t : Slot) (n : Nat) (r : XReg) : (t.setReg n r).work = t.work := rfl
@[simp] theorem Slot.modReg_work (t : Slot) (n : Nat) (f : XReg → XReg) : (t.modReg n f).work = t.work := rfl
@[simp] theorem Slot.setReg_hb (t : Slot) (n : Nat) (r : XReg) : (t.setReg n r).hb = t.hb := rfl
@[simp] theorem Slot.modReg_hb (t : Slot) (n : Nat) (f : XReg → XReg) : (t.modReg n f).hb = t.hb := rfl
@[simp] theorem Slot.setReg_barSeq (t : Slot) (n : Nat) (r : XReg) : (t.setReg n r).barSeq = t.barSeq := rfl
@[simp] theorem Slot.modReg_barSeq (t : Slot) (n : Nat) (f : XReg → XReg) : (t.modReg n f).barSeq = t.barSeq := rfl
@[simp] theorem Slot.setReg_out (t : Slot) (n : Nat) (r : XReg) : (t.setReg n r).out = t.out := rfl
@[simp] theorem Slot.modReg_out (t : Slot) (n : Nat) (f : XReg → XReg) : (t.modReg n f).out = t.out := rfl
@[simp] theorem Slot.setReg_push (t : Slot) (n : Nat) (r : XReg) : (t.setReg n r).push = t.push := rfl
@[simp] theorem Slot.modReg_push (t : Slot) (n : Nat) (f : XReg → XReg) : (t.modReg n f).push = t.push := rfl
@[simp] theorem Slot.setReg_marker (t : Slot) (n : Nat) (r : XReg) : (t.setReg n r).marker = t.marker := rfl
@[simp] theorem Slot.modReg_marker (t : Slot) (n : Nat) (f : XReg → XReg) : (t.modReg n f).marker = t.marker := rfl
@[simp] theorem Slot.setReg_rsv (t : Slot) (n : Nat) (r : XReg) : (t.setReg n r).rsv = t.rsv := rfl
@[simp] theorem Slot.modReg_rsv (t : Slot) (n : Nat) (f : XReg → XReg) : (t.modReg n f).rsv = t.rsv := rfl
@[simp] theorem Slot.setReg_saved (t : Slot) (n : Nat) (r : XReg) : (t.setReg n r).saved = t.saved := rfl
@[simp] theorem Slot.modReg_saved (t : Slot) (n : Nat) (f : XReg → XReg) : (t.modReg n f).saved = t.saved := rfl
@[simp] theorem Slot.setReg_faultAtQuit (t : Slot) (n : Nat) (r : XReg) : (t.setReg n r).faultAtQuit = t.faultAtQuit := rfl
@[simp] theorem Slot.modReg_faultAtQuit (t : Slot) (n : Nat) (f : XReg → XReg) : (t.modReg n f).faultAtQuit = t.faultAtQuit := rfl
@[simp] theorem Slot.setReg_yielded (t : Slot) (n : Nat) (r : XReg) : (t.setReg n r).yielded = t.yielded := rfl
@[simp] theorem Slot.modReg_yielded (t : Slot) (n : Nat) (f : XReg → XReg) : (t.modReg n f).yielded = t.yielded := rfl
@[simp] theorem Slot.setReg_throttled (t : Slot) (n : Nat) (r : XReg) : (t.setReg n r).throttled = t.throttled := rfl
@[simp] theorem Slot.modReg_throttled (t : Slot) (n : Nat) (f : XReg → XReg) : (t.modReg n f).throttled = t.throttled := rfl
@[simp] theorem Slot.setReg_orders (t : Slot) (n : Nat) (r : XReg) : (t.setReg n r).orders = t.orders := rfl
@[simp] theorem Slot.modReg_orders (t : Slot) (n : Nat) (f : XReg → XReg) : (t.modReg n f).orders = t.orders := rfl
@[simp] theorem Slot.setReg_transit (t : Slot) (n : Nat) (r : XReg) : (t.setReg n r).transit = t.transit := rfl
@[simp] theorem Slot.modReg_transit (t : Slot) (n : Nat) (f : XReg → XReg) : (t.modReg n f).transit = t.transit := rfl
@[simp] theorem Slot.setReg_deferred (t : Slot) (n : Nat) (r : XReg) : (t.setReg n r).deferred = t.deferred := rfl
@[simp] theorem Slot.modReg_deferred (t : Slot) (n : Nat) (f : XReg → XReg) : (t.modReg n f).deferred = t.deferred := rfl
@[simp] theorem Slot.setReg_saving (t : Slot) (n : Nat) (r : XReg) : (t.setReg n r).saving = t.saving := rfl
@[simp] theorem Slot.modReg_saving (t : Slot) (n : Nat) (f : XReg → XReg) : (t.modReg n f).saving = t.saving := rfl
@[simp] theorem Slot.setReg_prior (t : Slot) (n : Nat) (r : XReg) : (t.setReg n r).prior = t.prior := rfl
@[simp] theorem Slot.modReg_prior (t : Slot) (n : Nat) (f : XReg → XReg) : (t.modReg n f).prior = t.prior := rfl
@[simp] theorem Slot.setReg_resume (t : Slot) (n : Nat) (r : XReg) : (t.setReg n r).resume = t.resume := rfl
@[simp] theorem Slot.modReg_resume (t : Slot) (n : Nat) (f : XReg → XReg) : (t.modReg n f).resume = t.resume := rfl
@[simp] theorem Slot.setReg_due (t : Slot) (n : Nat) (r : XReg) : (t.setReg n r).due = t.due := rfl
@[simp] theorem Slot.modReg_due (t : Slot) (n : Nat) (f : XReg → XReg) : (t.modReg n f).due = t.due := rfl
@[simp] theorem Slot.setReg_pushSince (t : Slot) (n : Nat) (r : XReg) : (t.setReg n r).pushSince = t.pushSince := rfl
@[simp] theorem Slot.modReg_pushSince (t : Slot) (n : Nat) (f : XReg → XReg) : (t.modReg n f).pushSince = t.pushSince := rfl
@[simp] theorem Slot.setReg_succs (t : Slot) (n : Nat) (r : XReg) : (t.setReg n r).succs = t.succs := rfl
@[simp] theorem Slot.modReg_succs (t : Slot) (n : Nat) (f : XReg → XReg) : (t.modReg n f).succs = t.succs := rfl
@[simp] theorem Slot.setReg_rose (t : Slot) (n : Nat) (r : XReg) : (t.setReg n r).rose = t.rose := rfl
@[simp] theorem Slot.modReg_rose (t : Slot) (n : Nat) (f : XReg → XReg) : (t.modReg n f).rose = t.rose := rfl
@[simp] theorem Slot.setReg_pushed (t : Slot) (n : Nat) (r : XReg) : (t.setReg n r).pushed = t.pushed := rfl
@[simp] theorem Slot.modReg_pushed (t : Slot) (n : Nat) (f : XReg → XReg) : (t.modReg n f).pushed = t.pushed := rfl
@[simp] theorem Slot.setReg_strayed (t : Slot) (n : Nat) (r : XReg) : (t.setReg n r).strayed = t.strayed := rfl
@[simp] theorem Slot.modReg_strayed (t : Slot) (n : Nat) (f : XReg → XReg) : (t.modReg n f).strayed = t.strayed := rfl

@[simp] theorem Core.setSlot_vregs (k : Core) (n : Nat) (t : Slot) : (k.setSlot n t).vregs = k.vregs := rfl
@[simp] theorem Core.setSlot_banks (k : Core) (n : Nat) (t : Slot) : (k.setSlot n t).banks = k.banks := rfl
@[simp] theorem Core.setSlot_retainCtl (k : Core) (n : Nat) (t : Slot) : (k.setSlot n t).retainCtl = k.retainCtl := rfl
@[simp] theorem Core.setSlot_links (k : Core) (n : Nat) (t : Slot) : (k.setSlot n t).links = k.links := rfl
@[simp] theorem Core.setSlot_handles (k : Core) (n : Nat) (t : Slot) : (k.setSlot n t).handles = k.handles := rfl
@[simp] theorem Core.setSlot_hwaiters (k : Core) (n : Nat) (t : Slot) : (k.setSlot n t).hwaiters = k.hwaiters := rfl
@[simp] theorem Core.setSlot_hpending (k : Core) (n : Nat) (t : Slot) : (k.setSlot n t).hpending = k.hpending := rfl
@[simp] theorem Core.setSlot_shapes (k : Core) (n : Nat) (t : Slot) : (k.setSlot n t).shapes = k.shapes := rfl
@[simp] theorem Core.setSlot_journal (k : Core) (n : Nat) (t : Slot) : (k.setSlot n t).journal = k.journal := rfl
@[simp] theorem Core.setSlot_traps (k : Core) (n : Nat) (t : Slot) : (k.setSlot n t).traps = k.traps := rfl
@[simp] theorem Core.setSlot_trapctl (k : Core) (n : Nat) (t : Slot) : (k.setSlot n t).trapctl = k.trapctl := rfl
@[simp] theorem Core.setSlot_ctxarea (k : Core) (n : Nat) (t : Slot) : (k.setSlot n t).ctxarea = k.ctxarea := rfl
@[simp] theorem Core.setSlot_ctxctl (k : Core) (n : Nat) (t : Slot) : (k.setSlot n t).ctxctl = k.ctxctl := rfl
@[simp] theorem Core.setSlot_ctxop (k : Core) (n : Nat) (t : Slot) : (k.setSlot n t).ctxop = k.ctxop := rfl
@[simp] theorem Core.setSlot_fit (k : Core) (n : Nat) (t : Slot) : (k.setSlot n t).fit = k.fit := rfl
@[simp] theorem Core.setSlot_admitList (k : Core) (n : Nat) (t : Slot) : (k.setSlot n t).admitList = k.admitList := rfl
@[simp] theorem Core.setSlot_vwin (k : Core) (n : Nat) (t : Slot) : (k.setSlot n t).vwin = k.vwin := rfl
@[simp] theorem Core.setSlot_clearing (k : Core) (n : Nat) (t : Slot) : (k.setSlot n t).clearing = k.clearing := rfl
@[simp] theorem Core.setSlot_dirty (k : Core) (n : Nat) (t : Slot) : (k.setSlot n t).dirty = k.dirty := rfl
@[simp] theorem Core.setSlot_views (k : Core) (n : Nat) (t : Slot) : (k.setSlot n t).views = k.views := rfl
@[simp] theorem Core.setSlot_notes (k : Core) (n : Nat) (t : Slot) : (k.setSlot n t).notes = k.notes := rfl
@[simp] theorem Core.setSlot_matrix (k : Core) (n : Nat) (t : Slot) : (k.setSlot n t).matrix = k.matrix := rfl
@[simp] theorem Core.setSlot_sched (k : Core) (n : Nat) (t : Slot) : (k.setSlot n t).sched = k.sched := rfl
@[simp] theorem Core.setSlot_fwds (k : Core) (n : Nat) (t : Slot) : (k.setSlot n t).fwds = k.fwds := rfl
@[simp] theorem Core.setSlot_overflow (k : Core) (n : Nat) (t : Slot) : (k.setSlot n t).overflow = k.overflow := rfl
@[simp] theorem Core.setSlot_errcnt (k : Core) (n : Nat) (t : Slot) : (k.setSlot n t).errcnt = k.errcnt := rfl
@[simp] theorem Core.setSlot_service (k : Core) (n : Nat) (t : Slot) : (k.setSlot n t).service = k.service := rfl
@[simp] theorem Core.setSlot_handler (k : Core) (n : Nat) (t : Slot) : (k.setSlot n t).handler = k.handler := rfl
@[simp] theorem Core.setSlot_bankq (k : Core) (n : Nat) (t : Slot) : (k.setSlot n t).bankq = k.bankq := rfl
@[simp] theorem Core.setSlot_waiting (k : Core) (n : Nat) (t : Slot) : (k.setSlot n t).waiting = k.waiting := rfl
@[simp] theorem Core.setSlot_vecs (k : Core) (n : Nat) (t : Slot) : (k.setSlot n t).vecs = k.vecs := rfl
@[simp] theorem Core.setSlot_copyq (k : Core) (n : Nat) (t : Slot) : (k.setSlot n t).copyq = k.copyq := rfl
@[simp] theorem Core.setSlot_copies (k : Core) (n : Nat) (t : Slot) : (k.setSlot n t).copies = k.copies := rfl
@[simp] theorem Core.setSlot_streams (k : Core) (n : Nat) (t : Slot) : (k.setSlot n t).streams = k.streams := rfl
@[simp] theorem Core.setSlot_snapshot (k : Core) (n : Nat) (t : Slot) : (k.setSlot n t).snapshot = k.snapshot := rfl
@[simp] theorem Core.setSlot_orphans (k : Core) (n : Nat) (t : Slot) : (k.setSlot n t).orphans = k.orphans := rfl
@[simp] theorem Core.setSlot_outbox (k : Core) (n : Nat) (t : Slot) : (k.setSlot n t).outbox = k.outbox := rfl
@[simp] theorem Core.setSlot_reasm (k : Core) (n : Nat) (t : Slot) : (k.setSlot n t).reasm = k.reasm := rfl
@[simp] theorem Core.setSlot_running (k : Core) (n : Nat) (t : Slot) : (k.setSlot n t).running = k.running := rfl
@[simp] theorem Core.setSlot_halted (k : Core) (n : Nat) (t : Slot) : (k.setSlot n t).halted = k.halted := rfl
@[simp] theorem Core.setSlot_frozen (k : Core) (n : Nat) (t : Slot) : (k.setSlot n t).frozen = k.frozen := rfl
@[simp] theorem Core.setSlot_evac (k : Core) (n : Nat) (t : Slot) : (k.setSlot n t).evac = k.evac := rfl
@[simp] theorem Core.setSlot_cycles (k : Core) (n : Nat) (t : Slot) : (k.setSlot n t).cycles = k.cycles := rfl
@[simp] theorem Core.setSlot_served (k : Core) (n : Nat) (t : Slot) : (k.setSlot n t).served = k.served := rfl
@[simp] theorem Core.setSlot_vbusy (k : Core) (n : Nat) (t : Slot) : (k.setSlot n t).vbusy = k.vbusy := rfl
@[simp] theorem Core.setSlot_serving (k : Core) (n : Nat) (t : Slot) : (k.setSlot n t).serving = k.serving := rfl
@[simp] theorem Core.setSlot_issued (k : Core) (n : Nat) (t : Slot) : (k.setSlot n t).issued = k.issued := rfl
@[simp] theorem Core.setSlot_atRise (k : Core) (n : Nat) (t : Slot) : (k.setSlot n t).atRise = k.atRise := rfl
@[simp] theorem Core.setSlot_heldBack (k : Core) (n : Nat) (t : Slot) : (k.setSlot n t).heldBack = k.heldBack := rfl

@[simp] theorem Core.setSlot_handle (k : Core) (n h : Nat) (t : Slot) : (k.setSlot n t).handle h = k.handle h := rfl
@[simp] theorem Core.setSlot_vreg (k : Core) (n p : Nat) (t : Slot) : (k.setSlot n t).vreg p = k.vreg p := rfl
@[simp] theorem Core.setSlot_bank (k : Core) (n p : Nat) (t : Slot) : (k.setSlot n t).bank p = k.bank p := rfl
@[simp] theorem Core.setSlot_view (k : Core) (n p : Nat) (t : Slot) : (k.setSlot n t).view p = k.view p := rfl
@[simp] theorem Core.setSlot_shape (k : Core) (n p : Nat) (t : Slot) : (k.setSlot n t).shape p = k.shape p := rfl
@[simp] theorem Core.setSlot_acc (k : Core) (n p : Nat) (t : Slot) : (k.setSlot n t).acc p = k.acc p := rfl

end Sys2Proof.Machine
end

