-- ==== Sys2Proof/Safety.lean ====
section
/-!
DEFINITION. The terms that claims use: a safe run, whose memory keeps its canonical form and whose steps never stop, and the operands of an
instruction that can issue.
-/

namespace Sys2Proof

/-- The outcome is a next state. -/
def Goes (o : Host.Outcome Machine.State Machine.Fault Machine.Refusal) : Prop := ∃ t, o = .next t

/-- The state's memory has its canonical form. -/
def MemOk (s : Machine.State) : Prop := Machine.Memory.wf s.mem = true

/-- A run of k steps that never stops, and whose memory keeps its form. -/
def SafeRun : Nat → Machine.State → Prop
  | 0, s => MemOk s
  | k + 1, s => MemOk s ∧ ∃ t, Machine.step s = .next t ∧ SafeRun k t

namespace Machine

/-- A destination that an instruction may write now: in normal mode, or in link-out mode with a word free in the FIFO (R31, R38). -/
def State.takesWrite (s : State) (n : SReg) : Prop :=
  (s.me.reg n.toNat).mode = 0 ∨ ((s.me.reg n.toNat).mode = 3 ∧ (s.myCore.linkEnd (s.me.reg n.toNat).dir).used < 4)

/-- The first source of a binary form, the second one, and its reads with their q bits (R249). -/
def binFirst (o : OpBin) : SReg := match o.c with | none => o.a | some _ => o.b
def binSecond (o : OpBin) : SReg := match o.c with | none => o.b | some c => c
def binTakes (o : OpBin) : List (SReg × Bool) := match o.c with | none => [(o.a, false), (o.b, o.q)] | some c => [(o.b, o.q), (c, false)]

end Machine

end Sys2Proof
end

