-- ==== Sys2Proof/Laws/Issue.lean ====
section
/-!
SUPPORT. How an instruction ends, by what its body answers; how an event is performed; and what the scalar operand forms answer.
-/

namespace Sys2Proof.Machine

/-! ## What does not see the program counter -/

@[simp] theorem guardHolds_pc (m : Mods) (t : Slot) (p : Nat) : guardHolds m { t with pc := p } = guardHolds m t := rfl

@[simp] theorem State.myCore_advance (s : State) : s.advance.myCore = s.myCore.setSlot s.cur.slot { s.me with pc := s.cur.next } :=
  State.myCore_modMe s _

@[simp] theorem State.peek_advance (s : State) (n : SReg) : s.advance.peek n = s.peek n := by
  simp only [State.peek, State.me_advance, Slot.reg_with_pc, State.myCore_advance, State.advance_cur]
  rfl

@[simp] theorem State.peek2_advance (s : State) (a b : SReg) : s.advance.peek2 a b = s.peek2 a b := by
  simp only [State.peek2, State.peek_advance]

@[simp] theorem State.peek3_advance (s : State) (a b c : SReg) : s.advance.peek3 a b c = s.peek3 a b c := by
  simp only [State.peek3, State.peek_advance, State.peek2_advance]

@[simp] theorem State.vregAt_advance (s : State) (v : VNum) : s.advance.vregAt v = s.vregAt v := by
  simp only [State.vregAt, State.me_advance, State.myCore_advance]
  rfl

@[simp] theorem State.vpeek_advance (s : State) (v : VNum) : s.advance.vpeek v = s.vpeek v := by
  simp only [State.vpeek, State.vregAt_advance, State.me_advance, State.myCore_advance, State.advance_cur]
  rfl

/-! ## How an instruction ends -/

theorem issue_ok {s t : State} {m : Mods} {body : State → Try State} (h : body s.advance = .ok t) : s.issue m body = .next (t.retire m.sw) := by
  simp [State.issue, h]

theorem issue_trap {s : State} {m : Mods} {body : State → Try State} {c : Nat} {a : Word} {x : Nat} (h : body s.advance = .error (.trap c a x))
    (hs : s.cur.slot ≠ 15 ∨ c ≠ 4) : s.issue m body = .next (s.takeTrap s.cur.core s.cur.slot s.cur.addr c a x) := by
  have : ¬ (s.cur.slot = 15 ∧ c = 4) := by omega
  simp [State.issue, h, this]

theorem issue_wait {s : State} {m : Mods} {body : State → Try State} {w : Why} (h : body s.advance = .error (.wait w))
    (hs : s.cur.slot ≠ 15 ∨ w.st ≠ .waiting) : s.issue m body = .next (s.suspend w) := by
  have : ¬ (s.cur.slot = 15 ∧ w.st = .waiting) := by
    rintro ⟨h1, h2⟩
    cases hs with
    | inl h => exact h h1
    | inr h => exact h h2
  simp [State.issue, h, this]

/-- Whatever its body answers, an issued instruction leaves a next state. -/
theorem issue_next (s : State) (m : Mods) (body : State → Try State) : ∃ t, s.issue m body = .next t := by
  unfold State.issue
  split
  · exact ⟨_, rfl⟩
  · split <;> exact ⟨_, rfl⟩
  · split <;> exact ⟨_, rfl⟩

theorem guarded_ok {s t : State} {m : Mods} {body : State → Try State} (hg : guardHolds m s.me = true) (h : body s.advance = .ok t) :
    s.guarded m body = .next (t.retire m.sw) := issue_ok (by simp [hg, h])

theorem guarded_skip {s : State} {m : Mods} {body : State → Try State} (hg : guardHolds m s.me = false) :
    s.guarded m body = .next (s.advance.retire m.sw) := issue_ok (by simp [hg])

theorem guarded_trap {s : State} {m : Mods} {body : State → Try State} {c : Nat} {a : Word} {x : Nat} (hg : guardHolds m s.me = true)
    (h : body s.advance = .error (.trap c a x)) (hs : s.cur.slot ≠ 15 ∨ c ≠ 4) :
    s.guarded m body = .next (s.takeTrap s.cur.core s.cur.slot s.cur.addr c a x) := issue_trap (by simp [hg, h]) hs

theorem guarded_wait {s : State} {m : Mods} {body : State → Try State} {w : Why} (hg : guardHolds m s.me = true)
    (h : body s.advance = .error (.wait w)) (hs : s.cur.slot ≠ 15 ∨ w.st ≠ .waiting) :
    s.guarded m body = .next (s.suspend w) := issue_wait (by simp [hg, h]) hs

@[simp] theorem Slot.sup_with_pc (t : Slot) (p : Nat) : ({ t with pc := p } : Slot).sup = t.sup := rfl

theorem privileged_ok {s t : State} {m : Mods} {body : State → Try State} (hs : s.me.sup = true) (hg : guardHolds m s.me = true)
    (h : body s.advance = .ok t) : s.privileged m body = .next (t.retire m.sw) := issue_ok (by simp [ensure, hs, hg, h])

theorem privileged_skip {s : State} {m : Mods} {body : State → Try State} (hs : s.me.sup = true) (hg : guardHolds m s.me = false) :
    s.privileged m body = .next (s.advance.retire m.sw) := issue_ok (by simp [ensure, hs, hg])

theorem privileged_trap {s : State} {m : Mods} {body : State → Try State} (hs : s.me.sup = false) :
    s.privileged m body = .next (s.takeTrap s.cur.core s.cur.slot s.cur.addr 3 0 0) := issue_trap (by simp [ensure, hs]) (.inr (by decide))

/-! ## Events -/

theorem perform_some {s t : State} {e : Event} {f : State → Event → Option State} (h : s.event = some e)
    (hf : f { s with event := none } e = some t) : s.perform f = .next t := by
  simp [State.perform, h, hf]

theorem perform_none {s : State} {f : State → Event → Option State} (h : s.event = none) : s.perform f = .next s := by
  simp [State.perform, h]

/-- An event always leaves a next state. -/
theorem perform_next (s : State) (f : State → Event → Option State) : ∃ t, s.perform f = .next t := by
  unfold State.perform
  split <;> exact ⟨_, rfl⟩

/-! ## Operands -/

/-- A read that gets a value is of a register in normal, stream or link-in mode (R31). -/
theorem peek_mode {s : State} {n : SReg} {v : Word} (h : s.peek n = .ok v) : ((s.me.reg n.toNat).mode != 3) = true := by
  simp only [bne_iff_ne, ne_eq]
  intro h3
  simp [State.peek, h3] at h

theorem peek2_ok {s : State} {a b : SReg} {x y : Word} (ha : s.peek a = .ok x) (hb : s.peek b = .ok y) : s.peek2 a b = .ok (x, y) := by
  simp [State.peek2, ha, hb]

theorem peek3_ok {s : State} {a b c : SReg} {x y z : Word} (ha : s.peek a = .ok x) (hb : s.peek b = .ok y) (hc : s.peek c = .ok z) :
    s.peek3 a b c = .ok (x, y, z) := by
  simp [State.peek3, ha, peek2_ok hb hc]

@[simp] theorem readable_advance {α : Type} (s : State) (n : SReg) (k : Try α) : s.advance.readable n k = s.readable n k := by
  simp [State.readable]

@[simp] theorem writable_advance {α : Type} (s : State) (n : SReg) (k : Try α) : s.advance.writable n k = s.writable n k := by
  simp [State.writable]

@[simp] theorem fillable_advance {α : Type} (s : State) (n : SReg) (k : Try α) : s.advance.fillable n k = s.fillable n k := by
  simp [State.fillable]

@[simp] theorem room_advance {α : Type} (s : State) (n : SReg) (k : Try α) : s.advance.room n k = s.room n k := by
  simp only [State.room, State.me_advance, Slot.reg_with_pc, State.myCore_advance]
  rfl

theorem readable_ok {α : Type} {s : State} {n : SReg} {v : Word} (k : Try α) (h : s.peek n = .ok v) : s.readable n k = k := by
  simp only [State.readable, ensure, peek_mode h, if_true]

theorem writable_ok {α : Type} {s : State} {n : SReg} (k : Try α) (h : s.takesWrite n) : s.writable n k = k := by
  rcases h with h | ⟨h, -⟩ <;> simp [State.writable, ensure, h]

theorem room_ok {α : Type} {s : State} {n : SReg} (k : Try α) (h : s.takesWrite n) : s.room n k = k := by
  rcases h with h | ⟨h, hu⟩ <;> simp [State.room, hold, h, *]

/-- A binary form whose sources read and whose destination takes a write. -/
theorem binary_ok {s : State} {o : OpBin} {u w : Word} (f : Word → Word → Res) (ha : s.takesWrite o.a) (hx : s.peek (binFirst o) = .ok u)
    (hy : s.peek (binSecond o) = .ok w) : s.advance.binary o f = .ok (s.advance.result o.a (binTakes o) (f u w)) := by
  obtain ⟨a, b, q, c⟩ := o
  cases c <;> simp only [binFirst, binSecond] at hx hy <;>
    simp only [State.binary, binTakes, writable_advance, writable_ok _ ha, readable_advance, readable_ok _ hx, readable_ok _ hy,
      State.peek2_advance, peek2_ok hx hy, room_advance, room_ok _ ha]

theorem unary_ok {s : State} {o : OpAB} {u : Word} (f : Word → Res) (ha : s.takesWrite o.a) (hx : s.peek o.b = .ok u) :
    s.advance.unary o f = .ok (s.advance.result o.a [(o.b, o.q)] (f u)) := by
  simp only [State.unary, writable_advance, writable_ok _ ha, readable_advance, readable_ok _ hx, State.peek_advance, hx, room_advance, room_ok _ ha]

theorem inPlace_ok {s : State} {a : SReg} {u : Word} (f : Word → Res) (ha : s.takesWrite a) (hx : s.peek a = .ok u) :
    s.advance.inPlace a f = .ok (s.advance.result a [(a, false)] (f u)) := by
  simp only [State.inPlace, writable_advance, writable_ok _ ha, readable_advance, readable_ok _ hx, State.peek_advance, hx]

theorem produce_ok {s : State} {a : SReg} (r : Res) (ha : s.takesWrite a) : s.advance.produce a r = .ok (s.advance.result a [] r) := by
  simp only [State.produce, writable_advance, writable_ok _ ha, room_advance, room_ok _ ha]

theorem ternary_ok {s : State} {o : OpABC} {u v w : Word} (f : Word → Word → Word → Res) (ha : s.takesWrite o.a) (hx : s.peek o.a = .ok u)
    (hy : s.peek o.b = .ok v) (hz : s.peek o.c = .ok w) :
    s.advance.ternary o f = .ok (s.advance.result o.a [(o.a, false), (o.b, o.q), (o.c, false)] (f u v w)) := by
  simp only [State.ternary, writable_advance, writable_ok _ ha, readable_advance, readable_ok _ hx, readable_ok _ hy, readable_ok _ hz,
    State.peek3_advance, peek3_ok hx hy hz]

/-- A normal register is written with its value, full, its failed bit clear and a pending fill cancelled (R29, R30, R101). -/
theorem swrite_normal {s : State} {n : SReg} (v : Word) (h : (s.me.reg n.toNat).mode = 0) :
    s.swrite n v = s.modMe fun t => t.modReg n.toNat fun r => r.write v := by
  simp [State.swrite, h]

/-- Reads of normal registers without `~` leave the state as it is (R29). -/
theorem consume_plain {s : State} (ns : List (SReg × Bool)) (h : ∀ x ∈ ns, (s.me.reg x.1.toNat).mode = 0 ∧ x.2 = false) : s.consume ns = s := by
  suffices H : ∀ seen, s.consumeFrom seen ns = s from H []
  induction ns with
  | nil => intro seen; rfl
  | cons x xs ih =>
    intro seen
    obtain ⟨n, q⟩ := x
    have hx := h (n, q) (by simp)
    have hxs := ih fun y hy => h y (by simp [hy])
    simp only at hx
    simp [State.consumeFrom, State.consume1, hx.1, hx.2, hxs]

end Sys2Proof.Machine
end

