-- ==== Sys2Proof/Certificates/Slice0/Obligations.lean ====
section
/-!
DEFINITION. The statements for the provers, each a proposition about the model that follows spec/'s numbered rules, and the terms they are stated in.
-/

open Sys2Proof Sys2Proof.Machine

namespace Sys2Proof.Claim

/-! ## How an instruction ends -/

/-- The instruction issues with this outcome: its own effect takes the state, whose program counter already names the next instruction, to `t`, and a
switch marker then holds the slot while accesses are outstanding (R26). -/
def Ends (i : Instr) (m : Mods) (s t : State) : Prop := exec i s = .next (t.retire m.sw)

/-- The next state of a form that takes the exact trap instead (R382). -/
def Traps (i : Instr) (s : State) (cause : Nat) (addr : Word) (aux : Nat) : Prop :=
  exec i s = .next (s.takeTrap s.cur.core s.cur.slot s.cur.addr cause addr aux)

/-! ## Integer results, on w bits (R251, R252) -/

/-- The width of a page 0 form with this PFX.X. -/
def width (x : Option ArithX) : Nat :=
  match x with
  | none => 64
  | some x => match x.ty with | .i16 => 16 | .i8 => 8 | .u8 => 8 | _ => 32

/-- Whether it is signed; `sgn` is what its mnemonic says without PFX.X. -/
def isSigned (x : Option ArithX) (sgn : Bool) : Bool :=
  match x with
  | none => sgn
  | some x => match x.ty with | .u8 => false | .u32 => false | _ => true

/-- Whether it saturates. -/
def sat (x : Option ArithX) : Bool := match x with | none => false | some x => x.sat

/-- An operand: its low w bits as an integer. -/
def num (w : Nat) (sgn : Bool) (v : Word) : Int := if sgn then (v.setWidth w).toInt else ((v.setWidth w).toNat : Int)

/-- The least and the greatest number of the type. -/
def least (w : Nat) (sgn : Bool) : Int := if sgn then -(2 ^ (w - 1) : Nat) else 0
def greatest (w : Nat) (sgn : Bool) : Int := if sgn then (2 ^ (w - 1) : Nat) - 1 else (2 ^ w : Nat) - 1

/-- An exact result as it is written: held to the range where `.sat` is set, cut to w bits, and extended. -/
def written (w : Nat) (sgn st : Bool) (r : Int) : Word :=
  let c := if st then max (least w sgn) (min (greatest w sgn) r) else r
  if sgn then (BitVec.ofInt w c).signExtend 64 else (BitVec.ofInt w c).setWidth 64

/-- Z and N of a written value. -/
def zn (w : Nat) (v : Word) : FlagSet := { z := some (v.setWidth w == 0), n := some (v.setWidth w).msb }

/-- A result that writes Z and N only. -/
def plain (w : Nat) (v : Word) : Res := { v := v, flags := zn w v }

/-- A 64-bit result that leaves the flags alone. -/
def bare (v : Word) : Res := { v := v }

/-- The result of a sum, a difference and a product. -/
def sum (x : Option ArithX) (u v : Word) : Res :=
  let w := width x
  let g := isSigned x true
  let r := written w g (sat x) (num w g u + num w g v)
  { v := r, flags := { zn w r with c := some (BitVec.uaddOverflow (u.setWidth w) (v.setWidth w)),
                                   v := some (BitVec.saddOverflow (u.setWidth w) (v.setWidth w)) } }

def difference (x : Option ArithX) (u v : Word) : Res :=
  let w := width x
  let g := isSigned x true
  let r := written w g (sat x) (num w g u - num w g v)
  { v := r, flags := { zn w r with c := some (!BitVec.usubOverflow (u.setWidth w) (v.setWidth w)),
                                   v := some (BitVec.ssubOverflow (u.setWidth w) (v.setWidth w)) } }

def product (x : Option ArithX) (u v : Word) : Res :=
  let w := width x
  let g := isSigned x true
  let p := num w g u * num w g v
  let r := written w g (sat x) p
  { v := r, flags := { zn w r with v := some (decide (p < least w g ∨ greatest w g < p)) } }

/-- The upper half of the 2w-bit product. -/
def upper (x : Option ArithX) (sgn : Bool) (u v : Word) : Res :=
  let w := width x
  let g := isSigned x sgn
  plain w (written w g (sat x) ((num w g u * num w g v) / (2 ^ w : Nat)))

/-- Quotient and remainder, with the corner cases of R254. -/
def quotient (x : Option ArithX) (sgn : Bool) (u v : Word) : Res :=
  let w := width x
  let g := isSigned x sgn
  let a := num w g u
  let b := num w g v
  let r := if b = 0 then (if g then -1 else (BitVec.allOnes w).setWidth 64)
           else if g = true ∧ a = least w g ∧ b = -1 then written w g false (if sat x then greatest w g else least w g)
           else written w g (sat x) (a.tdiv b)
  { v := r, flags := { zn w r with v := some (decide (b = 0 ∨ (g = true ∧ a = least w g ∧ b = -1))) } }

def remainder (x : Option ArithX) (sgn : Bool) (u v : Word) : Res :=
  let w := width x
  let g := isSigned x sgn
  let a := num w g u
  let b := num w g v
  let r := if b = 0 then written w g (sat x) a
           else if g = true ∧ a = least w g ∧ b = -1 then 0
           else written w g (sat x) (a - b * a.tdiv b)
  { v := r, flags := { zn w r with v := some (decide (b = 0 ∨ (g = true ∧ a = least w g ∧ b = -1))) } }

/-- The smaller and the larger operand. -/
def smaller (x : Option ArithX) (sgn : Bool) (u v : Word) : Res :=
  let w := width x
  let g := isSigned x sgn
  plain w (written w g (sat x) (if num w g u ≤ num w g v then num w g u else num w g v))

def larger (x : Option ArithX) (sgn : Bool) (u v : Word) : Res :=
  let w := width x
  let g := isSigned x sgn
  plain w (written w g (sat x) (if num w g u ≤ num w g v then num w g v else num w g u))

/-- A shift by n: its value, and C as the last bit that has left the register. -/
def shifted (v : Word) (n : Nat) (last : Bool) : Res := { v := v, flags := { zn 64 v with c := some (decide (n ≠ 0) && last) } }

def left (u : Word) (n : Nat) : Res := shifted (u <<< n) n (u.getLsbD (64 - n))
def right (u : Word) (n : Nat) : Res := shifted (u >>> n) n (u.getLsbD (n - 1))
def arith (u : Word) (n : Nat) : Res := shifted (u.sshiftRight n) n (u.getLsbD (n - 1))

/-! ## Forms whose operands read and whose destination takes a write (R29, R31, R249) -/

/-- A binary form on u and w. -/
def Bin (s : State) (m : Mods) (o : OpBin) (u w : Word) : Prop :=
  guardHolds m s.me = true ∧ s.takesWrite o.a ∧ s.peek (binFirst o) = .ok u ∧ s.peek (binSecond o) = .ok w

/-- What a binary form that writes r leaves: its reads consumed, the flags and the destination written. -/
def binDone (s : State) (o : OpBin) (r : Res) : State := s.advance.result o.a (binTakes o) r

/-- A unary form on u. -/
def Un (s : State) (m : Mods) (o : OpAB) (u : Word) : Prop :=
  guardHolds m s.me = true ∧ s.takesWrite o.a ∧ s.peek o.b = .ok u

def unDone (s : State) (o : OpAB) (r : Res) : State := s.advance.result o.a [(o.b, o.q)] r

/-- A form that reads sa as u and writes it. -/
def Acc (s : State) (m : Mods) (a : SReg) (u : Word) : Prop :=
  guardHolds m s.me = true ∧ s.takesWrite a ∧ s.peek a = .ok u

def accDone (s : State) (a : SReg) (r : Res) : State := s.advance.result a [(a, false)] r

/-- A form that only writes sa. -/
def Out (s : State) (m : Mods) (a : SReg) : Prop := guardHolds m s.me = true ∧ s.takesWrite a

def outDone (s : State) (a : SReg) (r : Res) : State := s.advance.result a [] r

/-- A form that reads sa, sb and sc as u, v and w and writes sa. -/
def Tern (s : State) (m : Mods) (o : OpABC) (u v w : Word) : Prop :=
  guardHolds m s.me = true ∧ s.takesWrite o.a ∧ s.peek o.a = .ok u ∧ s.peek o.b = .ok v ∧ s.peek o.c = .ok w

def ternDone (s : State) (o : OpABC) (r : Res) : State := s.advance.result o.a [(o.a, false), (o.b, o.q), (o.c, false)] r

/-- The number of zero bits above, and below, the bits that are one. -/
def leading (u : Word) : Nat := if u = 0 then 64 else 63 - Nat.log2 u.toNat
def trailing (u : Word) : Nat := ((List.range 64).find? fun i => u.getLsbD i).getD 64

/-- r holds the len bits of v from lo up; and v with those bits replaced by the low ones of x. Bits above 63 read as zero and are dropped. -/
def IsField (v : Word) (lo len : Nat) (r : Word) : Prop := ∀ i, i < 64 → r.getLsbD i = (decide (i < len) && v.getLsbD (lo + i))
def IsPatch (v x : Word) (lo len : Nat) (r : Word) : Prop :=
  ∀ i, i < 64 → r.getLsbD i = if lo ≤ i ∧ i < lo + len then x.getLsbD (i - lo) else v.getLsbD i

/-- A comparison of u and w with the outcome y: its predicate is y, inverted by `neg`, and the flags are those of u − w. -/
def cmpDone (s : State) (o : OpCmp) (u w : Word) (y : Bool) : State :=
  ((s.advance.consume [(o.a, false), (o.b, o.q)]).modPred (difference none u w).flags.apply).modPred fun p => withBit p o.p.toNat (y != o.neg)

def cmpiDone (s : State) (o : OpCmpI) (u w : Word) (y : Bool) : State :=
  ((s.advance.consume [(o.a, false)]).modPred (difference none u w).flags.apply).modPred fun p => withBit p o.p.toNat (y != o.neg)

/-- r is p with bit i as b; and p with the bits that k selects taken from x. -/
def IsBit (p : BitVec 16) (i : Nat) (b : Bool) (r : BitVec 16) : Prop := ∀ j, j < 16 → r.getLsbD j = if j = i then b else p.getLsbD j
def IsChosen (p k x r : BitVec 16) : Prop := ∀ j, j < 16 → r.getLsbD j = if k.getLsbD j then x.getLsbD j else p.getLsbD j

/-- The address a branch goes to, and the thread's program counter there. -/
def target (s : State) (off : Int) : Nat := (BitVec.ofInt 48 (s.cur.addr + 2 * off)).toNat
def goesTo (s : State) (a : Nat) : State := s.modMe fun t => { t with pc := a }

/-! ## Floating point on page 2 (R56, R57, R273) -/

/-- The format of a form, f32 without PFX.X; the code an operand holds; and how the form rounds. -/
def format (x : Option ArithX) : Fmt :=
  match x with
  | none => fp32
  | some x => match x.ty with | .f16 => fp16 | .bf16 => Sys2Proof.Machine.bf16 | _ => fp32

def code (x : Option ArithX) (u : Word) : Nat := u.toNat % 2 ^ (format x).width

def env (s : State) (x : Option ArithX) : FEnv :=
  { rnd := (x.map fun x => x.rnd).getD .rne, sat := (x.map fun x => x.sat).getD false, flush := s.me.flush }

/-- A floating-point result: its code zero-extended, and the sticky flags it raises. -/
def fl (r : Nat × Sticky) : Res := { v := BitVec.ofNat 64 r.1, sticky := r.2 }

def fcmpDone (s : State) (o : OpCmp) (r : Bool × Sticky) : State :=
  ((s.advance.consume [(o.a, false), (o.b, o.q)]).modPred r.2.raise).modPred fun p => withBit p o.p.toNat (r.1 != o.neg)

/-- A code's magnitude, in units of the smallest subnormal of the format; one past the largest finite code, the next power of two (R47, R48). FLUSH
reads a subnormal of FP32 or BF16 as zero (R66). -/
def magnitude (f : Fmt) (c : Nat) : Nat := c % 2 ^ (f.eb + f.mb)
def units (f : Fmt) (c : Nat) : Nat :=
  let k := magnitude f c
  if k < 2 ^ f.mb then k else (2 ^ f.mb + k % 2 ^ f.mb) * 2 ^ (k / 2 ^ f.mb - 1)
def minus (f : Fmt) (c : Nat) : Bool := c.testBit (f.eb + f.mb)
def signed (f : Fmt) (neg : Bool) (k : Nat) : Nat := if neg then k + 2 ^ (f.eb + f.mb) else k
def asRead (f : Fmt) (flush : Bool) (c : Nat) : Nat :=
  if flush = true ∧ f.eb = 8 ∧ magnitude f c < 2 ^ f.mb then signed f (minus f c) 0 else c
def number (f : Fmt) (c : Nat) : Int := if minus f c then -(units f c : Int) else units f c

/-- A code's place in the order in which −0 stands below +0 (R274). -/
def rank (f : Fmt) (c : Nat) : Int := if minus f c then -(2 * units f c : Int) else 2 * units f c + 1

/-- One in units of the smallest subnormal. -/
def one (f : Fmt) : Nat := 2 ^ (f.mb + f.bias - 1)

def IsFinite (f : Fmt) (c : Nat) : Prop := magnitude f c < f.infCode
def IsNan (f : Fmt) (c : Nat) : Prop := f.infCode < magnitude f c

/-- The overflow result of FP32, FP16 and BF16 (R59). -/
def overflow (f : Fmt) (v : FEnv) (neg : Bool) : Nat :=
  let largest := match v.rnd with | .rne => v.sat | .rz => true | .ru => v.sat || neg | .rd => v.sat || !neg
  signed f neg (if largest then f.infCode - 1 else f.infCode)

/-- r is the result of R57 to R59 for a number of sign `neg`, whose magnitude `against n` compares with n half units: a number that a code holds exactly is
that code with no flag; between two codes it is the one that the mode chooses, with FX; and above the largest it overflows. A subnormal result of FP32
or BF16 becomes zero under FLUSH, with FX. -/
def Rounded (f : Fmt) (v : FEnv) (neg : Bool) (against : Nat → Ordering) (r : Nat × Sticky) : Prop :=
  let small (d : Nat) : Bool := v.flush && f.eb == 8 && decide (0 < d ∧ d < 2 ^ f.mb)
  let result (d : Nat) (fx : Bool) : Nat × Sticky :=
    if d = f.infCode then (overflow f v neg, { fo := true, fx := true })
    else if small d then (signed f neg 0, { fx := true })
    else (signed f neg d, { fx := fx })
  (∀ d, d < f.infCode → against (2 * units f d) = .eq → r = result d false) ∧
  (∀ d, d < f.infCode → against (2 * units f d) = .gt → against (2 * units f (d + 1)) = .lt →
    let middle := against (units f d + units f (d + 1))
    let up : Bool := match v.rnd with | .rne => middle == .gt || (middle == .eq && d % 2 == 1) | .rz => false | .ru => !neg | .rd => neg
    r = result (if up then d + 1 else d) true) ∧
  (against (2 * units f f.infCode) ≠ .lt → r = (overflow f v neg, { fo := true, fx := true }))

/-- The magnitude p / q units. -/
def ratio (p q n : Nat) : Ordering := compare (2 * p) (n * q)

/-- r is x, in units, rounded to the integer that a mode chooses (R57). -/
def integer (rnd : Rnd) (f : Fmt) (neg : Bool) (x : Nat) : Nat :=
  let n := x / one f
  let rest := x % one f
  let up : Bool := match rnd with
    | .rne => decide (one f < 2 * rest) || (2 * rest == one f && n % 2 == 1)
    | .rz => false
    | .ru => rest != 0 && !neg
    | .rd => rest != 0 && neg
  if up then n + 1 else n

/-- The class of an FP32 code (R277). -/
def classOf (c : BitVec 32) : Nat :=
  let ex := (c.extractLsb' 23 8).toNat
  let man := (c.extractLsb' 0 23).toNat
  if ex = 255 then (if man = 0 then (if c.msb then 0 else 7) else if c.getLsbD 22 then 9 else 8)
  else if ex = 0 then (if man = 0 then (if c.msb then 3 else 4) else if c.msb then 2 else 5)
  else if c.msb then 1 else 6

/-! ## What does not change -/

/-- The parts of a core that a scalar instruction's reads and writes do not touch: all but its slots, links and streams. -/
def others (k : Core) : Core := { k with slots := [], links := [], streams := [] }

/-- Of a thread, all but its registers, predicate word, program counter, and the state it is in. -/
def aside (t : Slot) : Slot := { t with regs := [], pred := 0, pc := 0, st := .free, why := .none, marker := false }

/-- Outside the issuing thread nothing has changed but the links and streams of its core and what is on the agenda: every byte of memory, presence,
poison, the package, the other cores and the other threads. -/
def Outside (s t : State) : Prop :=
  (∀ a, memByte t.mem a = memByte s.mem a) ∧ t.pres = s.pres ∧ t.poison = s.poison ∧ t.hubs = s.hubs ∧ t.routers = s.routers ∧
  t.wiring = s.wiring ∧ t.now = s.now ∧ t.cur = s.cur ∧ (∀ c, c ≠ s.cur.core → t.core c = s.core c) ∧ others t.myCore = others s.myCore ∧
  ∀ n, n ≠ s.cur.slot → t.slot s.cur.core n = s.slot s.cur.core n

/-- No byte of memory has changed. -/
def SameMem (s t : State) : Prop := ∀ a, memByte t.mem a = memByte s.mem a

/-- An event is on the agenda for now. -/
def Now (s t : State) (e : Event) : Prop := ⟨s.now, e⟩ ∈ t.agenda

/-- A register that may be a destination (R31, R249). -/
def mayTake (s : State) (n : SReg) : Prop := (s.me.reg n.toNat).mode = 0 ∨ (s.me.reg n.toNat).mode = 3

/-- The forms of page 5 that check a vector register or the array before their guard (R243). -/
def looksFirst : Instr → Bool
  | .streamVector _ _ | .unstreamVector _ _ | .mxs _ | .mxr _ _ => true
  | _ => false

/-! ## The turn that issues -/

/-- The state that an instruction finds when its turn issues it: it has its turn and its port, `cur` names it, and the thread's next instruction
may pair, unless this one has waited for banks in Retain (R402). -/
def readied (s : State) (c n : Nat) (i : Instr) (next : Nat) (pair : Bool) : State :=
  let t := ((s.takeTurn c n (isWide i)).countHandler c n).modSlot c n fun x => x.startIssue (s.slot c n).pc
  { t with cur := ⟨c, n, (s.slot c n).pc, next⟩, turns := if pair && (s.slot c n).rose != some (s.slot c n).pc then ⟨c, .pair, n⟩ :: t.turns else t.turns }

/-- What an instruction of a slot that has issued leaves behind: the registers it writes begin their latencies, a long form occupies the vector unit
(R287), and a transfer that has left the code slice is noted (R230). -/
def issuedBy (s t : State) (c n next : Nat) (i : Instr) : State :=
  let pc := (s.slot c n).pc
  ((t.oweResults s c n pc i).occupy c n pc i).stray c n next i

/-- The owner's turn begins: it has left the list, and the slot has no yield to honour any more. -/
def ownerTurn (s : State) (c n : Nat) (ts : List Turn) : State := ({ s with turns := ts } : State).modSlot c n fun x => { x with yielded := false }

/-! ## Requests -/

/-- The thread may execute privileged forms, and its guard holds. -/
def Priv (s : State) (m : Mods) : Prop := s.me.sup = true ∧ guardHolds m s.me = true

/-- No access of the thread is outstanding, and the core may issue one more (R113, R115). -/
def Alone (s : State) : Prop := s.me.live = [] ∧ s.myCore.liveCount < 64

/-- The device of an address is the own one, or has a valid path (R351). -/
def Route (s : State) (v : Word) : Prop := devOf (coreNamed v) = devOf s.cur.core ∨ s.myRoutes.getLsbD (devOf (coreNamed v)) = true

/-- An operand that names a core that can be reached; one that names a block of n bytes of a tile store. -/
def CoreNamed (s : State) (v : Word) : Prop := coreAddrOk s.cur.core v = true ∧ Route s v
def Block (s : State) (v : Word) (n : Nat) : Prop := isFabric v = true ∧ addrOk v = true ∧ offsetOf v + n ≤ 2 ^ 20 ∧ Route s v

/-- An operand that names a control register of a core, or of a hub (R93, R331). -/
def CoreRegister (s : State) (v : Word) : Prop :=
  isHubForm v = false ∧ isFabric v = true ∧ addrOk v = true ∧ offsetOf v % 8 = 0 ∧ 2 ^ 20 ≤ offsetOf v ∧
  ctlAssigned (coreNamed v) (offsetOf v) = true
def HubRegister (v : Word) : Prop := isHubForm v = true ∧ offsetOf v % 8 = 0 ∧ hubAssigned (offsetOf v) = true

/-- The state that a change of a handle of the core at v leaves: sa awaits its status, and the message is under way. -/
def handleAsked (s : State) (o : OpABH) (v : Word) (change : HandleChange) : State :=
  let t := s.advance.fresh.2
  let q := ((s.me.reg o.a.toNat).seq + 1) % 8
  (t.holdFill o.a { id := s.nextId, addr := v, home := homeOf s.cur.core v, asid := s.me.asid, sup := s.me.sup } [(o.b, o.q)]).tell s.cur.core (coreNamed v)
    (.remoteHandleArrival { src := ⟨s.cur.core, s.cur.slot, s.nextId⟩, core := coreNamed v, h := o.h.toNat, change := change, asid := s.me.asid,
                            sup := s.me.sup, reply := some (o.a.toNat, q) })

/-- n journal entries are free (R116). -/
def FreeEntries (s : State) (n : Nat) : Prop := n ≤ ((List.range 64).filter fun i => field (s.myCore.jrn i) 0 1 == 0).length

/-- Every earlier access that a release with this mask waits for has reached its point (R120, R121). -/
def Released (s : State) (mask : BitVec 5) : Prop := s.me.out.any (Acc.awaited mask) = false

/-- An operand that names a TCB (R194, R327). -/
def TcbNamed (s : State) (v : Word) : Prop :=
  isFabric v = true ∧ addrOk v = true ∧ offsetOf v % 64 = 0 ∧ offsetOf v ≠ 0 ∧ Route s v

/-- The states that the requests of page 6 leave: the access outstanding, and the message under way. -/
def spawnSent (s : State) (o : OpAB) (a b : Word) (args : List Word) : State :=
  let c := s.cur.core
  let msg : SpawnMsg := { src := ⟨c, s.cur.slot, s.nextId⟩, core := coreNamed a, pc := offsetOf a, nbank := b.toNat % 4, handler := b.getLsbD 2,
                          asid := s.me.asid, flush := s.me.flush, sup := s.me.sup, args := args }
  let t := (s.advance.fresh.2.holdFor { id := s.nextId, addr := a, home := homeOf c a, store := true, asid := s.me.asid, sup := s.me.sup }
    [(o.a, false), (o.b, o.q), (4, false), (5, false), (6, false), (7, false)]).throttle
  if coreNamed a = c then t.after Config.cycle (.spawnRequest msg) else t.sendBig c (coreNamed a) Config.spawnFlits (.spawnRequest msg)

def tenqSent (s : State) (o : OpAB) (v : Word) : State :=
  let q := ((s.me.reg o.a.toNat).seq + 1) % 8
  ((s.advance.fresh.2.holdFill o.a { id := s.nextId, addr := v, home := homeOf s.cur.core v, store := true, asid := s.me.asid, sup := s.me.sup }
    [(o.b, o.q)]).throttle).tell s.cur.core (coreNamed v)
      (.taskArmRequest { src := ⟨s.cur.core, s.cur.slot, s.nextId⟩, reg := o.a.toNat, seq := q, tcb := v, asid := s.me.asid, sup := s.me.sup })

def tdepSent (s : State) (o : OpB) (v : Word) : State :=
  (s.advance.fresh.2.holdFor { id := s.nextId, addr := v, home := homeOf s.cur.core v, store := true, asid := s.me.asid, sup := s.me.sup } [(o.b, o.q)]).sendDecr
    { src := ⟨s.cur.core, s.cur.slot, s.nextId⟩, kind := .tdep, tcb := v, asid := s.me.asid, sup := s.me.sup }

def wakePosted (s : State) (o : OpB) (v : Word) : State :=
  let c := s.cur.core
  let (j, t) := (s.advance.consume [(o.b, o.q)]).fresh.2.takeEntry (journalImage s.cur.slot 0 6 0 0 0 (s.pathFor v) 0 s.me.asid v 0 0)
  (t.addOut { id := (s.advance.consume [(o.b, o.q)]).nextId, addr := v, home := homeOf c v, store := true, jrn := some j, asid := s.me.asid, sup := s.me.sup }).send c
    (coreNamed v) (.wakeMessage ⟨⟨c, s.cur.slot, (s.advance.consume [(o.b, o.q)]).nextId⟩, coreNamed v, v.toNat % 16, s.me.asid, s.me.sup, true⟩)

def amsgPosted (s : State) (o : OpB) (v : Word) (args : List Word) : State :=
  let c := s.cur.core
  let r := s.advance.consume [(o.b, o.q), (4, false), (5, false), (6, false), (7, false)]
  let entry (kind i : Nat) : BitVec 256 := journalImage s.cur.slot 3 kind 0 0 0 (s.pathFor v) 0 s.me.asid v (args.getD i 0) (args.getD (i + 1) 0)
  let (j, t) := r.fresh.2.takeEntry (entry 5 0)
  let (j2, t) := t.takeEntry (entry 7 2)
  let t := t.addOut { id := r.nextId, addr := v, home := homeOf c v, store := true, jrn := some j, jrn2 := some j2, asid := s.me.asid, sup := s.me.sup }
  let msg : ActiveMsg := ⟨⟨c, s.cur.slot, r.nextId⟩, coreNamed v, offsetOf v, args, s.me.asid, s.me.sup⟩
  if coreNamed v = c then t.after 0 (.activeMessage msg) else t.sendBig c (coreNamed v) Config.amsgFlits (.activeMessage msg)

/-! ## Handles -/

/-- A barrier change by the issuing thread. -/
def handleChange (s : State) (h : HNum) (change : HandleChange) : HPending :=
  { h := h.toNat, rank := 0, change := change, slot := some s.cur.slot, asid := s.me.asid, reply := none }

/-- The thread waits at a handle, its program counter at the instruction (R38). -/
def waitsAt (s : State) (m : Mods) (h : HNum) (kind : Nat) (v : BitVec 32) (takes : List (Nat × Bool)) : State :=
  (s.advance.modMyCore fun k => { k with hwaiters := k.hwaiters ++ [{ h := h.toNat, slot := s.cur.slot, kind := kind, v := v, takes := takes }] }).modMe
    fun t => { t with st := .waiting, why := .handle h.toNat, resume := some (s.cur.next, m.sw), pc := s.cur.addr }

/-- Changes in the order of R415: the cycle's instruction, then other cores and the hub, then copies. -/
def inOrder (ps : List HPending) : List HPending :=
  (ps.filter fun p => p.rank == 0) ++ (ps.filter fun p => p.rank == 1) ++ ps.filter fun p => p.rank == 2

/-- A handle after changes; and whether none of them is turned away. -/
def applied (x : Handle) : List HPending → Handle
  | [] => x
  | p :: ps => applied (x.change p.change).h ps
def NoneBad (x : Handle) : List HPending → Prop
  | [] => True
  | p :: ps => (x.change p.change).bad = false ∧ NoneBad (x.change p.change).h ps

/-! ## Accesses (R113, R115, R265) -/

/-- Nothing holds an access to a home back that takes so many journal entries. -/
def MayGo (s : State) (o : Order) (h : Home) (entries : Nat) : Prop :=
  s.priorInFlight = false ∧ (∀ a ∈ s.me.live, a.bars h = false) ∧ (∀ a ∈ s.me.out, a.awaited o.rel = false) ∧
  (o.relaxed = false → s.me.live = []) ∧
  (o.relaxed = true → s.me.live.length < 8 ∧ ∀ a ∈ s.me.live, a.relaxed = true) ∧
  s.myCore.liveCount < 64 ∧ FreeEntries s entries

/-- No check of R265 and R449 stops an access. -/
def Passes (s : State) (p : Plan) : Prop :=
  let h := homeOf s.cur.core p.ea
  let off := offsetOf p.ea
  let ctl : Prop := h = .own ∧ 2 ^ 20 ≤ off
  addrOk p.ea = true ∧ p.ea.toNat % p.size = 0 ∧ (isFabric p.ea = false → isBulk p.ea = false) ∧
  (isFabric p.ea = true → devOf (coreNamed p.ea) = devOf s.cur.core ∨ s.myRoutes.getLsbD (devOf (coreNamed p.ea)) = true) ∧
  (ctl → (p.size = 8 ∨ p.anyByte = true) ∧ ctlAssigned s.cur.core off = true ∧ p.presence = false ∧
    (s.me.sup = true ∨ (if p.writes then userWrites off else userReads off) = true)) ∧
  (h = .own → s.myCore.windowHole off = false ∧ (meetsWindow p.op = true → s.myCore.lineAt off = none)) ∧
  (∀ r ∈ p.fills, (s.me.reg r.toNat).mode = 0) ∧ s.entryOk p.entry = true

/-- The access is sent: nothing holds it, nothing stops it, it does not migrate its thread, and a handler reaches its own tile store only. -/
def Sends (s : State) (p : Plan) : Prop :=
  let h := homeOf s.cur.core p.ea
  MayGo s p.ord h (if p.posted h then 1 else 0) ∧ Passes s p ∧
  (∀ d, h = .other d → p.posted h = true →
    s.me.mayCount s.storesOut d (((s.hub (devOf s.cur.core)).choosePath d).getD 0) p.ord.ordered = true) ∧
  ¬ (p.x.mig = true ∧ isFabric p.ea = true ∧ h ≠ .own) ∧ (s.cur.slot = 15 → h = .own)

/-! ## Bundles -/

/-- i is the lowest view-table entry that is free. -/
def FreeView (s : State) (i : Nat) : Prop :=
  let free (i : Nat) : Prop := (s.myCore.view i).getLsbD 0 = false ∧ (s.myCore.notes.get {} i).pending = false
  i < 16 ∧ free i ∧ ∀ j, j < i → ¬ free j

/-- A bundle instruction's access to a record: sa awaits the result word. -/
def recorded (s : State) (o : OpAB) (record : Word) : State := ((s.advance.consume [(o.b, o.q)]).bundleAcc o.a record).2.2

/-- The issuing core answers by itself. -/
def answeredHere (s : State) (o : OpAB) (record : Word) (v : Word) (more : List FillPart) : State :=
  (recorded s o record).after (4 * Config.cycle)
    (.fill ⟨⟨s.cur.core, s.cur.slot, (s.advance.consume [(o.b, o.q)]).nextId⟩,
      .scalar o.a.toNat ((((s.advance.consume [(o.b, o.q)]).me.reg o.a.toNat).seq + 1) % 8) v :: more⟩)

/-- What is asked at a record. -/
def asks (s : State) (o : OpAB) (kind : BundleKind) (record : Word) : BundleReq :=
  { src := ⟨s.cur.core, s.cur.slot, (s.advance.consume [(o.b, o.q)]).nextId⟩, reg := o.a.toNat,
    seq := (((s.advance.consume [(o.b, o.q)]).me.reg o.a.toNat).seq + 1) % 8, kind := kind, record := record, entry := 0, serial := 0, fr := 0,
    opener := false, write := false, asid := s.me.asid, sup := s.me.sup }

def opened (s : State) (o : OpAB) (v : Word) (kind : BundleKind) (i : Nat) : State :=
  ((recorded s o v).modMyCore fun k => { k with notes := k.notes.put i { pending := true, asid := s.me.asid, sup := s.me.sup } }).toRecord
    { asks s o kind v with entry := i }

def closing (s : State) (o : OpAB) (kind : BundleKind) (v : Word) (e : BitVec 128) (fr : Nat) : State :=
  let t := recorded s o (viewRecord e)
  let t := if kind = .vclose then t.modMyCore fun k => { k with notes := k.notes.put v.toNat { s.myCore.notes.get {} v.toNat with closing := true } } else t
  t.toRecord { asks s o kind (viewRecord e) with entry := v.toNat, serial := field e 36 24, fr := fr, opener := e.getLsbD 2, write := e.getLsbD 1 }

/-! ## Copies, streams, the matrix queue -/

/-- What a copy's form must find (R155, R159, R160). -/
def CopyOk (t : State) (p : CopyPlan) : Prop :=
  let c := t.cur.core
  let kd := t.myCore.shape p.kd.toNat
  let ks := t.myCore.shape p.ks.toNat
  let hd := t.myCore.handle p.h.toNat
  let desc (v : Word) : List Byte := t.bytes (tileKey c v.toNat) 64
  (∀ v, p.desc = some v → v.toNat % 64 = 0 ∧ v.toNat + 64 ≤ 2 ^ 20 ∧ t.readCause c v.toNat 64 = none ∧ descOk (desc v) = true ∧
    (descTx (desc v) = 0 ∨ descTx (desc v) = 3 → kd.bytes = ks.bytes) ∧ (descTx (desc v) = 1 → kd.bytes % 64 = 0) ∧
    (descTx (desc v) = 2 → ks.bytes % 64 = 0) ∧
    (descTx (desc v) = 3 → (imageAt (desc v) 20 4 + imageAt (desc v) 24 4) * mutateBytes (imageAt (desc v) 1 1 % 4) ≤ ks.bytes)) ∧
  (p.desc = none → kd.bytes = ks.bytes) ∧ kd.esz < 6 ∧ ks.esz < 6 ∧
  (∀ k, k = kd ∨ k = ks → k.reachOk c = true ∧ k.base.toNat % k.size = 0 ∧ (isFabric k.base = true ∨ (isBulk k.base = true ∧ 8 ≤ k.size))) ∧
  (p.onDest = true → isFabric kd.base = true) ∧ (p.onDest = false ∨ coreNamed kd.base = c → hd.buffer = true ∨ hd.tgt ≠ 0) ∧
  (∀ v, p.view = some v → t.entryOk (some (v, true)) = true ∧ kd.wholeLines = true)

/-- The copy as the engine takes it. -/
def copyOf (t : State) (p : CopyPlan) : Copy :=
  let c := t.cur.core
  let kd := t.myCore.shape p.kd.toNat
  let ks := t.myCore.shape p.ks.toNat
  let desc (v : Word) : List Byte := t.bytes (tileKey c v.toNat) 64
  let packs := match p.desc with | none => false | some v => descTx (desc v) == 2
  { id := t.nextId, slot := t.cur.slot, asid := t.me.asid, sup := t.me.sup, kd := kd, ks := ks, h := p.h.toNat,
    hcore := if p.onDest then coreNamed kd.base else c, onDest := p.onDest, view := p.view.map fun v => viewRef c v.toNat (t.myCore.view v.toNat),
    desc := p.desc.map fun v => (v.toNat, desc v), lines := ((if packs then ks.bytes else kd.bytes) + 63) / 64 }

/-- The copy engine may take the copy now (R124, R149, R155). -/
def CopyFree (t : State) (p : CopyPlan) : Prop :=
  t.mayPush 2 = true ∧ t.myCore.copyq.length < 16 ∧
    (p.onDest = true ∨ (t.myCore.handle p.h.toNat).buffer = false ∨ (t.myCore.handle p.h.toNat).bst = 0)

/-- The engine has taken it, and its operand is consumed. -/
def copyTaken (t : State) (p : CopyPlan) : State :=
  (t.consume p.takes).fresh.2.acceptCopy t.cur.core { copyOf t p with id := (t.consume p.takes).nextId }

/-- The instruction waits as a push, as it was fetched (R232, R311). -/
def heldPush (t s : State) (q : Push) (i : Instr) : State :=
  t.modMe fun x => { x with st := .held, why := .access, push := some q, pushSince := s.now, pushed := some (i, s.cur.next), pc := s.cur.addr }

/-- A copy form from t: accepted, its operand consumed, or held as a push. -/
def Pushed (t : State) (m : Mods) (i : Instr) (s : State) (p : CopyPlan) : Prop :=
  CopyOk t p → (CopyFree t p → Ends i m s (copyTaken t p)) ∧ (¬ CopyFree t p → Ends i m s (heldPush t s .copy i))

/-- A held copy is tried again with the instruction as it was fetched (R311): once the engine may take it, it does. -/
def Retaken (s : State) (c n : Nat) (u : State) (m : Mods) (p : CopyPlan) : Prop :=
  CopyOk u.advance p → CopyFree u.advance p →
    (s.event = none → exec .copyAcceptance { s with event := some (.copyAcceptance c n) } = .next (((copyTaken u.advance p).retire m.sw).afterRetry s c n))

/-- A push to the copy engine may leave (R124). -/
def MayPush (s : State) : Prop := s.mayPush 2 = true

/-- What a stream's form must find of its shape and handle (R155, R166). -/
def StreamOk (s : State) (ks : VNum) (h : HNum) : Prop :=
  let k := s.myCore.shape ks.toNat
  let hd := s.myCore.handle h.toNat
  k.esz < 6 ∧ k.reachOk s.cur.core = true ∧ k.base.toNat % k.size = 0 ∧ (isFabric k.base = true ∨ (isBulk k.base = true ∧ 8 ≤ k.size)) ∧
  hd.buffer = true ∧ hd.bst = 0 ∧ s.myCore.streams.length < 8

/-- The stream is set up, its register apart. -/
def streaming (s : State) (reg : Nat) (vec : Bool) (ks : VNum) (h : HNum) : State :=
  let x : Stream := { id := s.nextId, slot := s.cur.slot, reg := reg, vec := vec, shape := s.myCore.shape ks.toNat, h := h.toNat, asid := s.me.asid,
                      sup := s.me.sup }
  (s.advance.fresh.2.modMyCore fun k => { k.setHandle h.toNat { s.myCore.handle h.toNat with bst := 1 } with
    streams := k.streams ++ [x], copyq := k.copyq ++ [s.nextId] }).after Config.cycle (.streamRefill s.cur.core s.nextId)

/-- The vector registers named are held by the thread, and their banks are up and clear (R35, R36). -/
def VecUp (s : State) (vs : List VNum) : Prop :=
  ∀ v ∈ vs, ∃ p, s.me.place v.toNat = some p ∧ (s.myCore.bank (p / 8)).power ≠ .retain ∧ (s.myCore.bank (p / 8)).clears = none

/-- The packet has joined the queue, and the thread holds the bank that it names. -/
def queued (s : State) (pkt : List Byte) : State :=
  let k : MatCmd := { pkt := pkt, slot := s.cur.slot, asid := s.me.asid, sup := s.me.sup }
  let t := s.advance.modMyCore fun x => x.modMatrix fun y => { y with queue := y.queue ++ [⟨k, .waiting⟩] }
  let t := if namesAcc pkt then t.modMyCore fun x => x.setAcc (pktAcc pkt) { x.acc (pktAcc pkt) with holder := some s.cur.slot } else t
  t.startCommand s.cur.core

/-- sa awaits a status. -/
def asked (s : State) (a : SReg) : State :=
  let q := ((s.me.reg a.toNat).seq + 1) % 8
  let t := (s.advance.fresh.2.modMe fun t => t.modReg a.toNat XReg.await).addOut
    { id := s.nextId, addr := 0, home := .own, regs := [(a.toNat, q, false, a.toNat)], asid := s.me.asid, sup := s.me.sup }
  (t.modMyCore fun k => k.modMatrix fun x => { x with asks := x.asks ++ [(⟨s.cur.core, s.cur.slot, s.nextId⟩, a.toNat, q)] }).matrixOn s.cur.core

end Sys2Proof.Claim

open Sys2Proof.Claim

/-! ## Page 0: scalar integer and control -/

/-- add, addi, sub, neg and mul (R251, R252, R253): the exact result on the type's width, and Z, N, C and V. -/
def Claim.IntegerSumsAndProducts : Prop :=
  ∀ (s : State) (m : Mods) (x : Option ArithX),
    (∀ (o : OpBin) (u w : Word), (Instr.add m x o).wf = true → Bin s m o u w →
      Ends (.add m x o) m s (binDone s o (sum x u w)) ∧ Ends (.sub m x o) m s (binDone s o (difference x u w)) ∧
      Ends (.mul m x o) m s (binDone s o (product x u w))) ∧
    (∀ (o : OpImm) (u : Word), (Instr.addi m x o).wf = true → Acc s m o.a u →
      Ends (.addi m x o) m s (accDone s o.a (sum x u (o.imm.signExtend 64)))) ∧
    (∀ (o : OpAB) (u : Word), (Instr.neg m x o).wf = true → Un s m o u → Ends (.neg m x o) m s (unDone s o (difference x 0 u)))

/-- mulh, mulhu, min, max, minu and maxu (R251, R252, R253): Z and N only. -/
def Claim.IntegerHighProductsAndExtremes : Prop :=
  ∀ (s : State) (m : Mods) (x : Option ArithX) (o : OpBin) (u w : Word), Bin s m o u w →
    ((Instr.mulh m x o).wf = true → Ends (.mulh m x o) m s (binDone s o (upper x true u w)) ∧
      Ends (.min m x o) m s (binDone s o (smaller x true u w)) ∧ Ends (.max m x o) m s (binDone s o (larger x true u w))) ∧
    ((Instr.mulhu m x o).wf = true → Ends (.mulhu m x o) m s (binDone s o (upper x false u w)) ∧
      Ends (.minu m x o) m s (binDone s o (smaller x false u w)) ∧ Ends (.maxu m x o) m s (binDone s o (larger x false u w)))

/-- div, divu, rem and remu, with division by zero and the overflowing quotient (R253, R254). -/
def Claim.IntegerDivision : Prop :=
  ∀ (s : State) (m : Mods) (x : Option ArithX) (o : OpBin) (u w : Word), Bin s m o u w →
    ((Instr.div m x o).wf = true → Ends (.div m x o) m s (binDone s o (quotient x true u w)) ∧
      Ends (.rem m x o) m s (binDone s o (remainder x true u w))) ∧
    ((Instr.divu m x o).wf = true → Ends (.divu m x o) m s (binDone s o (quotient x false u w)) ∧
      Ends (.remu m x o) m s (binDone s o (remainder x false u w)))

/-- The logic forms and the shifts, in R and I form (R255). -/
def Claim.LogicAndShifts : Prop :=
  ∀ (s : State) (m : Mods),
    (∀ (o : OpBin) (u w : Word), Bin s m o u w →
      Ends (.and m o) m s (binDone s o (plain 64 (u &&& w))) ∧ Ends (.or m o) m s (binDone s o (plain 64 (u ||| w))) ∧
      Ends (.xor m o) m s (binDone s o (plain 64 (u ^^^ w))) ∧ Ends (.shl m o) m s (binDone s o (left u (w.toNat % 64))) ∧
      Ends (.shr m o) m s (binDone s o (right u (w.toNat % 64))) ∧ Ends (.sar m o) m s (binDone s o (arith u (w.toNat % 64))) ∧
      Ends (.rol m o) m s (binDone s o (plain 64 (u.rotateLeft (w.toNat % 64))))) ∧
    (∀ (o : OpImm) (u : Word), Acc s m o.a u →
      Ends (.andi m o) m s (accDone s o.a (plain 64 (u &&& o.imm.signExtend 64))) ∧
      Ends (.ori m o) m s (accDone s o.a (plain 64 (u ||| o.imm.signExtend 64))) ∧
      Ends (.xori m o) m s (accDone s o.a (plain 64 (u ^^^ o.imm.signExtend 64)))) ∧
    (∀ (o : OpShift) (u : Word), Acc s m o.a u →
      Ends (.shli m o) m s (accDone s o.a (left u o.n.toNat)) ∧ Ends (.shri m o) m s (accDone s o.a (right u o.n.toNat)) ∧
      Ends (.sari m o) m s (accDone s o.a (arith u o.n.toNat))) ∧
    (∀ (o : OpAB) (u : Word), Un s m o u → Ends (.not m o) m s (unDone s o (plain 64 (~~~u))))

/-- Bit counts, extensions and bit fields (R256): no flag changes. -/
def Claim.BitCountsAndFields : Prop :=
  ∀ (s : State) (m : Mods),
    (∀ (o : OpAB) (u : Word), Un s m o u →
      Ends (.clz m o) m s (unDone s o (bare (BitVec.ofNat 64 (leading u)))) ∧
      Ends (.ctz m o) m s (unDone s o (bare (BitVec.ofNat 64 (trailing u)))) ∧
      Ends (.popc m o) m s (unDone s o (bare (BitVec.ofNat 64 ((List.range 64).countP fun i => u.getLsbD i))))) ∧
    (∀ (o : OpExt) (u : Word), o.wf = true → Acc s m o.a u →
      Ends (.sext m o) m s (accDone s o.a (bare ((u.setWidth o.n.toNat).signExtend 64))) ∧
      Ends (.zext m o) m s (accDone s o.a (bare ((u.setWidth o.n.toNat).setWidth 64)))) ∧
    (∀ (o : OpABC) (v w r : Word), guardHolds m s.me = true → s.takesWrite o.a → s.peek o.b = .ok v → s.peek o.c = .ok w →
      IsField v (w.toNat % 64) (w.toNat / 256 % 64 + 1) r →
      Ends (.bfx m o) m s (s.advance.result o.a [(o.b, o.q), (o.c, false)] (bare r))) ∧
    (∀ (o : OpABC) (u v w r : Word), Tern s m o u v w → IsPatch u v (w.toNat % 64) (w.toNat / 256 % 64 + 1) r →
      Ends (.bfi m o) m s (ternDone s o (bare r)))

/-! ## Encodings, fetching and the step -/

/-- Decoding the encoding of an instruction gives it back, with any words behind it, and as many words as the encoding has (R220 to R228). -/
def Claim.DecodeOfEncode : Prop :=
  ∀ (i : Instr) (rest : List Half), i.encodable = true → decodeWords (encode i ++ rest) = .ok (i, (encode i).length)

/-- When the words at the program counter decode, a turn that issues the slot runs exactly that instruction: `cur` names its core, slot, address and
the address behind it, and the registers it writes begin their latencies (R20, R220, R250). -/
def Claim.IssueRunsTheDecodedInstruction : Prop :=
  ∀ (s t : State) (c n next : Nat) (i : Instr) (pair : Bool), s.nextOf c n = .ok (i, next) → (s.core c).handlerSpent n = false →
    exec i (readied s c n i next pair) = .next t →
    s.issueSlot exec c n pair = .next (issuedBy (readied s c n i next pair) t c n next i)

/-- The owner's turn of a core, as a step: where the slot may issue, has not had its turn in this cycle, its operands' latencies are over and nothing
defers its form, the step runs the instruction that the words at its program counter decode to (R24, R220). -/
def Claim.StepRunsTheDecodedInstruction : Prop :=
  ∀ (s t : State) (c n next : Nat) (i : Instr) (ts : List Turn), s.turns = ⟨c, .owner, n⟩ :: ts → (s.core c).halted = false →
    (ownerTurn s c n ts).nextOf c n = .ok (i, next) →
    ((ownerTurn s c n ts).slot c n).canIssue = true → (ownerTurn s c n ts).produced c n i = true →
    (ownerTurn s c n ts).mustDefer c i (({ s with turns := ts } : State).hasTurn c .fillWide) = false →
    ((ownerTurn s c n ts).core c).handlerSpent n = false → n ∉ ((ownerTurn s c n ts).core c).issued →
    exec i (readied (ownerTurn s c n ts) c n i next (!(modsOf i).sw)) = .next t →
    step s = .next (issuedBy (readied (ownerTurn s c n ts) c n i next (!(modsOf i).sw)) t c n next i)

/-- With no turn left, a step performs the first event that is due (log 8 orders events of one time by their placing); one that needs a tile-store bank
asks it first, and is performed once the bank has granted it (R218; log 94); a message to a core that is held in reset, or to a package that is off, is lost
(R363). -/
def Claim.StepPerformsTheDueEvent : Prop :=
  ∀ (s : State) (d : Due) (ds : List Due), s.turns = [] → s.agenda = d :: ds → d.at_ ≤ s.now →
    let taken : State := { s with agenda := ds, granted := s.granted.erase d.ev }
    (s.lostInReset d.ev = false → s.bankOf d.ev = none ∨ d.ev ∈ s.granted → step s = exec d.ev.step { taken with event := some d.ev }) ∧
    (∀ a, s.lostInReset d.ev = false → s.bankOf d.ev = some a → d.ev ∉ s.granted → step s = .next (taken.askBank a d.ev)) ∧
    (s.lostInReset d.ev = true → step s = .next taken)

/-- A fetch that fails takes its exact trap in the instruction's place (R20, R242, R384): beyond the tile store or in an empty granule cause 2, in a
poisoned granule cause 29, each with the word's offset; words that do not decode cause 1 with the base word. -/
def Claim.FetchTraps : Prop :=
  ∀ (s : State) (c n : Nat) (pair : Bool), (s.core c).handlerSpent n = false →
    let pc := (s.slot c n).pc
    let trapped (cause : Nat) (a : Word) (x : Nat) : Prop := s.issueSlot exec c n pair = .next ((s.takeTurn c n false).takeTrap c n pc cause a x)
    (2 ^ 20 ≤ pc → trapped 2 (BitVec.ofNat 64 pc) 0) ∧
    (pc < 2 ^ 20 → s.poisoned (tileKey c pc) = true → trapped 29 (BitVec.ofNat 64 pc) 0) ∧
    (pc < 2 ^ 20 → s.poisoned (tileKey c pc) = false → s.present false (tileKey c pc) = false → trapped 2 (BitVec.ofNat 64 pc) 0) ∧
    (∀ (w : Half) (e : DecodeError), s.fetchWord c pc = .ok w → isPfx w = false → decodeWords [w] = .error e → trapped 1 0 w.toNat)

/-- Words written out from the tables of spec/11, some of each page (R220 to R228, R234 to R241): an operand, an immediate of two words, guards, negated
conditions, offsets, qualifiers, a third register, high register numbers, handle numbers, and words that are no instruction (R242). -/
def Claim.WordsAsTheSpecWritesThem : Prop :=
  let reads (ws : List Half) (i : Instr) : Prop := decodeWords ws = .ok (i, ws.length)
  -- page 0: nop; add s1, s2~; addi s3, -1; addi s3, 40; (!p2) mov s4, s5; cmp.lt !p3, s1, s2; br -2; mov.sw s15, s0; add.i16 s1, s2
  reads [0x0000] (.nop {}) ∧ reads [0x0C25] (.add {} none { a := 1, b := 2, q := true }) ∧
  reads [0x107F] (.addi {} none { a := 3, imm := BitVec.ofInt 45 (-1) }) ∧ reads [0xF001, 0x1068] (.addi {} none { a := 3, imm := 40 }) ∧
  reads [0xF834, 0x048A] (.mov { guard := some ⟨true, 2⟩ } { a := 4, b := 5 }) ∧
  reads [0xF458, 0xB424] (.cmpLt {} { p := 3, neg := true, a := 1, b := 2 }) ∧ reads [0xD5FE] (.br {} { off := BitVec.ofInt 39 (-2) }) ∧
  reads [0x07E0] (.mov { sw := true } { a := 15, b := 0 }) ∧ reads [0xFE00, 0x0C24] (.add {} (some { ty := .i16 }) { a := 1, b := 2 }) ∧
  -- page 1: ld.w s1, [s2 + 16]; st.d.rel.C s1, [s2]; amo.add.d s1, [s2]; bopen s1, s2
  reads [0xF840, 0xF010, 0x0824] (.ld {} { sz := 2, a := 1, b := 2, off := 16 }) ∧
  reads [0xF840, 0xFC30, 0x1C24] (.st {} { sz := 3, a := 1, b := 2, off := 0, x := { mask := 1, ord := 2 } }) ∧
  reads [0xF840, 0x8424] (.amoOp {} { op := 0, dbl := true, a := 1, b := 2, off := 0 }) ∧ reads [0xF840, 0xC824] (.bopen {} { a := 1, b := 2 }) ∧
  -- pages 2 to 4: fma.rz s1, s2, s3; vadd v1, v18, v3; (m3) vadd v1, v2; vld v1, [s2 + 256]
  reads [0xF880, 0xF418, 0xFC10, 0x1424] (.fma {} (some { ty := .f32, rnd := .rz }) { a := 1, b := 2, c := 3 }) ∧
  reads [0xF8C0, 0xF518, 0x0024] (.vadd {} none { a := 1, b := 18, c := .vec 3 }) ∧
  reads [0xF8E6, 0x0024] (.vadd { guard := some ⟨false, 3⟩ } none { a := 1, b := 2 }) ∧
  reads [0xF900, 0xF100, 0x0024] (.vld {} { a := 1, b := 2, off := 256 }) ∧
  -- pages 5 to 7: hwait.p h5, s2; mxs; spawn s1, s2; quit; crd s1, s2; trap 7; halt
  reads [0xF940, 0xF005, 0x3804] (.hwaitP {} { b := 2, h := 5 }) ∧ reads [0xF940, 0x4800] (.mxs {}) ∧
  reads [0xF980, 0x0024] (.spawn {} { a := 1, b := 2 }) ∧ reads [0xF980, 0x0400] (.quit {}) ∧
  reads [0xF9C0, 0x0024] (.crd {} { a := 1, b := 2 }) ∧ reads [0xF9C0, 0x0807] (.trap {} { imm := 7 }) ∧ reads [0xF9C0, 0x1000] (.halt {}) ∧
  -- an op that page 0 leaves free; a field that nop does not use; a second PFX.P; a reserved page
  ∀ ws : List Half, ws ∈ [[0xBC00], [0x0020], [0xF800, 0xF800, 0x0000], [0xFA00, 0x0000]] → ∃ e, decodeWords ws = .error e

/-! ## Reset -/

/-- The state after boot as R358 and the chapters give it: one core runs, with one thread in slot 0 that holds SUP, ASID 0 and zeros; every other slot
is free; no memory byte is listed. The values that the spec does not give are the model's (logs 2 and 3). -/
def Claim.ResetState : Prop :=
  let t := State.reset.slot bootCore 0
  State.reset.mem = [] ∧ t.st = .ready ∧ t.sup = true ∧ t.asid = 0 ∧ t.work = 0 ∧ t.pc = 0 ∧
    (∀ n, t.reg n = { v := 0, full := true, mode := 0, failed := false }) ∧
    (∀ c n, (c ≠ bootCore ∨ n ≠ 0) → (State.reset.slot c n).st = .free) ∧
    (∀ c, (State.reset.core c).running = decide (c = bootCore)) ∧ (State.reset.hub 0).boot = 5

/-- The memory of reset has the canonical form. -/
def Claim.ResetMemoryIsCanonical : Prop := MemOk State.reset

/-- Every step keeps the memory's canonical form: addresses strictly rising, and no cell with the value that an unlisted byte has. -/
def Claim.EveryStepKeepsMemoryCanonical : Prop := ∀ (s t : State), MemOk s → step s = .next t → MemOk t

/-- A read of memory after a write of bytes gives them, and every byte outside them is as it was. -/
def Claim.MemoryReadsWhatWasWritten : Prop :=
  ∀ (s : State) (a : Nat) (bs : List Byte), MemOk s →
    (s.setBytes a bs).bytes a bs.length = bs ∧ ∀ b, (b < a ∨ a + bs.length ≤ b) → memByte (s.setBytes a bs).mem b = memByte s.mem b

/-! ## Operands: what a read gets, what it leaves, and what a write does (R29 to R31, R33, R249) -/

/-- A read of a scalar register: a normal one gives its value when full, waits when empty, and traps with a failed bit; a link-in register gives the
head of its FIFO or waits; a link-out register is no source (R29, R31, R101). -/
def Claim.ScalarReads : Prop :=
  ∀ (s : State) (n : SReg), let r := s.me.reg n.toNat
    (r.mode = 0 → r.failed = true → s.peek n = .error (.trap 42 0 n.toNat)) ∧
    (r.mode = 0 → r.failed = false → r.full = true → s.peek n = .ok r.v) ∧
    (r.mode = 0 → r.failed = false → r.full = false → s.peek n = .error (.wait (.reg n.toNat false))) ∧
    (r.mode = 2 → (s.myCore.linkEnd r.dir).fifo = [] → s.peek n = .error (.wait (.link n.toNat))) ∧
    (∀ v vs, r.mode = 2 → (s.myCore.linkEnd r.dir).fifo = v :: vs → s.peek n = .ok v) ∧
    (r.mode = 3 → s.peek n = .error (.trap 5 0 n.toNat)) ∧
    (∀ x, r.mode = 1 → s.myCore.streamAt s.cur.slot n.toNat false = some x →
      (∀ v vs, x.fifo = v :: vs → s.peek n = .ok (v.setWidth 64)) ∧
      (x.fifo = [] → x.dead = false → s.peek n = .error (.wait (.reg n.toNat false))) ∧
      (x.fifo = [] → x.dead = true → s.peek n = .error (.trap 16 0 (x.h + 256 * (s.myCore.handle x.h).fc))))

/-- What an instruction's reads leave: normal registers read with `~` are empty with their value kept, and every other register is as it was; nothing
outside the thread changes but the links and streams of its core; a link or stream register named twice gives one word (R29, R31). -/
def Claim.ScalarReadsConsume : Prop :=
  ∀ (s : State) (reads : List (SReg × Bool)), let t := s.consume reads
    Outside s t ∧ { t.me with regs := [] } = { s.me with regs := [] } ∧
    (∀ n : SReg, t.me.reg n.toNat =
      if (s.me.reg n.toNat).mode = 0 ∧ (n, true) ∈ reads then { s.me.reg n.toNat with full := false } else s.me.reg n.toNat) ∧
    (∀ (n : SReg) (q r : Bool), (s.me.reg n.toNat).mode ≠ 0 → s.consume [(n, q), (n, r)] = s.consume [(n, q)])

/-- A read of a link register pops its FIFO and returns one credit, after 1 cycle or, across a die edge, 4 (R31, R205). -/
def Claim.LinkReadsPop : Prop :=
  ∀ (s : State) (n : SReg) (q : Bool), (s.me.reg n.toNat).mode = 2 → let d := (s.me.reg n.toNat).dir
    let t := s.consume [(n, q)]
    (t.myCore.linkEnd d).fifo = (s.myCore.linkEnd d).fifo.tail ∧
    t.agenda = agendaAdd ⟨s.now + (if crossesDie s.cur.core d then 4 else 1) * Config.cycle, .linkCreditReturn (neighbour s.cur.core d) (opposite d)⟩ s.agenda

/-- A write of a normal register sets it full, clears its failed bit and cancels a fill; a link-out register sends the word to the neighbour in 3
cycles, or 20 across a die edge, and takes a credit; nothing else changes (R29, R30, R31, R101, R205). -/
def Claim.ScalarWrites : Prop :=
  ∀ (s : State) (n : SReg) (v : Word), let t := s.swrite n v
    Outside s t ∧
    ((s.me.reg n.toNat).mode ≠ 3 →
      { t.me with regs := [] } = { s.me with regs := [] } ∧ t.agenda = s.agenda ∧
      t.me.reg n.toNat = { s.me.reg n.toNat with v := v, full := true, failed := false, pend := false } ∧
      ∀ j, j ≠ n.toNat → t.me.reg j = s.me.reg j) ∧
    ((s.me.reg n.toNat).mode = 3 → let d := (s.me.reg n.toNat).dir
      t.me = s.me ∧ (t.myCore.linkEnd d).used = (s.myCore.linkEnd d).used + 1 ∧
      t.agenda = agendaAdd ⟨s.now + (if crossesDie s.cur.core d then 20 else 3) * Config.cycle,
        .linkWord (neighbour s.cur.core d) (opposite d) v s.me.asid ⟨s.cur.core, s.cur.slot, 0⟩⟩ s.agenda)

/-- What a scalar result leaves of everything else: the registers but its destination and those read with `~`, memory, the other threads and cores,
the accumulators and every special register are as they were; of the predicate word only the flags that the result names and the sticky flags that it
raises change, and no sticky flag is cleared (R33, R250). -/
def Claim.ScalarResultFrame : Prop :=
  ∀ (s : State) (a : SReg) (reads : List (SReg × Bool)) (r : Res) (sw : Bool), let t := (s.advance.result a reads r).retire sw
    Outside s t ∧ aside t.me = aside s.me ∧
    (∀ n : SReg, n ≠ a → (n, true) ∉ reads → t.me.reg n.toNat = s.me.reg n.toNat) ∧
    (∀ i, i < 8 → t.me.pred.getLsbD i = s.me.pred.getLsbD i) ∧
    t.me.pred.getLsbD 8 = r.flags.z.getD (s.me.pred.getLsbD 8) ∧ t.me.pred.getLsbD 9 = r.flags.n.getD (s.me.pred.getLsbD 9) ∧
    t.me.pred.getLsbD 10 = r.flags.c.getD (s.me.pred.getLsbD 10) ∧ t.me.pred.getLsbD 11 = r.flags.v.getD (s.me.pred.getLsbD 11) ∧
    t.me.pred.getLsbD 12 = (s.me.pred.getLsbD 12 || r.sticky.fi) ∧ t.me.pred.getLsbD 13 = (s.me.pred.getLsbD 13 || r.sticky.fz) ∧
    t.me.pred.getLsbD 14 = (s.me.pred.getLsbD 14 || r.sticky.fo) ∧ t.me.pred.getLsbD 15 = (s.me.pred.getLsbD 15 || r.sticky.fx)

/-- The unary, binary and ternary scalar forms stop before they have any effect: on a destination that is a stream or link-in register and on a source
that is a link-out register (cause 5), on a failed source (cause 42), on an empty source, and on a full link (R29, R31, R38, R101, R249). -/
def Claim.ScalarFormsStop : Prop :=
  ∀ (s : State) (o : OpAB) (f : Word → Res),
    (¬ mayTake s o.a → s.unary o f = .error (.trap 5 0 o.a.toNat)) ∧
    (mayTake s o.a → (s.me.reg o.b.toNat).mode = 3 → s.unary o f = .error (.trap 5 0 o.b.toNat)) ∧
    (∀ e, mayTake s o.a → (s.me.reg o.b.toNat).mode ≠ 3 → s.peek o.b = .error e → s.unary o f = .error e) ∧
    (∀ u, (s.me.reg o.a.toNat).mode = 3 → 4 ≤ (s.myCore.linkEnd (s.me.reg o.a.toNat).dir).used → s.peek o.b = .ok u →
      s.unary o f = .error (.wait .access)) ∧
    (∀ (c : SReg) (g : Word → Word → Res), let b : OpBin := ⟨o.a, o.b, o.q, some c⟩
      (¬ mayTake s o.a → s.binary b g = .error (.trap 5 0 o.a.toNat)) ∧
      (∀ e, mayTake s o.a → (s.me.reg o.b.toNat).mode ≠ 3 → (s.me.reg c.toNat).mode ≠ 3 → s.peek o.b = .error e → s.binary b g = .error e) ∧
      (∀ u e, mayTake s o.a → (s.me.reg c.toNat).mode ≠ 3 → s.peek o.b = .ok u → s.peek c = .error e → s.binary b g = .error e))

/-- An instruction that waits has no effect but its slot's state and reason: a wait for a register, a link, a handle or a wake is Waiting, any other
is Held (R22, R28, R38, R217). -/
def Claim.WaitingHasNoEffect : Prop :=
  ∀ (s : State) (w : Why), (∀ bs, w ≠ .rise bs) →
    s.suspend w = s.modMe fun t => { t with st := (match w with | .reg _ _ | .link _ | .handle _ | .park => .waiting | _ => .held), why := w }

/-- A guard that does not hold makes an instruction of pages 0, 1, 2, 5 and 6 a nop; of page 5, the forms that name a vector register or the array
look first whether the thread or core has it, and page 7's whether the thread may (R226, R243). -/
def Claim.FalseGuardIsNop : Prop :=
  ∀ (s : State) (i : Instr), i.isCoded = true → guardHolds (modsOf i) s.me = false →
    (pageOf i ≤ 2 ∨ pageOf i = 6 ∨ (pageOf i = 5 ∧ looksFirst i = false) ∨ (∃ m o, i = .trap m o) ∨ (pageOf i = 7 ∧ s.me.sup = true) ∨
      ((∃ m, i = .mxs m) ∨ (∃ m o, i = .mxr m o)) ∧ isSuper s.cur.core = false) →
    exec i s = .next (s.advance.retire (modsOf i).sw)

/-- A user thread that issues a page 7 form other than `trap` takes the privilege trap, whatever its guard (R241, R243). -/
def Claim.PrivilegeTrap : Prop :=
  ∀ (s : State) (i : Instr), i.isCoded = true → pageOf i = 7 → (∀ m o, i ≠ .trap m o) → s.me.sup = false → Traps i s 3 0 0

/-- The switch marker holds a thread that has just issued while one of its accesses or a push is outstanding, and has no effect otherwise (R26). -/
def Claim.SwitchMarker : Prop :=
  ∀ (s : State), s.me.st = .ready → s.me.stopped = false → s.me.saving = false → s.me.saved = false → s.me.throttled = false →
    s.retire false = s ∧ (s.retire true).me.st = (if (s.me.out.any fun a => !a.done) ∨ s.me.push.isSome then .held else .ready) ∧
    Outside s (s.retire true) ∧ { aside (s.retire true).me with regs := s.me.regs, pred := s.me.pred, pc := s.me.pc } =
      { aside s.me with regs := s.me.regs, pred := s.me.pred, pc := s.me.pc }

/-- mov, movi, rdp, lea and sel (R257, R259, R261): a value copied or selected, and no flag changes. Without c, `sel` on a false predicate writes
nothing. -/
def Claim.MovesAndSelection : Prop :=
  ∀ (s : State) (m : Mods),
    (∀ (o : OpAB) (u : Word), Un s m o u → Ends (.mov m o) m s (unDone s o (bare u))) ∧
    (∀ (o : OpImm), Out s m o.a → Ends (.movi m o) m s (outDone s o.a (bare (o.imm.signExtend 64)))) ∧
    (∀ (o : OpA), Out s m o.a → Ends (.rdp m o) m s (outDone s o.a (bare (s.me.pred.setWidth 64)))) ∧
    (∀ (a b : SReg) (q : Bool) (off : BitVec 40) (u : Word), Un s m ⟨a, b, q⟩ u →
      Ends (.lea m ⟨a, b, q, none, off⟩) m s (unDone s ⟨a, b, q⟩ (bare (u + off.signExtend 64)))) ∧
    (∀ (a b c : SReg) (q : Bool) (off : BitVec 40) (u w : Word), Bin s m ⟨a, b, q, some c⟩ u w →
      Ends (.lea m ⟨a, b, q, some c, off⟩) m s (binDone s ⟨a, b, q, some c⟩ (bare (u + w + off.signExtend 64)))) ∧
    (∀ (a b c : SReg) (q : Bool) (p : PNum) (neg : Bool) (u w : Word), Bin s m ⟨a, b, q, some c⟩ u w →
      Ends (.sel m ⟨a, b, q, some c, p, neg⟩) m s
        (binDone s ⟨a, b, q, some c⟩ (bare (if s.me.pred.getLsbD p.toNat = neg then w else u)))) ∧
    (∀ (a b : SReg) (q : Bool) (p : PNum) (neg : Bool) (u : Word), Un s m ⟨a, b, q⟩ u → s.me.pred.getLsbD p.toNat ≠ neg →
      Ends (.sel m ⟨a, b, q, none, p, neg⟩) m s (unDone s ⟨a, b, q⟩ (bare u))) ∧
    (∀ (a b : SReg) (q : Bool) (p : PNum) (neg : Bool) (u : Word), guardHolds m s.me = true →
      (s.me.reg a.toNat).mode = 0 ∨ (s.me.reg a.toNat).mode = 3 → s.peek b = .ok u → s.me.pred.getLsbD p.toNat = neg →
      Ends (.sel m ⟨a, b, q, none, p, neg⟩) m s (s.advance.consume [(b, q)]))

/-- Comparisons, `plog` and `wrp` (R258, R260, R261): a comparison writes its predicate, and the flags of the subtraction. -/
def Claim.ComparisonsAndPredicates : Prop :=
  ∀ (s : State) (m : Mods), guardHolds m s.me = true →
    (∀ (o : OpCmp) (u w : Word), s.peek o.a = .ok u → s.peek o.b = .ok w →
      Ends (.cmpEq m o) m s (cmpDone s o u w (decide (u = w))) ∧
      Ends (.cmpLt m o) m s (cmpDone s o u w (decide (u.toInt < w.toInt))) ∧
      Ends (.cmpLtu m o) m s (cmpDone s o u w (decide (u.toNat < w.toNat))) ∧
      (∀ (p : BitVec 16), IsChosen s.me.pred (u.setWidth 16) (w.setWidth 16) p →
        Ends (.wrp m ⟨o.a, o.b, o.q⟩) m s ((s.advance.consume [(o.a, false), (o.b, o.q)]).modPred fun _ => p))) ∧
    (∀ (o : OpCmpI) (u w : Word), s.peek o.a = .ok u → w = o.imm.signExtend 64 →
      Ends (.cmpiEq m o) m s (cmpiDone s o u w (decide (u = w))) ∧
      Ends (.cmpiLt m o) m s (cmpiDone s o u w (decide (u.toInt < w.toInt))) ∧
      Ends (.cmpiLtu m o) m s (cmpiDone s o u w (decide (u.toNat < w.toNat))) ∧
      Ends (.cmpiLe m o) m s (cmpiDone s o u w (decide (u.toInt ≤ w.toInt))) ∧
      Ends (.cmpiLeu m o) m s (cmpiDone s o u w (decide (u.toNat ≤ w.toNat)))) ∧
    (∀ (a b : PNum) (c : Option PNum) (tt : BitVec 4) (p : BitVec 16),
      IsBit s.me.pred a.toNat
        (tt.getLsbD (2 * (s.me.pred.getLsbD (match c with | none => a | some _ => b).toNat).toNat +
          (s.me.pred.getLsbD (match c with | none => b | some c => c).toNat).toNat)) p →
      Ends (.plog m ⟨a, b, c, tt⟩) m s (s.advance.modPred fun _ => p))

/-- Branches, calls and returns (R262, R230): addresses are modulo 2⁴⁸, a call leaves the next instruction's address in s15, and a jump to an odd
address is an alignment trap. -/
def Claim.ControlTransfer : Prop :=
  ∀ (s : State) (m : Mods), guardHolds m s.me = true →
    (∀ (o : OpJ), Ends (.br m o) m s (goesTo s.advance (target s o.off.toInt))) ∧
    (∀ (o : OpP), Ends (.brp m o) m s (if s.me.pred.getLsbD o.p.toNat = o.neg then s.advance else goesTo s.advance (target s o.off.toInt))) ∧
    (∀ (o : OpJ), ((s.me.reg 15).mode = 0 →
        Ends (.call m o) m s (goesTo (s.advance.swrite 15 (BitVec.ofNat 64 s.cur.next)) (target s o.off.toInt))) ∧
      ((s.me.reg 15).mode ≠ 0 → Traps (.call m o) s 5 0 15)) ∧
    (∀ (o : OpB) (u : Word), s.peek o.b = .ok u →
      (u.getLsbD 0 = false → Ends (.jmpr m o) m s (goesTo (s.advance.consume [(o.b, o.q)]) (u.toNat % 2 ^ 48))) ∧
      (u.getLsbD 0 = true → Traps (.jmpr m o) s 7 u 0)) ∧
    (∀ (u : Word), s.peek 15 = .ok u →
      (u.getLsbD 0 = false → Ends (.ret m) m s (goesTo (s.advance.consume [(15, false)]) (u.toNat % 2 ^ 48))) ∧
      (u.getLsbD 0 = true → Traps (.ret m) s 7 u 0)) ∧
    (∀ w, s.cur.slot ≠ 15 → s.peek 15 = .error (.wait w) → exec (.ret m) s = .next (s.suspend w)) ∧
    (∀ (o : OpImm) (u : Word), (s.me.reg o.a.toNat).mode = 0 → s.peek o.a = .ok u →
      Ends (.loop m o) m s (if u = 1 then s.advance.swrite o.a 0 else goesTo (s.advance.swrite o.a (u - 1)) (target s o.imm.toInt)))

/-- nop and clr (R264): `clr` leaves its register empty, with no failed bit and no fill to come, and its value as it was. -/
def Claim.NopAndClear : Prop :=
  ∀ (s : State) (m : Mods),
    Ends (.nop m) m s s.advance ∧
    (∀ (o : OpA), guardHolds m s.me = true → (s.me.reg o.a.toNat).mode = 0 →
      Ends (.clr m o) m s (s.advance.modMe fun t => t.modReg o.a.toNat fun r => { r with full := false, failed := false, pend := false })) ∧
    (∀ (o : OpA), guardHolds m s.me = true → (s.me.reg o.a.toNat).mode ≠ 0 → Traps (.clr m o) s 5 0 o.a.toNat)

/-! ## Page 2: scalar floating point -/

/-- The arithmetic forms of page 2 and the fixed sequences (R273, R274, R277, R280, R281, R282): the code in the format, zero-extended, the sticky
flags raised, and Z, N, C and V as they were. -/
def Claim.FloatArithmetic : Prop :=
  ∀ (s : State) (m : Mods) (x : Option ArithX),
    (∀ (o : OpBin) (u w : Word), Bin s m o u w →
      Ends (.fadd m x o) m s (binDone s o (fl ((format x).add (env s x) (code x u) (code x w)))) ∧
      Ends (.fsub m x o) m s (binDone s o (fl ((format x).sub (env s x) (code x u) (code x w)))) ∧
      Ends (.fmul m x o) m s (binDone s o (fl ((format x).mul (env s x) (code x u) (code x w)))) ∧
      Ends (.fdiv m x o) m s (binDone s o (fl ((format x).div (env s x) (code x u) (code x w)))) ∧
      Ends (.fmin m x o) m s (binDone s o (fl ((format x).minMax (env s x) true (code x u) (code x w)))) ∧
      Ends (.fmax m x o) m s (binDone s o (fl ((format x).minMax (env s x) false (code x u) (code x w))))) ∧
    (∀ (o : OpABC) (u v w : Word), Tern s m o u v w →
      Ends (.fma m x o) m s (ternDone s o (fl ((format x).fma (env s x) (code x u) (code x v) (code x w))))) ∧
    (∀ (o : OpAB) (u : Word), Un s m o u →
      Ends (.fsqrt m x o) m s (unDone s o (fl ((format x).sqrt (env s x) (code x u)))) ∧
      Ends (.frcp m x o) m s (unDone s o (fl ((format x).div (env s x) ((format x).bias * 2 ^ (format x).mb) (code x u)))) ∧
      Ends (.fround m x o) m s (unDone s o (fl ((format x).integral (env s x) (code x u)))) ∧
      Ends (.fsin m x o) m s (unDone s o (fl ((format x).fixed (env s x) f32sin (code x u)))) ∧
      Ends (.fcos m x o) m s (unDone s o (fl ((format x).fixed (env s x) f32cos (code x u)))) ∧
      Ends (.fexp2 m x o) m s (unDone s o (fl ((format x).fixed (env s x) f32exp2 (code x u)))) ∧
      Ends (.flog2 m x o) m s (unDone s o (fl ((format x).fixed (env s x) f32log2 (code x u)))))

/-- On finite operands the arithmetic forms complete with the exact result rounded once, and on ordered operands the comparisons and extremes follow the
order of the numbers (R57 to R60, R273, R274, R276, R277): nothing here rests on the model's own operations. -/
def Claim.FloatExact : Prop :=
  ∀ (s : State) (m : Mods) (x : Option ArithX), let f := format x; let v := env s x
    let num (u : Word) : Int := number f (asRead f v.flush (code x u))
    let neg (u : Word) : Bool := minus f (code x u)
    let fin (u : Word) : Prop := IsFinite f (code x u)
    let sumSign (a b : Bool) (n : Int) : Bool := if n = 0 then (if a = b then a else v.rnd == .rd) else decide (n < 0)
    (∀ (o : OpBin) (u w : Word), Bin s m o u w → fin u → fin w →
      (∃ r, Ends (.fadd m x o) m s (binDone s o (fl r)) ∧
        Rounded f v (sumSign (neg u) (neg w) (num u + num w)) (ratio (num u + num w).natAbs 1) r) ∧
      (∃ r, Ends (.fsub m x o) m s (binDone s o (fl r)) ∧
        Rounded f v (sumSign (neg u) (!neg w) (num u - num w)) (ratio (num u - num w).natAbs 1) r) ∧
      (∃ r, Ends (.fmul m x o) m s (binDone s o (fl r)) ∧ Rounded f v (neg u != neg w) (ratio (num u * num w).natAbs (one f)) r) ∧
      (num w ≠ 0 → ∃ r, Ends (.fdiv m x o) m s (binDone s o (fl r)) ∧
        Rounded f v (neg u != neg w) (ratio ((num u).natAbs * one f) (num w).natAbs) r) ∧
      (num w = 0 → num u ≠ 0 → Ends (.fdiv m x o) m s (binDone s o (fl (signed f (neg u != neg w) f.infCode, { fz := true })))) ∧
      (num w = 0 → num u = 0 → Ends (.fdiv m x o) m s (binDone s o (fl (f.infCode + 2 ^ (f.mb - 1), { fi := true }))))) ∧
    (∀ (o : OpABC) (u b c : Word), Tern s m o u b c → fin u → fin b → fin c → let n := num u * one f + num b * num c
      ∃ r, Ends (.fma m x o) m s (ternDone s o (fl r)) ∧ Rounded f v (sumSign (neg u) (neg b != neg c) n) (ratio n.natAbs (one f)) r) ∧
    (∀ (o : OpAB) (u : Word), Un s m o u → fin u →
      (num u ≠ 0 → ∃ r, Ends (.frcp m x o) m s (unDone s o (fl r)) ∧ Rounded f v (neg u) (ratio (one f * one f) (num u).natAbs) r) ∧
      (num u = 0 → Ends (.frcp m x o) m s (unDone s o (fl (signed f (neg u) f.infCode, { fz := true })))) ∧
      (0 ≤ num u → ∃ r, Ends (.fsqrt m x o) m s (unDone s o (fl r)) ∧
        Rounded f v (neg u) (fun n => compare (4 * (num u).natAbs * one f) (n * n)) r) ∧
      (num u < 0 → Ends (.fsqrt m x o) m s (unDone s o (fl (f.infCode + 2 ^ (f.mb - 1), { fi := true })))) ∧
      (∃ r, Ends (.fround m x o) m s (unDone s o (fl (r, {}))) ∧ r < 2 ^ f.width ∧ minus f r = neg u ∧
        units f r = integer v.rnd f (neg u) (num u).natAbs * one f)) ∧
    (∀ (o : OpBin) (u w : Word), Bin s m o u w → ¬ IsNan f (code x u) → ¬ IsNan f (code x w) →
      let a := asRead f v.flush (code x u); let b := asRead f v.flush (code x w)
      Ends (.fmin m x o) m s (binDone s o (fl (if rank f a ≤ rank f b then a else b, {}))) ∧
      Ends (.fmax m x o) m s (binDone s o (fl (if rank f a ≤ rank f b then b else a, {})))) ∧
    (∀ (o : OpCmp) (u w : Word), guardHolds m s.me = true → s.peek o.a = .ok u → s.peek o.b = .ok w →
      (¬ IsNan f (code x u) → ¬ IsNan f (code x w) →
        Ends (.fcmpEq m x o) m s (fcmpDone s o (decide (num u = num w), {})) ∧
        Ends (.fcmpLt m x o) m s (fcmpDone s o (decide (num u < num w), {})) ∧
        Ends (.fcmpLe m x o) m s (fcmpDone s o (decide (num u ≤ num w), {})) ∧
        Ends (.fcmpUn m x o) m s (fcmpDone s o (false, {}))) ∧
      (IsNan f (code x u) ∨ IsNan f (code x w) →
        let signals (c : Nat) : Bool := decide (f.infCode < magnitude f c) && !c.testBit (f.mb - 1)
        let fi := signals (code x u) || signals (code x w)
        Ends (.fcmpEq m x o) m s (fcmpDone s o (false, { fi := fi })) ∧
        Ends (.fcmpLt m x o) m s (fcmpDone s o (false, { fi := true })) ∧
        Ends (.fcmpLe m x o) m s (fcmpDone s o (false, { fi := true })) ∧
        Ends (.fcmpUn m x o) m s (fcmpDone s o (true, { fi := fi }))))

/-- The conversions between floating-point and integer types on finite inputs (R58, R63, R278), and the fixed sequences on the inputs whose results R280 to
R282 state: zero, infinity, the numbers out of range, integral arguments of `fexp2` and powers of two under `flog2`. -/
def Claim.FloatConversionsAndSpecialInputs : Prop :=
  ∀ (s : State) (m : Mods) (x : Option ArithX), let v := env s x
    (∀ (o : OpCvt) (u : Word), o.wf = true → Un s m ⟨o.a, o.b, o.q⟩ u →
      (∀ g f, cvtFmt o.src.toNat = some g → cvtFmt o.tgt.toNat = some f → IsFinite g (u.toNat % 2 ^ g.width) →
        let a := asRead g v.flush (u.toNat % 2 ^ g.width)
        ∃ r, Ends (.fcvt m x o) m s (unDone s ⟨o.a, o.b, o.q⟩ (fl r)) ∧ Rounded f v (minus g a) (ratio (units g a * one f) (one g)) r) ∧
      (∀ g, cvtFmt o.src.toNat = some g → cvtFmt o.tgt.toNat = none → IsFinite g (u.toNat % 2 ^ g.width) →
        let a := asRead g v.flush (u.toNat % 2 ^ g.width)
        let n : Int := integer v.rnd g (minus g a) (units g a)
        let n := if minus g a then -n else n
        let t := cvtInt o.tgt.toNat
        Ends (.fcvt m x o) m s (unDone s ⟨o.a, o.b, o.q⟩
          (if n < t.minVal then { v := BitVec.ofInt 64 t.minVal, sticky := { fi := true } }
           else if t.maxVal < n then { v := BitVec.ofInt 64 t.maxVal, sticky := { fi := true } }
           else { v := BitVec.ofInt 64 n, sticky := { fx := decide (units g a % one g ≠ 0) } }))) ∧
      (∀ f, cvtFmt o.src.toNat = none → cvtFmt o.tgt.toNat = some f →
        let n := (cvtInt o.src.toNat).read u
        ∃ r, Ends (.fcvt m x o) m s (unDone s ⟨o.a, o.b, o.q⟩ (fl r)) ∧ Rounded f v (decide (n < 0)) (ratio (n.natAbs * one f) 1) r)) ∧
    (format x = fp32 → v.flush = false → v.sat = false → ∀ (o : OpAB) (u : Word), Un s m o u → let c := code x u
      (magnitude fp32 c = 0 →
        Ends (.fsin m x o) m s (unDone s o (fl (c, {}))) ∧ Ends (.fcos m x o) m s (unDone s o (fl (0x3F800000, {}))) ∧
        Ends (.flog2 m x o) m s (unDone s o (fl (0xFF800000, { fz := true })))) ∧
      (magnitude fp32 c = fp32.infCode →
        Ends (.fsin m x o) m s (unDone s o (fl (0x7FC00000, { fi := true }))) ∧
        Ends (.fcos m x o) m s (unDone s o (fl (0x7FC00000, { fi := true }))) ∧
        Ends (.fexp2 m x o) m s (unDone s o (fl (if minus fp32 c then 0 else c, {}))) ∧
        Ends (.flog2 m x o) m s (unDone s o (fl (if minus fp32 c then (0x7FC00000, { fi := true }) else (c, {}))))) ∧
      (IsFinite fp32 c → number fp32 c < 0 → Ends (.flog2 m x o) m s (unDone s o (fl (0x7FC00000, { fi := true })))) ∧
      (IsFinite fp32 c → 128 * one fp32 < number fp32 c → Ends (.fexp2 m x o) m s (unDone s o (fl (0x7F800000, { fo := true, fx := true })))) ∧
      (IsFinite fp32 c → number fp32 c < -(150 * one fp32 : Int) → Ends (.fexp2 m x o) m s (unDone s o (fl (0, { fx := true })))) ∧
      (∀ k : Int, -126 ≤ k → k ≤ 127 → number fp32 c = k * one fp32 →
        Ends (.fexp2 m x o) m s (unDone s o (fl ((k + 127).toNat * 2 ^ 23, {})))) ∧
      (∀ k j : Nat, 1 ≤ k → k ≤ 254 → c = k * 2 ^ 23 → j < 2 ^ 32 → number fp32 j = ((k : Int) - 127) * one fp32 → j ≠ 2 ^ 31 →
        Ends (.flog2 m x o) m s (unDone s o (fl (j, {})))))

/-- fabs, fneg and fbit move sign bits only, and fclass answers one class (R275, R277): no flag of any kind. -/
def Claim.FloatBits : Prop :=
  ∀ (s : State) (m : Mods),
    (∀ (x : Option ArithX) (o : OpAB) (u : Word), Un s m o u →
      Ends (.fabs m x o) m s (unDone s o (bare (BitVec.ofNat 64 (code x u % 2 ^ ((format x).width - 1))))) ∧
      Ends (.fneg m x o) m s (unDone s o (bare (BitVec.ofNat 64 (code x u ^^^ 2 ^ ((format x).width - 1)))))) ∧
    (∀ (o : OpBin) (u w : Word), Bin s m o u w →
      Ends (.fbit m o) m s (binDone s o (bare (BitVec.ofNat 64 (u.toNat % 2 ^ 31 + w.toNat / 2 ^ 31 % 2 * 2 ^ 31))))) ∧
    (∀ (o : OpAB) (u : Word), Un s m o u → Ends (.fclass m o) m s (unDone s o (bare (1 <<< classOf (u.setWidth 32)))))

/-- Floating-point comparisons and conversions (R276, R278). -/
def Claim.FloatComparisonsAndConversions : Prop :=
  ∀ (s : State) (m : Mods) (x : Option ArithX),
    (∀ (o : OpCmp) (u w : Word), guardHolds m s.me = true → s.peek o.a = .ok u → s.peek o.b = .ok w →
      Ends (.fcmpEq m x o) m s (fcmpDone s o ((format x).cmp s.me.flush .eq (code x u) (code x w))) ∧
      Ends (.fcmpLt m x o) m s (fcmpDone s o ((format x).cmp s.me.flush .lt (code x u) (code x w))) ∧
      Ends (.fcmpLe m x o) m s (fcmpDone s o ((format x).cmp s.me.flush .le (code x u) (code x w))) ∧
      Ends (.fcmpUn m x o) m s (fcmpDone s o ((format x).cmp s.me.flush .un (code x u) (code x w)))) ∧
    (∀ (o : OpCvt) (u : Word), o.wf = true → Un s m ⟨o.a, o.b, o.q⟩ u →
      Ends (.fcvt m x o) m s (unDone s ⟨o.a, o.b, o.q⟩
        (let r := cvtElem (env s x) o.tgt.toNat o.src.toNat u; { v := r.1, sticky := r.2 })))

/-- A number that a format holds rounds to itself under every mode, and sets no flag (R57, R58): each of the formats, each of its finite codes.
Under FLUSH a subnormal of FP32 or BF16 is not kept. -/
def Claim.FormatNumbersAreKept : Prop :=
  ∀ (f : Fmt), f ∈ [fp32, fp16, Sys2Proof.Machine.bf16, e5m2, e4m3, e3m2, e2m3, e2m1] →
    ∀ (v : FEnv) (c : Nat) (neg : Bool) (n : Nat) (e : Int), c < 2 ^ f.width → v.flush = false → f.dec false c = .num neg n e →
      f.round v neg n e = (c, {})

/-- A number between two codes of a format rounds to one of them, and raises FX (R57, R58): toward zero the lower one in magnitude, and away from
zero the upper one. -/
def Claim.DirectedRounding : Prop :=
  ∀ (f : Fmt), f ∈ [fp32, fp16, Sys2Proof.Machine.bf16, e5m2, e4m3, e3m2, e2m3, e2m1] →
    ∀ (c n k j : Nat) (e : Int), c < f.maxCode → f.dec false c = .num false n e → 0 < j → j < 2 ^ k →
      f.round { rnd := .rz } false (n * 2 ^ k + j) (e - k) = (c, { fx := true }) ∧
      f.round { rnd := .rd } false (n * 2 ^ k + j) (e - k) = (c, { fx := true }) ∧
      f.round { rnd := .ru } false (n * 2 ^ k + j) (e - k) = (c + 1, { fx := true }) ∧
      f.round {} false (n * 2 ^ k + j) (e - k) = (if 2 * j < 2 ^ k ∨ (2 * j = 2 ^ k ∧ c % 2 = 0) then c else c + 1, { fx := true })

/-! ## Page 3 and the mask forms of page 4 -/

namespace Sys2Proof.Claim

/-- Element i of w bytes (R283); and whether its group is active (R286). -/
def elt (w : Nat) (x : BitVec 2048) (i : Nat) : Nat := (x.extractLsb' (8 * w * i) (8 * w)).toNat
def active (s : State) (m : Mods) (j : Nat) : Bool :=
  match m.guard with | none => true | some g => (s.me.mask g.idx.toNat).getLsbD j != g.neg
def chosen (s : State) (m : Mods) (w i : Nat) : Bool := active s m (i * w / 4)

/-- The vector registers named are held by the thread with their banks up and clear, and it holds some bank if it names a mask (R35, R36, R243). -/
def VecOk (s : State) (m : Mods) (vs : List VNum) (masks : Bool) : Prop :=
  VecUp s vs ∧ ((masks = true ∨ m.guard ≠ none) → s.me.banks ≠ 0)

/-- A vector destination takes a write (R31). -/
def VecTakes (s : State) (a : VNum) : Prop := (s.vregAt a).stream = false

/-- r is `old` with its active elements as g gives them; and the sticky flags of the active ones. -/
def Laned (s : State) (m : Mods) (w : Nat) (old r : BitVec 2048) (g : Nat → Nat) : Prop :=
  ∀ i, i < 256 / w → elt w r i = if chosen s m w i then g i else elt w old i
def raised (s : State) (m : Mods) (w : Nat) (g : Nat → Sticky) : Sticky :=
  (List.range (256 / w)).foldr (fun i f => (if chosen s m w i then g i else {}).or f) {}

/-- A vector result, its reads consumed, the flags raised and the register written and full. -/
def vecDone (s : State) (takes : List (VNum × Bool)) (reads : List (SReg × Bool)) (a : VNum) (r : BitVec 2048) (f : Sticky) : State :=
  (((s.advance.vconsume takes).consume reads).modVreg a fun v => { v with v := r, full := true, failed := false, pend := false }).modPred f.raise

/-- A binary form on x and y (R249, R291): y is a register, or one scalar in every element. -/
def VBin (s : State) (m : Mods) (w : Nat) (o : OpVBin) (x y : BitVec 2048) : Prop :=
  VecOk s m (o.a :: o.b :: vecsOf o.c) false ∧ VecTakes s o.a ∧
  match o.c with
  | .absent => s.vpeek o.a = .ok x ∧ s.vpeek o.b = .ok y
  | .vec c => s.vpeek o.b = .ok x ∧ s.vpeek c = .ok y
  | .scal c => s.vpeek o.b = .ok x ∧ ∃ u, s.peek c = .ok u ∧ ∀ i, i < 256 / w → elt w y i = u.toNat % 2 ^ (8 * w)

def vbinReads (o : OpVBin) : List (VNum × Bool) × List (SReg × Bool) :=
  match o.c with
  | .absent => ([(o.a, false), (o.b, o.q)], [])
  | .vec c => ([(o.b, o.q), (c, false)], [])
  | .scal c => ([(o.b, o.q)], [(c, false)])

/-- The form ends with these elements in its active groups, and these flags. -/
def VBinEnds (s : State) (m : Mods) (i : Instr) (w : Nat) (o : OpVBin) (g : Nat → Nat × Sticky) : Prop :=
  ∃ r, Laned s m w (s.vregAt o.a).v r (fun j => (g j).1) ∧
    Ends i m s (vecDone s (Claim.vbinReads o).1 (Claim.vbinReads o).2 o.a r (raised s m w fun j => (g j).2))

/-- A unary form. -/
def VUn (s : State) (m : Mods) (a b : VNum) (x : BitVec 2048) : Prop := VecOk s m [a, b] false ∧ VecTakes s a ∧ s.vpeek b = .ok x
def VUnEnds (s : State) (m : Mods) (i : Instr) (w : Nat) (o : OpVUn) (g : Nat → Nat × Sticky) : Prop :=
  ∃ r, Laned s m w (s.vregAt o.a).v r (fun j => (g j).1) ∧ Ends i m s (vecDone s [(o.b, o.q)] [] o.a r (raised s m w fun j => (g j).2))

/-- The type of a form whose default is d, its width, and one element of it as an integer. -/
def typed (d : ElemTy) (x : Option ArithX) : ElemTy := (x.map fun x => x.ty).getD d
def bytesOf (t : ElemTy) : Nat := match t with | .f32 => 4 | .i32 => 4 | .u32 => 4 | .i8 => 1 | .u8 => 1 | _ => 2
def signedTy (t : ElemTy) : Bool := match t with | .u8 => false | .u32 => false | _ => true
def floatFmt (t : ElemTy) : Option Fmt :=
  match t with | .f32 => some fp32 | .f16 => some fp16 | .bf16 => some Sys2Proof.Machine.bf16 | _ => none
def int (t : ElemTy) (c : Nat) : Int := num (8 * bytesOf t) (signedTy t) (BitVec.ofNat 64 c)

/-- One element: a float by page 2's operation, an integer exactly, then wrapped or held to its range (R289, R290). -/
def cell (t : ElemTy) (v : FEnv) (ff : Fmt → FEnv → Nat → Nat → Nat × Sticky) (fi : Int → Int → Int) (x y : Nat) : Nat × Sticky :=
  match floatFmt t with
  | some f => ff f v x y
  | none => ((written (8 * bytesOf t) (signedTy t) v.sat (fi (int t x) (int t y))).toNat % 2 ^ (8 * bytesOf t), {})

/-- Whether a comparison holds of two elements (R276, R295). -/
def holdsOf (t : ElemTy) (s : State) (k : FCond) (x y : Nat) : Bool × Sticky :=
  match floatFmt t with
  | some f => f.cmp s.me.flush k x y
  | none => (match k with | .eq => decide (int t x = int t y) | .lt => decide (int t x < int t y) | .le => decide (int t x ≤ int t y) | .un => false, {})

/-- r is mask p with its active bits as g gives them. -/
def Masked (s : State) (m : Mods) (p : PNum) (g : Nat → Bool) (r : Word) : Prop :=
  ∀ j, j < 64 → r.getLsbD j = if active s m j then g j else (s.me.mask p.toNat).getLsbD j
def maskTo (s : State) (p : PNum) (r : Word) : State := s.modMe fun t => { t with masks := t.masks.put p.toNat r }

/-- A vector form that writes a scalar. -/
def ToScalar (s : State) (m : Mods) (o : OpSV) (x : BitVec 2048) : Prop := VecOk s m [o.b] false ∧ s.takesWrite o.a ∧ s.vpeek o.b = .ok x
def scalarDone (s : State) (o : OpSV) (r : Res) : State := (s.advance.vconsume [(o.b, o.q)]).result o.a [] r

/-- The node k of level n of a reduction's tree over the active elements below `len` (R300). -/
def node (f : Nat × Sticky → Nat × Sticky → Nat × Sticky) (leaf : Nat → Option (Nat × Sticky)) : Nat → Nat → Option (Nat × Sticky)
  | 0, k => leaf k
  | n + 1, k =>
    match node f leaf n (2 * k), node f leaf n (2 * k + 1) with
    | some a, some b => some (f a b)
    | some a, none => some a
    | none, z => z

/-- The sum, the smallest and the largest of the active integers. -/
def activeList (s : State) (m : Mods) (t : ElemTy) (x : BitVec 2048) : List Int :=
  ((List.range (256 / bytesOf t)).filter fun i => chosen s m (bytesOf t) i).map fun i => int t (elt (bytesOf t) x i)
def isLeast (l : List Int) (none r : Int) : Prop := (l = [] ∧ r = none) ∨ (r ∈ l ∧ ∀ a ∈ l, r ≤ a)
def isGreatest (l : List Int) (none r : Int) : Prop := (l = [] ∧ r = none) ∨ (r ∈ l ∧ ∀ a ∈ l, a ≤ r)

/-- The lowest active group, and the group that vins and vext name (R299). -/
def firstActive (s : State) (m : Mods) : Nat := ((List.range 64).find? fun j => active s m j).getD 64
def named (s : State) (m : Mods) (idx : BitVec 7) : Nat := if idx.getLsbD 6 then firstActive s m else idx.toNat

/-- The bytes of a conversion code (R56, R296). -/
def codeWidth (c : Nat) : Nat := if c = 0 ∨ c = 3 ∨ c = 7 then 4 else if c = 1 ∨ c = 2 ∨ c = 4 then 2 else 1

end Sys2Proof.Claim

/-- The typed binary and fused forms of page 3 (R286, R289 to R292): each active element is the operation on its operands' elements, the others are as they
were, the destination is full, and the sticky flags of the active elements are raised. -/
def Claim.VectorArithmetic : Prop :=
  ∀ (s : State) (m : Mods) (x : Option ArithX) (o : OpVBin) (u y : BitVec 2048), let t := typed .f32 x
    let w := bytesOf t
    let v := env s x
    let two (ff : Fmt → FEnv → Nat → Nat → Nat × Sticky) (fi : Int → Int → Int) : Nat → Nat × Sticky := fun i => cell t v ff fi (elt w u i) (elt w y i)
    VBin s m w o u y →
      VBinEnds s m (.vadd m x o) w o (two Fmt.add fun a b => a + b) ∧ VBinEnds s m (.vsub m x o) w o (two Fmt.sub fun a b => a - b) ∧
      VBinEnds s m (.vmul m x o) w o (two Fmt.mul fun a b => a * b) ∧
      VBinEnds s m (.vmin m x o) w o (two (fun f e => f.minMax e true) fun a b => if a ≤ b then a else b) ∧
      VBinEnds s m (.vmax m x o) w o (two (fun f e => f.minMax e false) fun a b => if a ≤ b then b else a) ∧
      (floatFmt t ≠ none → VBinEnds s m (.vdiv m x o) w o (two Fmt.div fun a _ => a)) ∧
      (∀ z : BitVec 2048, o.c ≠ .absent → s.vpeek o.a = .ok z →
        let fused (i : Nat) : Nat × Sticky := match floatFmt t with
          | some f => f.fma v (elt w z i) (elt w u i) (elt w y i)
          | none => cell t v Fmt.add (fun a b => int t (elt w z i) + a * b) (elt w u i) (elt w y i)
        ∃ r, Laned s m w z r (fun j => (fused j).1) ∧
          Ends (.vfma m x o) m s (vecDone s ((o.a, false) :: (Claim.vbinReads o).1) (Claim.vbinReads o).2 o.a r (raised s m w fun j => (fused j).2)))

/-- vmulh, and the unary typed forms (R289 to R291). -/
def Claim.VectorUnaryArithmetic : Prop :=
  ∀ (s : State) (m : Mods) (x : Option ArithX),
    (∀ (o : OpVBin) (u y : BitVec 2048), let t := typed .i32 x
      let w := bytesOf t
      floatFmt t = none → VBin s m w o u y →
      VBinEnds s m (.vmulh m x o) w o fun i => ((written (8 * w) (signedTy t) false (int t (elt w u i) * int t (elt w y i) / (2 ^ (8 * w) : Nat))).toNat %
        2 ^ (8 * w), {})) ∧
    (∀ (o : OpVUn) (u : BitVec 2048), let t := typed .f32 x
      let w := bytesOf t
      let v := env s x
      let one (ff : Fmt → FEnv → Nat → Nat × Sticky) (fi : Int → Int) : Nat → Nat × Sticky :=
        fun i => cell t v (fun f e a _ => ff f e a) (fun a _ => fi a) (elt w u i) 0
      VUn s m o.a o.b u →
      VUnEnds s m (.vabs m x o) w o (one (fun f _ c => (c % 2 ^ (f.width - 1), {})) fun a => if a < 0 then -a else a) ∧
      VUnEnds s m (.vneg m x o) w o (one (fun f _ c => (c ^^^ 2 ^ (f.width - 1), {})) fun a => -a) ∧
      (floatFmt t ≠ none → VUnEnds s m (.vsqrt m x o) w o (one Fmt.sqrt fun a => a) ∧
        VUnEnds s m (.vrcp m x o) w o (one (fun f e c => f.div e (f.bias * 2 ^ f.mb) c) fun a => a) ∧
        VUnEnds s m (.vexp2 m x o) w o (one (fun f e c => f.fixed e f32exp2 c) fun a => a)))

/-- The forms on 32-bit groups (R293, R299): logic, shifts, permutation, rotation, moves, broadcast and insertion. -/
def Claim.VectorGroups : Prop :=
  ∀ (s : State) (m : Mods),
    (∀ (o : OpVBin) (u y : BitVec 2048), VBin s m 4 o u y →
      let a (i : Nat) : BitVec 32 := BitVec.ofNat 32 (elt 4 u i)
      let b (i : Nat) : BitVec 32 := BitVec.ofNat 32 (elt 4 y i)
      let n (i : Nat) : Nat := elt 4 y i % 32
      VBinEnds s m (.vand m o) 4 o (fun i => ((a i &&& b i).toNat, {})) ∧ VBinEnds s m (.vor m o) 4 o (fun i => ((a i ||| b i).toNat, {})) ∧
      VBinEnds s m (.vxor m o) 4 o (fun i => ((a i ^^^ b i).toNat, {})) ∧ VBinEnds s m (.vshl m o) 4 o (fun i => ((a i <<< n i).toNat, {})) ∧
      VBinEnds s m (.vshr m o) 4 o (fun i => ((a i >>> n i).toNat, {})) ∧ VBinEnds s m (.vsar m o) 4 o (fun i => (((a i).sshiftRight (n i)).toNat, {})) ∧
      VBinEnds s m (.vperm m o) 4 o (fun i => (elt 4 u (elt 4 y i % 64), {})) ∧
      VBinEnds s m (.vrot m o) 4 o (fun i => (elt 4 u ((i + elt 4 y 0 % 64) % 64), {}))) ∧
    (∀ (o : OpVUn) (u : BitVec 2048), VUn s m o.a o.b u →
      VUnEnds s m (.vnot m o) 4 o (fun i => (2 ^ 32 - 1 - elt 4 u i, {})) ∧ VUnEnds s m (.vmov m o) 4 o (fun i => (elt 4 u i, {}))) ∧
    (∀ (o : OpVS) (v : Word), VecOk s m [o.a] false → VecTakes s o.a → s.peek o.b = .ok v →
      (∃ r, Laned s m 4 (s.vregAt o.a).v r (fun _ => v.toNat % 2 ^ 32) ∧ Ends (.vbcast m o) m s (vecDone s [] [(o.b, o.q)] o.a r {})) ∧
      ∀ idx : BitVec 7, (idx.getLsbD 6 = false ∨ idx.toNat = 64) →
        ∃ r, (∀ i, i < 64 → elt 4 r i = if active s m i = true ∧ i = named s m idx then v.toNat % 2 ^ 32 else elt 4 (s.vregAt o.a).v i) ∧
          Ends (.vins m ⟨o.a, o.b, o.q, idx⟩) m s (vecDone s [] [(o.b, o.q)] o.a r {})) ∧
    (∀ o : OpV, VecOk s m [o.a] false → VecTakes s o.a →
      Ends (.vclr m o) m s (s.advance.modVreg o.a fun r => { r with full := false, failed := false, pend := false }))

/-- vsel and the comparisons (R294, R295). -/
def Claim.VectorSelection : Prop :=
  ∀ (s : State) (m : Mods),
    (∀ (o : OpVSel) (u y : BitVec 2048), VecOk s m (o.a :: o.b :: vecsOf o.c) true → VecTakes s o.a → s.vpeek o.b = .ok u →
      let pick (i : Nat) : Bool := (s.me.mask o.m.toNat).getLsbD i != o.neg
      (o.c = .absent → ∃ r, Laned s m 4 (s.vregAt o.a).v r (fun i => if pick i then elt 4 u i else elt 4 (s.vregAt o.a).v i) ∧
        Ends (.vsel m o) m s (vecDone s [(o.b, o.q)] [] o.a r {})) ∧
      (∀ c, o.c = .vec c → s.vpeek c = .ok y → ∃ r, Laned s m 4 (s.vregAt o.a).v r (fun i => if pick i then elt 4 u i else elt 4 y i) ∧
        Ends (.vsel m o) m s (vecDone s [(o.b, o.q), (c, false)] [] o.a r {})) ∧
      (∀ c v, o.c = .scal c → s.peek c = .ok v → ∃ r, Laned s m 4 (s.vregAt o.a).v r (fun i => if pick i then elt 4 u i else v.toNat % 2 ^ 32) ∧
        Ends (.vsel m o) m s (vecDone s [(o.b, o.q)] [(c, false)] o.a r {}))) ∧
    (∀ (x : Option ArithX) (o : OpVCmp) (u y : BitVec 2048), VecOk s m [o.a, o.b] true → s.vpeek o.a = .ok u → s.vpeek o.b = .ok y →
      let t := typed .f32 x
      let w := bytesOf t
      let compares (i : Instr) (k : FCond) : Prop :=
        ∃ r, Masked s m o.m (fun j => ((List.range (4 / w)).all fun e => (holdsOf t s k (elt w u (4 / w * j + e)) (elt w y (4 / w * j + e))).1) != o.neg) r ∧
          Ends i m s (maskTo ((s.advance.vconsume [(o.a, false), (o.b, o.q)]).modPred
            (raised s m w fun e => (holdsOf t s k (elt w u e) (elt w y e)).2).raise) o.m r)
      compares (.vcmpEq m x o) .eq ∧ compares (.vcmpLt m x o) .lt ∧ compares (.vcmpLe m x o) .le ∧
        (floatFmt t ≠ none → compares (.vcmpUn m x o) .un))

/-- vcvt and vcvtn (R296, R297): the elements of the source from s(i) on go to the places from d(i) on. -/
def Claim.VectorConversions : Prop :=
  ∀ (s : State) (m : Mods) (x : Option ArithX) (o : OpVCvt) (u : BitVec 2048), VUn s m o.a o.b u →
    let ws := codeWidth o.src.toNat
    let wt := codeWidth o.tgt.toNat
    let n := 256 / max ws wt
    let one (p q i : Nat) : Word × Sticky := cvtElem (env s x) o.tgt.toNat o.src.toNat (BitVec.ofNat 64 (elt ws u (p + i - q)))
    let converts (i : Instr) (p q : Nat) : Prop :=
      ∃ r, (∀ e, e < 256 / wt → elt wt r e =
          if q ≤ e ∧ e < q + n ∧ chosen s m wt e = true then (one p q e).1.toNat % 2 ^ (8 * wt) else elt wt (s.vregAt o.a).v e) ∧
        Ends i m s (vecDone s [(o.b, o.q)] [] o.a r
          ((List.range n).foldl (fun f e => f.or (if chosen s m wt (q + e) then (one p q (q + e)).2 else {})) {}))
    ((Instr.vcvt m x o).wf = true → converts (.vcvt m x o) 0 0) ∧
    ((Instr.vcvtn m x o).wf = true → converts (.vcvtn m x o) (if ws < wt then n else 0) (if wt < ws then n else 0))

/-- The reductions and vext (R298 to R300): the scalar is written whatever the guard. -/
def Claim.VectorReductions : Prop :=
  ∀ (s : State) (m : Mods) (x : Option ArithX) (o : OpSV) (u : BitVec 2048), ToScalar s m o u →
    let t := typed .f32 x
    let w := bytesOf t
    let v := env s x
    let done (i : Instr) (r : Res) : Prop := Ends i m s (scalarDone s o r)
    (∀ f, floatFmt t = some f →
      let leaf (g : Nat → Nat × Sticky) (i : Nat) : Option (Nat × Sticky) := if i < 256 / w ∧ chosen s m w i = true then some (g (elt w u i)) else none
      let merge (h : Nat → Nat → Nat × Sticky) (a b : Nat × Sticky) : Nat × Sticky := ((h a.1 b.1).1, (a.2.or b.2).or (h a.1 b.1).2)
      let root (h : Nat → Nat → Nat × Sticky) (g : Nat → Nat × Sticky) (e : Nat) : Nat × Sticky := (node (merge h) (leaf g) 8 0).getD (e, {})
      done (.vredadd m x o) (fl (root (fp32.add v) (fun c => if t = .f32 then (c, {}) else f.convert fp32 { flush := s.me.flush } c) 0)) ∧
      done (.vredmin m x o) (fl (root (f.minMax v true) (fun c => (c, {})) f.infCode)) ∧
      done (.vredmax m x o) (fl (root (f.minMax v false) (fun c => (c, {})) (f.infCode + 2 ^ (f.width - 1))))) ∧
    (floatFmt t = none →
      done (.vredadd m x o) (bare (written (8 * w) (signedTy t) (sat x) (activeList s m t u).sum)) ∧
      (∀ r, isLeast (activeList s m t u) (greatest (8 * w) (signedTy t)) r → done (.vredmin m x o) (bare (written (8 * w) (signedTy t) false r))) ∧
      (∀ r, isGreatest (activeList s m t u) (least (8 * w) (signedTy t)) r → done (.vredmax m x o) (bare (written (8 * w) (signedTy t) false r)))) ∧
    (∀ idx : BitVec 7, (idx.getLsbD 6 = false ∨ idx.toNat = 64) → Ends (.vext m ⟨o.a, o.b, o.q, idx⟩) m s (scalarDone s o
      (bare (if named s m idx < 64 ∧ active s m (named s m idx) = true then BitVec.ofNat 64 (elt 4 u (named s m idx)) else 0))))

/-- The lane-mask forms (R307). -/
def Claim.LaneMasks : Prop :=
  ∀ (s : State) (m : Mods), s.me.banks ≠ 0 →
    (∀ o : OpMBin, let x := s.me.mask (match o.c with | none => o.a | some _ => o.b).toNat
      let y := s.me.mask (match o.c with | none => o.b | some c => c).toNat
      (∃ r, Masked s m o.a (fun j => x.getLsbD j && y.getLsbD j) r ∧ Ends (.mand m o) m s (maskTo s.advance o.a r)) ∧
      (∃ r, Masked s m o.a (fun j => x.getLsbD j || y.getLsbD j) r ∧ Ends (.mor m o) m s (maskTo s.advance o.a r)) ∧
      (∃ r, Masked s m o.a (fun j => x.getLsbD j != y.getLsbD j) r ∧ Ends (.mxor m o) m s (maskTo s.advance o.a r))) ∧
    (∀ o : OpMUn, ∃ r, Masked s m o.a (fun j => !(s.me.mask o.b.toNat).getLsbD j) r ∧ Ends (.mnot m o) m s (maskTo s.advance o.a r)) ∧
    (∀ (o : OpMSet) (v : Word), s.peek o.b = .ok v → ∃ r, Masked s m o.a (fun j => v.getLsbD j) r ∧
      Ends (.mset m o) m s (maskTo (s.advance.consume [(o.b, o.q)]) o.a r)) ∧
    (∀ (o : OpMGet), s.takesWrite o.a → ∃ g : Word, (∀ j, j < 64 → g.getLsbD j = ((s.me.mask o.b.toNat).getLsbD j && active s m j)) ∧
      Ends (.mget m o) m s (outDone s o.a (bare g)) ∧
      Ends (.mpopc m o) m s (outDone s o.a (bare (BitVec.ofNat 64 ((List.range 64).countP fun i => g.getLsbD i)))) ∧
      Ends (.mfirst m o) m s (outDone s o.a (bare (BitVec.ofNat 64 (trailing g)))))

namespace Sys2Proof.Claim

/-- What a form of page 3 or 4 names: the vector registers and the lane masks that it checks, in order; the vector register that it writes, where nothing else
comes before that; the vector registers that it reads, in order; and the scalar registers that it reads and writes. -/
structure VecUse where
  names : List VNum := []
  masks : List PNum := []
  dest : Option VNum := none
  reads : List VNum := []
  scalars : List SReg := []
  into : Option SReg := none

/-- The registers that a third operand names. -/
def thirdVec : VSrc → List VNum
  | .vec c => [c]
  | _ => []
def thirdScal : VSrc → List SReg
  | .scal c => [c]
  | _ => []

/-- A form of two sources reads its destination where it has no third operand; `vfma` always does, and `vsel` never. -/
def binaryUse (o : OpVBin) (fused : Bool) : VecUse :=
  { names := o.a :: o.b :: thirdVec o.c, dest := some o.a, scalars := thirdScal o.c,
    reads := (if fused || o.c matches .absent then [o.a] else []) ++ o.b :: thirdVec o.c }

def vectorUse : Instr → Option (Mods × VecUse)
  | .vadd m _ o | .vsub m _ o | .vmul m _ o | .vdiv m _ o | .vmin m _ o | .vmax m _ o | .vmulh m _ o => some (m, binaryUse o false)
  | .vand m o | .vor m o | .vxor m o | .vshl m o | .vshr m o | .vsar m o | .vperm m o | .vrot m o => some (m, binaryUse o false)
  | .vfma m _ o => some (m, binaryUse o true)
  | .vsqrt m _ o | .vabs m _ o | .vneg m _ o | .vexp2 m _ o | .vrcp m _ o => some (m, { names := [o.a, o.b], dest := some o.a, reads := [o.b] })
  | .vnot m o | .vmov m o => some (m, { names := [o.a, o.b], dest := some o.a, reads := [o.b] })
  | .vcvt m _ o | .vcvtn m _ o => some (m, { names := [o.a, o.b], dest := some o.a, reads := [o.b] })
  | .vcmpEq m _ o | .vcmpLt m _ o | .vcmpLe m _ o | .vcmpUn m _ o => some (m, { names := [o.a, o.b], masks := [o.m], reads := [o.a, o.b] })
  | .vsel m o => some (m, { names := o.a :: o.b :: thirdVec o.c, masks := [o.m], dest := some o.a, reads := o.b :: thirdVec o.c, scalars := thirdScal o.c })
  | .vredadd m _ o | .vredmin m _ o | .vredmax m _ o => some (m, { names := [o.b], reads := [o.b], into := some o.a })
  | .vext m o => some (m, { names := [o.b], reads := [o.b], into := some o.a })
  | .vbcast m o => some (m, { names := [o.a], dest := some o.a, scalars := [o.b] })
  | .vins m o => some (m, { names := [o.a], dest := some o.a, scalars := [o.b] })
  | .vclr m o => some (m, { names := [o.a], dest := some o.a })
  | .mand m o | .mor m o | .mxor m o => some (m, { masks := o.a :: o.b :: o.c.toList })
  | .mnot m o => some (m, { masks := [o.a, o.b] })
  | .mset m o => some (m, { masks := [o.a], scalars := [o.b] })
  | .mget m o | .mpopc m o | .mfirst m o => some (m, { masks := [o.b], into := some o.a })
  | .vld m o | .vldf m o | .vldfe m o => some (m, { names := [o.a], scalars := [o.b] })
  | .vst m o | .vstef m o => some (m, { names := [o.a], reads := [o.a], scalars := [o.b] })
  | .vgath m o => some (m, { names := [o.a, o.c], reads := [o.c], scalars := [o.b] })
  | .vscat m o => some (m, { names := [o.a, o.c], reads := [o.a, o.c], scalars := [o.b] })
  | _ => none

end Sys2Proof.Claim

/-- The forms of pages 3 and 4 stop before they have any effect (R29, R31, R35, R36, R101, R243): on a register that the thread does not hold, of several
the first in the order destination, sources (the model's choice, log 12), and, naming a mask or a guard, without any bank; on a bank that is not up; on a
destination in stream mode; on a failed source, and an empty one, where the sources before it can be read. -/
def Claim.VectorFormsStop : Prop :=
  ∀ (s : State) (i : Instr) (m : Mods) (u : Sys2Proof.Claim.VecUse), Sys2Proof.Claim.vectorUse i = some (m, u) → s.cur.slot ≠ 15 →
    let ms := u.masks ++ (m.guard.map fun g => g.idx).toList
    let place (v : VNum) : Nat := (s.me.place v.toNat).getD 0
    let held : Prop := ∀ v ∈ u.names, s.me.place v.toNat ≠ none
    let masked : Prop := ms ≠ [] → s.me.banks ≠ 0
    let up : Prop := VecUp s u.names ∧ masked
    let takes : Prop := ∀ a, u.dest = some a → VecTakes s a
    let ready : Prop := (∀ r ∈ u.scalars, ∃ x, s.peek r = .ok x) ∧ ∀ r, u.into = some r → s.takesWrite r
    (∀ v, (u.names.find? fun v => (s.me.place v.toNat).isNone) = some v → Traps i s 4 0 v.toNat) ∧
    (∀ p, held → ms.head? = some p → s.me.banks = 0 → Traps i s 4 0 p.toNat) ∧
    (∀ bs, bs = (u.names.map fun v => place v / 8).filter (fun b => decide ((s.myCore.bank b).power = .retain)) → held → masked →
      bs ≠ [] ∨ (∃ v ∈ u.names, (s.myCore.bank (place v / 8)).clears.isSome = true) → exec i s = .next (s.suspend (.rise bs))) ∧
    (∀ a, up → u.dest = some a → ¬ VecTakes s a → Traps i s 5 0 (a.toNat + 32)) ∧
    (∀ (before after : List VNum) (v : VNum), up → takes → ready → u.reads = before ++ v :: after → (∀ w ∈ before, ∃ x, s.vpeek w = .ok x) →
      (s.vregAt v).stream = false →
      ((s.vregAt v).failed = true → Traps i s 42 0 (v.toNat + 32)) ∧
      ((s.vregAt v).failed = false → (s.vregAt v).full = false → exec i s = .next (s.suspend (.reg v.toNat true))))

namespace Sys2Proof.Claim

/-- The active groups, lowest first; and the granules of a block that hold one. -/
def activeGroups (s : State) (m : Mods) : List Nat := (List.range 64).filter fun j => active s m j
def activeGranules (s : State) (m : Mods) : List Nat := (List.range 16).filter fun g => [0, 1, 2, 3].any fun i => active s m (4 * g + i)

/-- Blocks of n bytes of the own tile store, aligned to k; no versioned window meets what the active groups touch of them (R133, R301). -/
def OwnBlocks (s : State) (as touched : List Word) (k n : Nat) : Prop :=
  (∀ a ∈ as, addrOk a = true ∧ isFabric a = true ∧ homeOf s.cur.core a = .own ∧ a.toNat % k = 0 ∧ offsetOf a + n ≤ 2 ^ 20) ∧
  ∀ a ∈ touched, s.myCore.lineAt (offsetOf a) = none ∧ s.myCore.windowHole (offsetOf a) = false

/-- The granules of a block that its active groups touch. -/
def touchedBy (s : State) (m : Mods) (ea : Word) : List Word := (activeGranules s m).map fun g => ea + BitVec.ofNat 64 (16 * g)

/-- The state in which a block form finds itself sent: its reads consumed, its granules before it at the banks. -/
def blockSent (s : State) (m : Mods) (o : OpVMem) (u : Word) (load : Bool) (kind : Nat) (data : BitVec 2048) : State :=
  let ea := u + o.off.signExtend 64
  let t := s.advance.consume [(o.b, o.q)]
  (if load then t else t.vconsume [(o.a, false)]).vmemLaunch (if load then loadOrder o.x else storeOrder o.x) ea
    ((activeGranules s m).map fun g => ea.toNat / 16 + g) load kind o.a data (s.lanes m)
    ((activeGranules s m).map fun g => (offsetOf ea + 16 * g, 4 * g))

/-- The same of a gather or scatter, with the addresses of its groups. -/
def groupAddr (o : OpVGat) (u : Word) (idx : BitVec 2048) (j : Nat) : Word := u + o.off.signExtend 64 + BitVec.ofNat 64 (elt 4 idx j)
def groupsSent (s : State) (m : Mods) (o : OpVGat) (u : Word) (idx : BitVec 2048) (load : Bool) (data : BitVec 2048) : State :=
  let t := (s.advance.consume [(o.b, o.q)]).vconsume ((if load then [] else [(o.a, false)]) ++ [(o.c, false)])
  t.vmemLaunch (if load then loadOrder o.x else storeOrder o.x) (u + o.off.signExtend 64)
    ((activeGroups s m).map fun j => (groupAddr o u idx j).toNat / 16) load 4 o.a data (s.lanes m)
    ((activeGroups s m).map fun j => (offsetOf (groupAddr o u idx j), j))

end Sys2Proof.Claim

/-- vld, vst, vldf, vldfe and vstef (R301, R303): a 256-byte block of the own tile store, of which the granules with an active group are accessed; the
checks of R301 in their order stop it. -/
def Claim.BlockForms : Prop :=
  ∀ (s : State) (m : Mods) (o : OpVMem) (u : Word), VecOk s m [o.a] false → s.peek o.b = .ok u →
    let ea := u + o.off.signExtend 64
    (MayGo s (loadOrder o.x) .own 0 →
      (OwnBlocks s [ea] (touchedBy s m ea) 256 256 → VecTakes s o.a →
        Ends (.vld m o) m s (blockSent s m o u true 0 0) ∧ Ends (.vldf m o) m s (blockSent s m o u true 1 0) ∧
        Ends (.vldfe m o) m s (blockSent s m o u true 2 0)) ∧
      (addrOk ea = false → Traps (.vld m o) s 6 ea 0) ∧
      (addrOk ea = true → isFabric ea = false → Traps (.vld m o) s 8 ea 0) ∧
      (addrOk ea = true → isFabric ea = true → homeOf s.cur.core ea ≠ .own → Traps (.vld m o) s 6 ea 0) ∧
      (addrOk ea = true → isFabric ea = true → homeOf s.cur.core ea = .own → ea.toNat % 256 ≠ 0 → Traps (.vld m o) s 7 ea 0) ∧
      (OwnBlocks s [ea] (touchedBy s m ea) 256 256 → ¬ VecTakes s o.a → Traps (.vld m o) s 5 0 (o.a.toNat + 32))) ∧
    (∀ x, s.vpeek o.a = .ok x → MayGo s (storeOrder o.x) .own 0 → OwnBlocks s [ea] (touchedBy s m ea) 256 256 →
      Ends (.vst m o) m s (blockSent s m o u false 0 x) ∧ Ends (.vstef m o) m s (blockSent s m o u false 3 x))

/-- vgath and vscat (R301, R304): four bytes of each active group at the base plus the group's index; the lowest group whose address is misaligned traps. -/
def Claim.GatherAndScatter : Prop :=
  ∀ (s : State) (m : Mods) (o : OpVGat) (u : Word) (idx : BitVec 2048), VecOk s m [o.a, o.c] false → s.peek o.b = .ok u → s.vpeek o.c = .ok idx →
    let as := (activeGroups s m).map fun j => groupAddr o u idx j
    (MayGo s (loadOrder o.x) .own 0 →
      (OwnBlocks s as as 4 4 → VecTakes s o.a → Ends (.vgath m o) m s (groupsSent s m o u idx true 0)) ∧
      (∀ a, (∀ b ∈ as, addrOk b = true ∧ isFabric b = true ∧ homeOf s.cur.core b = .own) →
        (as.find? fun b => b.toNat % 4 != 0) = some a → Traps (.vgath m o) s 7 a 0)) ∧
    (∀ x, s.vpeek o.a = .ok x → MayGo s (storeOrder o.x) .own 0 → OwnBlocks s as as 4 4 →
      Ends (.vscat m o) m s (groupsSent s m o u idx false x))

/-- What sending a vector memory form leaves (R301, R303, R304): its access is outstanding, a load's register awaits its fill, its first granule or group
is asked for at its bank, and no byte of memory has changed; with no active group it is answered at once. -/
def Claim.VectorAccessLeaves : Prop :=
  ∀ (s : State) (ord : Order) (ea : Word) (cells : List Nat) (load : Bool) (kind : Nat) (v : VNum) (p : Nat) (data : BitVec 2048) (act : Word)
    (steps : List (Nat × Nat)), s.me.place v.toNat = some p → let t := s.vmemLaunch ord ea cells load kind v data act steps
    let seq := if load then ((s.myCore.vreg p).seq + 1) % 8 else 0
    SameMem s t ∧ t.pres = s.pres ∧ (∀ c, c ≠ s.cur.core → t.core c = s.core c) ∧ (∀ n, n ≠ s.cur.slot → t.slot s.cur.core n = s.slot s.cur.core n) ∧
    (∀ j, t.me.reg j = s.me.reg j) ∧ t.me.pc = s.me.pc ∧ (∀ i, i ≠ p → t.myCore.vreg i = s.myCore.vreg i) ∧
    t.myCore.vreg p = (if load then { s.myCore.vreg p with full := false, seq := seq, pend := true } else s.myCore.vreg p) ∧
    (∃ x ∈ t.me.out, x.id = s.nextId ∧ x.addr = ea ∧ x.home = .own ∧ x.store = !load ∧ x.cells = cells ∧ x.jrn = none ∧ x.hold = none) ∧
    (steps ≠ [] → ∃ f ∈ t.myCore.vecs, f.id = s.nextId ∧ f.load = load ∧ f.kind = kind ∧ f.steps = steps ∧ f.data = data ∧ f.groups = act ∧
      (load = true → f.place = p ∧ f.seq = seq)) ∧
    (steps = [] → load = false → Now s t (.acknowledgement ⟨s.cur.core, s.cur.slot, s.nextId⟩)) ∧
    (steps = [] → load = true → ⟨s.now + 4 * Config.cycle, .fill ⟨⟨s.cur.core, s.cur.slot, s.nextId⟩, [.vector p seq data act]⟩⟩ ∈ t.agenda)

/-! ## Page 1: loads, stores, presence forms, atomics, the fence and bundles -/

/-- Loads (R265 to R269, R143): where nothing holds the access and no check of R265 stops it, it goes to its home. The `.bv` form reads under a view-table
entry. -/
def Claim.Loads : Prop :=
  ∀ (s : State) (m : Mods) (b : SReg) (q : Bool) (off : BitVec 40) (x : MemX) (sz : BitVec 2) (u : Word),
    guardHolds m s.me = true → s.peek b = .ok u →
    let ea := u + off.signExtend 64
    let n := 2 ^ sz.toNat
    let base : Plan := { ea := ea, op := .load n, ord := loadOrder x, x := x, takes := [(b, q)] }
    (∀ a, let p := { base with fills := [a] }
      Sends s p → Ends (.ld m ⟨sz, a, b, q, off, none, x⟩) m s (s.advance.launch p)) ∧
    (∀ a c v, s.peek c = .ok v →
      let p := { base with fills := [a], op := .viewLoad n (viewRef s.cur.core (v.toNat % 16) (s.myCore.view (v.toNat % 16))),
                           takes := [(b, q), (c, false)], entry := some (v, false), fractured := viewFr (s.myCore.view (v.toNat % 16)) != 0 }
      Sends s p → Ends (.ld m ⟨sz, a, b, q, off, some c, x⟩) m s (s.advance.launch p)) ∧
    (∀ a c, let p := { base with fills := [a, c], op := .loadTag n, presence := true }
      Sends s p → Ends (.ldt m ⟨sz, a, b, q, off, c, x⟩) m s (s.advance.launch p)) ∧
    (∀ a, let p := { base with fills := [a], op := .loadFull n, presence := true }
      Sends s p → Ends (.ldf m ⟨sz, a, b, q, off, x⟩) m s (s.advance.launch p)) ∧
    (∀ a, let p := { base with fills := [a], op := .loadFullClear n, presence := true }
      Sends s p → Ends (.ldfe m ⟨sz, a, b, q, off, x⟩) m s (s.advance.launch p))

/-- Stores and the presence marks (R139, R265 to R267): the data is read with the base, and the `.bv` form writes under a view-table entry. -/
def Claim.Stores : Prop :=
  ∀ (s : State) (m : Mods) (b : SReg) (q : Bool) (off : BitVec 40) (x : MemX) (sz : BitVec 2) (u : Word),
    guardHolds m s.me = true → s.peek b = .ok u →
    let ea := u + off.signExtend 64
    let n := 2 ^ sz.toNat
    (∀ a v, s.peek a = .ok v →
      let base : Plan := { ea := ea, op := .store n v, ord := storeOrder x, x := x, takes := [(b, q), (a, false)], writes := true }
      (Sends s base → Ends (.st m ⟨sz, a, b, q, off, none, x⟩) m s (s.advance.launch base)) ∧
      (let p := { base with op := .storeEmpty n v, presence := true }
       Sends s p → Ends (.stef m ⟨sz, a, b, q, off, x⟩) m s (s.advance.launch p)) ∧
      (∀ c w, s.peek c = .ok w →
        let p := { base with op := .bundleStore n v (viewRef s.cur.core (w.toNat % 16) (s.myCore.view (w.toNat % 16))),
                             takes := [(b, q), (a, false), (c, false)], entry := some (w, true) }
        Sends s p → Ends (.st m ⟨sz, a, b, q, off, some c, x⟩) m s (s.advance.launch p))) ∧
    (let base : Plan := { ea := ea, op := .setFull, ord := storeOrder x, x := x, takes := [(b, q)], writes := true, presence := true, anyByte := true }
     (Sends s base → Ends (.setf m ⟨b, q, off, x⟩) m s (s.advance.launch base)) ∧
     (let p := { base with op := .setEmpty }
      Sends s p → Ends (.sete m ⟨b, q, off, x⟩) m s (s.advance.launch p)))

/-- Atomics (R235, R270): the operand is in a, which the old value fills; `cas` compares with a and writes c. -/
def Claim.Atomics : Prop :=
  ∀ (s : State) (m : Mods) (a b : SReg) (q : Bool) (off : BitVec 40) (x : MemX) (u v : Word),
    guardHolds m s.me = true → s.peek b = .ok u → s.peek a = .ok v →
    let base : Plan := { ea := u + off.signExtend 64, op := .amo .swap 4 v, ord := atomicOrder x, x := x, fills := [a],
                         takes := [(b, q), (a, false)], presence := true, writes := true }
    (Sends s base → Ends (.amoSwapW m ⟨a, b, q, off, x⟩) m s (s.advance.launch base)) ∧
    (let p := { base with op := .amo .swap 8 v }
     Sends s p → Ends (.amoSwapD m ⟨a, b, q, off, x⟩) m s (s.advance.launch p)) ∧
    (∀ (k : AmoKind) (op : BitVec 3) (dbl : Bool), [AmoKind.add, .and, .or, .xor, .min, .max, .minu, .maxu][op.toNat]? = some k →
      let p := { base with op := .amo k (if dbl then 8 else 4) v }
      Sends s p → Ends (.amoOp m ⟨op, dbl, a, b, q, off, x⟩) m s (s.advance.launch p)) ∧
    (∀ c w, s.peek c = .ok w →
      (let p := { base with op := .cas 4 v w, takes := [(b, q), (a, false), (c, false)] }
       Sends s p → Ends (.casW m ⟨a, b, q, off, c, x⟩) m s (s.advance.launch p)) ∧
      (let p := { base with op := .cas 8 v w, takes := [(b, q), (a, false), (c, false)] }
       Sends s p → Ends (.casD m ⟨a, b, q, off, c, x⟩) m s (s.advance.launch p)))

namespace Sys2Proof.Claim

/-- The access that a form of page 1 describes, once its operands can be read (R265 to R270). -/
def accessOf (s : State) (i : Instr) : Option (Mods × Plan) :=
  let read (r : SReg) : Option Word := match s.peek r with | .ok v => some v | _ => none
  let load (m : Mods) (b : SReg) (q : Bool) (off : BitVec 40) (x : MemX) (fills : List SReg) (op : MemOp) (presence : Bool) : Option (Mods × Plan) :=
    (read b).map fun u => (m, { ea := u + off.signExtend 64, op := op, ord := loadOrder x, x := x, fills := fills, takes := [(b, q)], presence := presence })
  let store (m : Mods) (a b : SReg) (q : Bool) (off : BitVec 40) (x : MemX) (op : Word → MemOp) (presence : Bool) : Option (Mods × Plan) :=
    (read b).bind fun u => (read a).map fun v =>
      (m, { ea := u + off.signExtend 64, op := op v, ord := storeOrder x, x := x, takes := [(b, q), (a, false)], presence := presence, writes := true })
  let mark (m : Mods) (o : OpSet) (op : MemOp) : Option (Mods × Plan) :=
    (read o.b).map fun u => (m, { ea := u + o.off.signExtend 64, op := op, ord := storeOrder o.x, x := o.x, takes := [(o.b, o.q)], presence := true,
                                  writes := true, anyByte := true })
  let atomic (m : Mods) (a b : SReg) (q : Bool) (off : BitVec 40) (x : MemX) (more : List SReg) (op : Word → Option MemOp) : Option (Mods × Plan) :=
    (read b).bind fun u => (read a).bind fun v => (op v).map fun op =>
      (m, { ea := u + off.signExtend 64, op := op, ord := atomicOrder x, x := x, fills := [a], takes := [(b, q), (a, false)] ++ more.map fun c => (c, false),
            presence := true, writes := true })
  let entry (w : Word) : ViewRef := viewRef s.cur.core (w.toNat % 16) (s.myCore.view (w.toNat % 16))
  match i with
  | .ld m ⟨sz, a, b, q, off, none, x⟩ => load m b q off x [a] (.load (2 ^ sz.toNat)) false
  | .ld m ⟨sz, a, b, q, off, some c, x⟩ =>
    (read c).bind fun w => (load m b q off x [a] (.viewLoad (2 ^ sz.toNat) (entry w)) false).map fun p =>
      (p.1, { p.2 with takes := [(b, q), (c, false)], entry := some (w, false), fractured := viewFr (s.myCore.view (w.toNat % 16)) != 0 })
  | .ldt m o => load m o.b o.q o.off o.x [o.a, o.c] (.loadTag (2 ^ o.sz.toNat)) true
  | .ldf m o => load m o.b o.q o.off o.x [o.a] (.loadFull (2 ^ o.sz.toNat)) true
  | .ldfe m o => load m o.b o.q o.off o.x [o.a] (.loadFullClear (2 ^ o.sz.toNat)) true
  | .st m ⟨sz, a, b, q, off, none, x⟩ => store m a b q off x (.store (2 ^ sz.toNat)) false
  | .st m ⟨sz, a, b, q, off, some c, x⟩ =>
    (read c).bind fun w => (store m a b q off x (fun v => .bundleStore (2 ^ sz.toNat) v (entry w)) false).map fun p =>
      (p.1, { p.2 with takes := [(b, q), (a, false), (c, false)], entry := some (w, true) })
  | .stef m o => store m o.a o.b o.q o.off o.x (.storeEmpty (2 ^ o.sz.toNat)) true
  | .setf m o => mark m o .setFull
  | .sete m o => mark m o .setEmpty
  | .amoSwapW m o => atomic m o.a o.b o.q o.off o.x [] fun v => some (.amo .swap 4 v)
  | .amoSwapD m o => atomic m o.a o.b o.q o.off o.x [] fun v => some (.amo .swap 8 v)
  | .amoOp m o => atomic m o.a o.b o.q o.off o.x [] fun v =>
      ([AmoKind.add, .and, .or, .xor, .min, .max, .minu, .maxu][o.op.toNat]?).map fun k => .amo k (if o.dbl then 8 else 4) v
  | .casW m o => atomic m o.a o.b o.q o.off o.x [o.c] fun v => (read o.c).map fun w => .cas 4 v w
  | .casD m o => atomic m o.a o.b o.q o.off o.x [o.c] fun v => (read o.c).map fun w => .cas 8 v w
  | _ => none

end Sys2Proof.Claim

/-- The checks of R265 and R449 on an access of page 1, in their order (R90, R93, R110, R137, R265, R384, R449): a bad address, a misaligned one, the bulk
aperture, a device without a path, a control register that is not 8 bytes, is not there, that a user may not read or write, or that a presence form names,
an offset in no line of a versioned window, a destination that is not in normal mode, a view entry that is not the thread's, and a store or wait form to a
versioned line. -/
def Claim.AccessTraps : Prop :=
  ∀ (s : State) (i : Instr) (m : Mods) (p : Plan), accessOf s i = some (m, p) → guardHolds m s.me = true →
    let h := homeOf s.cur.core p.ea
    let off := offsetOf p.ea
    let ctl : Prop := h = .own ∧ 2 ^ 20 ≤ off
    let dev := devOf (coreNamed p.ea)
    let named : Prop := ctl → (p.size = 8 ∨ p.anyByte = true) ∧ ctlAssigned s.cur.core off = true
    let allowed : Prop := ctl → (s.me.sup = true ∨ (if p.writes then userWrites off else userReads off) = true) ∧ p.presence = false
    let normal : Prop := ∀ r ∈ p.fills, (s.me.reg r.toNat).mode = 0
    MayGo s p.ord h (if p.posted h then 1 else 0) → (s.cur.slot = 15 → h = .own) →
    (∀ d, h = .other d → p.posted h = true →
      s.me.mayCount s.storesOut d (((s.hub (devOf s.cur.core)).choosePath d).getD 0) p.ord.ordered = true) →
    (addrOk p.ea = false → Traps i s 6 p.ea 0) ∧
    (addrOk p.ea = true → (p.ea.toNat % p.size ≠ 0 → Traps i s 7 p.ea 0) ∧
      (p.ea.toNat % p.size = 0 →
        (isFabric p.ea = false → isBulk p.ea = true → Traps i s 8 p.ea 0) ∧
        (isFabric p.ea = true → dev ≠ devOf s.cur.core → s.myRoutes.getLsbD dev = false → Traps i s 9 p.ea dev) ∧
        (ctl → p.size ≠ 8 → p.anyByte = false → Traps i s 7 p.ea 0) ∧
        (ctl → p.size = 8 ∨ p.anyByte = true → ctlAssigned s.cur.core off = false → Traps i s 6 p.ea 0) ∧
        (h = .own → named → s.myCore.windowHole off = true → Traps i s 6 p.ea 0) ∧
        (ctl → named → s.myCore.windowHole off = false → s.me.sup = false → (if p.writes then userWrites off else userReads off) = false →
          Traps i s 3 p.ea 0) ∧
        (ctl → named → s.myCore.windowHole off = false → (s.me.sup = true ∨ (if p.writes then userWrites off else userReads off) = true) →
          p.presence = true → Traps i s 6 p.ea 0) ∧
        (h = .own → named → s.myCore.windowHole off = false → allowed →
          (∀ r, (p.fills.find? fun r => (s.me.reg r.toNat).mode != 0) = some r → Traps i s 5 0 r.toNat) ∧
          (∀ v w, normal → p.entry = some (v, w) → s.entryOk p.entry = false → Traps i s 13 0 v.toNat) ∧
          (normal → s.entryOk p.entry = true → meetsWindow p.op = true → (s.myCore.lineAt off).isSome = true → Traps i s 12 p.ea 0))))

/-- What holds an access of page 1 back (R28, R113, R115, R116, R118, R121, R122, R349): an earlier access, of a plain one any, of a relaxed one a plain
one or eight; an acquire; for a release the accesses that it waits for; 64 accesses on the core; a journal or an ordering record without room; and posted
accesses of before a restore. A held instruction has no effect. It is held before its checks (the model's choice, log 41). -/
def Claim.AccessIsHeld : Prop :=
  ∀ (s : State) (i : Instr) (m : Mods) (p : Plan), accessOf s i = some (m, p) → guardHolds m s.me = true →
    let h := homeOf s.cur.core p.ea
    s.cur.slot ≠ 15 ∨ h = .own →
    ((p.ord.relaxed = false ∧ s.me.live ≠ []) ∨ (p.ord.relaxed = true ∧ (8 ≤ s.me.live.length ∨ ∃ a ∈ s.me.live, a.relaxed = false)) ∨
      (∃ a ∈ s.me.live, a.bars h = true) ∨ (∃ a ∈ s.me.out, a.awaited p.ord.rel = true) ∨ 64 ≤ s.myCore.liveCount ∨
      (p.posted h = true ∧ ¬ FreeEntries s 1) ∨ s.priorInFlight = true ∨
      ∃ d, h = .other d ∧ p.posted h = true ∧
        s.me.mayCount s.storesOut d (((s.hub (devOf s.cur.core)).choosePath d).getD 0) p.ord.ordered = false) →
    exec i s = .next (s.suspend .access)

/-- What sending an access leaves (R28 to R30, R100, R110, R113, R116): a load begins the fills of its registers and its thread goes on; a store to the own
tile store goes on with its access outstanding, and asks its bank, or waits at the core behind the thread's accesses to the same granule; a store elsewhere
that is not posted holds its thread and consumes nothing yet; a posted one takes a journal entry and goes on. No byte of memory and no other thread
changes. -/
def Claim.AccessLeaves : Prop :=
  ∀ (s : State) (p : Plan), (∀ x ∈ p.takes, (s.me.reg x.1.toNat).mode = 0) → let t := s.launch p
    let h := homeOf s.cur.core p.ea
    (∀ a, memByte t.mem a = memByte s.mem a) ∧ (∀ c k, (c ≠ s.cur.core ∨ k ≠ s.cur.slot) → t.slot c k = s.slot c k) ∧ t.me.pred = s.me.pred ∧
    (p.storing = false → t.me.st = s.me.st ∧ t.me.pc = s.me.pc ∧ t.me.out.length = s.me.out.length + 1 ∧
      (∀ r ∈ p.fills, (t.me.reg r.toNat).full = false ∧ (t.me.reg r.toNat).pend = true) ∧
      (∀ r : SReg, r ∉ p.fills → (r, true) ∉ p.takes → t.me.reg r.toNat = s.me.reg r.toNat)) ∧
    (p.storing = true → h = .own → offsetOf p.ea < 2 ^ 20 → t.me.st = s.me.st ∧ t.me.out.length = s.me.out.length + 1 ∧
      (p.ord.ordered = false →
        let r : Req := { src := ⟨s.cur.core, s.cur.slot, s.nextId⟩, asid := s.me.asid, sup := s.me.sup, addr := p.ea, op := p.op }
        let b := p.ea.toNat % 2 ^ 20 / 2 ^ 16
        let before := s.meeting (cellNumbers p.ea p.size)
        (before = [] → t.myCore.bankq.get [] b = s.myCore.bankq.get [] b ++ [{ req := r, prio := 4, since := s.now }]) ∧
        (before ≠ [] → t.myCore.heldBack = s.myCore.heldBack ++ [⟨r, [], before, none⟩]))) ∧
    (p.storing = true → h ≠ .own → p.posted h = false → t.me.st = .held ∧ t.me.pc = s.cur.addr ∧ t.me.out.length = s.me.out.length + 1 ∧
      ∀ n, t.me.reg n = s.me.reg n) ∧
    (p.posted h = true → t.me.st = s.me.st ∧ t.me.out.length = s.me.out.length + 1 ∧ (∀ j, s.myCore.freeEntry = some j →
      field (t.myCore.jrn j) 0 1 = 1 ∧ field (t.myCore.jrn j) 1 2 = 0 ∧ field (t.myCore.jrn j) 3 4 = s.cur.slot % 16 ∧
      field (t.myCore.jrn j) 64 64 = p.ea.toNat ∧ field (t.myCore.jrn j) 128 64 = (journalData p.op).toNat))

/-- fence (R120, R123, R271): with no mask, or an empty one, it waits for everything; it performs no access. -/
def Claim.FenceForm : Prop :=
  ∀ (s : State) (m : Mods) (o : OpFence) (k : BitVec 5), guardHolds m s.me = true → (o.mask = some k ∧ k ≠ 0 ∨ (o.mask.getD 0 = 0 ∧ k = 31)) →
    (Released s k → Ends (.fence m o) m s s.advance) ∧ (¬ Released s k → exec (.fence m o) s = .next (s.suspend .access))

/-- view, bopen and bopen.j (R137, R138, R143): sa awaits the result; with a free entry of the view table the request goes to the record's core, and without
one the answer is status 2. -/
def Claim.BundleOpens : Prop :=
  ∀ (s : State) (m : Mods) (o : OpAB) (v : Word), guardHolds m s.me = true → s.cur.slot ≠ 15 → s.peek o.b = .ok v → Alone s →
    isFabric v = true → addrOk v = true → v.toNat % 64 = 0 → Route s v → (homeOf s.cur.core v = .own → offsetOf v < 2 ^ 20) →
    (s.me.reg o.a.toNat).mode = 0 →
    (∀ i, FreeView s i → Ends (.view m o) m s (opened s o v .view i) ∧ Ends (.bopen m o) m s (opened s o v .bopen i) ∧
      Ends (.bopenJ m o) m s (opened s o v .bopenJ i)) ∧
    ((∀ i, i < 16 → (s.myCore.view i).getLsbD 0 = true ∨ (s.myCore.notes.get {} i).pending = true) →
      Ends (.view m o) m s (answeredHere s o v (resultWord 0 2 0) []) ∧ Ends (.bopen m o) m s (answeredHere s o v (resultWord 0 2 0) []) ∧
      Ends (.bopenJ m o) m s (answeredHere s o v (resultWord 0 2 0) []))

/-- vclose, bcommit and babort (R138, R144, R433): an entry of another kind is answered with status 12 at once; a closing, a commit with no access outstanding
and an abort go to the record's core; while an earlier access is outstanding each is Held, and then an index that is no valid entry of the slot traps. -/
def Claim.BundleCloses : Prop :=
  ∀ (s : State) (m : Mods) (o : OpAB) (v : Word), guardHolds m s.me = true → s.cur.slot ≠ 15 → s.peek o.b = .ok v →
    let e := s.myCore.view v.toNat
    let note := s.myCore.notes.get {} v.toNat
    let ok : Prop := v.toNat < 16 ∧ e.getLsbD 0 = true ∧ viewSlot e = s.cur.slot
    (s.me.live ≠ [] → exec (.vclose m o) s = .next (s.suspend .access) ∧ exec (.bcommit m o) s = .next (s.suspend .access) ∧
      exec (.babort m o) s = .next (s.suspend .access)) ∧
    (s.me.live = [] → ¬ ok → Traps (.vclose m o) s 13 0 v.toNat ∧ Traps (.bcommit m o) s 13 0 v.toNat ∧ Traps (.babort m o) s 13 0 v.toNat) ∧
    (ok → Alone s → s.me.out = [] → (s.me.reg o.a.toNat).mode = 0 →
      (e.getLsbD 1 = true → e.getLsbD 2 = true →
        Ends (.vclose m o) m s (answeredHere s o (viewRecord e) (resultWord v.toNat 12 (field e 36 24)) []) ∧
        Ends (.bcommit m o) m s (closing s o .bcommit v e (viewFr e)) ∧ Ends (.babort m o) m s (closing s o .babort v e (b2n note.lost))) ∧
      ((e.getLsbD 1 = false ∨ e.getLsbD 2 = false) →
        Ends (.bcommit m o) m s (answeredHere s o (viewRecord e) (resultWord v.toNat 12 (field e 36 24)) []) ∧
        Ends (.babort m o) m s (answeredHere s o (viewRecord e) (resultWord v.toNat 12 (field e 36 24)) [])) ∧
      (e.getLsbD 1 = true → e.getLsbD 2 = false → Ends (.vclose m o) m s (closing s o .vclose v e (viewFr e))) ∧
      (e.getLsbD 1 = false → note.released = false → Ends (.vclose m o) m s (closing s o .vclose v e (viewFr e))) ∧
      (e.getLsbD 1 = false → note.released = true →
        Ends (.vclose m o) m s (answeredHere s o (viewRecord e)
          (resultWord v.toNat (if viewFr e = 0 then 0 else 8 + viewFr e) (field e 36 24)) [.free v.toNat])))

/-! ## Page 5: handles -/

/-- hcfg, hexpect, hexpect.a and harr (R170 to R172): a handle is configured when it is idle, and a barrier form's change joins those of its cycle; a handle
that is not a configured barrier traps. -/
def Claim.HandleForms : Prop :=
  ∀ (s : State) (m : Mods), guardHolds m s.me = true →
    (∀ (o : OpHb) (v : Word), s.peek o.b = .ok v → let t := s.advance.consume [(o.b, o.q)]
      let x := t.myCore.handle o.h.toNat
      (v.toNat < 2 ^ 17 → v.toNat / 2 % 2 ^ 7 = 0 → v.getLsbD 0 = true ∨ v.toNat / 2 ^ 8 % 2 ^ 8 ≠ 0 → x.arr = 0 → x.pend = 0 →
        ¬ (x.buffer = true ∧ x.bst ≠ 0) → t.handleBusy s.cur.core o.h.toNat = false →
        Ends (.hcfg m o) m s ((t.modMyCore fun k => k.setHandle o.h.toNat { x with
          buffer := v.getLsbD 0, tgt := v.toNat / 2 ^ 8 % 2 ^ 8, f := false, fc := 0, arr := 0, pend := 0, hv := false, bst := 0,
          seq := if v.getLsbD 16 then 0 else x.seq }).evalHandle s.cur.core o.h.toNat)) ∧
      (v.toNat < 2 ^ 47 → x.buffer = false → x.tgt ≠ 0 →
        Ends (.hexpect m o) m s (t.changeHandle s.cur.core (handleChange s o.h (.expect v.toNat))) ∧
        (Released t 9 → Ends (.hexpectA m o) m s (t.changeHandle s.cur.core (handleChange s o.h (.arriveExpect v.toNat))))) ∧
      (v.toNat < 2 ^ 47 → x.buffer = true ∨ x.tgt = 0 → Traps (.hexpect m o) s 15 0 o.h.toNat)) ∧
    (∀ o : OpH, Released s 9 → (s.myCore.handle o.h.toNat).buffer = false → (s.myCore.handle o.h.toNat).tgt ≠ 0 →
      Ends (.harr m o) m s (s.advance.changeHandle s.cur.core (handleChange s o.h .arrive)))

/-- hwait.p, hwait.s, hacq and hrel (R38, R173 to R175): a condition that holds ends the wait at once; otherwise the thread waits at the handle; a handle that
has faulted traps with its code; a full handle is taken and, when given back, free. -/
def Claim.HandleWaits : Prop :=
  ∀ (s : State) (m : Mods), guardHolds m s.me = true → s.cur.slot ≠ 15 →
    (∀ (o : OpHb) (v : Word), s.peek o.b = .ok v → let x := s.myCore.handle o.h.toNat
      let past : Prop := 0 ≤ (x.seq - v.setWidth 32).toInt
      (x.f = true → Traps (.hwaitP m o) s 16 0 (o.h.toNat + x.fc * 2 ^ 8) ∧ Traps (.hwaitS m o) s 16 0 (o.h.toNat + x.fc * 2 ^ 8)) ∧
      (x.f = false → x.seq.getLsbD 0 ≠ v.getLsbD 0 → Ends (.hwaitP m o) m s (s.advance.consume [(o.b, o.q)])) ∧
      (x.f = false → x.seq.getLsbD 0 = v.getLsbD 0 → Ends (.hwaitP m o) m s (waitsAt s m o.h 0 (v.setWidth 32) [(o.b.toNat, o.q)])) ∧
      (x.f = false → past → Ends (.hwaitS m o) m s (s.advance.consume [(o.b, o.q)])) ∧
      (x.f = false → ¬ past → Ends (.hwaitS m o) m s (waitsAt s m o.h 1 (v.setWidth 32) [(o.b.toNat, o.q)]))) ∧
    (∀ o : OpH, let x := s.myCore.handle o.h.toNat
      (x.buffer = true → x.f = false → x.bst = 2 →
        Ends (.hacq m o) m s (s.advance.modMyCore fun k => k.setHandle o.h.toNat { x with bst := 3, hslot := s.cur.slot, hv := true })) ∧
      (x.buffer = true → x.f = false → x.bst < 2 → Ends (.hacq m o) m s (waitsAt s m o.h 2 0 [])) ∧
      (x.buffer = false → Traps (.hacq m o) s 15 0 o.h.toNat) ∧
      (x.buffer = true → x.bst = 3 → x.hv = true → x.hslot = s.cur.slot → Released s 3 →
        Ends (.hrel m o) m s ((s.advance.modMyCore fun k => k.setHandle o.h.toNat { x with bst := 0, hv := false }).evalHandle s.cur.core o.h.toNat)) ∧
      (¬ (x.buffer = true ∧ x.bst = 3 ∧ x.hv = true ∧ x.hslot = s.cur.slot) → Traps (.hrel m o) s 15 0 o.h.toNat))

/-- What the changes of a handle do (R169, R171, R172, R175, R336): arrivals and expected bytes are added while they fit; a copy's bytes are subtracted, and the
last byte of a filling buffer fills it; a change out of range faults the handle with code 6, and a fault once set keeps its code; a barrier whose arrivals
are all there, with nothing pending, begins its next phase. -/
def Claim.HandleChanges : Prop :=
  ∀ (x : Handle),
    (x.buffer = false → x.tgt ≠ 0 → x.arr < x.tgt → -(2 ^ 47) ≤ x.pend → x.pend < 2 ^ 47 →
      (x.change .arrive).h = { x with arr := x.arr + 1 } ∧ (x.change .arrive).bad = false) ∧
    (∀ n : Nat, x.buffer = false → x.tgt ≠ 0 → x.arr ≤ x.tgt → -(2 ^ 47) ≤ x.pend → x.pend + n < 2 ^ 47 →
      (x.change (.expect n)).h = { x with pend := x.pend + n } ∧ (x.change (.expect n)).bad = false) ∧
    (∀ n : Nat, x.f = false → (x.tgt < x.arr + 1 ∨ x.buffer = true ∨ x.tgt = 0 ∨ 2 ^ 47 ≤ x.pend + n) →
      (x.change (.arriveExpect n)).h = { x with f := true, fc := 6 } ∧ (x.change (.arriveExpect n)).bad = true) ∧
    (∀ n : Nat, -(2 ^ 47) ≤ x.pend - n → x.pend - n < 2 ^ 47 →
      (x.change (.subtract n)).h = if x.buffer = true ∧ x.bst = 1 ∧ x.pend = n then { x with pend := 0, bst := 2, seq := x.seq + 1 }
        else { x with pend := x.pend - n }) ∧
    (x.change .dead).h = (if x.f then x else { x with f := true, fc := 7 }) ∧
    (x.buffer = false → (x.change .complete).h = { x with arr := 0, pend := 0, seq := x.seq + 1 }) ∧
    (x.buffer = true → x.bst = 1 → (x.change .complete).h = { x with pend := 0, bst := 2, seq := x.seq + 1 }) ∧
    (x.buffer = true → x.bst ≠ 1 → (x.change .complete).h = x ∧ (x.change .complete).status = 1) ∧
    x.evaluate = (if x.buffer = false ∧ x.tgt ≠ 0 ∧ x.arr = x.tgt ∧ x.pend = 0 then { x with seq := x.seq + 1, arr := 0 } else x)

/-- HANDLE_EVALUATION and REMOTE_HANDLE_ARRIVAL (R171, R174, R415): the cycle's changes of the handle are applied, it is evaluated once, and its waits are
looked at; a change from another core that the admit list passes joins its cycle, one that is not admitted is refused where it has a reply, and one whose
ASID has moved goes on; while an evacuation freezes the core it comes again later (R213). -/
def Claim.HandleEvents : Prop :=
  ∀ (s : State),
    (∀ c h, s.event = some (.handleEvaluation c h) → (∀ w ∈ (s.core c).hwaiters, w.h ≠ h) →
      (∀ p ∈ (s.core c).hpending, p.h = h → p.reply = none) → NoneBad ((s.core c).handle h) (inOrder ((s.core c).hpending.filter fun p => p.h == h)) →
      ∃ u, exec .handleEvaluation s = .next u ∧ (u.core c).handle h = (applied ((s.core c).handle h) (inOrder ((s.core c).hpending.filter fun p => p.h == h))).evaluate ∧
        (u.core c).hpending = ((s.core c).hpending.filter fun p => p.h != h) ∧ (∀ g, g ≠ h → (u.core c).handle g = (s.core c).handle g) ∧
        (∀ d, d ≠ c → u.core d = s.core d) ∧ ∀ a, memByte u.mem a = memByte s.mem a) ∧
    (∀ m : HandleMsg, s.event = some (.remoteHandleArrival m) → (s.core m.core).frozen = true → m.src.core ≠ m.core →
      exec .remoteHandleArrival s = .next (({ s with event := none } : State).after busyTime (.remoteHandleArrival m))) ∧
    (∀ m : HandleMsg, s.event = some (.remoteHandleArrival m) → (s.core m.core).frozen = false ∨ m.src.core = m.core →
      ((s.core m.core).gate m.core m.asid m.sup = .pass → exec .remoteHandleArrival s = .next (({ s with event := none } : State).changeHandle m.core
        { h := m.h, rank := 1, change := m.change, slot := none, asid := m.asid, reply := m.reply.map fun r => (m.src, r.1, r.2) })) ∧
      (∀ d, (s.core m.core).gate m.core m.asid m.sup = .onward d →
        exec .remoteHandleArrival s = .next (({ s with event := none } : State).send m.core d (.remoteHandleArrival { m with core := d }))) ∧
      ((s.core m.core).gate m.core m.asid m.sup = .refused → m.reply.isSome → exec .remoteHandleArrival s =
        .next (({ s with event := none } : State).send m.core m.src.core (.refusal m.src 10))))

/-! ## Page 5: shapes, copies, streams and the matrix unit -/

/-- shape (R151, R152, R154, R310): the record takes the 32 bytes at the address with the element size, once they pass the checks; a record that does not pass
traps and is unchanged. -/
def Claim.ShapeForm : Prop :=
  ∀ (s : State) (m : Mods) (o : OpShape) (u : Word), guardHolds m s.me = true → s.peek o.b = .ok u → Alone s →
    let ea := u + o.off.signExtend 64
    let k : Shape := ⟨BitVec.ofNat 256 (leNat (s.bytes (tileKey s.cur.core (offsetOf ea)) 32)), o.esz.toNat⟩
    addrOk ea = true → homeOf s.cur.core ea = .own → offsetOf ea + 32 ≤ 2 ^ 20 →
    (ea.toNat % 32 ≠ 0 → Traps (.shape m o) s 7 ea 0) ∧
    (∀ k, ea.toNat % 32 = 0 → s.readCause s.cur.core (offsetOf ea) 32 = some k → Traps (.shape m o) s k ea 0) ∧
    (ea.toNat % 32 = 0 → s.readCause s.cur.core (offsetOf ea) 32 = none →
      (o.esz.toNat ≥ 6 ∨ (∃ d, d < 4 ∧ k.count d = 0) → Traps (.shape m o) s 14 0 o.k.toNat) ∧
      (o.esz.toNat < 6 → (∀ d, d < 4 → k.count d ≠ 0) → k.bytes ≤ 2 ^ 40 → (∀ d, d < 4 → k.count d ≤ 1 ∨ k.stride d % k.size = 0) →
        Ends (.shape m o) m s ((s.advance.consume [(o.b, o.q)]).modMyCore fun x => { x with shapes := x.shapes.put o.k.toNat k })))

/-- cp, cp.d, cp.bv, cpx and cpx.d (R149, R155, R159, R175, R311): a copy whose checks pass is accepted when the queue, its handle and the releases it is allow
it, and is otherwise held as a push at the instruction. -/
def Claim.CopyForms : Prop :=
  ∀ (s : State) (m : Mods), guardHolds m s.me = true →
    (∀ o : OpCp, Pushed s.advance m (.cp m o) s { instr := .cp m o, kd := o.kd, ks := o.ks, h := o.h } ∧
      Pushed s.advance m (.cpD m o) s { instr := .cpD m o, kd := o.kd, ks := o.ks, h := o.h, onDest := true }) ∧
    (∀ (o : OpCpc) (v : Word), s.peek o.c = .ok v →
      Pushed s.advance m (.cpBv m o) s { instr := .cpBv m o, kd := o.kd, ks := o.ks, h := o.h, view := some v, takes := [(o.c, false)] } ∧
      Pushed s.advance m (.cpx m o) s { instr := .cpx m o, kd := o.kd, ks := o.ks, h := o.h, desc := some v, takes := [(o.c, false)] } ∧
      Pushed s.advance m (.cpxD m o) s { instr := .cpxD m o, kd := o.kd, ks := o.ks, h := o.h, onDest := true, desc := some v, takes := [(o.c, false)] })

/-- An accepted copy (R149, R156, R175): it is in the engine with all its lines before it, a local buffer that it names begins to fill, and its first line
follows in a cycle; no memory and no thread changes. -/
def Claim.AcceptedCopy : Prop :=
  ∀ (s : State) (c : Nat) (x : Copy), let t := s.acceptCopy c x
    (t.core c).copies = (s.core c).copies ++ [x] ∧ (t.core c).copyq = (s.core c).copyq ++ [x.id] ∧
    t.agenda = agendaAdd ⟨s.now + Config.cycle, .copyTransferLine c x.id 0 true none⟩ s.agenda ∧
    (t.core c).handle x.h = (if x.hcore = c ∧ ((s.core c).handle x.h).buffer = true ∧ x.onDest = false
      then { (s.core c).handle x.h with bst := 1, pend := x.total } else (s.core c).handle x.h) ∧
    (∀ h, h ≠ x.h → (t.core c).handle h = (s.core c).handle h) ∧ (∀ d, d ≠ c → t.core d = s.core d) ∧ (∀ n, t.slot c n = s.slot c n) ∧
    ∀ a, memByte t.mem a = memByte s.mem a

/-- stream and unstream (R31, R166 to R168, R312): the register becomes a stream register, empty, over the shape as it is now, and its handle fills; at the end
it is a normal register again, empty, and its handle free. -/
def Claim.StreamForms : Prop :=
  ∀ (s : State) (m : Mods), guardHolds m s.me = true →
    (∀ o : OpStrS, (s.me.reg o.a.toNat).mode = 0 → StreamOk s o.ks o.h → (s.myCore.shape o.ks.toNat).esz < 4 → MayPush s → s.myCore.copyq.length < 16 →
      Ends (.streamScalar m o) m s ((streaming s o.a.toNat false o.ks o.h).modMe fun t =>
        t.modReg o.a.toNat fun r => { r with mode := 1, full := false, pend := false, failed := false })) ∧
    (∀ (o : OpStrV) (p : Nat), s.me.place o.a.toNat = some p → VecUp s [o.a] → (s.myCore.vreg p).stream = false → StreamOk s o.ks o.h →
      (s.myCore.shape o.ks.toNat).bytes % 256 = 0 → MayPush s → s.myCore.copyq.length < 16 →
      Ends (.streamVector m o) m s ((streaming s p true o.ks o.h).modMyCore fun k =>
        k.setVreg p { k.vreg p with stream := true, full := false, pend := false, failed := false })) ∧
    (∀ (o : OpA) (x : Stream), (s.me.reg o.a.toNat).mode = 1 → s.myCore.streamAt s.cur.slot o.a.toNat false = some x →
      Ends (.unstreamScalar m o) m s ((s.advance.modMyCore fun k => k.endStream x).evalHandle s.cur.core x.h)) ∧
    (∀ (o : OpV) (p : Nat) (x : Stream), s.me.place o.a.toNat = some p → (s.myCore.vreg p).stream = true → s.myCore.streamAt s.cur.slot p true = some x →
      Ends (.unstreamVector m o) m s ((s.advance.modMyCore fun k => k.endStream x).evalHandle s.cur.core x.h)) ∧
    (∀ o : OpA, (s.me.reg o.a.toNat).mode ≠ 1 → Traps (.unstreamScalar m o) s 5 0 o.a.toNat)

/-- mxs and mxr (R84, R314, R315, R321): a packet from s8 to s15 joins the queue and takes its accumulator bank; a header that breaks a rule traps, and so does
a bank held by another thread; `mxr` waits in sa for the next status; a supervisor core has no matrix unit. -/
def Claim.MatrixForms : Prop :=
  ∀ (s : State) (m : Mods), guardHolds m s.me = true →
    (isSuper s.cur.core = true → Traps (.mxs m) s 1 0 (leNat (s.bytes (tileKey s.cur.core (s.cur.next - 2)) 2))) ∧
    (∀ w8 w9 w10 w11 w12 w13 w14 w15 : Word, isSuper s.cur.core = false → (∀ i, 8 ≤ i → i < 16 → (s.me.reg i).mode = 0) →
      s.peek 8 = .ok w8 → s.peek 9 = .ok w9 → s.peek 10 = .ok w10 → s.peek 11 = .ok w11 → s.peek 12 = .ok w12 → s.peek 13 = .ok w13 →
      s.peek 14 = .ok w14 → s.peek 15 = .ok w15 →
      let pkt := [w8, w9, w10, w11, w12, w13, w14, w15].flatMap fun v => natLe 8 v.toNat
      (headerOk pkt = false → Traps (.mxs m) s 23 0 (w8.toNat % 2 ^ 8)) ∧
      (headerOk pkt = true → s.myCore.matrix.queue.length < 8 → s.mayPush 4 = true →
        (namesAcc pkt = true → s.myCore.accHeld (pktAcc pkt) s.cur.slot = true → Traps (.mxs m) s 24 0 (pktAcc pkt)) ∧
        (namesAcc pkt = false ∨ s.myCore.accHeld (pktAcc pkt) s.cur.slot = false → Ends (.mxs m) m s (queued s pkt))) ∧
      (headerOk pkt = true → s.myCore.matrix.queue.length ≥ 8 ∨ s.mayPush 4 = false → Ends (.mxs m) m s (heldPush s.advance s .matrix (.mxs m)))) ∧
    (∀ o : OpA, isSuper s.cur.core = false → (s.me.reg o.a.toNat).mode = 0 → Alone s → Ends (.mxr m o) m s (asked s o.a))

/-! ## Page 6: threads, tasks, links, identity -/

/-- yield, park, tick, selfid, rdsw, wrsw and fitw (R38, R177, R323, R329, R330): `park` passes on a wake bit, which it clears, and otherwise waits at the
instruction; `wrsw` writes FLUSH only. -/
def Claim.ThreadForms : Prop :=
  ∀ (s : State) (m : Mods), guardHolds m s.me = true →
    Ends (.yield m) m s (s.advance.modMe fun t => { t with yielded := true }) ∧
    (s.cur.slot ≠ 15 → s.me.wake = true → Ends (.park m) m s (s.advance.modMe fun t => { t with wake := false })) ∧
    (s.cur.slot ≠ 15 → s.me.wake = false → Ends (.park m) m s
      (s.advance.modMe fun t => { t with st := .waiting, why := .park, resume := some (s.cur.next, m.sw), pc := s.cur.addr })) ∧
    (∀ o : OpA, s.takesWrite o.a →
      Ends (.tick m o) m s (outDone s o.a (bare (BitVec.ofNat 64 (s.hub (devOf s.cur.core)).time))) ∧
      Ends (.selfid m o) m s (outDone s o.a (bare (identity s.cur.core s.cur.slot s.me.asid))) ∧
      Ends (.rdsw m o) m s (outDone s o.a (bare (s.me.status.setWidth 64)))) ∧
    (∀ (o : OpB) (v : Word) (w : BitVec 32), s.peek o.b = .ok v →
      (∀ i, i < 32 → w.getLsbD i = if i = 0 then v.getLsbD 0 else s.me.status.getLsbD i) →
      Ends (.wrsw m o) m s ((s.advance.consume [(o.b, o.q)]).modMe fun t => { t with status := w })) ∧
    (∀ (o : OpB) (v : Word) (w : BitVec 33), s.peek o.b = .ok v → Alone s →
      (∀ i, i < 33 → w.getLsbD i = if i = 32 then true else v.getLsbD i) →
      Ends (.fitw m o) m s (((s.advance.consume [(o.b, o.q)]).modMyCore fun k => { k with fit := w }).fitChanged))

/-- quit (R42, R145, R209): with every access complete, the entries close, the slot is given back and a task ends at its TCB; in the service slot it
ends the handler, whose posted stores are still awaited. While an access is outstanding it is Held. -/
def Claim.QuitForm : Prop :=
  ∀ (s : State) (m : Mods), guardHolds m s.me = true →
    (s.me.pendingAccess = false → s.cur.slot ≠ 15 → Ends (.quit m) m s
      ((((s.advance.closeEntries s.cur.core s.cur.slot).freeSlot s.cur.core s.cur.slot).endTask s.cur.core s.cur.slot s.advance.me
        s.me.faultAtQuit).kickAll s.cur.core)) ∧
    (s.me.pendingAccess = false → s.cur.slot = 15 →
      let t := s.advance.modMyCore fun k => { k with
        handler := none, orphans := k.orphans ++ (k.slot 15).out.filter (fun a => a.jrn.isSome),
        slots := k.slots.put 15 { orders := (k.slot 15).orders } }
      Ends (.quit m) m s (if s.myCore.service = [] then t else t.modMyCore Core.ungate)) ∧
    (s.me.pendingAccess = true → exec (.quit m) s = .next (s.suspend .access))

/-- What a freed slot leaves (R36, R42, R168, R175): the slot Free with only its ordering counts, no bank and no accumulator of it held, none of its streams
(nor their places in the copy queue) and waits, and the core looks for a thread; no memory and no other core changes. -/
def Claim.FreedSlot : Prop :=
  ∀ (s : State) (c n : Nat), let t := s.freeSlot c n
    (∃ os, t.slot c n = { orders := os }) ∧ (∀ b, ((t.core c).bank b).holder ≠ some n) ∧ (∀ b, ((t.core c).acc b).holder ≠ some n) ∧
    (∀ w ∈ (t.core c).hwaiters, w.slot ≠ n) ∧
    (∀ x ∈ (t.core c).streams, x.slot ≠ n ∧ x ∈ (s.core c).streams) ∧
    (∀ x ∈ (s.core c).streams, x.slot = n → x.id ∉ (t.core c).copyq) ∧
    Sys2Proof.Claim.Now s t (.dispatch c) ∧ (∀ x ∈ s.agenda, x ∈ t.agenda) ∧ (∀ d, d ≠ c → t.core d = s.core d) ∧ ∀ a, memByte t.mem a = memByte s.mem a

/-- wake (R323, R211): on the own core it takes effect at once, on another it is posted with a journal entry; a bad operand traps. -/
def Claim.WakeForm : Prop :=
  ∀ (s : State) (m : Mods) (o : OpB) (v : Word), guardHolds m s.me = true → s.peek o.b = .ok v → isFabric v = true → addrOk v = true →
    (v.toNat / 16 % 2 ^ 17 ≠ 0 → Traps (.wake m o) s 6 v 0) ∧
    (v.toNat / 16 % 2 ^ 17 = 0 → coreNamed v = s.cur.core →
      Ends (.wake m o) m s ((s.advance.consume [(o.b, o.q)]).wakeSlot (wakeOf s.cur.core (v.toNat % 16)))) ∧
    (v.toNat / 16 % 2 ^ 17 = 0 → coreNamed v ≠ s.cur.core → Route s v → Alone s → FreeEntries s 1 →
      Ends (.wake m o) m s (wakePosted s o v))

/-- What a wake does at its slot (R38, R211, R323): a parked thread goes on behind its `park`; any other thread keeps the wake bit; a Free slot counts
it. -/
def Claim.WakeAtASlot : Prop :=
  ∀ (s : State) (m : WakeMsg), let x := s.slot m.core m.slot
    let t := s.wakeSlot m
    x.saved = false →
      (x.st = .free → t = s.modCore m.core fun k => k.count 7) ∧
      (x.st ≠ .free → ¬ (x.st = .waiting ∧ x.why = .park) → t.slot m.core m.slot = { x with wake := true }) ∧
      (∀ pc sw, x.st = .waiting → x.why = .park → x.resume = some (pc, sw) → x.stopped = false → x.saving = false → x.throttled = false →
        x.pendingAccess = false → (t.slot m.core m.slot).st = .ready ∧ (t.slot m.core m.slot).pc = pc ∧ (t.slot m.core m.slot).resume = none) ∧
      (∀ n, n ≠ m.slot → t.slot m.core n = s.slot m.core n) ∧ ∀ a, memByte t.mem a = memByte s.mem a

/-- spawn, tenq and tdep (R199, R200, R322, R327): the request leaves, and the thread is Held until its answer. -/
def Claim.SpawnTenqTdep : Prop :=
  ∀ (s : State) (m : Mods), guardHolds m s.me = true → s.cur.slot ≠ 15 → Alone s →
    (∀ (o : OpAB) (a b x4 x5 x6 x7 : Word), s.peek o.a = .ok a → s.peek o.b = .ok b → s.peek 4 = .ok x4 → s.peek 5 = .ok x5 → s.peek 6 = .ok x6 →
      s.peek 7 = .ok x7 → isFabric a = true → addrOk a = true → offsetOf a % 2 = 0 → offsetOf a < 2 ^ 16 → b.toNat < 8 →
      (b.getLsbD 2 = true → s.me.sup = true) → Route s a → Ends (.spawn m o) m s (spawnSent s o a b [x4, x5, x6, x7])) ∧
    (∀ (o : OpAB) (v : Word), (s.me.reg o.a.toNat).mode = 0 → s.peek o.b = .ok v → TcbNamed s v → Ends (.tenq m o) m s (tenqSent s o v)) ∧
    (∀ (o : OpB) (v : Word), s.peek o.b = .ok v → TcbNamed s v → Ends (.tdep m o) m s (tdepSent s o v))

/-- mig (R43, R324): to the own core it only consumes its operand; to another one the thread, which must hold nothing it cannot take along, becomes
Departing with the context that goes on behind the instruction; while an access is outstanding it is Held. -/
def Claim.MigrateForm : Prop :=
  ∀ (s : State) (m : Mods) (o : OpB) (v : Word), guardHolds m s.me = true → s.cur.slot ≠ 15 → s.peek o.b = .ok v → isFabric v = true →
    addrOk v = true → Route s v →
    (s.myCore.tiedDown s.cur.slot = true → Traps (.mig m o) s 25 v 0) ∧
    (s.myCore.tiedDown s.cur.slot = false → (∀ i, i < 16 → (s.me.reg i).mode = 0) →
      (s.me.out ≠ [] → exec (.mig m o) s = .next (s.suspend .access)) ∧
      (s.me.out = [] → s.me.push = none → (∀ e ∈ s.me.regs, e.2.pend = false) →
        (coreNamed v = s.cur.core → Ends (.mig m o) m s (s.advance.consume [(o.b, o.q)])) ∧
        (coreNamed v ≠ s.cur.core → Ends (.mig m o) m s (s.advance.depart v { (s.advance.consume [(o.b, o.q)]).me with pc := s.cur.next }))))

/-- link (R206, R207, R325): sense 0 unbinds, 1 binds a register to receive and 2 to send; a direction takes one register of each sense. -/
def Claim.LinkForm : Prop :=
  ∀ (s : State) (m : Mods) (o : OpLink), guardHolds m s.me = true → s.cur.slot ≠ 15 → o.wf = true →
    let n := o.a.toNat
    let r := s.me.reg n
    let dir := o.idx.toNat % 4
    (o.idx.toNat / 4 = 0 → (r.mode = 2 ∨ r.mode = 3) → r.dir = dir →
      Ends (.link m o) m s (s.advance.modMe fun t => t.setReg n { r with mode := 0, full := false, pend := false })) ∧
    (o.idx.toNat / 4 = 0 → ¬ ((r.mode = 2 ∨ r.mode = 3) ∧ r.dir = dir) → Traps (.link m o) s 20 0 dir) ∧
    (∀ sense, o.idx.toNat / 4 = sense → sense = 1 ∨ sense = 2 → r.mode = 0 → isCompute s.cur.core = true →
      s.advance.myCore.boundTo dir (sense + 1) = false → (sense = 2 → (s.core (neighbour s.cur.core dir)).lists s.me.asid = true) →
      Ends (.link m o) m s (s.advance.modMe fun t =>
        t.setReg n { r with mode := sense + 1, dir := dir, full := false, pend := false, failed := false })) ∧
    (o.idx.toNat / 4 ≠ 0 → r.mode ≠ 0 → Traps (.link m o) s 5 0 n)

/-- amsg, bar, popq and popmig (R188, R189, R204, R209, R326, R328). -/
def Claim.MessagesAndBarriers : Prop :=
  ∀ (s : State) (m : Mods), guardHolds m s.me = true → s.cur.slot ≠ 15 →
    (∀ (o : OpB) (v x4 x5 x6 x7 : Word), s.peek o.b = .ok v → s.peek 4 = .ok x4 → s.peek 5 = .ok x5 → s.peek 6 = .ok x6 → s.peek 7 = .ok x7 →
      isFabric v = true → addrOk v = true → offsetOf v < 2 ^ 16 → offsetOf v % 2 = 0 → Route s v → Alone s → FreeEntries s 2 →
        Ends (.amsg m o) m s (amsgPosted s o v [x4, x5, x6, x7])) ∧
    (s.me.gang = true → Released s 9 → (s.myCore.handle s.me.hb).f = false → s.me.barSeq = none →
      Ends (.bar m) m s
        (let h := s.myCore.handle s.me.hb
         ((s.advance.tell s.cur.core (coreNamed s.me.work) (.barrierArrival ⟨s.cur.core, s.cur.slot, 0⟩ s.me.work s.me.asid)).modMe
           fun t => { t with barSeq := some h.seq.toNat }).waitAt { h := s.me.hb, slot := s.cur.slot, kind := 1, v := h.seq + 1 } m.sw)) ∧
    (s.me.gang = false → Traps (.bar m) s 22 0 0) ∧
    (∀ (o : OpAB) (v : Word), (s.me.reg o.a.toNat).mode = 0 → s.peek o.b = .ok v → Alone s →
      (v.toNat < 256 → Ends (.popq m o) m s (s.advance.askHub (devOf s.cur.core) 0 (.popq v.toNat) (some o.a) [(o.b, o.q)])) ∧
      (v.toNat % 32 = 0 → v.toNat < 2 ^ 20 → s.readCause s.cur.core v.toNat 32 = none →
        let d := s.bytes (tileKey s.cur.core v.toNat) 32
        imageAt d 0 2 < 256 → Ends (.popmig m o) m s (s.advance.askHub (devOf s.cur.core) 0 (.popmig d) (some o.a) [(o.b, o.q)])))

/-! ## Exceptions and page 7 -/

/-- Taking an exact trap while the queue has room (R382 to R388): the slot stops at the instruction, Held; the record's fields; the receiver is the
handler in slot 14 when the routing gives it the record, and otherwise a supervisor core by a notice; no memory, and no other thread than the handler,
changes. -/
def Claim.ExactTrapEntry : Prop :=
  ∀ (s : State) (c n pc cause : Nat) (addr : Word) (aux : Nat),
    (s.core c).traps.count < 31 → (s.core c).traps.waiting = [] → ¬ (n = 14 ∧ (s.slot c n).traph = true) →
    let t := s.takeTrap c n pc cause addr aux
    let at_ := ((s.core c).traps.head + (s.core c).traps.count) % 32
    let e := (t.core c).traps.ring.get 0 at_
    let toHandler := (s.core c).trapctl.getLsbD 0 = true ∧ n ≠ 14 ∧ (s.slot c 14).st ≠ .free ∧ (s.slot c 14).traph = true ∧
      (s.slot c 14).asid = (s.slot c n).asid
    (t.slot c n).stopped = true ∧ (t.slot c n).pc = pc ∧ (t.slot c n).st = .held ∧ (t.slot c n).regs = (s.slot c n).regs ∧
    (t.slot c n).pred = (s.slot c n).pred ∧
    (t.core c).traps.count = (s.core c).traps.count + 1 ∧ (t.core c).traps.head = (s.core c).traps.head ∧
    field e 0 6 = cause % 64 ∧ field e 6 2 = 0 ∧ field e 8 4 = n % 16 ∧ field e 12 1 = 1 ∧ field e 14 1 = 0 ∧
    field e 16 14 = (s.slot c n).asid % 2 ^ 14 ∧ field e 32 48 = pc % 2 ^ 48 ∧ field e 128 64 = addr.toNat ∧ field e 192 32 = aux % 2 ^ 32 ∧
    field e 224 32 = s.timeOf (devOf c) % 2 ^ 32 ∧
    (toHandler → field e 13 1 = 0 ∧ (t.slot c 14) = (s.slot c 14).woken ∧ t.agenda = s.agenda) ∧
    (¬ toHandler → field e 13 1 = 1 ∧ (n ≠ 14 → t.slot c 14 = s.slot c 14)) ∧
    (∀ d k, (d ≠ c ∨ (k ≠ n ∧ k ≠ 14)) → t.slot d k = s.slot d k) ∧ ∀ a, memByte t.mem a = memByte s.mem a

/-- An exact trap of the job's trap handler itself is a fatal record with cause 41 that names the cause (R388); a record that finds only the reserve
free waits at its source, and is counted (R386); a fatal one that finds all 32 entries held, a fatal one among them, waits too and halts the core, with a
machine check (R386, R389). -/
def Claim.TrapsOfTheHandlerAndFullQueues : Prop :=
  ∀ (s : State) (c n pc cause : Nat) (addr : Word) (aux : Nat),
    ((s.slot c 14).traph = true → (s.core c).traps.count < 32 →
      let e := ((s.takeTrap c 14 pc cause addr aux).core c).traps.ring.get 0 (((s.core c).traps.head + (s.core c).traps.count) % 32)
      field e 0 6 = 41 ∧ field e 6 2 = 3 ∧ field e 192 32 = cause % 2 ^ 32 ∧ field e 32 48 = pc % 2 ^ 48) ∧
    (¬ (n = 14 ∧ (s.slot c n).traph = true) → 31 ≤ (s.core c).traps.count →
      let t := s.takeTrap c n pc cause addr aux
      (t.core c).traps.waiting.length = (s.core c).traps.waiting.length + 1 ∧ (t.core c).traps.ring = (s.core c).traps.ring ∧
      (t.core c).traps.waits = min ((s.core c).traps.waits + 1) 65535 ∧ (t.slot c n).stopped = true) ∧
    ((s.slot c 14).traph = true → 32 ≤ (s.core c).traps.count →
      let t := s.takeTrap c 14 pc cause addr aux
      (t.core c).traps.waiting.length = (s.core c).traps.waiting.length + 1 ∧ (t.core c).traps.fatal = true ∧ (t.core c).halted = true ∧
      (t.slot c 14).stopped = true ∧ (t.hub (devOf c)).machineChecks = (s.hub (devOf c)).machineChecks ++ [c])

/-- Returning from an exact trap (R332, R386, R388): the record at the head leaves the queue, the reserve is free again, and the slot that it names, where STOP
says that it is stopped, goes on at the
record's PC with its registers, predicates and status as they were; where a later record's STOP names the slot too, this one is history (R398). An empty queue
changes nothing. -/
def Claim.ReturnFromTrap : Prop :=
  ∀ (s : State) (c : Nat), let q := (s.core c).traps
    let e := q.ring.get 0 q.head
    let n := field e 8 4
    let later := ((List.range (q.count - 1)).map fun i => q.ring.get 0 ((q.head + 1 + i) % 32)) ++ q.waiting
    let history : Prop := ∃ x ∈ later, field x 12 1 = 1 ∧ field x 8 4 = n
    let t := s.returnFromTrap c
    (q.count = 0 → t = s) ∧
    (q.count ≠ 0 → (t.core c).traps.count = q.count - 1 ∧ (t.core c).traps.head = (q.head + 1) % 32 ∧ (t.core c).traps.ring = q.ring ∧
      (∀ d k, (d ≠ c ∨ k ≠ n) → t.slot d k = s.slot d k) ∧ (∀ a, memByte t.mem a = memByte s.mem a) ∧
      (t.slot c n).regs = (s.slot c n).regs ∧ (t.slot c n).pred = (s.slot c n).pred ∧ (t.slot c n).status = (s.slot c n).status ∧
      (field e 12 1 = 1 → (s.slot c n).stopped = true → ¬ history → (t.slot c n).stopped = false ∧ (t.slot c n).pc = field e 32 48) ∧
      (t.core c).traps.reserve = false ∧ (field e 12 1 = 0 ∨ (s.slot c n).stopped = false ∨ history → t.slot c n = s.slot c n))

/-- trap, tret and halt (R332): `trap` takes its exact trap with the immediate at any privilege; `tret` returns from the record at the head; `halt` stops
issue and dispatch and gates the clock. -/
def Claim.TrapTretHalt : Prop :=
  ∀ (s : State) (m : Mods), guardHolds m s.me = true →
    (∀ o : OpTrap, Traps (.trap m o) s 28 (o.imm.signExtend 64) 0) ∧
    (s.me.sup = true →
      Ends (.tret m) m s ((s.advance.returnFromTrap s.cur.core).modMyCore Core.ungate) ∧
      Ends (.halt m) m s (s.advance.modMyCore fun k => { k with halted := true, running := false }))

/-- crd and cwr of a core's and of a hub's register (R331, R93): the request leaves, and the thread is Held until the answer. -/
def Claim.ControlRegisterRequests : Prop :=
  ∀ (s : State) (m : Mods) (o : OpAB) (v : Word), Priv s m → Alone s → s.peek o.b = .ok v → Route s v →
    (CoreRegister s v →
      ((s.me.reg o.a.toNat).mode = 0 → Ends (.crd m o) m s (s.advance.askCore v .ctlRead (some o.a) [(o.b, o.q)])) ∧
      (∀ x, s.peek o.a = .ok x → Ends (.cwr m o) m s (s.advance.askCore v (.ctlWrite x) none [(o.b, o.q), (o.a, false)]))) ∧
    (HubRegister v →
      ((s.me.reg o.a.toNat).mode = 0 → Ends (.crd m o) m s (s.advance.askHub (devNamed v) v (.crd (offsetOf v)) (some o.a) [(o.b, o.q)])) ∧
      (∀ x, s.peek o.a = .ok x →
        Ends (.cwr m o) m s (s.advance.askHub (devNamed v) v (.cwr (offsetOf v) x) none [(o.b, o.q), (o.a, false)])))

/-- The forms that ask the hub (R147, R178 to R180, R202, R213, R215, R333 to R337): bankpw, xinv, snap, evac, fwd, glaunch, popcfg, popstep and
attest. -/
def Claim.HubRequests : Prop :=
  ∀ (s : State) (m : Mods), Priv s m → Alone s →
    (∀ (o : OpAB) (x v : Word), s.peek o.a = .ok x → s.peek o.b = .ok v →
      (CoreNamed s x → v.toNat < 2 ^ 11 →
        Ends (.bankpw m o) m s (s.advance.askHub (devNamed x) x (.bankpw (coreNamed x) v) none [(o.b, o.q), (o.a, false)])) ∧
      (v.toNat < 2 ^ 16 → (v.getLsbD 14 = true ∨ v.getLsbD 15 = true ∨ (isFabric x = false ∧ addrOk x = true)) →
        Ends (.xinv m o) m s (s.advance.askHub (devOf s.cur.core) x (.xinv x (v.toNat % 2 ^ 14) (v.getLsbD 14) (v.getLsbD 15)) none
          [(o.b, o.q), (o.a, false)]))) ∧
    (∀ (o : OpAB) (v : Word), (s.me.reg o.a.toNat).mode = 0 → s.peek o.b = .ok v →
      (Block s v 64 → Ends (.snap m o) m s (s.advance.askHub (devOf s.cur.core) v (.snap v) (some o.a) [(o.b, o.q)])) ∧
      (v.toNat < 2 ^ 9 →
        Ends (.popstep m o) m s (s.advance.askHub (devOf s.cur.core) 0 (.popstep (v.toNat % 256) (v.getLsbD 8)) (some o.a) [(o.b, o.q)])) ∧
      (isFabric v = true → addrOk v = true → v.toNat % 64 = 0 → Route s v →
        Ends (.attest m o) m s (s.advance.askHub (devOf s.cur.core) v (.attest v) (some o.a) [(o.b, o.q)]))) ∧
    (∀ (o : OpABC) (x y : Word), (s.me.reg o.a.toNat).mode = 0 → s.peek o.b = .ok x → s.peek o.c = .ok y →
      let takes := [(o.b, o.q), (o.c, false)]
      (CoreNamed s x → coreAddrOk s.cur.core y = true →
        Ends (.evac m o) m s (s.advance.askHub (devNamed x) x (.evac x y) (some o.a) takes)) ∧
      (isFabric x = true → addrOk x = true → Route s x →
        Ends (.glaunch m o) m s (s.advance.askHub (devOf s.cur.core) x (.glaunch x y.toNat) (some o.a) takes)) ∧
      (Block s x 64 → y.toNat < 256 → Ends (.popcfg m o) m s (s.advance.askHub (devOf s.cur.core) x (.popcfg x y.toNat) (some o.a) takes))) ∧
    (∀ (o : OpBC) (x v : Word), s.peek o.b = .ok x → s.peek o.c = .ok v → CoreNamed s x → v.toNat / 16 % 2 ^ 12 = 0 →
      Ends (.fwd m o) m s (s.advance.askHub (devNamed x) x (.fwd (coreNamed x) (v.toNat % 16) (v >>> 16)) none [(o.b, o.q), (o.c, false)]))

/-- What a request to a hub does at once (R28, R309, R331): the thread is Held at the instruction, its destination is empty with a new fill sequence, the
access is outstanding with what it will consume, and one flit leaves a compute core by its hub port; nothing else changes. -/
def Claim.HubRequestLeaves : Prop :=
  ∀ (s : State) (addr : Word) (ask : HubAsk) (a : SReg) (takes : List (SReg × Bool)), isCompute s.cur.core = true →
    let d := devOf s.cur.core
    let t := s.askHub d addr ask (some a) takes
    t.me.st = .held ∧ t.me.pc = s.cur.addr ∧ (t.me.reg a.toNat).full = false ∧ (t.me.reg a.toNat).pend = true ∧
    (t.me.reg a.toNat).seq = ((s.me.reg a.toNat).seq + 1) % 8 ∧ (∀ j, j ≠ a.toNat → t.me.reg j = s.me.reg j) ∧ t.me.pred = s.me.pred ∧
    t.me.out.length = s.me.out.length + 1 ∧ t.nextId = s.nextId + 1 ∧
    (t.router s.cur.core).inject = (s.router s.cur.core).inject ++
      [{ dst := hubOf d, router := hubPort s.cur.core, src := s.cur.core, hub := true,
         ev := .hubRequest ⟨⟨s.cur.core, s.cur.slot, s.nextId⟩, d, s.me.asid, s.me.sup, ask, some (a.toNat, ((s.me.reg a.toNat).seq + 1) % 8)⟩ }] ∧
    t.hubs = s.hubs ∧ (∀ c k, (c ≠ s.cur.core ∨ k ≠ s.cur.slot) → t.slot c k = s.slot c k) ∧ ∀ b, memByte t.mem b = memByte s.mem b

/-- hdead, hcomp and asid (R336, R338): a change of another core's handle leaves as a message, and `asid` gives the old identifier and takes the new
one. -/
def Claim.RemoteHandlesAndAsid : Prop :=
  ∀ (s : State) (m : Mods), Priv s m →
    (∀ (o : OpABH) (v : Word), Alone s → (s.me.reg o.a.toNat).mode = 0 → s.peek o.b = .ok v → CoreNamed s v →
      Ends (.hdead m o) m s (handleAsked s o v .dead) ∧ Ends (.hcomp m o) m s (handleAsked s o v .complete)) ∧
    (∀ (o : OpAB) (v : Word), s.takesWrite o.a → s.peek o.b = .ok v →
      (v.toNat < 2 ^ 14 → Ends (.asid m o) m s
        ((s.advance.result o.a [(o.b, o.q)] (bare (BitVec.ofNat 64 s.me.asid))).modMe fun t => { t with asid := v.toNat })) ∧
      (2 ^ 14 ≤ v.toNat → Traps (.asid m o) s 6 v 0))

/-! ## Events: what the model performs by itself -/

namespace Sys2Proof.Claim

/-- The step that performs the event takes s, which the event has left, to t; or to a state of which p holds. -/
def Occurs (i : Instr) (s : State) (e : Event) (t : State) : Prop := s.event = none → exec i { s with event := some e } = .next t
def Happens (i : Instr) (s : State) (e : Event) (p : State → Prop) : Prop :=
  s.event = none → ∃ t, exec i { s with event := some e } = .next t ∧ p t

/-- A record of this cause and class has entered the core's trap queue, or waits at its source (R386). -/
def Recorded (s t : State) (c cause cls : Nat) : Prop :=
  let q := (s.core c).traps
  (q.count < 31 → q.waiting = [] → (t.core c).traps.count = q.count + 1 ∧
    field ((t.core c).traps.ring.get 0 ((q.head + q.count) % 32)) 0 6 = cause ∧
    field ((t.core c).traps.ring.get 0 ((q.head + q.count) % 32)) 6 2 = cls) ∧
  (31 ≤ q.count ∨ q.waiting ≠ [] → (t.core c).traps.ring = q.ring ∧ (t.core c).traps.waiting.length = q.waiting.length + 1)

/-- A slot's access that an answer names. -/
def Asked (s : State) (a : Asker) (x : Sys2Proof.Machine.Acc) : Prop := s.accOf a = some x ∧ (s.slot a.core a.slot).saved = false ∧
  (s.slot a.core a.slot).st ≠ .free ∧ (s.slot a.core a.slot).transit = none ∧ x.owed = 0

/-- The access has left the thread's list. -/
def Gone (s t : State) (a : Asker) : Prop := (t.slot a.core a.slot).out = (s.slot a.core a.slot).out.filter fun y => y.id != a.id

/-- What an atomic leaves in its w bits, given what was there (R270). -/
def amoNew (k : AmoKind) (w : Nat) (u v : Word) : Nat :=
  let i (x : Word) : Int := (x.setWidth w).toInt
  let n (x : Word) : Nat := x.toNat % 2 ^ w
  match k with
  | .swap => n v | .add => (n u + n v) % 2 ^ w | .and => n u &&& n v | .or => n u ||| n v | .xor => n u ^^^ n v
  | .min => if i u ≤ i v then n u else n v | .max => if i v ≤ i u then n u else n v
  | .minu => if n u ≤ n v then n u else n v | .maxu => if n v ≤ n u then n u else n v

/-- t has these n bytes at a, its granule or word full, and every other byte and cell as it was. -/
def Stored (s t : State) (a n v : Nat) : Prop :=
  t.bytes a n = natLe n v ∧ (∀ b, (b < a ∨ a + n ≤ b) → memByte t.mem b = memByte s.mem b) ∧ (∀ d, t.present d a = true) ∧
  (∀ d b, cellKey b ≠ cellKey a → t.present d b = s.present d b) ∧ (∀ b, s.poisoned b = false → t.poisoned b = false)

/-- t differs from s in the presence of one cell only, as far as memory goes. -/
def OnlyMarks (s t : State) (a : Nat) (full : Bool) : Prop :=
  t.mem = s.mem ∧ t.poison = s.poison ∧ (∀ d, t.present d a = full) ∧ ∀ d b, cellKey b ≠ cellKey a → t.present d b = s.present d b

end Sys2Proof.Claim

/-- FILL, ACKNOWLEDGEMENT and REFUSAL at the issuer (R28, R30, R100, R101, R110, R391): a fill whose sequence is pending sets its register full and
completes the access, and any other is dropped and counted; an acknowledgement completes it, consumes what a held instruction reads and goes on behind it,
and frees its journal entry; a refusal fails the register, stops the held instruction, or marks the journal entry (both of an `amsg`'s), and an
acknowledgement that comes later is discarded (R431). An own core's loads and stores go on with their operands kept until the answer (the model's choice,
log 30). -/
def Claim.Answers : Prop :=
  ∀ (s : State) (a : Asker) (x : Sys2Proof.Machine.Acc), Asked s a x → let y := s.slot a.core a.slot
    let at_ (t : State) : Slot := t.slot a.core a.slot
    (x.jrn = none → x.hold = none →
      (∀ r v, (y.reg r).pend = true → Happens .fill s (.fill ⟨a, [.scalar r (y.reg r).seq v]⟩) fun t => Gone s t a ∧ SameMem s t ∧
        (at_ t).reg r = { y.reg r with v := v, full := true, failed := false, pend := false } ∧ ∀ j, j ≠ r → (at_ t).reg j = y.reg j) ∧
      (∀ r q v, ¬ ((y.reg r).pend = true ∧ (y.reg r).seq = q) → Happens .fill s (.fill ⟨a, [.scalar r q v]⟩) fun t => Gone s t a ∧ SameMem s t ∧
        (∀ j, (at_ t).reg j = y.reg j) ∧
        (t.core a.core).errcnt.get 0 4 = min ((s.core a.core).errcnt.get 0 4 + 1) (2 ^ 32 - 1)) ∧
      Happens .acknowledgement s (.acknowledgement a) (fun t => Gone s t a ∧ SameMem s t ∧ ∀ j, (at_ t).reg j = y.reg j) ∧
      (∀ r cause, x.regs = [(r, (y.reg r).seq, false, r)] → (y.reg r).pend = true → cause < 64 →
        Happens .refusal s (.refusal a cause) fun t => Gone s t a ∧ SameMem s t ∧ Recorded s t a.core cause 1 ∧
          (at_ t).reg r = { y.reg r with failed := true, pend := false } ∧ ∀ j, j ≠ r → (at_ t).reg j = y.reg j)) ∧
    (∀ h, x.jrn = none → x.hold = some h →
      ((∀ e ∈ h.takes, e.1 < 16 ∧ (y.reg e.1).mode = 0) → Happens .acknowledgement s (.acknowledgement a) fun t => Gone s t a ∧ SameMem s t ∧
        (at_ t).pc = h.next ∧ (at_ t).pred = y.pred ∧
        ∀ j, (at_ t).reg j = if (j, true) ∈ h.takes then { y.reg j with full := false } else y.reg j) ∧
      (∀ cause, h.old = none → cause < 64 → ¬ (a.slot = 14 ∧ y.traph = true) → Happens .refusal s (.refusal a cause) fun t => Gone s t a ∧ SameMem s t ∧
        (at_ t).stopped = true ∧ (at_ t).st = .held ∧ (at_ t).pc = h.addr ∧ (∀ j, (at_ t).reg j = y.reg j) ∧ Recorded s t a.core cause 0)) ∧
    (∀ j, x.jrn = some j → x.hold = none → field ((s.core a.core).jrn j) 1 2 ≠ 1 → Happens .acknowledgement s (.acknowledgement a) fun t => Gone s t a ∧
      (t.core a.core).jrn j = 0 ∧ (∀ i, x.jrn2 = some i → (t.core a.core).jrn i = 0) ∧
      ∀ i, i ≠ j → x.jrn2 ≠ some i → (t.core a.core).jrn i = (s.core a.core).jrn i) ∧
    (∀ j, x.jrn = some j → field ((s.core a.core).jrn j) 1 2 = 1 → Happens .acknowledgement s (.acknowledgement a) fun t =>
      (at_ t).out = y.out ∧ ∀ i, (t.core a.core).jrn i = (s.core a.core).jrn i) ∧
    (∀ j cause, x.jrn = some j → field ((s.core a.core).jrn j) 1 2 ≠ 1 → cause < 64 → Happens .refusal s (.refusal a cause) fun t => Recorded s t a.core 32 1 ∧
      field ((t.core a.core).jrn j) 1 2 = 1 ∧ field ((t.core a.core).jrn j) 46 6 = cause ∧
      field ((t.core a.core).jrn j) 64 192 = field ((s.core a.core).jrn j) 64 192 ∧ (at_ t).out = y.out ∧
      ∀ i, x.jrn2 = some i → field ((t.core a.core).jrn i) 1 2 = 1)

/-- BUSY (R342, R347, R96): what was turned away is sent again, over the fabric to another core, on whatever path its turn chooses, and to the own core
after 16 cycles (the model's choice, log 8); an access held at its own bank rejoins it, and an image goes again after 1 µs. -/
def Claim.BusyAnswers : Prop :=
  ∀ (s : State),
    (∀ r : Req, isFabric r.addr = true → coreNamed r.addr = r.src.core → Occurs .busy s (.busy (.req r)) (s.toBank r.src.core r 4)) ∧
    (∀ r : Req, isFabric r.addr = true → coreNamed r.addr ≠ r.src.core → devOf (coreNamed r.addr) = devOf r.src.core →
      Occurs .busy s (.busy (.req r)) (s.send r.src.core (coreNamed r.addr) (arrivalOf (coreNamed r.addr) r))) ∧
    (∀ r : Req, isFabric r.addr = true → devOf (coreNamed r.addr) ≠ devOf r.src.core → Occurs .busy s (.busy (.req r))
      (s.sendFar (devOf r.src.core) (devOf (coreNamed r.addr)) (arrivalOf (coreNamed r.addr) r) none none)) ∧
    (∀ r : Req, isFabric r.addr = false → Occurs .busy s (.busy (.req r)) (s.after stationTime (.translationRequest r))) ∧
    (∀ m : SpawnMsg, (m.src.core ≠ m.core → Occurs .busy s (.busy (.spawn m)) (s.sendBig m.src.core m.core Config.spawnFlits (.spawnRequest m))) ∧
      (m.src.core = m.core → Occurs .busy s (.busy (.spawn m)) (s.after (16 * Config.cycle) (.spawnRequest m)))) ∧
    (∀ m, Occurs .busy s (.busy (.image m)) (s.after Config.us (.migrationResend m))) ∧
    (∀ m : ActiveMsg, (m.src.core ≠ m.core → Occurs .busy s (.busy (.amsg m)) (s.sendBig m.src.core m.core Config.amsgFlits (.activeMessage m))) ∧
      (m.src.core = m.core → Occurs .busy s (.busy (.amsg m)) (s.after (16 * Config.cycle) (.activeMessage m)))) ∧
    (∀ m : WakeMsg, m.src.core ≠ m.core → Occurs .busy s (.busy (.wake m)) (s.send m.src.core m.core (.wakeMessage m))) ∧
    (∀ k a b, a ≠ b → Occurs .busy s (.busy (.openMsg k a b)) (s.send a b (.fabricOpen k a b))) ∧
    (∀ d (r : Req) counts e, homeOf r.src.core r.addr = .other e → Occurs .busy s (.busy (.ordered d r counts))
      (s.sendFar (devOf r.src.core) e (.orderedStore e r counts) none none 2)) ∧
    (∀ f, Occurs .busy s (.busy (.fill f)) (s.after busyTime (.fill f)))

/-- ORDERED_STORE and ORDERED_STORE_RELEASE (R128, R349, R350): a store whose counts are reached, and whose turn it is, goes on; another is held while the
table has room, and is answered busy while it is full; its release sends it to its core, where it frees the epoch's entries once it is performed.
JOURNAL_REPLAY and JOURNAL_CANCEL (R391): a replayed store goes out on its original terms; a cancelled one leaves its entry free. -/
def Claim.OrderedStoresAndReplay : Prop :=
  ∀ (s : State),
    (∀ d (r : Req) counts, let h := s.hub d
      let key := orderKey r.src.core r.src.slot
      let reached : Prop := (h.epochs.has key = false ∨ h.epochs.get 0 key = r.epoch) ∧ ∀ p, p < 4 → counts.getD p 0 ≤ (((h.orders.find? fun o =>
        o.dev == devOf r.src.core && o.core == r.src.core && o.slot == r.src.slot && o.epoch == r.epoch && o.path == p).map (·.n)).getD 0)
      (reached → Occurs .orderedStore s (.orderedStore d r counts) (s.after 0 (.orderedStoreRelease d r counts))) ∧
      (¬ reached → h.orders.length + h.heldOrders.length < 256 →
        Occurs .orderedStore s (.orderedStore d r counts) (s.modHub d fun h => { h with heldOrders := h.heldOrders ++ [(r, counts)] })) ∧
      (¬ reached → 256 ≤ h.orders.length + h.heldOrders.length →
        Occurs .orderedStore s (.orderedStore d r counts) (s.sendFar d (devOf r.src.core) (.busy (.ordered d r counts)) none none)) ∧
      ((∀ v, r.op ≠ .store 0 v) → Occurs .orderedStoreRelease s (.orderedStoreRelease d r counts) (s.send (hubOf d) (coreNamed r.addr)
        (.remoteWrite (coreNamed r.addr) { r with posted := false, ordered := true }))) ∧
      (∀ v, r.op = .store 0 v → h.heldOrders = [] → Occurs .orderedStoreRelease s (.orderedStoreRelease d r counts) (s.modHub d fun h => { h with
        orders := h.orders.filter fun o => !(o.dev == devOf r.src.core && o.core == r.src.core && o.slot == r.src.slot && o.epoch == r.epoch)
        epochs := h.epochs.put key ((r.epoch + 1) % 16) }))) ∧
    (∀ c j n (a : Sys2Proof.Machine.Acc), let e := (s.core c).jrn j
      let addr : Word := BitVec.ofNat 64 (field e 64 64)
      s.accOfEntry c j = some (n, a) → field e 0 1 = 1 →
      (a.jrn = some j → a.jrn2 = none → field e 1 2 = 2 → field e 9 3 = 0 → field e 12 2 ≠ 3 → homeOf c addr = .device →
        Occurs .journalReplay s (.journalReplay c j)
        ((s.modCore c fun k => k.setJrn j (setField e 1 2 2)).send c (coreNamed addr) (.remoteWrite (coreNamed addr)
          { src := ⟨c, n, a.id⟩, asid := field e 32 14, sup := a.sup, addr := addr,
            op := .store (2 ^ field e 7 2) (BitVec.ofNat 64 (field e 128 64)), posted := true, epoch := field e 19 4, path := field e 23 2 }))) ∧
      (field e 1 2 ≠ 2 → Occurs .journalReplay s (.journalReplay c j) s) ∧
      (field e 1 2 = 3 → field e 9 3 ≠ 5 → s.accOf ⟨c, n, a.id⟩ = some a → a.jrn = some j → a.hold = none → a.owed = 0 → a.home = .device →
        Happens .journalCancel s (.journalCancel c j) fun t => (t.core c).jrn j = 0 ∧ SameMem s t ∧
          (t.slot c n).out = (s.slot c n).out.filter (fun y => y.id != a.id) ∧ ((s.slot c n).task = true → (t.slot c n).faultAtQuit = 3)) ∧
      (field e 1 2 ≠ 3 → Occurs .journalCancel s (.journalCancel c j) s))

/-- What one access does at a place that is no versioned line (R95, R96, R269, R270, R423): the value it answers with, the bytes it leaves, the presence of its
granule or word, and when it waits; an access that meets poison is refused. -/
def Claim.AccessAtItsPlace : Prop :=
  ∀ (s : State) (p : Place) (asid n : Nat) (v : Word), MemOk s → p.line = none → n = 1 ∨ n = 2 ∨ n = 4 ∨ n = 8 → p.key % n = 0 →
    let a := p.key
    let u : Word := BitVec.ofNat 64 (leNat (s.bytes a n))
    let answers (op : MemOp) (value : Word) (q : State → Prop) : Prop := ∃ t, s.performAt p asid op = .done t value 0 0 ∧ q t
    (s.poisoned a = true → s.performAt p asid (.load n) = .refuse 29 ∧ (∀ k, s.performAt p asid (.amo k n v) = .refuse 29) ∧
      (n < cellSize a → s.performAt p asid (.store n v) = .refuse 29)) ∧
    (s.poisoned a = false →
      answers (.load n) u (fun t => t = s) ∧
      answers (.store n v) 0 (fun t => Stored s t a n v.toNat) ∧
      answers .setFull 0 (fun t => OnlyMarks s t a true) ∧ answers .setEmpty 0 (fun t => OnlyMarks s t a false) ∧
      (∀ k, answers (.amo k n v) u (fun t => Stored s t a n (amoNew k (8 * n) u v))) ∧
      (∀ w, (u.toNat = w.toNat % 2 ^ (8 * n) → answers (.cas n w v) u (fun t => Stored s t a n v.toNat)) ∧
        (u.toNat ≠ w.toNat % 2 ^ (8 * n) → answers (.cas n w v) u (fun t => OnlyMarks s t a true))) ∧
      (s.present p.dflt a = true → answers (.loadFull n) u (fun t => t = s) ∧ answers (.loadFullClear n) u (fun t => OnlyMarks s t a false) ∧
        s.performAt p asid (.storeEmpty n v) = .wait) ∧
      (s.present p.dflt a = false → s.performAt p asid (.loadFull n) = .wait ∧ s.performAt p asid (.loadFullClear n) = .wait ∧
        answers (.storeEmpty n v) 0 (fun t => Stored s t a n v.toNat)))

/-- BANK_ACCESS with one request (R95, R96, R100, R110, R218): a core's own request is performed and its answer is under way, held while it must wait, or
refused; an event that asked the bank is performed in the cycle of its grant (log 94); an empty bank does nothing. -/
def Claim.BankAccess : Prop :=
  ∀ (s : State) (c b : Nat) (x : BankReq), let k := s.core c
    let r := x.req
    let u : State := s.modCore c fun k => { k with bankq := k.bankq.drop b }
    let p := u.tilePlace c (offsetOf r.addr)
    (k.bankq.get [] b = [] → Occurs .bankAccess s (.bankAccess c b) s) ∧
    (∀ e, k.bankq.get [] b = [x] → k.clearing = [] → x.ev = some e →
      Occurs .bankAccess s (.bankAccess c b) (({ u with granted := u.granted ++ [e] } : State).after 0 e)) ∧
    (k.bankq.get [] b = [x] → k.clearing = [] → k.waiting = [] → x.ev = none → r.src.core = c → r.engine = false → r.posted = false → r.ordered = false →
      k.windowHole (offsetOf r.addr) = false →
      (∀ n v t value, r.op = .store n v → n ≠ 0 → u.performAt p r.asid r.op = .done t value 0 0 → k.snapshot = none →
        Occurs .bankAccess s (.bankAccess c b) (t.after 0 (.acknowledgement r.src))) ∧
      (∀ n t value, r.op = .load n ∨ r.op = .loadFull n ∨ r.op = .loadFullClear n → u.performAt p r.asid r.op = .done t value 0 0 →
        Occurs .bankAccess s (.bankAccess c b) (t.after (4 * Config.cycle) (.fill ⟨r.src, fillParts (t.regsOf r.src) [value, 0]⟩))) ∧
      (∀ n, r.op = .loadFull n ∨ r.op = .loadFullClear n → u.performAt p r.asid r.op = .wait → r.src.slot ≠ 15 →
        Occurs .bankAccess s (.bankAccess c b) (u.modCore c fun k => { k with waiting := [r] })) ∧
      (∀ n cause, r.op = .load n → u.performAt p r.asid r.op = .refuse cause →
        Occurs .bankAccess s (.bankAccess c b) (u.after 0 (.refusal r.src cause))))

/-- Requests at their home core (R94, R208, R110, R350, R391): a read, write or atomic joins the service queue, is answered busy while it is full or the
core is frozen, and is refused beyond the tile store, but for a supervisor core's access, which joins it too; `crd` and `cwr` act at once. The service slot
sends the head to its bank, or to the control register or window. A posted write of another device has its count's place when it joins the queue; one that
the ordering table has no room to count is answered busy (log 88), and one that stands for a cancelled store only counts. -/
def Claim.RemoteRequests : Prop :=
  ∀ (s : State) (c : Nat) (r : Req), let k := s.core c
    let far : Prop := r.posted = true ∧ devOf r.src.core ≠ devOf c
    let counts : Prop := ∃ v, r.op = .store 0 v
    let ctl : Prop := r.op = .ctlRead ∨ ∃ v, r.op = .ctlWrite v
    let roomy : Prop := ¬ counts ∧ (far → (s.hub (devOf c)).roomToCount r = true)
    let lies : Prop := offsetOf r.addr < 2 ^ 20 ∨ (r.sup = true ∧ isCompute r.src.core = false)
    let all (t : State) : Prop := Occurs .remoteRead s (.remoteRead c r) t ∧ Occurs .remoteWrite s (.remoteWrite c r) t ∧ Occurs .remoteAtomic s (.remoteAtomic c r) t
    let busy : State := s.send c r.src.core (.busy (.req r))
    (counts → Occurs .remoteWrite s (.remoteWrite c r) (s.countPosted (devOf c) r)) ∧
    (¬ counts → far → (s.hub (devOf c)).roomToCount r = false → Occurs .remoteWrite s (.remoteWrite c r) busy) ∧
    (roomy → lies → ¬ ctl → k.frozen = false → k.service.length < 64 →
      let joins (u : State) : State := u.modCore c fun k => ({ k with service := k.service ++ [Service.access r] }).ungate
      (¬ far → all (joins s)) ∧ (far → all (joins (s.modHub (devOf c) fun h => h.reserveCount r)))) ∧
    (roomy → lies → ¬ ctl → k.frozen = true ∨ 64 ≤ k.service.length → all busy) ∧
    (roomy → ctl → k.frozen = true → all busy) ∧
    (roomy → ctl → k.frozen = false → all (s.superCtl c r)) ∧
    (roomy → ¬ lies → ¬ ctl → r.src.core ≠ c → Occurs .remoteWrite s (.remoteWrite c r) (s.send c r.src.core (.refusal r.src 6))) ∧
    (∀ rest, k.service = Service.access r :: rest → let u := s.modCore c fun k => { k with service := rest }
      Occurs .serviceBuiltinAccess s (.serviceBuiltinAccess c) (if 2 ^ 20 ≤ offsetOf r.addr then u.superCtl c r else u.toBank c r 2))

/-- A supervisor core's access to another core's control registers (R93, R94, R331): a `crd` of an assigned register is answered with its value, a `cwr` is
written and acknowledged, and an address that is none is refused. -/
def Claim.ControlAccess : Prop :=
  ∀ (s : State) (c : Nat) (r : Req), let off := offsetOf r.addr
    let back (s : State) (e : Event) : State := s.send c r.src.core e
    r.src.core ≠ c → r.engine = false → r.posted = false → r.ordered = false →
      (r.op = .ctlRead → off % 8 = 0 → ctlAssigned c off = true →
        s.superCtl c r = back s (.fill ⟨r.src, fillParts (s.regsOf r.src) [s.ctlRead c off, 0]⟩)) ∧
      (∀ v, r.op = .ctlWrite v → off % 8 = 0 → ctlAssigned c off = true → off ≠ 0x100018 →
        s.superCtl c r = back (s.after 0 (ctlEvent c off v)) (.acknowledgement r.src)) ∧
      (r.op = .ctlRead ∨ (∃ v, r.op = .ctlWrite v) →
        (off % 8 ≠ 0 → s.superCtl c r = back s (.refusal r.src 7)) ∧
        (off % 8 = 0 → ctlAssigned c off = false → s.superCtl c r = back s (.refusal r.src 6)))

/-- WINDOW_METADATA_CLEARING_END, VWIN_WRITE and REGISTER_WRITE (R93, R133, R394). -/
def Claim.ControlWrites : Prop :=
  ∀ (s : State) (c : Nat) (v : Word), let k := s.core c
    (∀ i, k.waiting = [] → Occurs .windowMetadataClearingEnd s (.windowMetadataClearingEnd c i)
      (s.modCore c fun k => { k with clearing := k.clearing.filter (· != i) })) ∧
    (∀ i, v.getLsbD 0 = false → Happens .vwinWrite s (.vwinWrite c i v) fun t => SameMem s t ∧
      ((t.core c).vwin.get 0 i).getLsbD 0 = false ∧ field ((t.core c).vwin.get 0 i) 12 8 = field v 12 8 ∧ field ((t.core c).vwin.get 0 i) 32 13 = field v 32 13) ∧
    (∀ i, field v 32 13 = 0 ∨ 7281 < field v 32 13 ∨ 2 ^ 20 < field v 12 8 * 4096 + 144 * field v 32 13 →
      Happens .vwinWrite s (.vwinWrite c i v) fun t => SameMem s t ∧ ((t.core c).vwin.get 0 i).getLsbD 0 = false) ∧
    (∀ i, v.getLsbD 0 = true → field v 32 13 ≠ 0 → field v 32 13 ≤ 7281 → field v 12 8 * 4096 + 144 * field v 32 13 ≤ 2 ^ 20 →
      (k.vwin.get 0 (1 - i)).getLsbD 0 = false → (k.vwin.get 0 i).getLsbD 0 = false → k.snapshot = none → MemOk s →
      Happens .vwinWrite s (.vwinWrite c i v) fun t => ((t.core c).vwin.get 0 i).getLsbD 0 = true ∧ (t.core c).clearing = i :: k.clearing ∧
        (∀ j m, j < field v 32 13 → m < 16 → memByte t.mem (tileKey c (field v 12 8 * 4096 + 144 * j + 128 + m)) = 0) ∧
        ⟨s.now + (field v 32 13 + 15) / 16 * Config.cycle, .windowMetadataClearingEnd c i⟩ ∈ t.agenda) ∧
    Happens .registerWrite s (.registerWrite c 0x100000 v) (fun t => SameMem s t ∧ ∀ i, i < 64 →
      (t.core c).trapctl.getLsbD i = (decide (i < 8) && v.getLsbD i)) ∧
    Happens .registerWrite s (.registerWrite c 0x100008 v) (fun t => t = s) ∧
    Happens .registerWrite s (.registerWrite c 0x100010 v) (fun t => (t.core c).ctxarea = v) ∧
    (∀ i, i < 4 → Happens .registerWrite s (.registerWrite c (0x100020 + 8 * i) v) fun t =>
      ∀ j, j < 64 → ((t.core c).admitList.get 0 i).getLsbD j = (decide (j < 16 ∧ j ≠ 14) && v.getLsbD j)) ∧
    (∀ i, i < 4 → Happens .registerWrite s (.registerWrite c (0x100060 + 8 * i) v) fun t =>
      ∀ j, j < 64 → ((t.core c).dirty.get 0 i).getLsbD j = ((k.dirty.get 0 i).getLsbD j && !v.getLsbD j)) ∧
    (∀ off, 0x100140 ≤ off → off < 0x100200 → Happens .registerWrite s (.registerWrite c off v) fun t => t = s)

/-- TRAP_RECORD_ENTRY, LINK_WORD, LINK_CREDIT_RETURN and WAKE_MESSAGE (R205, R207, R213, R323, R386): the oldest waiting record enters when there is room,
a fatal one also the reserve; a frozen core's links take no word yet; a word that the admit list passes joins the FIFO, and another is dropped, counted,
its credit returned and a record raised at the writer; a credit frees a place; a wake reaches its slot and a posted one is acknowledged. -/
def Claim.RecordsLinksWakes : Prop :=
  ∀ (s : State) (c : Nat), let k := s.core c
    (k.traps.waiting = [] → Occurs .trapRecordEntry s (.trapRecordEntry c) s) ∧
    (∀ img rest, k.traps.waiting = img :: rest → 31 ≤ k.traps.count → field img 6 2 ≠ 3 ∨ 32 ≤ k.traps.count → Occurs .trapRecordEntry s (.trapRecordEntry c) s) ∧
    (∀ img rest, k.traps.waiting = img :: rest → k.traps.count < 31 ∨ (field img 6 2 = 3 ∧ k.traps.count < 32) →
      Happens .trapRecordEntry s (.trapRecordEntry c) fun t => SameMem s t ∧
      (t.core c).traps.waiting = rest ∧ (t.core c).traps.count = k.traps.count + 1 ∧
      field ((t.core c).traps.ring.get 0 ((k.traps.head + k.traps.count) % 32)) 0 224 = field img 0 224) ∧
    (∀ dir v asid src, k.frozen = true → Occurs .linkWord s (.linkWord c dir v asid src)
      (s.modCore c fun k => k.setLinkEnd dir { k.linkEnd dir with late := (k.linkEnd dir).late ++ [(v, asid, src)] })) ∧
    (∀ dir v asid src, k.frozen = false → k.lists asid = true → Happens .linkWord s (.linkWord c dir v asid src) fun t => SameMem s t ∧
      ((t.core c).linkEnd dir).fifo = (k.linkEnd dir).fifo ++ [v] ∧ t.agenda = s.agenda ∧ ∀ n j, (t.slot c n).reg j = (s.slot c n).reg j) ∧
    (∀ dir v asid src, k.frozen = false → k.lists asid = false → Happens .linkWord s (.linkWord c dir v asid src) fun t => SameMem s t ∧
      ((t.core c).linkEnd dir).fifo = (k.linkEnd dir).fifo ∧ (t.core c).errcnt.get 0 6 = min (k.errcnt.get 0 6 + 1) (2 ^ 32 - 1) ∧
      ⟨s.now + Config.cycle, .linkCreditReturn (neighbour c dir) (opposite dir)⟩ ∈ t.agenda ∧ Recorded s t (s.homeNow src.core asid) 35 1) ∧
    (∀ dir, Happens .linkCreditReturn s (.linkCreditReturn c dir) fun t => SameMem s t ∧
      ((t.core c).linkEnd dir).used = (k.linkEnd dir).used - 1 ∧ ((t.core c).linkEnd dir).fifo = (k.linkEnd dir).fifo) ∧
    (∀ m : WakeMsg, m.core = c → m.src.core = c → k.frozen = false → (k.slot m.slot).saved = false →
      Occurs .wakeMessage s (.wakeMessage m) (if m.posted then (s.wakeSlot m).send c c (.acknowledgement m.src) else s.wakeSlot m))

namespace Sys2Proof.Claim

/-- The thread of a held push runs its instruction again. -/
def retrying (s : State) (c n next : Nat) : State :=
  { (s.setSlot c n { s.slot c n with push := none, pushed := none, st := .ready, why := .none }) with cur := ⟨c, n, (s.slot c n).pc, next⟩ }

/-- The command at the head of a core's matrix queue executes. -/
def Running (s : State) (c : Nat) (k : MatCmd) : Prop := ∃ rest, (s.core c).matrix.queue = ⟨k, .busy⟩ :: rest

/-- The command has been executed with an error code; its status is ready, and it completes at once when the FIFO has room (R85, R86). -/
def Executed (s t : State) (c : Nat) (k : MatCmd) (err : Nat) (nan : Bool) : Prop :=
  SameMem s t ∧ ∃ v cap rest, (t.core c).matrix.queue = ⟨k, .done v cap⟩ :: rest ∧ field v 0 8 = pktTag k.pkt ∧ field v 8 3 = pktCmd k.pkt ∧ field v 11 5 = err ∧
    v.getLsbD 16 = nan ∧ ((s.core c).matrix.fifo.length < 8 → ⟨s.now, .matrixCommandCompletion c v k⟩ ∈ t.agenda) ∧
    (t.core c).matrix.fifo = (s.core c).matrix.fifo

/-- The accumulators, the B sets and the formats are as they were. -/
def SameArray (s t : State) (c : Nat) : Prop :=
  let x := (s.core c).matrix
  let y := (t.core c).matrix
  y.accs = x.accs ∧ y.bset0 = x.bset0 ∧ y.bset1 = x.bset1 ∧ y.afmt = x.afmt ∧ y.bfmt = x.bfmt ∧ y.gsz = x.gsz

/-- No other thread has come to hold the bank of a command that a restore put back (R321, R397). -/
def Owned (s : State) (c : Nat) (k : MatCmd) : Prop :=
  k.orphan = false ∧ (k.restored = true → ∀ n, ((s.core c).acc (pktAcc k.pkt)).holder = some n → n = k.slot ∧ k.alive = true)

/-- A group whose elements are all finite. -/
def Finite (g : Group) : Prop := (∀ v ∈ g.cls, ∃ n m e, v = .num n m e) ∧ g.cls.length = g.img.length

end Sys2Proof.Claim

/-- MATRIX_PUSH_ACCEPTANCE, ZERO, SETFMT, MFENCE, LDACC, LDB, MM, DRAIN, DRAIN_WAKE_UP and MATRIX_COMMAND_COMPLETION (R74, R82, R84 to R87, R89, R314, R317
to R320): each completes for every state and packet that its conditions name, with its status at the head of the queue. -/
def Claim.MatrixEvents : Prop :=
  ∀ (s : State) (c : Nat), let x := s.core c
    let word (p : List Byte) (i : Nat) : Nat := pktWord p i
    (∀ n m next, (s.slot c n).push = some .matrix → (s.slot c n).stopped = false → (s.slot c n).saving = false →
      (s.slot c n).pushed = some (.mxs m, next) → let u := retrying s c n next
      (∀ t, exec (.mxs m) u = .next t → Occurs .matrixPushAcceptance s (.matrixPushAcceptance c n) (t.afterRetry s c n)) ∧
      (∀ w8 w9 w10 w11 w12 w13 w14 w15 : Word, guardHolds m u.me = true → isSuper c = false → (∀ i, 8 ≤ i → i < 16 → (u.me.reg i).mode = 0) →
        u.peek 8 = .ok w8 → u.peek 9 = .ok w9 → u.peek 10 = .ok w10 → u.peek 11 = .ok w11 → u.peek 12 = .ok w12 → u.peek 13 = .ok w13 →
        u.peek 14 = .ok w14 → u.peek 15 = .ok w15 →
        let pkt := [w8, w9, w10, w11, w12, w13, w14, w15].flatMap fun v => natLe 8 v.toNat
        headerOk pkt = true → x.matrix.queue.length < 8 → u.mayPush 4 = true → (namesAcc pkt = false ∨ x.accHeld (pktAcc pkt) n = false) →
        Occurs .matrixPushAcceptance s (.matrixPushAcceptance c n) (((queued u pkt).retire m.sw).afterRetry s c n))) ∧
    (∀ n, (s.slot c n).push ≠ some .matrix → Occurs .matrixPushAcceptance s (.matrixPushAcceptance c n) s) ∧
    (∀ k, Running s c k → k.orphan = true → pktCmd k.pkt = 3 → Happens .accZero s (.accZero c k) fun t => Executed s t c k 8 false ∧ SameArray s t c) ∧
    (∀ k, Running s c k → Owned s c k →
      Happens .accZero s (.accZero c k) (fun t => Executed s t c k 0 false ∧ ((t.core c).acc (pktAcc k.pkt)).full = true ∧
        (∀ i, ((t.core c).acc (pktAcc k.pkt)).vals.get 0 i = 0) ∧ ∀ b, b ≠ pktAcc k.pkt → (t.core c).acc b = x.acc b) ∧
      Happens .mfence s (.mfence c k) (fun t => Executed s t c k 0 false ∧ SameArray s t c) ∧
      (let a := imageAt k.pkt 4 1 % 16
       let b := imageAt k.pkt 4 1 / 16
       let g := imageAt k.pkt 5 1 % 4
       let family (f : Nat) : Nat := if f ≤ 1 then 0 else if f = 7 ∨ f = 8 ∨ f = 10 then 2 else 1
       let legal : Prop := a ≤ 10 ∧ b ≤ 10 ∧ g ≠ 3 ∧ family a = family b ∧ (a = 9 ∨ a = 10 ∨ b = 9 ∨ b = 10 → a = b)
       (legal → Happens .setfmt s (.setfmt c k) fun t => Executed s t c k 0 false ∧ (t.core c).matrix.afmt = a ∧ (t.core c).matrix.bfmt = b ∧
         (t.core c).matrix.gsz = g ∧ (t.core c).matrix.accs = x.matrix.accs) ∧
       (¬ legal → Happens .setfmt s (.setfmt c k) fun t => Executed s t c k 1 false ∧ SameArray s t c)) ∧
      (let base := word k.pkt 4
       let stride := word k.pkt 8
       let bad : Prop := base % 16 ≠ 0 ∨ stride % 16 ≠ 0 ∨ 2 ^ 20 ≤ base + 31 * stride + 127 ∨ ∃ r, r < 32 ∧ x.inWindow (base + r * stride) 128 = true
       (bad → Happens .ldacc s (.ldacc c k) fun t => Executed s t c k 5 false ∧ SameArray s t c) ∧
       (¬ bad → s.poison = [] → Happens .ldacc s (.ldacc c k) fun t => Executed s t c k 0 false ∧ ((t.core c).acc (pktAcc k.pkt)).full = true ∧
         (∀ r n, r < 32 → n < 32 → ((t.core c).acc (pktAcc k.pkt)).vals.get 0 (32 * r + n) =
           BitVec.ofNat 32 (leNat (s.bytes (tileKey c (base + r * stride + 4 * n)) 4))) ∧ ∀ b, b ≠ pktAcc k.pkt → (t.core c).acc b = x.acc b)) ∧
      (x.matrix.bfmt = 7 → 2 < pktSteps k.pkt → Happens .ldb s (.ldb c k) fun t => Executed s t c k 3 false ∧ SameArray s t c) ∧
      ((x.matrix.bfmt ≠ 7 ∨ pktSteps k.pkt ≤ 2) → operandBad x.matrix.bfmt x.matrix.gsz k.pkt = false →
        x.operandIn x.matrix.bfmt x.matrix.gsz k.pkt = false → s.poison = [] →
        Happens .ldb s (.ldb c k) fun t => Executed s t c k 0 false ∧ (t.core c).matrix.accs = x.matrix.accs ∧
          let b := (t.core c).matrix.bset (pktBset k.pkt)
          b.loaded = true ∧ b.fmt = x.matrix.bfmt ∧ b.steps = pktSteps k.pkt ∧ b.poisoned = [] ∧
          ∀ r, r < 32 → b.low.getD r [] = s.bytes (tileKey c (word k.pkt 4 + r * word k.pkt 8)) (pktSteps k.pkt * lowBytesOf x.matrix.bfmt)) ∧
      ((x.acc (pktAcc k.pkt)).full = false → (x.matrix.bset (pktBset k.pkt)).loaded = true →
        (x.matrix.bset (pktBset k.pkt)).fmt = x.matrix.bfmt → pktSteps k.pkt ≤ (x.matrix.bset (pktBset k.pkt)).steps →
        pktSteps k.pkt * stepElems x.matrix.afmt % min (groupOf x.matrix.afmt x.matrix.gsz) (groupOf x.matrix.bfmt (x.matrix.bset (pktBset k.pkt)).gsz) = 0 →
        Happens .mm s (.mm c k) fun t => Executed s t c k 4 false ∧ SameArray s t c) ∧
      (let b := x.matrix.bset (pktBset k.pkt)
       let n := pktSteps k.pkt
       let size := min (groupOf x.matrix.afmt x.matrix.gsz) (groupOf x.matrix.bfmt b.gsz)
       (x.acc (pktAcc k.pkt)).full = true → b.loaded = true → b.fmt = x.matrix.bfmt → n ≤ b.steps → b.poisoned = [] → s.poison = [] →
        n * stepElems x.matrix.afmt % size = 0 → operandBad x.matrix.afmt x.matrix.gsz k.pkt = false → x.operandIn x.matrix.afmt x.matrix.gsz k.pkt = false →
        Happens .mm s (.mm c k) fun t => (∃ nan, Executed s t c k 0 nan) ∧ (t.core c).matrix.ctl = x.matrix.ctl ∧ (t.core c).matrix.capture = x.matrix.capture ∧
          (∃ v cap rest, (t.core c).matrix.queue = ⟨k, .done v cap⟩ :: rest ∧ cap.isSome = true ∧
            ∀ y, cap = some y → y.groups = n * stepElems x.matrix.afmt / size) ∧ (∀ d, d ≠ pktAcc k.pkt → (t.core c).acc d = x.acc d) ∧
          ∀ r m, r < 32 → m < 32 → ((t.core c).acc (pktAcc k.pkt)).vals.get 0 (32 * r + m) = BitVec.ofNat 32
            (closeAll (idOf c) x.matrix.afmt size ((x.acc (pktAcc k.pkt)).vals.get 0 (32 * r + m)).toNat {} 0
              ((List.range (n * stepElems x.matrix.afmt / size)).map fun g =>
                ((s.matLine c x.matrix.afmt x.matrix.gsz k.pkt r).group x.matrix.afmt x.matrix.gsz (g * size) size,
                 (b.line m).group x.matrix.bfmt b.gsz (g * size) size))).1) ∧
      ((x.acc (pktAcc k.pkt)).full = false → Happens .drain s (.drain c k) fun t => Executed s t c k 4 false ∧ SameArray s t c) ∧
      (let dest : Word := BitVec.ofNat 64 (imageAt k.pkt 8 8)
       let stride := word k.pkt 16
       let size := if pktBf16 k.pkt then 64 else 128
       (x.acc (pktAcc k.pkt)).full = true → isFabric dest = true → bitsOf dest.toNat 21 24 = 0 → coreNamed dest ≠ c → devOf (coreNamed dest) = devOf c →
        offsetOf dest % 16 = 0 → stride % 16 = 0 → size ≤ stride → offsetOf dest + 31 * stride + size ≤ 2 ^ 20 → imageAt k.pkt 24 8 = 0 →
        Happens .drain s (.drain c k) fun t => SameMem s t ∧ (∃ d ∈ (t.core c).matrix.drains, d.id = s.nextId ∧ d.cmd = k ∧ d.left = 32 * (size / 16) ∧
            d.refused = false ∧ d.waking = false ∧ d.vals = (x.acc (pktAcc k.pkt)).vals) ∧
          (∃ rest, (t.core c).matrix.queue = ⟨k, .draining s.nextId⟩ :: rest) ∧
          ((t.core c).acc (pktAcc k.pkt)).full = !pktCons k.pkt)) ∧
    (∀ id, (x.matrix.drains.find? fun d => d.id == id) = none → Occurs .drainWakeUp s (.drainWakeUp c id) s) ∧
    (∀ d rest, x.matrix.drains = [d] → d.left = 0 → x.matrix.queue = ⟨d.cmd, .draining d.id⟩ :: rest →
      (d.refused = false → d.waking = true ∨ imageAt d.cmd.pkt 24 8 = 0 →
        Happens .drainWakeUp s (.drainWakeUp c d.id) fun t => Executed s t c d.cmd 0 false ∧ (t.core c).matrix.drains = []) ∧
      (d.refused = false → d.waking = false → imageAt d.cmd.pkt 24 8 ≠ 0 → Occurs .drainWakeUp s (.drainWakeUp c d.id)
        ((s.modCore c fun y => y.modMatrix fun m => { m with drains := [{ d with left := 1, waking := true }] }).sendDecr
          { src := ⟨c, d.cmd.slot, d.id⟩, kind := .drain, tcb := BitVec.ofNat 64 (imageAt d.cmd.pkt 24 8), asid := d.cmd.asid, sup := d.cmd.sup })) ∧
      (d.refused = true → Happens .drainWakeUp s (.drainWakeUp c d.id) fun t => Recorded s t c 33 1 ∧ (t.core c).matrix.drains = [] ∧
        (pktCons d.cmd.pkt = true → (x.acc (pktAcc d.cmd.pkt)).full = false → ((t.core c).acc (pktAcc d.cmd.pkt)).full = true ∧
          ((t.core c).acc (pktAcc d.cmd.pkt)).vals = d.vals) ∧
        ∃ v rest', (t.core c).matrix.queue = ⟨d.cmd, .done v none⟩ :: rest' ∧ field v 11 5 = 6)) ∧
    (∀ k v cap rest, x.matrix.queue = ⟨k, .done v cap⟩ :: rest → x.matrix.fifo.length < 8 → x.matrix.asks = [] →
      Happens .matrixCommandCompletion s (.matrixCommandCompletion c v k) fun t => SameMem s t ∧ (t.core c).matrix.fifo = x.matrix.fifo ++ [v] ∧
        (t.core c).matrix.queue.length = rest.length ∧
        (∀ y, cap = some y → x.matrix.ctl.getLsbD 10 = true → field (t.core c).matrix.ctl 11 5 = y.groups % 32 ∧ (t.core c).matrix.capture = y.window) ∧
        (cap = none ∨ x.matrix.ctl.getLsbD 10 = false → (t.core c).matrix.ctl = x.matrix.ctl ∧ (t.core c).matrix.capture = x.matrix.capture) ∧
        (namesAcc k.pkt = true → pktRel k.pkt = true → k.alive = true → (x.acc (pktAcc k.pkt)).holder = some k.slot →
          ((t.core c).acc (pktAcc k.pkt)).holder = none)) ∧
    (∀ k v cap rest, x.matrix.queue = ⟨k, .done v cap⟩ :: rest → 8 ≤ x.matrix.fifo.length →
      Occurs .matrixCommandCompletion s (.matrixCommandCompletion c v k) s)

/-- What a cell computes (R68, R75, R77): twice the dot product of two runs of images is the sum of the squares of their sums, less the sums of their squares; a
group of finite elements adds its dot product, rounded once, to the accumulator, and one whose dot product is 0 adds nothing. -/
def Claim.SquaresGiveDotProducts : Prop :=
  (∀ a b : List Int, a.length = b.length →
    squares ((a.zip b).map fun x => x.1 + x.2) - squares a - squares b = 2 * dot a b) ∧
  (∀ (core code i acc : Nat) (a b : Group), Finite a → Finite b → a.img.length = b.img.length →
    (dot a.img b.img = 0 → closeGroup core code i a b acc = (acc, {})) ∧
    (dot a.img b.img ≠ 0 → code < 9 → ∀ w f, groupValue false a b (dot a.img b.img) = some (w, f) →
      (closeGroup core code i a b acc).1 = (accAdd core (kIndex code (i + a.img.length - 1)) acc w).1)) ∧
  (∀ (core k acc w : Nat) (n m : Bool) (x y : Nat) (e g : Int), fp32.dec false acc = .num n x e → fp32.dec false w = .num m y g →
    (accAdd core k acc w).1 = if (fp32.add {} acc w).1 = 2 ^ 31 then 0 else (fp32.add {} acc w).1)

namespace Sys2Proof.Claim

/-- A core whose tile store has no versioned window, snapshot, held request, poison or forwarding in the way. -/
def Plain (s : State) (c : Nat) : Prop :=
  (s.core c).vwin = [] ∧ (s.core c).snapshot = none ∧ (s.core c).waiting = [] ∧ s.poison = [] ∧ (s.core c).fwds = [] ∧ MemOk s

/-- n bytes at an address of the tile store of core c. -/
def InTile (c : Nat) (a : Word) (n : Nat) : Prop := isFabric a = true ∧ coreNamed a = c ∧ offsetOf a + n ≤ 2 ^ 20

/-- The record m names has been changed from r to the record of which p holds, and the answer is on its way (R135, R138). -/
def Replies (s : State) (m : BundleReq) (parts : List FillPart) (p : Record → Prop) : Prop :=
  Happens .commitRecordOperation s (.commitRecordOperation m) fun t =>
    Now s t (.fill ⟨m.src, parts⟩) ∧ p (t.recordAt m.record) ∧ (t.recordAt m.record).crcOk = true ∧
      ∀ b, (b < (s.recordAt m.record).key ∨ (s.recordAt m.record).key + 64 ≤ b) → memByte t.mem b = memByte s.mem b

/-- The result word of a bundle instruction (R138). -/
def word (index status serial : Nat) : Word := BitVec.ofNat 64 (index % 16 + status % 16 * 2 ^ 4 + serial % 2 ^ 24 * 2 ^ 8)

/-- The serial of slot k of a line, and the 64 bytes of the slot (R132; log 10). -/
def serialOf (s : State) (l k : Nat) : Nat := metaSerial (s.lineMeta l) k
def slotByte (s : State) (l k i : Nat) : Byte := memByte s.mem (l + 64 * k + i)

end Sys2Proof.Claim

/-- COPY_ACCEPTANCE, COPY_TRANSFER_LINE, HANDLE_SUBTRACTION, STREAM_REFILL and POOL_EXHAUSTED_TIMEOUT (R109, R149, R156, R166, R311): a held copy is tried
again; a line of a plain copy carries its bytes, sets their granules full, and its bytes leave PEND; the last one ends the copy; a stream takes its next
element; a request whose page found no frame for 64 us is refused with cause 11, and none is before that. -/
def Claim.CopyEvents : Prop :=
  ∀ (s : State) (c : Nat), let k := s.core c
    (∀ n, (s.slot c n).push ≠ some .copy → Occurs .copyAcceptance s (.copyAcceptance c n) s) ∧
    (∀ n i next, (s.slot c n).push = some .copy → (s.slot c n).stopped = false → (s.slot c n).saving = false → (s.slot c n).pushed = some (i, next) →
      let u := retrying s c n next
      ((∃ m o, i = .cp m o ∨ i = .cpD m o) ∨ (∃ m o, i = .cpBv m o ∨ i = .cpx m o ∨ i = .cpxD m o) ∨ (∃ m o, i = .streamScalar m o) ∨
        (∃ m o, i = .streamVector m o) → ∀ t, exec i u = .next t → Occurs .copyAcceptance s (.copyAcceptance c n) (t.afterRetry s c n)) ∧
      (∀ m o, guardHolds m u.me = true →
        (i = .cp m o → Retaken s c n u m { instr := .cp m o, kd := o.kd, ks := o.ks, h := o.h }) ∧
        (i = .cpD m o → Retaken s c n u m { instr := .cpD m o, kd := o.kd, ks := o.ks, h := o.h, onDest := true })) ∧
      (∀ m (o : OpCpc) v, guardHolds m u.me = true → u.peek o.c = .ok v →
        (i = .cpBv m o → Retaken s c n u m { instr := .cpBv m o, kd := o.kd, ks := o.ks, h := o.h, view := some v, takes := [(o.c, false)] }) ∧
        (i = .cpx m o → Retaken s c n u m { instr := .cpx m o, kd := o.kd, ks := o.ks, h := o.h, desc := some v, takes := [(o.c, false)] }) ∧
        (i = .cpxD m o → Retaken s c n u m { instr := .cpxD m o, kd := o.kd, ks := o.ks, h := o.h, onDest := true, desc := some v, takes := [(o.c, false)] })) ∧
      (∀ m (o : OpStrS), i = .streamScalar m o → guardHolds m u.me = true → (u.me.reg o.a.toNat).mode = 0 → StreamOk u o.ks o.h →
        (u.myCore.shape o.ks.toNat).esz < 4 → MayPush u → k.copyq.length < 16 →
        Occurs .copyAcceptance s (.copyAcceptance c n) ((((streaming u o.a.toNat false o.ks o.h).modMe fun t =>
          t.modReg o.a.toNat fun r => { r with mode := 1, full := false, pend := false, failed := false }).retire m.sw).afterRetry s c n)) ∧
      (∀ m (o : OpStrV) p, i = .streamVector m o → guardHolds m u.me = true → u.me.place o.a.toNat = some p → VecUp u [o.a] → (k.vreg p).stream = false →
        StreamOk u o.ks o.h → (u.myCore.shape o.ks.toNat).bytes % 256 = 0 → MayPush u → k.copyq.length < 16 →
        Occurs .copyAcceptance s (.copyAcceptance c n) ((((streaming u p true o.ks o.h).modMyCore fun k =>
          k.setVreg p { k.vreg p with stream := true, full := false, pend := false, failed := false }).retire m.sw).afterRetry s c n))) ∧
    (∀ id j ok data, (∀ x ∈ k.copies, x.id ≠ id) → Occurs .copyTransferLine s (.copyTransferLine c id j ok data) s) ∧
    (∀ (x : Sys2Proof.Machine.Copy) j a b n, k.copies = [x] → Plain s c → x.desc = none → x.view = none → x.pop = none → x.hcore = c → x.onDest = false →
      InTile c x.kd.base 0 → InTile c x.ks.base 0 → x.next = j → x.landed = j → j < x.lines →
      n = min 64 (x.kd.bytes - 64 * j) → n ≠ 0 → joinRuns (x.kd.runs 70 (64 * j) n) = [(a, n)] → x.ks.runs 70 (64 * j) n = [(b, n)] →
      (∀ v ∈ x.touches j, isFabric v = true) → InTile c a n → InTile c b n →
      Happens .copyTransferLine s (.copyTransferLine c x.id j true none) fun t =>
        t.bytes (tileKey c (offsetOf a)) n = s.bytes (tileKey c (offsetOf b)) n ∧
        (∀ i, (i < tileKey c (offsetOf a) ∨ tileKey c (offsetOf a) + n ≤ i) → memByte t.mem i = memByte s.mem i) ∧
        (∀ i, i < n → t.present false (tileKey c (offsetOf a) + i) = true) ∧
        ⟨s.now + Config.cycle, .handleSubtraction c x.h n ⟨c, x.slot, x.id⟩ x.asid⟩ ∈ t.agenda ∧
        (j + 1 < x.lines → ⟨s.now + 2, .copyTransferLine c x.id (j + 1) true none⟩ ∈ t.agenda ∧ (t.core c).copies.length = 1) ∧
        (j + 1 = x.lines → (t.core c).copies = [] ∧ x.id ∉ (t.core c).copyq)) ∧
    (∀ h n src asid, Occurs .handleSubtraction s (.handleSubtraction c h n src asid)
      (s.changeHandle c { h := h, rank := 2, change := .subtract n, slot := some src.slot, asid := asid, reply := none, owner := some src.core })) ∧
    (∀ id, (∀ x ∈ k.streams, x.id ≠ id) → Occurs .streamRefill s (.streamRefill c id) s) ∧
    (∀ (x : Sys2Proof.Machine.Stream) a, k.streams = [x] → Plain s c → x.vec = false → x.dead = false → (s.slot c x.slot).saving = false →
      x.fifo.length < x.depth →
      x.fetched < x.total → x.shape.runs 260 (x.shape.size * x.fetched) x.shape.size = [(a, x.shape.size)] → InTile c a x.shape.size →
      Happens .streamRefill s (.streamRefill c x.id) fun t => SameMem s t ∧
        (t.core c).streams = [{ x with fifo := x.fifo ++ [BitVec.ofNat 2048 (leNat (s.bytes (tileKey c (offsetOf a)) x.shape.size))],
                                       fetched := x.fetched + 1 }] ∧
        (x.fetched + 1 = x.total → (k.handle x.h).bst = 1 → ((t.core c).handle x.h).bst = 2 ∧ ((t.core c).handle x.h).seq = (k.handle x.h).seq + 1)) ∧
    (∀ d frame, (∀ x ∈ (s.hub d).expanding, x.frame = frame → ∀ t, x.starved = some t → s.now < t + 64 * Config.us) →
      Occurs .poolExhaustedTimeout s (.poolExhaustedTimeout d frame) s) ∧
    (∀ d (x : Stall) t r, (s.hub d).expanding = [x] → x.starved = some t → t + 64 * Config.us ≤ s.now → x.evs = [.translationRequest r] →
      Happens .poolExhaustedTimeout s (.poolExhaustedTimeout d x.frame) fun u =>
        SameMem s u ∧ u.pres = s.pres ∧ (u.hub d).expanding = [] ∧ u.cores = s.cores ∧ Sys2Proof.Claim.Now s u (.refusal r.src 11))

/-- COMMIT_RECORD_OPERATION at the record's own core, VIEW_AGE_EXPIRY, BUNDLE_STORE, VIEW_LOAD and SNAPSHOT_BLOCK_COPY (R135, R137, R138, R139, R143, R144,
R147): what each operation does to the record's counters and serials, with its status; the age rule marks a view fractured and releases its pin. -/
def Claim.BundleEvents : Prop :=
  ∀ (s : State) (m : BundleReq), let c := coreNamed m.record
    let r := s.recordAt m.record
    let all (parts : List FillPart) (p : Record → Prop) : Prop := Replies s m parts p
    let scalar (v : Word) : FillPart := .scalar m.reg m.seq v
    let fails (st : Nat) : Prop := all [scalar (word 0 st 0), .free m.entry] fun q => q = r
    (m.src.core = c → m.quiet = false → offsetOf m.record < 2 ^ 20 → Plain s c → r.crcOk = true →
      (m.kind = .bopen → (r.opened ≠ 0 → fails 1) ∧ (r.opened = 0 → r.high = 2 ^ 24 - 1 → fails 3) ∧
        (r.opened = 0 → r.high < 2 ^ 24 - 1 → r.init = true →
          all [scalar (word m.entry 0 (r.high + 1)), .entry m.entry (entryImage m ⟨0, r.high + 1, r.name, decide (0 < r.pinP + r.pinO)⟩)] fun q =>
            q.opened = r.high + 1 ∧ q.high = r.high + 1 ∧ q.writers = 1 ∧ q.committed = r.committed ∧ q.pinC = r.pinC ∧ q.pinP = r.pinP ∧ q.pinO = r.pinO ∧
            q.prev = r.prev)) ∧
      (m.kind = .bopenJ → (r.opened = 0 → fails 5) ∧ (r.opened ≠ 0 → r.writers = 255 → fails 14) ∧
        (r.opened ≠ 0 → r.writers < 255 →
          all [scalar (word m.entry 0 r.opened), .entry m.entry (entryImage m ⟨0, r.opened, r.name, decide (0 < r.pinP + r.pinO)⟩)] fun q =>
            q.writers = r.writers + 1 ∧ q.opened = r.opened ∧ q.committed = r.committed)) ∧
      (m.kind = .view → (r.committed = 0 → fails 8) ∧
        (r.committed ≠ 0 → r.pinC + 1 < 2 ^ 32 →
          all [scalar (word m.entry 0 r.committed), .entry m.entry (entryImage m ⟨0, r.committed, r.name, false⟩)] fun q =>
            q.pinC = r.pinC + 1 ∧ q.pinP = r.pinP ∧ q.pinO = r.pinO ∧ q.committed = r.committed ∧ q.opened = r.opened)) ∧
      (m.kind = .vclose → m.write = false → m.fr = 0 → let done (p : Record → Prop) : Prop := all [scalar (word m.entry 0 m.serial), .free m.entry] p
        (m.serial = r.committed → 0 < r.pinC → done fun q => q.pinC = r.pinC - 1 ∧ q.pinP = r.pinP ∧ q.pinO = r.pinO) ∧
        (m.serial ≠ r.committed → m.serial = r.prev → 0 < r.pinP → done fun q => q.pinP = r.pinP - 1 ∧ q.pinC = r.pinC ∧ q.pinO = r.pinO) ∧
        (m.serial ≠ r.committed → m.serial ≠ r.prev → 0 < r.pinO → done fun q => q.pinO = r.pinO - 1 ∧ q.pinC = r.pinC ∧ q.pinP = r.pinP)) ∧
      (m.kind = .bcommit →
        (r.writers ≠ 1 → all [scalar (word m.entry 6 m.serial)] fun q => q = r) ∧
        (r.writers = 1 → r.opened ≠ m.serial → all [scalar (word m.entry 7 m.serial)] fun q => q = r) ∧
        (r.writers = 1 → r.opened = m.serial → r.pinO + r.pinP < 2 ^ 32 → all [scalar (word m.entry 0 m.serial), .free m.entry] fun q =>
          q.committed = r.opened ∧ q.prev = r.committed ∧ q.opened = 0 ∧ q.writers = 0 ∧ q.pinC = 0 ∧ q.pinP = r.pinC ∧ q.pinO = r.pinO + r.pinP ∧
          q.high = r.high)) ∧
      (m.kind = .babort → m.fr ≠ 1 →
        (r.writers ≠ 1 → all [scalar (word m.entry 6 m.serial), .free m.entry] fun q => q = r) ∧
        (r.writers = 1 → r.lines = 0 → all [scalar (word m.entry 0 m.serial), .free m.entry] fun q =>
          q.opened = 0 ∧ q.writers = 0 ∧ q.committed = r.committed ∧ q.high = r.high))) ∧
    (∀ e i tick, let k := s.core e
      let x := k.view i
      let n := k.notes.get {} i
      (x.getLsbD 0 = true → x.getLsbD 1 = false → field x 96 32 = tick → n.released = false →
        (n.closing = false → Occurs .viewAgeExpiry s (.viewAgeExpiry e i tick) ((s.modCore e fun k =>
          { k.setView i (setField x 7 2 1) with notes := k.notes.put i { n with released := true } }).quietClose e i x .vclose { n with lost := false })) ∧
        (n.closing = true → Occurs .viewAgeExpiry s (.viewAgeExpiry e i tick) (s.after Config.us (.viewAgeExpiry e i tick)))) ∧
      (field x 96 32 ≠ tick → Occurs .viewAgeExpiry s (.viewAgeExpiry e i tick) s)) ∧
    (∀ (q : Req), let h := coreNamed q.addr
      isFabric q.addr = true → (s.core h).snapshot = none → (s.core h).waiting = [] → q.engine = false → q.posted = false → q.ordered = false → q.src.core = h →
      (∀ u n d (v : ViewRef) tag, q.op = .bundleStore n d v → s.performAt (s.tilePlace h (offsetOf q.addr)) q.asid q.op = .done u 0 tag 1 → MemOk u →
        (u.core h).waiting = [] → (u.hub (devOf h)).hbmWaiting = [] → (u.core (coreNamed v.record)).waiting = [] → (u.core (coreNamed v.record)).snapshot = none →
        Happens .bundleStore s (.bundleStore q) fun t => (t.recordAt v.record).splost = ((u.recordAt v.record).splost + 1) % 2 ^ 32 ∧
          Now s t (.acknowledgement q.src)) ∧
      (∀ u v tag fr, s.performAt (s.tilePlace h (offsetOf q.addr)) q.asid q.op = .done u v tag fr → fr ≠ 1 → (u.core h).waiting = [] →
        (u.hub (devOf h)).hbmWaiting = [] →
        Occurs .bundleStore s (.bundleStore q) (u.answerReq h q (u.doneParts q v tag fr)) ∧
        Occurs .viewLoad s (.viewLoad q) (u.answerReq h q (u.doneParts q v tag fr))) ∧
      (∀ cause, s.performAt (s.tilePlace h (offsetOf q.addr)) q.asid q.op = .refuse cause →
        Occurs .bundleStore s (.bundleStore q) (s.after 0 (.refusal q.src cause)) ∧ Occurs .viewLoad s (.viewLoad q) (s.after 0 (.refusal q.src cause)))) ∧
    (∀ e, ((s.core e).snapshot = none → Occurs .snapshotBlockCopy s (.snapshotBlockCopy e) s) ∧
      (∀ n b bs, (s.core e).snapshot = some n → n.pending = b :: bs → s.event = none →
        ∃ t, exec .snapshotBlockCopy { s with event := some (.snapshotBlockCopy e) } = .next t ∧
        (t.core e).snapshot = some { n with pending := n.pending.filter (· != b) } ∧ ⟨s.now + Config.us, .snapshotBlockCopy e⟩ ∈ t.agenda) ∧
      (∀ n, (s.core e).snapshot = some n → n.pending = [] → n.wake = 0 → Happens .snapshotBlockCopy s (.snapshotBlockCopy e) fun t => SameMem s t ∧
        (t.core e).snapshot = none))

/-- Accesses to a versioned line (R132, R134, R139, R141, R143): a plain load reads the slot with the larger serial and `ldt` its tag as well; any other
plain access is refused as versioned; a bundle store under a serial that a slot holds writes there, and under a new one takes an empty slot, or the older,
with the other's content copied first; a view read takes the newest slot that is not newer than the view. -/
def Claim.VersionedLines : Prop :=
  ∀ (s : State) (p : Place) (l j n asid : Nat) (d : Word) (v : ViewRef), MemOk s → s.poison = [] → p.line = some (l, j) → j + n ≤ 64 →
    n ≠ 0 → v.serial < 2 ^ 24 → v.serial ≠ 0 →
    let x := s.lineMeta l
    let newer := if serialOf s l 0 < serialOf s l 1 then 1 else 0
    let value (k : Nat) : Word := BitVec.ofNat 64 (leNat (s.bytes (l + 64 * k + j) n))
    s.performAt p asid (.load n) = .done s (value newer) 0 0 ∧
    (∃ tag : Word, s.performAt p asid (.loadTag n) = .done s (value newer) tag 0 ∧ field tag 0 24 = serialOf s l newer ∧ field tag 24 16 = metaCidx x ∧
      field tag 40 20 = metaName x ∧ field tag 61 1 = newer) ∧
    s.performAt p asid (.store n d) = .refuse 12 ∧ s.performAt p asid (.storeEmpty n d) = .refuse 12 ∧ s.performAt p asid (.loadFull n) = .refuse 12 ∧
    s.performAt p asid .setFull = .refuse 12 ∧ (∀ k, s.performAt p asid (.amo k n d) = .refuse 12) ∧
    (metaName x ≠ v.name → s.performAt p asid (.bundleStore n d v) = .refuse 12 ∧ s.performAt p asid (.viewLoad n v) = .done s 0 0 3) ∧
    (metaName x = v.name → v.sp = false →
      let k := if serialOf s l 0 = v.serial then 0 else if serialOf s l 1 = v.serial then 1 else if serialOf s l 0 = 0 then 0 else if serialOf s l 1 = 0 then 1
        else if serialOf s l 1 < serialOf s l 0 then 1 else 0
      ∃ t, s.performAt p asid (.bundleStore n d v) = .done t 0 0 0 ∧ serialOf t l k = v.serial ∧ serialOf t l (1 - k) = serialOf s l (1 - k) ∧
        (∀ i, i < 64 → slotByte t l (1 - k) i = slotByte s l (1 - k) i) ∧
        (∀ i, i < 64 → slotByte t l k i = if j ≤ i ∧ i < j + n then (natLe n d.toNat).getD (i - j) 0 else
          if serialOf s l 0 = v.serial ∨ serialOf s l 1 = v.serial then slotByte s l k i else if serialOf s l (1 - k) ≠ 0 then slotByte s l (1 - k) i else 0) ∧
        ∀ b, (b < l ∨ l + 144 ≤ b) → memByte t.mem b = memByte s.mem b) ∧
    (metaName x = v.name → ∀ k, k < 2 → serialOf s l k ≠ 0 → serialOf s l k ≤ v.serial →
      (v.serial < serialOf s l (1 - k) ∨ serialOf s l (1 - k) < serialOf s l k) → s.performAt p asid (.viewLoad n v) = .done s (value k) 0 0)

namespace Sys2Proof.Claim

/-- No access is held at the core's banks and no snapshot is under way: a write of the core's own changes the bytes that it names and no others. -/
def Calm (s : State) (c : Nat) : Prop := MemOk s ∧ (s.core c).waiting = [] ∧ (s.core c).snapshot = none

/-- Core c has no forwarding entry for an ASID (R214). -/
def Keeps (s : State) (c asid : Nat) : Prop :=
  ∀ i, i < 16 → ((s.core c).fwds.get 0 i).getLsbD 14 = true → field ((s.core c).fwds.get 0 i) 0 14 ≠ asid

/-- No byte of memory outside n bytes from a up has changed. -/
def SameBut (s t : State) (a n : Nat) : Prop := ∀ b, (b < a ∨ a + n ≤ b) → memByte t.mem b = memByte s.mem b

/-- A thread of these fields has begun in a slot (R41). -/
def Began (t : State) (c n pc asid : Nat) (flush sup : Bool) (args : List Word) : Prop :=
  (t.slot c n).st = .ready ∧ (t.slot c n).pc = pc ∧ (t.slot c n).asid = asid ∧ (t.slot c n).flush = flush ∧ (t.slot c n).sup = sup ∧
  (∀ i, i < 4 → (t.slot c n).reg (4 + i) = { v := args.getD i 0 }) ∧ ∀ i, i < 4 ∨ 8 ≤ i → (t.slot c n).reg i = {}

end Sys2Proof.Claim

/-- DISPATCH (R190, R193, R198): nothing while no slot is open, the core is stopped or both queues are empty; one queued spawn or one ready task takes the
lowest open slot; a malformed TCB becomes Faulted and goes on record, and so does one whose STATE is none of R195's (R401; the record is log 122). -/
def Claim.Dispatching : Prop :=
  ∀ (s : State) (c : Nat), let k := s.core c
    (k.openSlot = none ∨ k.halted = true ∨ k.frozen = true ∨ (k.sched.spawns = [] ∧ k.sched.ready = []) → Occurs .dispatch s (.dispatch c) s) ∧
    (∀ n x, k.openSlot = some n → k.halted = false → k.frozen = false → k.sched.spawns = [x] → k.sched.ready = [] → k.banksFor x.nbank = true →
      Happens .dispatch s (.dispatch c) fun t => SameMem s t ∧ Began t c n x.pc x.asid x.flush x.sup x.args ∧ (t.core c).sched.spawns = [] ∧
        (t.slot c n).work = 0 ∧ (t.slot c n).task = false) ∧
    (∀ n off e, let b := s.tcb c off
      k.openSlot = some n → k.halted = false → k.frozen = false → k.sched.spawns = [] → k.sched.ready = [(off, e)] → Calm s c →
      (bitsOf b 32 12 = idOf c % 4096 → bitsOf b 46 3 ≤ 4 → bitsOf b 92 4 = 0 → tcbState b < 7 → k.banksFor (bitsOf b 44 2) = true →
        Happens .dispatch s (.dispatch c) fun t => SameBut s t (tileKey c (off + 2)) 1 ∧ (t.core c).sched.ready = [] ∧ tcbState (t.tcb c off) = 3 ∧
          Began t c n (bitsOf b 96 32) (bitsOf b 49 14) (bitAt b 63) false
            ((List.range 4).map fun i => BitVec.ofNat 64 (leNat (s.bytes (tileKey c (off + 32 + 8 * i)) 8))) ∧
          (t.slot c n).work = fabricAddr c off ∧ (t.slot c n).task = true ∧ (t.slot c n).succs = some (bitsOf b 46 3)) ∧
      (bitsOf b 32 12 ≠ idOf c % 4096 ∨ 4 < bitsOf b 46 3 ∨ bitsOf b 92 4 ≠ 0 ∨ 7 ≤ tcbState b →
        Happens .dispatch s (.dispatch c) fun t => SameBut s t (tileKey c (off + 2)) 2 ∧ (t.core c).sched.ready = [] ∧ tcbState (t.tcb c off) = 5 ∧
          bitsOf (t.tcb c off) 24 8 = 1 ∧ Recorded s t c 39 2))

/-- DECREMENT at its TCB's core, from that core (R196): a count above one falls; the last one of an Armed TCB makes it Ready and queues it; a count of zero or a
later STATE refuses it, which `tdep` hears and any other decrement puts on record. At a frozen core it comes again; a TCB beyond the tile store, in a versioned
window or poisoned is refused with its cause (R100, R133, R134, R213, R423). -/
def Claim.Decrements : Prop :=
  ∀ (s : State) (m : Decr), let c := coreNamed m.tcb
    let off := offsetOf m.tcb
    let b := s.tcb c off
    m.src.core = c → Keeps s c m.asid →
    ((s.core c).frozen = true → Occurs .decrement s (.decrement m) (s.after (16 * Config.cycle) (.decrement m))) ∧
    ((s.core c).frozen = false → 2 ^ 20 < off + 64 → m.kind = .tdep → Occurs .decrement s (.decrement m) (s.after 0 (.refusal m.src 6))) ∧
    (∀ cause, (s.core c).frozen = false → off + 64 ≤ 2 ^ 20 → (s.core c).windowCause off 16 = some cause → m.kind = .tdep →
      Occurs .decrement s (.decrement m) (s.after 0 (.refusal m.src cause))) ∧
    ((s.core c).frozen = false → off + 64 ≤ 2 ^ 20 → (s.core c).windowCause off 16 = none → s.anyPoison (tileKey c off) 16 = true → m.kind = .tdep →
      Occurs .decrement s (.decrement m) (s.after 0 (.refusal m.src 29))) ∧
    ((s.core c).frozen = false → off + 64 ≤ 2 ^ 20 → (s.core c).windowCause off 16 = none → s.anyPoison (tileKey c off) 16 = false →
      (1 < tcbState b ∨ tcbCnt b = 0 → m.kind = .tdep → Occurs .decrement s (.decrement m) (s.after 0 (.refusal m.src 21))) ∧
      (1 < tcbState b ∨ tcbCnt b = 0 → m.kind = .quit → Happens .decrement s (.decrement m) fun t => SameMem s t ∧ Recorded s t c 34 1) ∧
      (tcbState b ≤ 1 → 1 < tcbCnt b ∨ (tcbCnt b = 1 ∧ tcbState b = 0) → Calm s c → Happens .decrement s (.decrement m) fun t =>
        SameBut s t (tileKey c off) 2 ∧ tcbCnt (t.tcb c off) = tcbCnt b - 1 ∧ (t.core c).sched = (s.core c).sched ∧
        (m.kind = .tdep → Now s t (.acknowledgement m.src))) ∧
      (tcbState b = 1 → tcbCnt b = 1 → Calm s c → (s.core c).sched.ready = [] → Happens .decrement s (.decrement m) fun t =>
        SameBut s t (tileKey c off) 12 ∧ tcbCnt (t.tcb c off) = 0 ∧ tcbState (t.tcb c off) = 2 ∧
        (t.core c).sched.ready = [(off, s.now, min (idOf c) 4096)] ∧ Now s t (.dispatch c) ∧ (m.kind = .tdep → Now s t (.acknowledgement m.src))))

/-- TASK_ARM_REQUEST at its TCB's core, from that core (R199): status 2 on any STATE but Empty, 3 on a malformed TCB or a foreign ASID, 0 when it becomes
Armed, 1 when it becomes Ready at once. -/
def Claim.TaskArming : Prop :=
  ∀ (s : State) (m : TaskArm), let c := coreNamed m.tcb
    let off := offsetOf m.tcb
    let b := s.tcb c off
    let status (st : Nat) : Event := .fill ⟨m.src, [.scalar m.reg m.seq (BitVec.ofNat 64 st)]⟩
    let bad : Prop := bitsOf b 32 12 ≠ idOf c % 4096 ∨ 4 < bitsOf b 46 3 ∨ bitsOf b 92 4 ≠ 0 ∨ 2 ^ 20 ≤ bitsOf b 96 32 ∨
      (bitsOf b 49 14 ≠ m.asid ∧ m.sup = false)
    m.src.core = c → Keeps s c m.asid →
    ((s.core c).frozen = true → Occurs .taskArmRequest s (.taskArmRequest m) (s.after (16 * Config.cycle) (.taskArmRequest m))) ∧
    ((s.core c).frozen = false → 2 ^ 20 < off + 64 → Occurs .taskArmRequest s (.taskArmRequest m) (s.after 0 (.refusal m.src 6))) ∧
    (∀ cause, (s.core c).frozen = false → off + 64 ≤ 2 ^ 20 → s.readCause c off 16 = some cause →
      Occurs .taskArmRequest s (.taskArmRequest m) (s.after 0 (.refusal m.src cause))) ∧
    ((s.core c).frozen = false → off + 64 ≤ 2 ^ 20 → (s.core c).windowCause off 16 = none → s.anyPoison (tileKey c off) 16 = false →
      (tcbState b ≠ 0 → Occurs .taskArmRequest s (.taskArmRequest m) (s.after 0 (status 2))) ∧
      (tcbState b = 0 → bad → Occurs .taskArmRequest s (.taskArmRequest m) (s.after 0 (status 3))) ∧
      (tcbState b = 0 → ¬ bad → tcbCnt b ≠ 0 → Calm s c → Happens .taskArmRequest s (.taskArmRequest m) fun t =>
        SameBut s t (tileKey c (off + 2)) 1 ∧ tcbState (t.tcb c off) = 1 ∧ Now s t (status 0)) ∧
      (tcbState b = 0 → ¬ bad → tcbCnt b = 0 → Calm s c → (s.core c).sched.ready = [] → Happens .taskArmRequest s (.taskArmRequest m) fun t =>
        SameBut s t (tileKey c (off + 2)) 10 ∧ tcbState (t.tcb c off) = 2 ∧ (t.core c).sched.ready = [(off, s.now, idOf c)] ∧ Now s t (status 1) ∧
        Now s t (.dispatch c)))

/-- SPAWN_REQUEST from the core itself, SPAWN_THROTTLE_EXPIRY, ACTIVE_MESSAGE from the core itself and the handler it starts (R41, R191, R193, R208 to R210). -/
def Claim.SpawnsAndMessages : Prop :=
  ∀ (s : State) (c : Nat), let k := s.core c
    (∀ m : SpawnMsg, s.now < s.cycleEnd → Occurs .spawnRequest s (.spawnRequest m) (s.due s.cycleEnd (.spawnRequest m))) ∧
    (∀ (m x : SpawnMsg) a rest, s.now = s.cycleEnd → m.core = c → m.src.core = c → x.core = c → x.src.core = c → x.src.slot < m.src.slot →
      s.agenda = ⟨a, .spawnRequest x⟩ :: rest → a / Config.cycle = s.now / Config.cycle →
      Occurs .spawnRequest s (.spawnRequest m) (s.due a (.spawnRequest m))) ∧
    (∀ m : SpawnMsg, s.now = s.cycleEnd → m.core = c → m.src.core = c → Keeps s c m.asid →
      (∀ a x, ⟨a, .spawnRequest x⟩ ∈ s.agenda → x.core = c → a / Config.cycle = s.now / Config.cycle →
        idOf c < idOf x.src.core ∨ (idOf c = idOf x.src.core ∧ m.src.slot ≤ x.src.slot)) →
      (k.frozen = true → Occurs .spawnRequest s (.spawnRequest m) (s.after 0 (.busy (.spawn m)))) ∧
      (k.frozen = false → m.handler = false → ∀ n, k.openSlot = some n → k.banksFor m.nbank = true → k.halted = false →
        Happens .spawnRequest s (.spawnRequest m) fun t => SameMem s t ∧ Began t c n m.pc m.asid m.flush m.sup m.args ∧ Now s t (.acknowledgement m.src)) ∧
      (k.frozen = false → m.handler = false → k.openSlot = none ∨ k.banksFor m.nbank = false ∨ k.halted = true → k.sched.spawns.length < 64 →
        Happens .spawnRequest s (.spawnRequest m) fun t => SameMem s t ∧ (t.core c).slots = k.slots ∧ Now s t (.acknowledgement m.src) ∧
          (t.core c).sched.spawns = k.sched.spawns ++ [⟨m.pc, m.nbank, m.asid, m.flush, m.sup, m.args⟩]) ∧
      (k.frozen = false → m.handler = false → k.openSlot = none ∨ k.banksFor m.nbank = false ∨ k.halted = true → 64 ≤ k.sched.spawns.length →
        Occurs .spawnRequest s (.spawnRequest m) (s.after 0 (.busy (.spawn m)))) ∧
      (k.frozen = false → m.handler = true → (k.slot 14).isOpen = true → k.banksFor m.nbank = true →
        Happens .spawnRequest s (.spawnRequest m) fun t => SameMem s t ∧ Began t c 14 m.pc m.asid m.flush true m.args ∧ (t.slot c 14).traph = true ∧
          Now s t (.acknowledgement m.src))) ∧
    (∀ n, Happens .spawnThrottleExpiry s (.spawnThrottleExpiry c n) fun t => SameMem s t ∧ (t.slot c n).throttled = false ∧
      ((k.slot n).st ≠ .held → t.slot c n = { k.slot n with throttled := false }) ∧ ∀ i, i ≠ n → t.slot c i = k.slot i) ∧
    (∀ m : ActiveMsg, m.core = c → m.src.core = c → Keeps s c m.asid →
      (k.frozen = false → k.service.length < 64 → Occurs .activeMessage s (.activeMessage m)
        ((s.modCore c fun k => ({ k with service := k.service ++ [Service.message m] }).ungate).after 0 (.acknowledgement m.src))) ∧
      (k.frozen = true ∨ 64 ≤ k.service.length → Occurs .activeMessage s (.activeMessage m) (s.after 0 (.busy (.amsg m))))) ∧
    (∀ m rest, k.service = .message m :: rest → Happens .serviceHandlerStart s (.serviceHandlerStart c) fun t => SameMem s t ∧
      (t.core c).service = rest ∧ (t.core c).handler = some (m, 0) ∧ (t.slot c 15).st = .ready ∧ (t.slot c 15).pc = m.off ∧
      (t.slot c 15).asid = m.asid ∧ ((t.slot c 15).reg 0).v = fabricAddr m.src.core 0 ∧ ((t.slot c 15).reg 1).v = BitVec.ofNat 64 m.src.slot ∧
      (∀ i, i < 4 → ((t.slot c 15).reg (4 + i)).v = m.args.getD i 0) ∧ ∀ i, i < 15 → t.slot c i = k.slot i) ∧
    (k.handler = none → Occurs .serviceHandlerLimit s (.serviceHandlerLimit c) s) ∧
    (∀ m n, k.handler = some (m, n) → Happens .serviceHandlerLimit s (.serviceHandlerLimit c) fun t => SameMem s t ∧ (t.core c).handler = none ∧
      t.slot c 15 = { orders := (k.slot 15).orders } ∧ Recorded s t c 27 0)

/-- BANK_RISE_COMPLETE, BANK_CLEAR_COMPLETE, CLOCK_GATE and SPAWN_THROTTLE_EXPIRY (R36, R40, R193): a rising bank is On; a cleared slot may issue; a core
with nothing to issue stops its clock, and with the control set the banks that its threads hold enter Retain; a throttled thread may issue again. -/
def Claim.BanksAndClocks : Prop :=
  ∀ (s : State) (c : Nat), let k := s.core c
    (∀ b, (∀ u, (k.bank b).rising = some u → s.now < u) → Occurs .bankRiseComplete s (.bankRiseComplete c b) s) ∧
    (∀ b u, (k.bank b).rising = some u → u ≤ s.now → Happens .bankRiseComplete s (.bankRiseComplete c b) fun t => SameMem s t ∧
      (t.core c).bank b = { k.bank b with power := .on, rising := none } ∧ ∀ i, i ≠ b → (t.core c).bank i = k.bank i) ∧
    (∀ n, Happens .bankClearComplete s (.bankClearComplete c n) fun t => SameMem s t ∧ (t.slot c n).regs = (k.slot n).regs ∧
      ∀ b, (t.core c).bank b = if (k.bank b).holder = some n ∧ (∃ u, (k.bank b).clears = some u ∧ u ≤ s.now)
        then { k.bank b with clears := none } else k.bank b) ∧
    (∀ n, Happens .spawnThrottleExpiry s (.spawnThrottleExpiry c n) fun t => SameMem s t ∧ (t.slot c n).throttled = false ∧ (t.slot c n).regs = (k.slot n).regs ∧
      (t.core c).banks = k.banks ∧ ∀ i, i ≠ n → t.slot c i = k.slot i) ∧
    (s.busy c = true ∨ k.running = false → Occurs .clockGate s (.clockGate c) s) ∧
    (s.busy c = false → k.running = true → Happens .clockGate s (.clockGate c) fun t => SameMem s t ∧ (t.core c).running = false ∧ (t.core c).slots = k.slots ∧
      ∀ b, (t.core c).bank b = if k.retainCtl = true ∧ (k.bank b).holder.isSome = true ∧ (k.bank b).power = .on
        then { k.bank b with power := .retain } else k.bank b)

/-- CONTEXT_IMAGE and MIGRATION_RESEND (R43): an image with a non-zero zero field is refused with 2, one that the admit list does not pass with 1; it
enters the lowest open slot, and without one a gang member is refused with 3 and any other thread is answered busy, as is all at a frozen core.
BARRIER_ARRIVAL (R204). -/
def Claim.ImagesAndArrivals : Prop :=
  ∀ (s : State),
    (∀ m : ImageMsg, let k := s.core m.core
      let x := ({} : Slot).load m.img
      let back (e : Event) : State := s.send m.core m.src.core e
      (imageOk m.img = false → Occurs .contextImage s (.contextImage m) (back (.refusal m.src 2))) ∧
      (imageOk m.img = true → k.gate m.core x.asid x.sup = .refused → Occurs .contextImage s (.contextImage m) (back (.refusal m.src 1))) ∧
      (imageOk m.img = true → k.gate m.core x.asid x.sup = .pass → k.frozen = true → Occurs .contextImage s (.contextImage m) (back (.busy (.image m)))) ∧
      (imageOk m.img = true → k.gate m.core x.asid x.sup = .pass → k.frozen = false → k.openSlot = none →
        Occurs .contextImage s (.contextImage m) (back (if m.gang then .refusal m.src 3 else .busy (.image m)))) ∧
      (∀ n, imageOk m.img = true → k.gate m.core x.asid x.sup = .pass → k.frozen = false → k.openSlot = some n →
        Happens .contextImage s (.contextImage m) fun t => SameMem s t ∧ (t.slot m.core n).st = .ready ∧ (t.slot m.core n).regs = x.regs ∧
          (t.slot m.core n).pc = x.pc ∧ (t.slot m.core n).pred = x.pred ∧ (t.slot m.core n).asid = x.asid ∧ (t.slot m.core n).status = x.status ∧
          (t.slot m.core n).work = x.work ∧ (t.slot m.core n).faultAtQuit = m.fault ∧ (t.slot m.core n).succs = m.succs)) ∧
    (∀ m : ImageMsg, ((s.slot m.src.core m.src.slot).transit.map (·.1) = some m →
        Occurs .migrationResend s (.migrationResend m) (s.sendBig m.src.core m.core 10 (.contextImage m))) ∧
      ((s.slot m.src.core m.src.slot).transit.map (·.1) ≠ some m → Occurs .migrationResend s (.migrationResend m) s)) ∧
    (∀ src w asid, let c := coreNamed w
      let key := tileKey c (offsetOf w)
      let count := leNat (s.bytes key 2)
      let n := leNat (s.bytes (key + 24) 2) + 1
      src.core = c → Keeps s c asid → ((s.core c).frozen = true →
        Occurs .barrierArrival s (.barrierArrival src w asid) (s.after (16 * Config.cycle) (.barrierArrival src w asid))) ∧
      ((s.core c).frozen = false → s.readCause c (offsetOf w) 64 = none → Calm s c →
      (n < count → Happens .barrierArrival s (.barrierArrival src w asid) fun t => SameBut s t (key + 24) 2 ∧ leNat (t.bytes (key + 24) 2) = n ∧
        (t.core c).hpending = (s.core c).hpending) ∧
      (count ≤ n → s.anyPoison (key + 64) (48 * count) = false → Happens .barrierArrival s (.barrierArrival src w asid) fun t =>
        SameBut s t (key + 24) 2 ∧ leNat (t.bytes (key + 24) 2) = 0 ∧
        ∀ i, i < count → let r := leNat (s.bytes (key + 64 + 48 * i) 4)
          coreOf (bitsOf r 12 6) (bitsOf r 0 12) = c →
          ∃ p ∈ (t.core c).hpending, p.h = leNat (s.bytes (key + 2) 1) % 64 ∧ p.change = .arrive)))

namespace Sys2Proof.Claim

/-- The replacement of this number has failed: its serial is about to be aborted, or reverted where it is lost (R183). -/
def Aborts (s t : State) (d i j : Nat) (lost : Bool) : Prop :=
  (∃ y, (t.pop d i).children.find? (fun x => x.1 == j) = some (j, y) ∧ y.ready = false ∧ y.abort = some lost) ∧ Now s t (.popChildCommit d i j)

/-- The two facts that a hub keeps of a launch. -/
def Decided (t : State) (d id : Nat) (failed : Bool) : Prop := ∃ l, (t.hub d).launch? id = some l ∧ l.decided = true ∧ l.failed = failed

/-- A context operation has ended with this status (R394). -/
def Status (t : State) (c st : Nat) : Prop := field (t.core c).ctxctl 8 3 = st ∧ (t.core c).ctxop = none

end Sys2Proof.Claim

/-- POP_CONSUME, POP_CHILD_COMMIT, POP_LINEAGE_APPEND and POP_STEP_CLOSE (R177, R180, R182, R183, R186, R187): the step waits for every FIT, takes and
empties them, replaces the members at the foot of the ranking, commits each child, appends its lineage record in order, and closes with the next
generation. -/
def Claim.PopulationEvents : Prop :=
  ∀ (s : State) (d i : Nat), let p := s.pop d i
    let home (m : PopMember) : Nat := s.homeNow m.core p.asid
    let still : Prop := ∀ m ∈ p.members, (s.core (home m)).frozen = false
    (p.phase = 1 ∨ p.phase = 2 → ¬ still → Occurs .popConsume s (.popConsume d i) (s.after (16 * Config.cycle) (.popConsume d i))) ∧
    (p.phase ≠ 1 → p.phase ≠ 2 → Occurs .popConsume s (.popConsume d i) s) ∧
    (p.phase = 1 → still → (∃ m ∈ p.members, (s.core (home m)).fit.getLsbD 32 = false) → Occurs .popConsume s (.popConsume d i) s) ∧
    (p.phase = 1 → still → (∀ m ∈ p.members, (s.core (home m)).fit.getLsbD 32 = true ∧ (s.core (home m)).lists p.asid = true) →
      Happens .popConsume s (.popConsume d i) fun t => SameMem s t ∧
      (t.pop d i).phase = 2 ∧ (∀ m ∈ p.members, (t.core (home m)).fit.getLsbD 32 = false) ∧
      (t.pop d i).members = p.members.map (fun (m : PopMember) => { m with fit := BitVec.ofNat 32 (s.core (home m)).fit.toNat, loser := false }) ∧
      ⟨s.now + Config.us, .popConsume d i⟩ ∈ t.agenda) ∧
    (p.phase = 2 → still → p.losers ≤ p.members.length → Happens .popConsume s (.popConsume d i) fun t => (t.pop d i).phase = 3 ∧ (t.pop d i).gen = p.gen ∧
      (p.losers = 0 → SameMem s t ∧ Now s t (.popStepClose d i)) ∧
      (let foot (m : PopMember) : Bool := (List.range p.losers).any fun j => ((ranked p.members)[p.members.length - 1 - j]?).any fun x => x.core == m.core
       (t.pop d i).members = p.members.map fun (m : PopMember) => { m with loser := foot m })) ∧
    (∀ j, (p.children.find? fun x => x.1 == j) = none → Occurs .popChildCommit s (.popChildCommit d i j) s ∧
      Occurs .popLineageAppend s (.popLineageAppend d i j) s) ∧
    (∀ j x, (p.children.find? fun x => x.1 == j) = some (j, x) →
      (x.ready = true → Occurs .popChildCommit s (.popChildCommit d i j) s) ∧
      (let c := s.homeNow x.child x.asid
       let again (u : State) : State := u.after (16 * Config.cycle) (.popChildCommit d i j)
       let op (kind : BundleKind) (lost : Bool) : RecordRes × State :=
         s.recordOp c (managerReq d x.asid c kind (fabricAddr c (imageAt x.desc 26 2)) x.serial lost)
       x.ready = false → x.opening = false →
        ((s.core c).frozen = true → Occurs .popChildCommit s (.popChildCommit d i j) (again s)) ∧
        (∀ lost, (s.core c).frozen = false → x.abort = some lost →
          ((op .babort lost).1.status = 6 → Occurs .popChildCommit s (.popChildCommit d i j) (again (op .babort lost).2)) ∧
          ((op .babort lost).1.status ≠ 6 → Occurs .popChildCommit s (.popChildCommit d i j) ((op .babort lost).2.childReady d i j true))) ∧
        ((s.core c).frozen = false → x.abort = none → x.fault ≠ none → Happens .popChildCommit s (.popChildCommit d i j) fun t => SameMem s t ∧
          Aborts s t d i j false ∧ Recorded s t c 31 1) ∧
        ((s.core c).frozen = false → x.abort = none → x.fault = none → (s.core c).lists x.asid = true →
          ((op .bcommit false).1.status = 0 → Occurs .popChildCommit s (.popChildCommit d i j) ((op .bcommit false).2.childReady d i j false)) ∧
          ((op .bcommit false).1.status ≠ 0 →
            Happens .popChildCommit s (.popChildCommit d i j) fun t => Aborts s t d i j ((op .bcommit false).1.status == 7)))) ∧
      (p.nextLog ≠ j ∨ x.ready = false → Occurs .popLineageAppend s (.popLineageAppend d i j) s) ∧
      (let c := s.homeNow x.child p.asid
       let a : Word := BitVec.ofNat 64 (p.field 56 8 + 32 * (p.head % p.field 52 4))
       p.nextLog = j → x.ready = true → s.stalledAt c p.asid [(d, 64, a)] (.popLineageAppend d i j) = none →
         Happens .popLineageAppend s (.popLineageAppend d i j) fun t =>
        (t.pop d i).head = p.head + 1 ∧ (t.pop d i).nextLog = j + 1 ∧ (t.pop d i).children = p.children.drop j ∧ (t.pop d i).phase = p.phase ∧
        (s.translate d 64 p.asid (virtualOf a) true = none → SameMem s t) ∧
        ∀ pa leaf u, s.translate d 64 p.asid (virtualOf a) true = some (pa, leaf, u) → MemOk u → (u.hub d).hbmWaiting = [] →
          u.anyPoison (hbmPlace d pa leaf).key 32 = false → (hbmPlace d pa leaf).line = none → t.bytes (hbmPlace d pa leaf).key 32 =
            natLe 4 x.gen ++ natLe 2 (idOf x.child % 4096 + if x.skip then 4096 else 0) ++ natLe 2 (idOf x.parent % 4096) ++ natLe 8 x.seed.toNat ++
            natLe 4 x.pfit.toNat ++ natLe 4 x.cfit.toNat ++ natLe 4 (devOf x.child % 64 + devOf x.parent % 64 * 64 + x.kind % 4 * 4096) ++
            natLe 4 (if x.skip then 0 else x.crc))) ∧
    (p.phase ≠ 3 → Occurs .popStepClose s (.popStepClose d i) s) ∧
    (p.phase = 3 → Happens .popStepClose s (.popStepClose d i) fun t => SameMem s t ∧ (t.pop d i).phase = 0 ∧ (t.pop d i).gen = p.gen + 1 ∧
      (t.pop d i).members = p.members)

/-- GANG_RESERVE, GANG_CONFIRMATION, GANG_CONFIRM_DEADLINE, GANG_GO, GANG_CANCEL and GANG_MEMBER_START (R202, R203): an unknown launch changes nothing; a
member reserves its slot and confirms, or says why not; the last confirmation makes the launch go, a refusal or a missing answer fails it; its reservations
start at T or are released. -/
def Claim.GangEvents : Prop :=
  ∀ (s : State) (d id : Nat),
    ((s.hub d).launch? id = none → (∀ i, Occurs .gangReserve s (.gangReserve d id i) s) ∧ (∀ i code, Occurs .gangConfirmation s (.gangConfirmation d id i code) s) ∧
      Occurs .gangConfirmDeadline s (.gangConfirmDeadline d id) s ∧ ∀ e, Occurs .gangGo s (.gangGo d id e) s) ∧
    (∀ l, (s.hub d).launch? id = some l → let key := tileKey (coreNamed l.record) (offsetOf l.record)
      (∀ i, let at_ (x : Member) : Nat := s.homeNow x.core l.asid
        let m : Member := { l.member i with core := at_ (l.member i) }
        let k := s.core m.core
        let many : Bool := decide (1 < l.hubs.length)
        let back (code : Nat) : State := s.send m.core (hubOf d) (.gangConfirmation d id i code)
        let synced : Prop := many = true → bitAt (s.hub (devOf m.core)).tstat 8 = true
        let idle : Prop := (k.handle l.hb).arr = 0 ∧ (k.handle l.hb).pend = 0 ∧ s.handleBusy m.core l.hb = false
        (k.frozen = true → Occurs .gangReserve s (.gangReserve d id i) (s.after (16 * Config.cycle) (.gangReserve d id i))) ∧
        (k.frozen = false → ¬ synced → Occurs .gangReserve s (.gangReserve d id i) (back 7)) ∧
        (k.frozen = false → synced → (k.slot m.slot).isOpen = false → Occurs .gangReserve s (.gangReserve d id i) (back 1)) ∧
        (k.frozen = false → synced → (k.slot m.slot).isOpen = true → k.banksFor m.nbank = false → Occurs .gangReserve s (.gangReserve d id i) (back 2)) ∧
        (k.frozen = false → synced → (k.slot m.slot).isOpen = true → k.banksFor m.nbank = true → ¬ idle → Occurs .gangReserve s (.gangReserve d id i) (back 3)) ∧
        (k.frozen = false → synced → (k.slot m.slot).isOpen = true → k.banksFor m.nbank = true → idle → k.lists l.asid = false →
          Occurs .gangReserve s (.gangReserve d id i) (back 4)) ∧
        (k.frozen = false → synced → (k.slot m.slot).isOpen = true → k.banksFor m.nbank = true → idle → k.lists l.asid = true →
          Happens .gangReserve s (.gangReserve d id i) fun t => SameMem s t ∧
            (t.slot m.core m.slot).rsv = some ⟨id, d, l.tick, m.pc, m.args, m.nbank, l.hb, l.asid, l.flush, l.record⟩ ∧
            ((t.core m.core).handle l.hb).buffer = false ∧ ((t.core m.core).handle l.hb).f = false ∧ ((t.core m.core).handle l.hb).arr = 0 ∧
            ((t.core m.core).handle l.hb).tgt = (l.members.countP fun x => at_ x == m.core) % 256)) ∧
      (∀ i code, l.decided = true → ¬ (l.failed = true ∧ code = 0) → Occurs .gangConfirmation s (.gangConfirmation d id i code) s) ∧
      (∀ i code, l.decided = false → code = 0 → (∀ j, j < l.count → l.answers.has j = true → l.answers.get 0 j = 0) → l.answers.has i = false →
        (∃ j, j < l.count ∧ j ≠ i ∧ l.answers.has j = false) → Occurs .gangConfirmation s (.gangConfirmation d id i code)
          (s.modHub d fun h => { h with launches := h.launches.put id { l with answers := l.answers.put i 0 } })) ∧
      (∀ i, l.decided = false → i < l.count → (∀ j, j < l.count → j ≠ i → l.answers.has j = true ∧ l.answers.get 0 j = 0) → Calm s (coreNamed l.record) →
        Happens .gangConfirmation s (.gangConfirmation d id i 0) fun t => Decided t d id false ∧ SameBut s t (key + 16) 1 ∧ t.bytes (key + 16) 1 = [2]) ∧
      (∀ i code, l.decided = false → i < l.count → code ≠ 0 → code < 256 → (∀ j, j < i → l.answers.has j = true → l.answers.get 0 j = 0) →
        Calm s (coreNamed l.record) → Happens .gangConfirmation s (.gangConfirmation d id i code) fun t => Decided t d id true ∧ SameBut s t (key + 16) 8 ∧
          t.bytes (key + 16) 8 = [3, BitVec.ofNat 8 code, 0, 0] ++ natLe 4 i) ∧
      (s.timeOf d + 2000 < l.tick → Occurs .gangConfirmDeadline s (.gangConfirmDeadline d id)
        (s.due (s.now + (l.tick - 2000 - s.timeOf d) * Config.tick) (.gangConfirmDeadline d id))) ∧
      (l.tick ≤ s.timeOf d + 2000 → l.decided = true → Occurs .gangConfirmDeadline s (.gangConfirmDeadline d id) s) ∧
      (∀ i, l.tick ≤ s.timeOf d + 2000 → l.decided = false → i < l.count → l.answers.has i = false →
        (∀ j, j < i → l.answers.has j = true ∧ l.answers.get 0 j = 0) → Calm s (coreNamed l.record) →
        Happens .gangConfirmDeadline s (.gangConfirmDeadline d id) fun t => Decided t d id true ∧ SameBut s t (key + 16) 8 ∧
          t.bytes (key + 16) 8 = [3, 5, 0, 0] ++ natLe 4 i) ∧
      (∀ e, Happens .gangGo s (.gangGo d id e) fun t => SameMem s t ∧ ∀ x ∈ s.reservedFor d id e,
        ⟨s.now + (l.tick - s.timeOf e) * Config.tick, .gangMemberStart x.1 x.2 id⟩ ∈ t.agenda)) ∧
    (∀ e, Happens .gangCancel s (.gangCancel d id e) fun t => SameMem s t ∧ ∀ x ∈ s.reservedFor d id e, (t.slot x.1 x.2).rsv = none ∧ Now s t (.dispatch x.1)) ∧
    (∀ c n, (s.slot c n).rsv = none → Occurs .gangMemberStart s (.gangMemberStart c n id) s) ∧
    (∀ c n r, (s.slot c n).rsv = some r → r.launch ≠ id → Occurs .gangMemberStart s (.gangMemberStart c n id) s) ∧
    (∀ c n r, (s.slot c n).rsv = some r → r.launch = id → r.tick ≤ s.timeOf (devOf c) → Happens .gangMemberStart s (.gangMemberStart c n id) fun t => SameMem s t ∧
      Began t c n r.pc r.asid r.flush false r.args ∧ (t.slot c n).rsv = none ∧ (t.slot c n).gang = true ∧ (t.slot c n).hb = r.hb ∧
      (t.slot c n).work = r.record)

/-- CONTEXT_SAVE, SAVE_FILL_TIMEOUT, CONTEXT_RESTORE, CONTEXT_DISCARD and CONTEXT_KILL (R394 to R398, R404): the statuses of a slot that has no such thread
and of an area that cannot be used; what a save leaves in the area and in the slot; what a restore loads; a thread that is discarded or killed is gone. -/
def Claim.ContextOperations : Prop :=
  ∀ (s : State) (c : Nat), let k := s.core c
    let n := k.ctxSlot
    let x := k.slot n
    (k.ctxop = none → Occurs .contextSave s (.contextSave c) s ∧ Occurs .contextKill s (.contextKill c) s ∧ Occurs .saveFillTimeout s (.saveFillTimeout c) s) ∧
    (∀ op, k.ctxop = some op →
      (op.since = none → x.resident = false → Happens .contextSave s (.contextSave c) fun t => SameMem s t ∧ Status t c 1 ∧ (t.core c).slots = k.slots) ∧
      (op.since = none → x.resident = true → x.saving = false → s.area c (2048 + 4096 * (k.heldAccs n).length) = none →
        Happens .contextSave s (.contextSave c) fun t => SameMem s t ∧ Status t c 4 ∧ (t.core c).slots = k.slots) ∧
      (op.since = none → x.resident = true → x.saving = false → s.area c (2048 + 4096 * (k.heldAccs n).length) ≠ none →
        Happens .contextSave s (.contextSave c) fun t => SameMem s t ∧ (t.slot c n).saving = true ∧ (t.slot c n).st ≠ .ready ∧
          (t.slot c n).regs = x.regs ∧ ⟨s.now + 64 * Config.us, .saveFillTimeout c⟩ ∈ t.agenda) ∧
      (∀ since a, op.since = some since → k.executing n = false → k.waitsFor n = [] → s.area c (2048 + 4096 * (k.heldAccs n).length) = some a →
        Calm s a.1 → Happens .contextSave s (.contextSave c) fun t => Status t c 0 ∧ (t.slot c n).saved = true ∧ (t.slot c n).st = .free ∧
          t.bytes (tileKey a.1 a.2) 160 = x.image (k.shows n) ∧ ∀ b, (b < tileKey a.1 a.2 ∨ tileKey a.1 (a.2 + 2048 + 4096 * (k.heldAccs n).length) ≤ b) →
            (k.streamsOf n).length ≤ 8 → op.cmds.length ≤ 16 → (∀ e ∈ op.cmds, e.cmd.pkt.length ≤ 64) → memByte t.mem b = memByte s.mem b) ∧
      (∀ since, op.since = some since → field k.ctxctl 4 3 = 1 → since + 64 * Config.us ≤ s.now → Happens .saveFillTimeout s (.saveFillTimeout c) fun t =>
        SameMem s t ∧ Status t c 2 ∧ (t.slot c n).saving = false ∧ Recorded s t c 30 1) ∧
      (op.since = none → (x.saved = true ∨ (x.stopped = false ∧ x.st ≠ .waiting ∧ x.st ≠ .held)) → Happens .contextKill s (.contextKill c) fun t =>
        SameMem s t ∧ Status t c 1 ∧ (t.core c).slots = k.slots) ∧
      (x.saved = false → x.stopped = true ∨ x.st = .waiting ∨ x.st = .held → x.out = [] → x.task = false → k.holdsEntry n = false →
        Happens .contextKill s (.contextKill c) fun t => Status t c 0 ∧ (t.slot c n).st = .free ∧ (t.slot c n).saved = false ∧ (t.slot c n).regs = [] ∧
          SameMem s t)) ∧
    (x.saved = false → (Happens .contextRestore s (.contextRestore c) fun t => SameMem s t ∧ Status t c 1 ∧ (t.core c).slots = k.slots) ∧
      Happens .contextDiscard s (.contextDiscard c) fun t => SameMem s t ∧ Status t c 1 ∧ (t.core c).slots = k.slots) ∧
    (x.saved = true → s.area c 2048 = none → Happens .contextRestore s (.contextRestore c) fun t => SameMem s t ∧ Status t c 4 ∧ (t.core c).slots = k.slots) ∧
    (∀ a, x.saved = true → s.area c 2048 = some a → let b := s.bytes (tileKey a.1 a.2) 2048
      (s.anyPoison (tileKey a.1 a.2) 2048 = true → Happens .contextRestore s (.contextRestore c) fun t => SameMem s t ∧ Status t c 4 ∧ (t.core c).slots = k.slots) ∧
      (s.anyPoison (tileKey a.1 a.2) 2048 = false → imageAt b 160 1 = 0 → imageAt b 161 1 % 16 = 0 → areaOk b = true → k.streams.length ≤ 8 →
        (∀ e ∈ k.overflow, e.1 ≠ n) → Happens .contextRestore s (.contextRestore c) fun t => SameMem s t ∧ Status t c 0 ∧ (t.slot c n).saved = false ∧
          (t.slot c n).pc = imageAt b 136 6 ∧ (t.slot c n).asid = imageAt b 142 2 ∧ (t.slot c n).status = BitVec.ofNat 32 (imageAt b 144 4 % 2 ^ 7) ∧
          (t.slot c n).pred = BitVec.ofNat 16 (imageAt b 134 2) ∧ (t.slot c n).work = BitVec.ofNat 64 (imageAt b 152 8) ∧
          (∀ i, i < 16 → ((t.slot c n).reg i).v = BitVec.ofNat 64 (imageAt b (8 * i) 8) ∧ ((t.slot c n).reg i).full = bitAt (imageAt b 128 2) i) ∧
          (t.slot c n).wake = bitAt (imageAt b 161 1) 4 ∧ (t.slot c n).stopped = bitAt (imageAt b 161 1) 5)) ∧
    (x.saved = true → x.task = false → k.holdsEntry n = false → Happens .contextDiscard s (.contextDiscard c) fun t =>
      SameMem s t ∧ Status t c 0 ∧ (t.slot c n).st = .free ∧ (t.slot c n).saved = false ∧ (t.slot c n).regs = [])

/-- HUB_REQUEST (R180, R188, R331, R333, R335, R354, R355): what each of the hub's registers reads as, what becomes of a write, the power of the banks that
a thread holds, forwarding entries, and the manager's statuses. -/
def Claim.HubServes : Prop :=
  ∀ (s : State) (m : HubMsg), let d := m.dev
    let h := s.hub d
    let nat (v : Nat) : Word := BitVec.ofNat 64 v
    let tells (s : State) (v : Word) : State := s.send (hubOf d) m.src.core (.hubAnswer m v none)
    let reads (off : Nat) (v : Word) : Prop := m.ask = .crd off → Occurs .hubRequest s (.hubRequest m) (tells s v)
    reads 0x00 (nat (h.hubdev % 64)) ∧ reads 0x08 (nat h.time) ∧ reads 0x10 (nat (if h.tmaster then 1 else 0)) ∧ reads 0x18 (nat (h.tstat % 1024)) ∧
    reads 0x20 h.xltRoot ∧ (∀ i, i < 64 → reads (0x100 + 8 * i) (h.routes.get 0 i)) ∧
    (∀ i, i < 32 → reads (0x400 + 8 * i) (nat ((if (h.link i).up then 1 else 0) + (if (h.link i).en = true ∨ 16 ≤ i then 2 else 0) +
      (h.link i).resync % 65536 * 2 ^ 16 + (h.link i).retry % 65536 * 2 ^ 32 + (h.link i).retrain % 65536 * 2 ^ 48))) ∧
    (∀ off v, m.ask = .cwr off v →
      (off = 0x00 ∨ off = 0x08 ∨ off = 0x18 → Occurs .hubRequest s (.hubRequest m) (tells s 0)) ∧
      (off = 0x10 → Occurs .hubRequest s (.hubRequest m) (tells (s.after 0 (.tmasterWrite d v)) 0)) ∧
      (∀ i, i < 64 → off = 0x100 + 8 * i → Occurs .hubRequest s (.hubRequest m) (tells (s.after 0 (.routeWrite d i v)) 0)) ∧
      (∀ i, i < 32 → off = 0x400 + 8 * i → Occurs .hubRequest s (.hubRequest m) (tells (s.after 0 (.linkstWrite d i v)) 0)) ∧
      (off = 0x20 → Happens .hubRequest s (.hubRequest m) fun t => SameMem s t ∧ ∀ i, i < 64 →
        (t.hub d).xltRoot.getLsbD i = (decide (i = 0 ∨ (12 ≤ i ∧ i < 41)) && v.getLsbD i))) ∧
    (∀ i, m.ask = .popq i → (h.pop i).configured = false → Occurs .hubRequest s (.hubRequest m) (tells s 0)) ∧
    (∀ i, m.ask = .popq i → (h.pop i).configured = true → m.sup = false → (h.pop i).asid ≠ m.asid →
      Occurs .hubRequest s (.hubRequest m) (s.send (hubOf d) m.src.core (.hubAnswer m (nat i) (some 19)))) ∧
    (∀ i c, m.ask = .popstep i c →
      ((h.pop i).configured = false → c = false → Occurs .hubRequest s (.hubRequest m) (tells s 2)) ∧
      ((h.pop i).configured = true → c = false → (h.pop i).phase ≠ 0 → Occurs .hubRequest s (.hubRequest m) (tells s 1)) ∧
      (c = true → (h.pop i).phase ≠ 1 → Occurs .hubRequest s (.hubRequest m) (tells s 1)) ∧
      (c = true → (h.pop i).phase = 1 → Happens .hubRequest s (.hubRequest m) fun t => SameMem s t ∧ (t.pop d i).phase = 0) ∧
      ((h.pop i).configured = true → c = false → (h.pop i).phase = 0 → Happens .hubRequest s (.hubRequest m) fun t => SameMem s t ∧ (t.pop d i).phase = 1 ∧
        Now s t (.popConsume d i))) ∧
    (∀ c v, m.ask = .bankpw c v → (s.core c).owedBanks v ≤ s.now → Happens .hubRequest s (.hubRequest m) fun t => SameMem s t ∧
      (t.core c).retainCtl = (if v.getLsbD 9 then v.getLsbD 10 else (s.core c).retainCtl) ∧
      ∀ b, b < 8 → ((t.core c).bank b).power = if v.getLsbD b = true ∧ ((s.core c).bank b).holder.isSome = true
        then (if v.getLsbD 8 then .retain else .on) else ((s.core c).bank b).power) ∧
    (∀ c i v, m.ask = .fwd c i v → Happens .hubRequest s (.hubRequest m) fun t => SameMem s t ∧ ∀ j, j < 64 →
      ((t.core c).fwds.get 0 i).getLsbD j = (decide (j < 15 ∨ (16 ≤ j ∧ j < 28)) && v.getLsbD 14 && v.getLsbD j))

/-- HUB_ANSWER (R331, R383, R384): a value fills the register that asked and the thread goes on behind the instruction; a refusal stops it there. -/
def Claim.HubAnswers : Prop :=
  ∀ (s : State) (m : HubMsg) (x : Sys2Proof.Machine.Acc) (h : Hold), Asked s m.src x → x.jrn = none → x.hold = some h → let y := s.slot m.src.core m.src.slot
    let at_ (t : State) : Slot := t.slot m.src.core m.src.slot
    (∀ r v, m.dest = some (r, (y.reg r).seq) → (y.reg r).pend = true → (∀ e ∈ h.takes, e.1 < 16 ∧ e.1 ≠ r ∧ (y.reg e.1).mode = 0) → (y.reg r).mode = 0 →
      Happens .hubAnswer s (.hubAnswer m v none) fun t => Gone s t m.src ∧ SameMem s t ∧ (at_ t).pc = h.next ∧
        (at_ t).reg r = { y.reg r with v := v, full := true, failed := false, pend := false } ∧
        ∀ j, j ≠ r → (at_ t).reg j = if (j, true) ∈ h.takes then { y.reg j with full := false } else y.reg j) ∧
    (∀ v, m.dest = none → (∀ e ∈ h.takes, e.1 < 16 ∧ (y.reg e.1).mode = 0) → Happens .hubAnswer s (.hubAnswer m v none) fun t => Gone s t m.src ∧ SameMem s t ∧
      (at_ t).pc = h.next ∧ ∀ j, (at_ t).reg j = if (j, true) ∈ h.takes then { y.reg j with full := false } else y.reg j) ∧
    (∀ v cause, h.old = none → cause < 64 → ¬ (m.src.slot = 14 ∧ y.traph = true) → Happens .hubAnswer s (.hubAnswer m v (some cause)) fun t =>
      Gone s t m.src ∧ SameMem s t ∧ (at_ t).stopped = true ∧ (at_ t).st = .held ∧ (at_ t).pc = h.addr ∧ (∀ j, (at_ t).reg j = y.reg j) ∧
      Recorded s t m.src.core cause 0)

namespace Sys2Proof.Claim

/-- A copy's line on its way. -/
def isLine : Event → Bool
  | .copyTransferLine _ _ _ _ (some _) => true
  | _ => false

/-- A time exchange that device e receives. -/
def isExchange (e : Nat) : Event → Bool
  | .timeExchange a _ _ _ => a == e
  | _ => false

end Sys2Proof.Claim

/-- ROUTE_WRITE, TMASTER_WRITE, LINKST_WRITE, LINK_UP, LINK_DOWN and ROUTE_REFUSAL_TIMEOUT (R351, R353, R355, R430, R431). -/
def Claim.RoutesAndLinks : Prop :=
  ∀ (s : State) (d : Nat), let h := s.hub d
    (∀ e v, Happens .routeWrite s (.routeWrite d e v) fun t => SameMem s t ∧ ∀ i, i < 64 → ((t.hub d).routes.get 0 e).getLsbD i = (decide (i < 20) && v.getLsbD i)) ∧
    (∀ v, Happens .tmasterWrite s (.tmasterWrite d v) fun t => SameMem s t ∧ (t.hub d).tmaster = v.getLsbD 0 ∧ (t.hub d).time = h.time) ∧
    (∀ v, v.getLsbD 0 = true → (∀ e ∈ s.hubs, e.2.tmaster = false) → Happens .tmasterWrite s (.tmasterWrite d v) fun t =>
      bitsOf (t.hub d).tstat 0 8 = 0 ∧ bitAt (t.hub d).tstat 8 = true) ∧
    (∀ v, v.getLsbD 0 = false → (∀ e ∈ s.hubs, e.1 ≠ d → e.2.tmaster = false) → Happens .tmasterWrite s (.tmasterWrite d v) fun t =>
      bitAt (t.hub d).tstat 8 = false) ∧
    (∀ n v, let l := h.link n
      Happens .linkstWrite s (.linkstWrite d n v) fun t => SameMem s t ∧ let l' := (t.hub d).link n
        l'.en = (if n < 16 then v.getLsbD 1 else l.en) ∧ l'.up = l.up ∧ l'.resync = (if field v 16 16 = 0 then 0 else l.resync) ∧
        l'.retry = (if field v 32 16 = 0 then 0 else l.retry) ∧ l'.retrain = (if field v 48 16 = 0 then 0 else l.retrain) ∧
        ∀ e m, n < 16 → s.linkPeer d n = some (e, m) → v.getLsbD 1 = true → l.up = false → l.training = false → ((s.hub e).link m).en = true →
          ⟨s.now + Config.ms / 2, .linkUp d n⟩ ∈ t.agenda) ∧
    (∀ n, (h.link n).up = true → n < 16 ∨ (h.link n).lost = 0 → Occurs .linkUp s (.linkUp d n) s) ∧
    (∀ n, let enabled : Prop := 16 ≤ n ∨ ((h.link n).en = true ∧ ∃ e m, s.linkPeer d n = some (e, m) ∧ ((s.hub e).link m).en = true)
      (h.link n).up = false ∨ (16 ≤ n ∧ (h.link n).lost ≠ 0) →
        (¬ enabled → Happens .linkUp s (.linkUp d n) fun t => SameMem s t ∧ ((t.hub d).link n).up = false ∧ ((t.hub d).link n).training = false ∧
          (t.hub d).notices = h.notices) ∧
        (enabled → Happens .linkUp s (.linkUp d n) fun t => SameMem s t ∧ ((t.hub d).link n).up = true ∧
          ((t.hub d).link n).training = false ∧ ((t.hub d).link n).lost = (h.link n).lost - 1 ∧ (t.hub d).notices.get 0 0 = h.notices.get 0 0 + 1)) ∧
    (∀ n, n < 16 → (h.link n).up = false → (h.link n).training = false → Occurs .linkDown s (.linkDown d n) s) ∧
    (∀ n, n < 16 → (h.link n).up = true ∨ (h.link n).training = true → Happens .linkDown s (.linkDown d n) fun t => SameMem s t ∧
      ((t.hub d).link n).up = false ∧ ((t.hub d).link n).chans = [] ∧ (t.hub d).notices.get 0 0 = h.notices.get 0 0 + 1 ∧
      ∀ e m, s.linkPeer d n = some (e, m) → Now s t (.linkDown e m)) ∧
    (∀ n, 16 ≤ n → let all : Nat := if n < 24 then 6 else 3
      (all ≤ (h.link n).lost → Occurs .linkDown s (.linkDown d n) s) ∧
      ((h.link n).lost < all → Happens .linkDown s (.linkDown d n) fun t => SameMem s t ∧ ((t.hub d).link n).up = false ∧
        ((t.hub d).link n).lost = (h.link n).lost + 1 ∧ ((t.hub d).link n).chans = (h.link n).chans ∧
        (t.hub d).notices.get 0 0 = h.notices.get 0 0 + 1)) ∧
    (∀ e, (h.peer e).lostAt = none → Occurs .routeRefusalTimeout s (.routeRefusalTimeout d e) s) ∧
    (∀ e at_, (h.peer e).lostAt = some at_ → h.livePaths e ≠ [] ∨ s.now < at_ + Config.ms → Occurs .routeRefusalTimeout s (.routeRefusalTimeout d e) s) ∧
    (∀ e at_, (h.peer e).lostAt = some at_ → h.livePaths e = [] → at_ + Config.ms ≤ s.now → Happens .routeRefusalTimeout s (.routeRefusalTimeout d e) fun t =>
      ((∀ u ∈ (h.peer e).unacked, isLine u.ev = false) → (∀ u ∈ (h.peer e).held, isLine u.ev = false) → SameMem s t) ∧
      ((t.hub d).peer e).unacked = (h.peer e).unacked.filter (fun u => isAnswer u.ev) ∧
      ((t.hub d).peer e).held = (h.peer e).held.filter (fun u => isAnswer u.ev) ∧
      (∀ u ∈ (h.peer e).unacked, ∀ f : FillMsg, u.ev = .fill f → Now s t (.refusal f.asker 9)) ∧
      ∀ u ∈ (h.peer e).unacked, ∀ c (r : Req), u.ev = .remoteRead c r ∨ u.ev = .remoteWrite c r ∨ u.ev = .remoteAtomic c r → Now s t (.refusal r.src 9))

/-- TIME_BASE_TICK, TIME_EXCHANGE_PERIOD and TIME_EXCHANGE (R352, R353): a running hub counts each tick, never backward; an exchange shows the offset from
the acting master, at most 100 ticks are made up at once, and TSTAT[8] says whether the hub is within 4 ticks. -/
def Claim.TimeBase : Prop :=
  ∀ (s : State) (d : Nat), let h := s.hub d
    (Happens .timeBaseTick s (.timeBaseTick d) fun t => SameMem s t ∧ t.now = (s.now / Config.tick + 1) * Config.tick ∧ t.agenda = s.agenda ∧ t.cores = s.cores ∧
      ∀ e, (s.hub e).power ≠ .off → (s.hub e).time < 2 ^ 63 → (s.hub e).time ≤ (t.hub e).time ∧ (t.hub e).time ≤ (s.hub e).time + 2 ∧
        ((s.hub e).slew = 0 → s.hub e ≠ {} → (t.hub e).time = (s.hub e).time + 1)) ∧
    ((∀ n, n < 16 → (h.link n).up = false) → Occurs .timeExchangePeriod s (.timeExchangePeriod d) s) ∧
    (∀ n e m, n < 16 → (h.link n).up = true → s.linkPeer d n = some (e, m) → Happens .timeExchangePeriod s (.timeExchangePeriod d) fun t => SameMem s t ∧
      ⟨s.now + Config.ms, .timeExchangePeriod d⟩ ∈ t.agenda ∧ let o := ((t.hub d).link n).out
      ∃ x ∈ o.frames ++ o.wire, x.ack = true ∧ x.seq = 0 ∧ x.src = d ∧ x.dst = e ∧ isExchange e x.ev = true) ∧
    (∀ time many, Happens .timeExchange s (.timeExchange d none time many) fun t => SameMem s t ∧ (t.hub d).slew = 0 ∧ bitAt (t.hub d).tstat 8 = false ∧
      bitAt (t.hub d).tstat 9 = many ∧ (t.hub d).time = h.time) ∧
    (∀ time many, Happens .timeExchange s (.timeExchange d (some d) time many) fun t => SameMem s t ∧ (t.hub d).slew = 0 ∧ bitAt (t.hub d).tstat 8 = true ∧
      bitsOf (t.hub d).tstat 0 8 = 0 ∧ bitAt (t.hub d).tstat 9 = many ∧ (t.hub d).time = h.time) ∧
    (∀ e (time : Nat) many, e ≠ d → let x : Int := (h.time : Int) - time
      Happens .timeExchange s (.timeExchange d (some e) time many) fun t => SameMem s t ∧ (t.hub d).slew = max (-100) (min 100 (-x)) ∧
        bitAt (t.hub d).tstat 8 = decide (-4 ≤ x ∧ x ≤ 4) ∧ bitAt (t.hub d).tstat 9 = many ∧ (t.hub d).time = h.time ∧
        (-128 ≤ x → x ≤ 127 → bitsOf (t.hub d).tstat 0 8 = (x % 256).toNat))

/-- FABRIC_OPEN and FABRIC_GRANT (R342): a core has four reassembly buffers; a granted message leaves flit by flit, or goes to the device links. -/
def Claim.Reassembly : Prop :=
  ∀ (s : State) (token src dst : Nat),
    ((s.core dst).reasm.length < 4 → Occurs .fabricOpen s (.fabricOpen token src dst)
      ((s.modCore dst fun k => { k with reasm := k.reasm ++ [{ token := token, src := src }] }).send dst src (.fabricGrant token src dst))) ∧
    (4 ≤ (s.core dst).reasm.length → Occurs .fabricOpen s (.fabricOpen token src dst) (s.send dst src (.busy (.openMsg token src dst)))) ∧
    (((s.core src).outbox.find? fun m => m.token == token) = none → Occurs .fabricGrant s (.fabricGrant token src dst) s) ∧
    (∀ m, ((s.core src).outbox.find? fun m => m.token == token) = some m →
      (devOf src ≠ devOf dst → Occurs .fabricGrant s (.fabricGrant token src dst)
        ((s.modCore src fun k => { k with outbox := k.outbox.filter fun x => x.token != token }).sendFar (devOf src) (devOf dst) m.ev (some token) none m.flits)) ∧
      (devOf src = devOf dst → Happens .fabricGrant s (.fabricGrant token src dst) fun t => SameMem s t ∧
        (t.core src).outbox = ((s.core src).outbox.filter fun x => x.token != token) ∧
        (onTorus src = true → (t.router src).inject.length = (s.router src).inject.length + m.flits)))

/-- ROUTER_CYCLE (R340): a router without flits rests; a core's own flit that is already at its router is delivered, and one that is not leaves by its first
productive output; a flit that arrived for this router is ejected; a malformed one is discarded and counted (R339). -/
def Claim.RouterCycles : Prop :=
  ∀ (s : State) (c : Nat), let r := s.router c
    let odd := 4 * (s.now / Config.cycle % 2)
    let even := 4 * ((s.now / Config.cycle + 1) * Config.cycle / Config.cycle % 2)
    r.kept = [] →
    (r.inputs = [] → r.inject = [] → Occurs .routerCycle s (.routerCycle c) (s.setRouter c { r with armed := false })) ∧
    (∀ f : Flit, r.inputs = [] → r.inject = [f] → f.router = c → 18 ≤ f.type ∨ f.zeros ≠ 0 →
      Happens .routerCycle s (.routerCycle c) fun t => SameMem s t ∧ t.agenda = s.agenda ∧ (t.router c).inject = [] ∧
        (t.core f.dst).errcnt.get 0 5 = min ((s.core f.dst).errcnt.get 0 5 + 1) (2 ^ 32 - 1)) ∧
    (∀ f : Flit, r.inputs = [] → r.inject = [f] → f.router = c → f.part = none → f.type < 18 → f.zeros = 0 → s.delays = [] →
      Happens .routerCycle s (.routerCycle c) fun t => SameMem s t ∧ (t.router c).inject = [] ∧ Now s t f.ev) ∧
    (∀ (f : Flit) i, i < 4 → r.inputs = [(i + odd, f)] → r.inject = [] → f.router = c → f.part = none → f.type < 18 → f.zeros = 0 → s.delays = [] →
      Happens .routerCycle s (.routerCycle c) fun t => SameMem s t ∧ (t.router c).inputs = [] ∧ Now s t f.ev) ∧
    (∀ f d rest, r.inputs = [] → r.inject = [f] → f.router ≠ c → productive c f.router = d :: rest → crossesDie c d = false →
      Happens .routerCycle s (.routerCycle c) fun t => SameMem s t ∧
        (t.router (neighbour c d)).inputs.find? (fun x => x.1 == opposite d + even) = some (opposite d + even, f))

namespace Sys2Proof.Claim

/-- One end of a link has retrained in its module m (R344, R430): its channels there have dropped the increments under way and are about to be synced, and
more than 16 retrains of the module in a second take the link down. -/
def Retrained (s t : State) (d n m : Nat) : Prop :=
  let l := (s.hub d).link n
  let its (key : Nat) : Prop := key / 2 % l.modules n = m % l.modules n
  ((t.hub d).link n).retrain = min 65535 (l.retrain + 1) ∧
  (∀ e ∈ ((t.hub d).link n).chans, its e.1 → e.2.unreported = 0) ∧
  (∀ e ∈ l.chans, its e.1 → Now s t (.creditSyncDue d n (e.1 / 2) (e.1 % 2 == 1))) ∧
  (16 < (l.recent.filter fun x => decide (s.now < x.2 + 1000 * Config.ms) && x.1 == m).length + 1 → Now s t (.linkDown d n))

end Sys2Proof.Claim

/-- UCIE_FLIT, CREDIT_SYNC_DUE, CREDIT_SYNC and LINK_RETRAIN (R344, R345, R429, R430): a flit in error is replayed; a flit that crosses leaves its buffer
for its router's input, and the release is counted; a sync, on a chip link in a frame (with SEQ 0 and PATH 0, log 126), carries its own increment, sets ACR
to RET, and RESYNC counts a change; more than 16 retrains of a module in a second take the link down. -/
def Claim.BridgesAndCredits : Prop :=
  ∀ (s : State) (d n : Nat), let l := (s.hub d).link n
    let chan (t : State) (ch : Nat) (fwd : Bool) : Channel := ((t.hub d).link n).channel ch fwd
    let number (ch : Nat) (fwd : Bool) : Nat := 2 * ch + if fwd then 1 else 0
    (∀ fwd, Happens .ucieFlit s (.ucieFlit d n fwd false) fun t => SameMem s t ∧ ((t.hub d).link n).retry = min 65535 (l.retry + 1) ∧
      ⟨s.now + 16 * Config.cycle, .ucieFlit d n fwd true⟩ ∈ t.agenda ∧ ∀ ch, chan t ch (!fwd) = l.channel ch (!fwd) ∧
      (chan t ch fwd).flits = (l.channel ch fwd).flits.map fun x => { x with due := max x.due (s.now + 16 * Config.cycle) }) ∧
    (∀ fwd ch (x : Crossing) (k : Channel), let key := x.at_ % 4 + 4 * ((s.now / Config.cycle + 1) * Config.cycle / Config.cycle % 2)
      l.chans = [(number ch fwd, k)] → k.flits = [x] → x.due ≤ s.now → k.syncing = 0 → (s.router (x.at_ / 4)).inputs.has key = false →
      Happens .ucieFlit s (.ucieFlit d n fwd true) fun t => SameMem s t ∧ (chan t ch fwd).flits = [] ∧ (chan t ch fwd).ret = (k.ret + 1) % 4096 ∧
        (chan t ch fwd).unreported = k.unreported + 1 ∧ (chan t ch fwd).acr = k.acr ∧
        (t.router (x.at_ / 4)).inputs.find? (fun y => y.1 == key) = some (key, x.flit) ∧ ⟨s.now + 16 * Config.cycle, .ucieFlit d n (!fwd) true⟩ ∈ t.agenda) ∧
    (∀ fwd ch (k : Channel), l.chans = [(number ch (!fwd), k)] → k.syncing = 0 → Happens .ucieFlit s (.ucieFlit d n fwd true) fun t => SameMem s t ∧
      (chan t ch (!fwd)).acr = (k.acr + min 63 k.unreported) % 4096 ∧ (chan t ch (!fwd)).unreported = k.unreported - min 63 k.unreported) ∧
    (∀ ch fwd, let k := l.channel ch fwd
      let sync : Event := .creditSync d n ch fwd k.ret (min 63 k.unreported) true
      (s.linkPeer d n = none → Happens .creditSyncDue s (.creditSyncDue d n ch fwd) fun t => SameMem s t ∧
        chan t ch fwd = { k with forward := 0, unreported := 0, syncing := k.syncing + 1 } ∧ ⟨s.now + 16 * Config.cycle, sync⟩ ∈ t.agenda) ∧
      ∀ e j, s.linkPeer d n = some (e, j) → e ≠ d → Happens .creditSyncDue s (.creditSyncDue d n ch fwd) fun t => SameMem s t ∧
        chan t ch fwd = { k with forward := 0, unreported := 0, syncing := k.syncing + 1 } ∧ let o := ((t.hub e).link j).out
        ∃ x ∈ o.frames ++ o.wire, x.ack = true ∧ x.seq = 0 ∧ x.path = 0 ∧ x.src = e ∧ x.dst = d ∧ x.ev = sync) ∧
    (∀ ch fwd ret inc, let k := l.channel ch fwd
      (Happens .creditSync s (.creditSync d n ch fwd ret inc false) fun t => SameMem s t ∧ ((t.hub d).link n).retry = min 65535 (l.retry + 1) ∧
        chan t ch fwd = k ∧ ⟨s.now + 16 * Config.cycle, .creditSync d n ch fwd ret inc true⟩ ∈ t.agenda) ∧
      (Happens .creditSync s (.creditSync d n ch fwd ret inc true) fun t => SameMem s t ∧ (chan t ch fwd).acr = ret ∧ (chan t ch fwd).syncing = k.syncing - 1 ∧
        ((t.hub d).link n).resync = (if (k.acr + inc) % 4096 = ret then l.resync else min 65535 (l.resync + 1)) ∧
        (16 ≤ n → chan t ch (!fwd) = l.channel ch (!fwd)))) ∧
    (∀ m, (s.linkPeer d n = none → Happens .linkRetrain s (.linkRetrain d n m) fun t => SameMem s t ∧ Retrained s t d n m) ∧
      ∀ e j, s.linkPeer d n = some (e, j) → e ≠ d → Happens .linkRetrain s (.linkRetrain d n m) fun t => SameMem s t ∧ Retrained s t d n m ∧
        Retrained s t e j m)

/-- LINK_FRAME, DEVICE_ACKNOWLEDGEMENT and RETRANSMIT_TIMEOUT (R346 to R348): a frame on a link that is down goes nowhere, one in error is replayed; a new
SEQ is performed and acknowledged, one seen before only acknowledged; an acknowledgement frees its entry; a message not acknowledged goes out again with
its SEQ. -/
def Claim.DeviceMessages : Prop :=
  ∀ (s : State) (d n : Nat), let h := s.hub d
    let l := h.link n
    (∀ ok, l.up = false → Occurs .linkFrame s (.linkFrame d n ok) s) ∧
    (l.up = true → Occurs .linkFrame s (.linkFrame d n false)
      ((s.modHub d fun h => h.setLink n
        { l.setOut { l.out with wire := l.out.wire.map fun f => { f with due := max f.due (s.now + 3600) } } with retry := min 65535 (l.retry + 1) }).after
        3600 (.linkFrame d n true))) ∧
    (∀ f : Frame, l.up = true → l.out.wire = [f] → l.out.frames = [] → f.due ≤ s.now → f.dst ≠ d → (∀ e m, s.linkPeer d n = some (e, m) → e ≠ d) →
      let p := (s.hub f.dst).peer f.src
      let back (t : State) : Prop :=
        ((s.hub f.dst).livePaths f.src = [] → s.peerLink f.dst f.src = none → ((t.hub f.dst).peer f.src).acks = p.acks ++ [f.seq]) ∧
        ∀ q, (s.hub f.dst).livePaths f.src = [q] → let o := ((t.hub f.dst).link ((s.hub f.dst).pathLink f.src q)).out
          ∃ x ∈ o.frames ++ o.wire, x.ack = true ∧ x.seq = f.seq ∧ x.src = f.dst ∧ x.dst = f.src ∧ x.ev = .deviceAcknowledgement f.src f.dst f.seq
      (f.ack = true → Happens .linkFrame s (.linkFrame d n true) fun t => SameMem s t ∧ ((t.hub d).link n).out.wire = [] ∧
        ((∀ e m time many, f.ev ≠ .timeExchange e (some m) time many) → Now s t f.ev) ∧
        ∀ e m time many, f.ev = .timeExchange e (some m) time many → Now s t (.timeExchange e (some m) (s.hub m).time many)) ∧
      (f.ack = false → p.highest = none → f.part = (0, 1) → p.got = [] → f.token = none → s.delays = [] →
        Happens .linkFrame s (.linkFrame d n true) fun t => SameMem s t ∧ ((t.hub d).link n).out.wire = [] ∧
          ((t.hub f.dst).peer f.src).highest = some f.seq ∧ Now s t f.ev ∧ back t) ∧
      (f.ack = false → p.highest = none → f.part = (0, 2) → p.got = [] → Happens .linkFrame s (.linkFrame d n true) fun t => SameMem s t ∧
        ((t.hub d).link n).out.wire = [] ∧ (t.hub f.dst).peer f.src = { p with got := [(f.seq, 0)] }) ∧
      (f.ack = false → p.highest = some f.seq → f.part = (0, 1) → Happens .linkFrame s (.linkFrame d n true) fun t => SameMem s t ∧
        ((t.hub d).link n).out.wire = [] ∧ ((t.hub f.dst).peer f.src).highest = p.highest ∧ ((t.hub f.dst).peer f.src).window = p.window ∧ back t ∧
        ∀ x ∈ t.agenda, x ∈ s.agenda ∨ x.ev = .creditSyncDue d n 0 true ∨ ∃ e m, x.ev = .linkFrame e m true)) ∧
    (∀ e seq, ((h.peer e).unacked.find? fun u => u.seq == seq) = none → Occurs .deviceAcknowledgement s (.deviceAcknowledgement d e seq) s ∧
      Occurs .retransmitTimeout s (.retransmitTimeout d e seq) s) ∧
    (∀ e seq u, ((h.peer e).unacked.find? fun u => u.seq == seq) = some u →
      ((h.peer e).held = [] → Happens .deviceAcknowledgement s (.deviceAcknowledgement d e seq) fun t => SameMem s t ∧ t.agenda = s.agenda ∧
        ((t.hub d).peer e).unacked = ((h.peer e).unacked.filter fun x => x.seq != seq)) ∧
      (∀ x rest, (h.peer e).held = x :: rest → (h.peer e).unacked.length ≤ 256 →
        Happens .deviceAcknowledgement s (.deviceAcknowledgement d e seq) fun t => SameMem s t ∧ ((t.hub d).peer e).held = rest ∧
          ∃ v ∈ ((t.hub d).peer e).unacked, v.ev = x.ev ∧ v.seq = (h.peer e).nextSeq ∧ v.flits = x.flits) ∧
      (h.livePaths e = [] → isAnswer u.ev = false →
        Occurs .retransmitTimeout s (.retransmitTimeout d e seq) (s.after (20 * Config.us) (.retransmitTimeout d e seq))) ∧
      (∀ p, h.livePaths e = [p] → Happens .retransmitTimeout s (.retransmitTimeout d e seq) fun t => SameMem s t ∧
        (let o := ((t.hub d).link (h.pathLink e p)).out
         ∀ i, i < u.flits → ∃ x ∈ o.frames ++ o.wire, x.src = d ∧ x.dst = u.dst ∧ x.seq = u.seq ∧ x.path = p ∧ x.ev = u.ev ∧ x.token = u.token ∧
           x.part = (i, u.flits)) ∧
        ⟨s.now + 20 * Config.us, .retransmitTimeout d e seq⟩ ∈ t.agenda))

/-- TRANSLATION_REQUEST and TRANSLATION_WALK_COMPLETE (R104, R105): with translation off, no leaf, or a write that its leaf forbids, the access is refused
with 11; a buffered leaf sends it on at once, a walk takes six reads and its leaf is kept. A page that a walk for a job meets for the first time reads as
zero (R97; when, log 25). -/
def Claim.Translations : Prop :=
  ∀ (s : State) (r : Req), let d := devOf r.src.core
    let h := s.hub d
    let st := stationOf r.src.core
    let va := virtualOf r.addr
    let buffered := h.tlb.find? fun b => b.station == st && b.asid == r.asid && b.page == pageNo b.big va
    let refused := s.after 0 (.refusal r.src 11)
    h.compressed = [] →
    (h.xltRoot.getLsbD 0 = false → Occurs .translationRequest s (.translationRequest r) refused ∧ Occurs .translationWalkComplete s (.translationWalkComplete r) refused) ∧
    (h.xltRoot.getLsbD 0 = true → buffered = none →
      Occurs .translationRequest s (.translationRequest r) (s.after (600 * Config.tick) (.translationWalkComplete r)) ∧
      (s.fullWalk d r.asid va (opWrites r.op) = none → Occurs .translationWalkComplete s (.translationWalkComplete r) refused) ∧
      ∀ w : Walked, s.fullWalk d r.asid va (opWrites r.op) = some w → opWrites r.op = false →
        let leaf := leafFor w.leaf w.big va
        let frame := leafFrame w.leaf
        let known : Prop := ∃ p, (h.pages.find? fun p => p.at_ == w.at_) = some p ∧ p.frame = frame ∧ p.span = leafSpan w.leaf w.big ∧ p.asid ≠ 0
        let kept (t : State) : Prop := ⟨s.now + 100 * Config.tick, .hbmChannelRequest r (physOf leaf va) leaf⟩ ∈ t.agenda ∧
          ⟨st, r.asid, pageNo w.big va, w.big, w.leaf, w.at_⟩ ∈ (t.hub d).tlb
        (r.asid = 0 ∨ known → Happens .translationWalkComplete s (.translationWalkComplete r) fun t => SameMem s t ∧ kept t) ∧
        (r.asid ≠ 0 → h.pages = [] → MemOk s → Happens .translationWalkComplete s (.translationWalkComplete r) fun t => kept t ∧
          ∀ a, memByte t.mem a = if hbmKey d frame ≤ a ∧ a < hbmKey d frame + leafSpan w.leaf w.big then 0 else memByte s.mem a)) ∧
    (∀ b, h.xltRoot.getLsbD 0 = true → buffered = some b →
      (opWrites r.op = true → b.leaf.getLsbD 2 = false → Occurs .translationRequest s (.translationRequest r) refused) ∧
      (opWrites r.op = false → Occurs .translationRequest s (.translationRequest r)
        (s.after (100 * Config.tick) (.hbmChannelRequest r (physOf (leafFor b.leaf b.big va) va) (leafFor b.leaf b.big va)))))

/-- HBM_CHANNEL_REQUEST, BULK_BUFFER_INVALIDATION_ACK and CAPACITY_EXPANSION (R96, R108 to R111): an access is performed and answered after a read or
write time, refused, or held, at most 256 of a channel; the last acknowledgement completes a store; what waited for a page goes on when it stands in a frame,
and a pool without one puts the stall on record. -/
def Claim.HbmRequests : Prop :=
  ∀ (s : State),
    (∀ (r : Req) pa leaf, let d := devOf r.src.core
      let h := s.hub d
      let p := hbmPlace d pa leaf
      (∀ n v t value, r.op = .store n v → s.performAt p r.asid r.op = .done t value 0 0 → p.live = true → (t.hub d).hbmWaiting = [] → (t.hub d).lineBufs = [] →
        Happens .hbmChannelRequest s (.hbmChannelRequest r pa leaf) fun u => u.mem = t.mem ∧ u.pres = t.pres ∧ u.poison = t.poison ∧ u.cores = t.cores ∧
          ⟨t.now + 100 * Config.tick, .acknowledgement r.src⟩ ∈ u.agenda) ∧
      (∀ n t value, r.op = .load n → s.performAt p r.asid r.op = .done t value 0 0 → (t.hub d).lost = [] → (t.hub d).hbmWaiting = [] →
        Occurs .hbmChannelRequest s (.hbmChannelRequest r pa leaf)
          (t.after (100 * Config.tick) (.fill ⟨r.src, fillParts (t.regsOf r.src) [value, 0]⟩))) ∧
      (∀ n cause, r.op = .load n → s.performAt p r.asid r.op = .refuse cause → h.hbmWaiting = [] →
        Occurs .hbmChannelRequest s (.hbmChannelRequest r pa leaf) (s.after 0 (.refusal r.src cause))) ∧
      (∀ n, r.op = .loadFull n → s.performAt p r.asid r.op = .wait →
        let queued := h.hbmWaiting.countP fun x => channelOf x.2.1 == channelOf pa
        (queued < 256 → Occurs .hbmChannelRequest s (.hbmChannelRequest r pa leaf)
          (s.modHub d fun h => { h with hbmWaiting := h.hbmWaiting ++ [(r, pa, leaf)] })) ∧
        (256 ≤ queued → Occurs .hbmChannelRequest s (.hbmChannelRequest r pa leaf) (s.after (16 * Config.cycle) (.busy (.req r)))))) ∧
    (∀ a line x, s.accOf a = some x → x.done = true → (∀ y ∈ (s.slot a.core a.slot).out, y.id = a.id → y = x) →
      Happens .bulkBufferInvalidationAck s (.bulkBufferInvalidationAck a line) fun t => SameMem s t ∧
        (let owed (u : State) : Nat := (u.hub (devOf a.core)).lineBufs.countP fun b => b.line == line && b.stale.contains a.id
         owed t = owed s - 1) ∧
        (∀ b ∈ (s.hub (devOf a.core)).lineBufs, b.line ≠ line ∨ a.id ∉ b.stale → b ∈ (t.hub (devOf a.core)).lineBufs) ∧
        (x.owed ≤ 1 → Gone s t a) ∧ (1 < x.owed → t.accOf a = some { x with owed := x.owed - 1 })) ∧
    (∀ d frame err, let stall := (s.hub d).expanding.find? fun e => e.frame == frame
      let leaf (x : Stall) : Word := s.value (hbmKey d x.at_) 8
      let rests (x : Stall) : Prop := leafFrame (leaf x) / 2 ^ 16 = frame ∧ (s.hub d).isCompressed (leaf x) = true
      (stall = none → Occurs .capacityExpansion s (.capacityExpansion d frame err) s) ∧
      (∀ x : Stall, stall = some x → ¬ rests x → Happens .capacityExpansion s (.capacityExpansion d frame err) fun t => SameMem s t ∧
        (∀ e ∈ (t.hub d).expanding, e.frame ≠ frame) ∧ ∀ e ∈ x.evs, Now s t e) ∧
      (∀ (x : Stall) y u, stall = some x → rests x → s.expand d (s.value (hbmKey d x.at_) 8) x.at_ err = some (y, u) →
        Happens .capacityExpansion s (.capacityExpansion d frame err) fun t => t.mem = u.mem ∧
          (∀ e ∈ (t.hub d).expanding, e.frame ≠ frame) ∧ ∀ e ∈ x.evs, Now s t e) ∧
      (∀ x : Stall, stall = some x → rests x → (s.hub d).pool = [] → Happens .capacityExpansion s (.capacityExpansion d frame err) fun t => SameMem s t ∧
        Recorded s t x.core 37 1 ∧ ⟨s.now + 64 * Config.us, .poolExhaustedTimeout d frame⟩ ∈ t.agenda ∧
        ∀ e ∈ (t.hub d).expanding, e.frame = frame → e.starved = some s.now))

/-- PARITY_REBUILD, HBM_REFRESH, HBM_SCRUB, NOT_LIVE_LINE_EXPIRY, TILE_SCRUB and STATE_STORAGE_ERROR (R219, R389, R422, R424, R426, R427): what a rebuild
can restore keeps its content and is counted, the rest is poisoned; a not-live line is lost 32 ms after its last write; a single-bit error is corrected, a
double-bit one poisons its granule; an error of a core's own storage is fatal. -/
def Claim.LineErrors : Prop :=
  ∀ (s : State) (d line : Nat), let h := s.hub d
    let errors (t : State) (c i : Nat) : Prop := (t.core c).errcnt.get 0 i = min ((s.core c).errcnt.get 0 i + 1) (2 ^ 32 - 1)
    let dead (t : State) : Prop := ∀ i, i < 8 → t.poisoned (hbmKey d (64 * line) + 8 * i) = true
    (∀ p, h.lost.contains line = true → Occurs .parityRebuild s (.parityRebuild d line p) s) ∧
    (∀ p, h.lost.contains line = false → s.canRebuild d line p = false → Happens .parityRebuild s (.parityRebuild d line p) fun t => SameMem s t ∧ dead t) ∧
    (∀ p, h.lost.contains line = false → s.canRebuild d line p = true → s.requestTo d line = none → Occurs .parityRebuild s (.parityRebuild d line p) s) ∧
    (∀ p x c, h.lost.contains line = false → s.canRebuild d line p = true → s.requestTo d line = some (x, c) →
      Happens .parityRebuild s (.parityRebuild d line p) fun t => SameMem s t ∧ t.poison = s.poison ∧ errors t c 2 ∧
        ⟨s.now + 3 * Config.us, x.ev⟩ ∈ t.agenda) ∧
    (∀ r pa leaf, devOf r.src.core = d → pa / 64 = line → s.asksLine d line (.hbmChannelRequest r pa leaf) = some r.src.core) ∧
    (∀ a b, Occurs .hbmRefresh s (.hbmRefresh a b) s) ∧
    (∀ err p, err = false ∨ h.lost.contains line = true → Occurs .hbmScrub s (.hbmScrub d line err p) s) ∧
    (∀ p, h.lost.contains line = false → Happens .hbmScrub s (.hbmScrub d line true p) fun t => SameMem s t ∧
      (t.hub d).notices.get 0 0 = h.notices.get 0 0 + 1 ∧ (s.canRebuild d line p = true → t.poison = s.poison) ∧ (s.canRebuild d line p = false → dead t)) ∧
    (∀ since, ¬ (h.lastWrite.has line = true ∧ h.lastWrite.get 0 line = since) → Occurs .notLiveLineExpiry s (.notLiveLineExpiry d line since) s) ∧
    (h.lastWrite.has line = true → s.attrOf d line ≠ 3 → Happens .notLiveLineExpiry s (.notLiveLineExpiry d line (h.lastWrite.get 0 line)) fun t =>
      SameMem s t ∧ t.pres = s.pres ∧ (t.hub d).lastWrite.has line = false ∧ (t.hub d).lost = h.lost) ∧
    (h.lastWrite.has line = true → s.attrOf d line = 3 → h.hbmWaiting = [] → MemOk s →
      Happens .notLiveLineExpiry s (.notLiveLineExpiry d line (h.lastWrite.get 0 line)) fun t =>
        SameBut s t (hbmKey d (64 * line)) 64 ∧ (t.hub d).lost.contains line = true ∧
        ∀ i, i < 64 → memByte t.mem (hbmKey d (64 * line) + i) = 0 ∧ (∀ x, t.present x (hbmKey d (64 * line) + i) = false) ∧
          t.poisoned (hbmKey d (64 * line) + i) = false) ∧
    (∀ c g err, let a := tileKey c (16 * (g % 2 ^ 16))
      (s.poisoned a = true ∨ (err ≠ 1 ∧ err ≠ 2) → Occurs .tileScrub s (.tileScrub c g err) s) ∧
      (s.poisoned a = false → err = 1 → Happens .tileScrub s (.tileScrub c g err) fun t => SameMem s t ∧ t.poison = s.poison ∧ errors t c 0) ∧
      (s.poisoned a = false → err = 2 → Happens .tileScrub s (.tileScrub c g err) fun t => SameMem s t ∧ t.poisoned a = true ∧ errors t c 1)) ∧
    (∀ c n what, (s.core c).traps.count < 32 → Happens .stateStorageError s (.stateStorageError c (some n) what) fun t => SameMem s t ∧
      (t.core c).traps.count = (s.core c).traps.count + 1 ∧
      let x := (t.core c).traps.ring.get 0 (((s.core c).traps.head + (s.core c).traps.count) % 32)
      field x 0 6 = 40 ∧ field x 6 2 = 3 ∧ field x 12 1 = 0 ∧ field x 192 32 = what % 2 ^ 32 ∧
      (n < 16 → (s.slot c n).st ≠ .free → (t.slot c n).stopped = true ∧ (t.slot c n).st = .held))

namespace Sys2Proof.Claim

/-- The cores are listed once each, in rising order, as in every state that a run reaches. -/
def Listed (s : State) : Prop := (s.cores.map (·.1)).Pairwise (· < ·)

/-- Every byte from a up to, not including, b reads as after reset, and every other byte as before. -/
def Wiped (s t : State) (a b : Nat) : Prop := (∀ x, a ≤ x → x < b → memByte t.mem x = 0) ∧ ∀ x, x < a ∨ b ≤ x → memByte t.mem x = memByte s.mem x

/-- The compute dies of a package have lost their state (R434). -/
def DiesReset (s t : State) (d : Nat) : Prop :=
  (∀ c, devOf c = d → isCompute c = true → t.core c = {}) ∧
  (∀ x, tileKey (coreOf d 0) 0 ≤ x → x < tileKey (coreOf d 4096) 0 → memByte t.mem x = 0) ∧ (t.hub d).power = .standby ∧
  (t.hub d).xltRoot.getLsbD 0 = false ∧ (t.hub d).tlb = [] ∧ (∀ b ∈ (t.hub d).lineBufs, b.station = 64) ∧ (t.hub d).flash = (s.hub d).flash ∧ (t.hub d).time = (s.hub d).time ∧
  (∀ e ∈ (s.hub d).lastWrite, (t.hub d).lost.contains e.1 = true) ∧ (t.hub d).pages = (s.hub d).pages ∧
  ((s.hub d).lastWrite = [] → s.notLivePages d = [] → ∀ pa, pa < 2 ^ 41 → memByte t.mem (hbmKey d pa) = memByte s.mem (hbmKey d pa)) ∧
  (Listed s → ∀ c, devOf c ≠ d ∨ isCompute c = false → t.core c = s.core c)

end Sys2Proof.Claim

/-- PACKAGE_RESET_RELEASE (R358): the five boot steps, each after the last; in the second HUBDEV becomes the number in the configuration block (which lies at a
place of the model's choice, log 2), and the package goes by it from then on, unless another one does already (log 74). -/
def Claim.Boot : Prop :=
  ∀ (s : State) (d : Nat), let h := s.hub d
    let sup := coreOf d 4096
    let block := (h.config ++ List.replicate 4096 0).take 4096
    let dev := imageAt block 0 1 % 64
    let taken : Prop := d ≠ dev ∧ s.hubs.has dev = true ∧ 1 < (s.hub dev).boot
    let next (t : State) (ms e n : Nat) : Prop := ⟨s.now + ms * Config.ms, .packageResetRelease e n⟩ ∈ t.agenda
    (Happens .packageResetRelease s (.packageResetRelease d 0) fun t => (∀ c, devOf c = d → t.core c = {}) ∧ (t.hub d).boot = 1 ∧
      (t.hub d).power = .standby ∧ (t.hub d).flash = h.flash ∧ (t.hub d).config = h.config ∧ (t.hub d).measured = false ∧ (t.hub d).links = [] ∧
      (∀ x, tileKey (coreOf d 0) 0 ≤ x → x < tileKey (coreOf (d + 1) 0) 0 → memByte t.mem x = 0) ∧ next t 200 d 1) ∧
    (MemOk s → h.flash.length ≤ 0xFE000 → taken ∨ d = dev →
      Happens .packageResetRelease s (.packageResetRelease d 1) fun t => (t.hub d).boot = 2 ∧ t.bytes (tileKey sup 0) h.flash.length = h.flash ∧
        t.bytes (tileKey sup 0xFE000) 4096 = block ∧ (t.hub d).hubdev = dev ∧ next t 20 d 2) ∧
    (MemOk s → h.flash.length ≤ 0xFE000 → ¬ taken → d ≠ dev →
      Happens .packageResetRelease s (.packageResetRelease d 1) fun t => (t.hub dev).boot = 2 ∧ (t.hub dev).hubdev = dev ∧ (t.hub dev).flash = h.flash ∧
        t.bytes (tileKey (coreOf dev 4096) 0) h.flash.length = h.flash ∧ t.bytes (tileKey (coreOf dev 4096) 0xFE000) 4096 = block ∧
        t.hubs.has d = s.hubs.has dev ∧ next t 20 dev 2) ∧
    (Happens .packageResetRelease s (.packageResetRelease d 2) fun t => SameMem s t ∧ (t.hub d).boot = 3 ∧ (t.hub d).measured = true ∧
      (t.hub d).meas0 = sha384 h.flash ∧ (t.hub d).meas1 = sha384 block ∧ next t 1 d 3) ∧
    (Happens .packageResetRelease s (.packageResetRelease d 3) fun t => SameMem s t ∧ (t.hub d).boot = 4 ∧ (t.hub d).power = .active ∧
      (∀ i, 16 ≤ i → i < 32 → ((t.hub d).link i).up = true) ∧ (∀ i, i < 16 → ((t.hub d).link i).up = false) ∧ next t 0 d 4) ∧
    (Happens .packageResetRelease s (.packageResetRelease d 4) fun t => SameMem s t ∧ (t.hub d).boot = 5 ∧ (t.core sup).running = true ∧
      (t.slot sup 0).st = .ready ∧ (t.slot sup 0).pc = 0 ∧ (t.slot sup 0).asid = 0 ∧ (t.slot sup 0).sup = true ∧ (t.slot sup 0).work = 0 ∧
      (∀ i, (t.slot sup 0).reg i = {}) ∧ t.agenda = s.agenda)

/-- CORE_RESET, COMPUTE_DIE_RESET, JUNCTION_OVER_TEMPERATURE and POWER_LOSS (R332, R363, R365, R389, R434): what each of them loses, and what it leaves; a
package that is Off has no dies to reset. -/
def Claim.Resets : Prop :=
  ∀ (s : State), MemOk s →
    (∀ c, Happens .coreReset s (.coreReset c) fun t => t.core c = {} ∧ Wiped s t (tileKey c 0) (tileKey c (2 ^ 20)) ∧ t.hubs = s.hubs ∧
      (∀ off, off < 2 ^ 20 → t.poisoned (tileKey c off) = false) ∧ (Listed s → ∀ e, e ≠ c → t.core e = s.core e)) ∧
    (∀ d, (s.hub d).power = .off → Occurs .computeDieReset s (.computeDieReset d) s ∧ Occurs .junctionOverTemperature s (.junctionOverTemperature d) s) ∧
    (∀ d, (s.hub d).power ≠ .off → Happens .computeDieReset s (.computeDieReset d) fun t => DiesReset s t d ∧ (t.hub d).flashLog = (s.hub d).flashLog) ∧
    (∀ d, (s.hub d).power ≠ .off → Happens .junctionOverTemperature s (.junctionOverTemperature d) fun t => DiesReset s t d ∧
      (t.hub d).flashLog = (s.hub d).flashLog ++ [115]) ∧
    (∀ d, let h := s.hub d
      Happens .powerLoss s (.powerLoss d) fun t => (∀ c, devOf c = d → t.core c = {}) ∧
        t.hub d = { part := h.part, formM := h.formM, flash := h.flash, config := h.config, flashLog := h.flashLog, power := .off } ∧
        (∀ x, tileKey (coreOf d 0) 0 ≤ x → x < tileKey (coreOf (d + 1) 0) 0 → memByte t.mem x = 0) ∧ (∀ pa, pa < 2 ^ 41 → memByte t.mem (hbmKey d pa) = 0) ∧
        (Listed s → ∀ c, devOf c ≠ d → t.core c = s.core c))

/-- GOVERNOR_SAMPLE and MEASUREMENT_REPORT_REQUEST (R361, R362, R364, R366): the matrix clock goes a step down while the average is above the limit of the
package's form, and a step up after 100 samples below 95 % of it; a report, or code 1 while there is no measurement, answers a datagram's source. What is
no request gets no answer (log 108). -/
def Claim.PowerAndReports : Prop :=
  ∀ (s : State) (d : Nat), let h := s.hub d
    (∀ power hot, let xs := (power :: h.samples).take 100
      let limit := (if h.formM then 3200 else 3000) * xs.length
      let clock (m : Nat) : Prop := Happens .governorSample s (.governorSample d power hot) fun t => SameMem s t ∧ (t.hub d).matrixMHz = m ∧ (t.hub d).samples = xs
      (h.power ≠ .active → Occurs .governorSample s (.governorSample d power hot) s) ∧
      (h.power = .active → hot = false → limit < xs.sum → clock (max 1200 (h.matrixMHz - 100))) ∧
      (h.power = .active → hot = false → xs.sum ≤ limit → 95 * limit ≤ 100 * xs.sum ∨ h.belowFor ≠ 99 → clock h.matrixMHz) ∧
      (h.power = .active → hot = false → 100 * xs.sum < 95 * limit → h.belowFor = 99 → clock (min 2400 (h.matrixMHz + 100))) ∧
      (h.power = .active → hot = true → h.hotFor = 99 → xs.sum ≤ limit → 95 * limit ≤ 100 * xs.sum → clock (max 1200 (h.matrixMHz - 100)))) ∧
    (∀ source port nonce, let e : Event := .measurementReportRequest d source port nonce
      (h.power = .off ∨ port ≠ 4096 ∨ nonce.length ≠ 48 → Occurs .measurementReportRequest s e s) ∧
      (h.power ≠ .off → port = 4096 → nonce.length = 48 → h.measured = false → Occurs .measurementReportRequest s e
        (s.modHub d fun h => { h with datagrams := h.datagrams ++ [⟨source, [1, 0, 0, 0]⟩] })) ∧
      (h.power ≠ .off → port = 4096 → nonce.length = 48 → h.measured = true → Happens .measurementReportRequest s e fun t => SameMem s t ∧
        ∃ rest, rest.length = 288 ∧ (t.hub d).datagrams = h.datagrams ++ [⟨source, [1, 0, 0, 0] ++ natLe 1 h.hubdev ++ [0, 0, 0] ++ nonce ++ natLe 8 h.time ++
          (natLe 48 h.meas0.toNat).reverse ++ (natLe 48 h.meas1.toNat).reverse ++ rest⟩]))

/-! ## The statements -/

/-- Decoding an encoded instruction gives the instruction back (R220, R221, R222, R223, R224, R225, R226, R227, R228). -/
def Obligations.DecodeOfEncode : Prop := Claim.DecodeOfEncode

/-- A step runs the instruction that the words at the program counter decode to (R20, R24, R218, R220, R250, R363). The model's choices here: that
events of one time are taken in the order of their placing (log 8), and which events ask a bank first (log 94). -/
def Obligations.StepRunsTheDecodedInstruction : Prop := Claim.IssueRunsTheDecodedInstruction ∧ Claim.StepRunsTheDecodedInstruction ∧ Claim.StepPerformsTheDueEvent

/-- A fetch that fails takes its exact trap in place of the instruction (R20, R242, R384). -/
def Obligations.FetchTraps : Prop := Claim.FetchTraps

/-- Words written out from the encoding tables decode to the instructions they stand for (R220, R221, R222, R223, R224, R225, R226, R227, R228, R234,
R235, R242). -/
def Obligations.WordsAsTheSpecWritesThem : Prop := Claim.WordsAsTheSpecWritesThem

/-- The state at reset is that after the boot of a package, and its memory has the canonical form (R358). -/
def Obligations.ResetState : Prop := Claim.ResetState ∧ Claim.ResetMemoryIsCanonical

/-- Every step keeps the canonical form of memory (R89, R97). -/
def Obligations.EveryStepKeepsMemoryCanonical : Prop := Claim.EveryStepKeepsMemoryCanonical

/-- Reading memory after a write gives the bytes written, and no other byte changes (R5, R89). -/
def Obligations.MemoryReadsWhatWasWritten : Prop := Claim.MemoryReadsWhatWasWritten

/-- What reading and writing a scalar register does in each of its modes (R29, R30, R31, R101, R205). -/
def Obligations.ScalarOperands : Prop := Claim.ScalarReads ∧ Claim.ScalarReadsConsume ∧ Claim.LinkReadsPop ∧ Claim.ScalarWrites

/-- What a scalar result leaves unchanged (R33, R250). -/
def Obligations.ScalarResultFrame : Prop := Claim.ScalarResultFrame

/-- When a scalar form stops or waits, and that waiting has no other effect (R22, R28, R29, R31, R38, R101, R217, R249). -/
def Obligations.ScalarFormsStop : Prop := Claim.ScalarFormsStop ∧ Claim.WaitingHasNoEffect

/-- An instruction whose guard is false acts as nop (R226, R243). -/
def Obligations.FalseGuardIsNop : Prop := Claim.FalseGuardIsNop

/-- A user thread that issues a privileged form takes the privilege trap (R241, R243). -/
def Obligations.PrivilegeTrap : Prop := Claim.PrivilegeTrap

/-- The switch marker holds a thread while its accesses are outstanding (R26). -/
def Obligations.SwitchMarker : Prop := Claim.SwitchMarker

/-- The results and flags of the integer arithmetic forms (R252, R254). -/
def Obligations.IntegerArithmetic : Prop := Claim.IntegerSumsAndProducts ∧ Claim.IntegerHighProductsAndExtremes ∧ Claim.IntegerDivision

/-- The logic, shift, bit-count and bit-field forms (R255, R256). -/
def Obligations.LogicShiftsAndFields : Prop := Claim.LogicAndShifts ∧ Claim.BitCountsAndFields

/-- Moves, selection, comparisons, predicate forms, nop and clr (R257, R264). -/
def Obligations.MovesAndComparisons : Prop := Claim.MovesAndSelection ∧ Claim.ComparisonsAndPredicates ∧ Claim.NopAndClear

/-- Branches, calls, jumps, returns and loop (R262). The model's choices here: that jmpr and ret drop the bits of the register above 47 (log 32). -/
def Obligations.ControlTransfer : Prop := Claim.ControlTransfer

/-- The scalar floating-point forms complete, with the exact result rounded once (R57, R58, R59, R273, R274, R275, R276, R277, R278, R280, R281,
R282). -/
def Obligations.ScalarFloat : Prop :=
  Claim.FloatArithmetic ∧ Claim.FloatExact ∧ Claim.FloatConversionsAndSpecialInputs ∧ Claim.FloatBits ∧ Claim.FloatComparisonsAndConversions

/-- Rounding to a floating-point format (R57, R58). -/
def Obligations.Rounding : Prop := Claim.FormatNumbersAreKept ∧ Claim.DirectedRounding

/-- Typed vector arithmetic, element by element (R286, R289, R290, R291, R292). -/
def Obligations.VectorArithmetic : Prop := Claim.VectorArithmetic ∧ Claim.VectorUnaryArithmetic

/-- Vector logic, shifts, permutation, moves, broadcast, insertion, selection and comparison (R293, R294, R295, R299). -/
def Obligations.VectorGroupsAndSelection : Prop := Claim.VectorGroups ∧ Claim.VectorSelection

/-- Vector conversions, reductions and extraction (R296, R297, R298, R299, R300). -/
def Obligations.VectorConversionsAndReductions : Prop := Claim.VectorConversions ∧ Claim.VectorReductions

/-- The lane-mask forms, and when a form of page 3 or 4 stops (R29, R31, R35, R36, R101, R243, R307). The model's choices here: which of several
registers that are not held AUX names (log 12). -/
def Obligations.LaneMasksAndVectorStops : Prop := Claim.LaneMasks ∧ Claim.VectorFormsStop

/-- Vector loads and stores (R301, R303, R304). -/
def Obligations.VectorMemory : Prop := Claim.BlockForms ∧ Claim.GatherAndScatter ∧ Claim.VectorAccessLeaves

/-- Loads, stores, presence forms and atomics are sent to their home (R139, R143, R235, R265, R266, R267, R268, R269, R270). -/
def Obligations.ScalarMemory : Prop := Claim.Loads ∧ Claim.Stores ∧ Claim.Atomics

/-- What stops an access of page 1 and what holds it back (R28, R90, R93, R110, R113, R115, R121, R122, R137, R265, R384, R449). The model's choices
here: that an access is held before its address and its alignment are checked (log 41). -/
def Obligations.AccessTrapsAndHolds : Prop := Claim.AccessTraps ∧ Claim.AccessIsHeld

/-- What sending an access leaves, and the fence (R28, R29, R30, R100, R110, R113, R116, R120, R123, R271). The model's choices here: that a store
that holds its thread consumes its operands only at its completion (log 30). -/
def Obligations.AccessLeaves : Prop := Claim.AccessLeaves ∧ Claim.FenceForm

/-- view, bopen, bopen.j, vclose, bcommit and babort (R137, R138, R143, R144, R433). The model's choices here: that a closing is Held before its index
is judged (log 41), and the 4 cycles of the core's own answer (log 8). -/
def Obligations.BundleInstructions : Prop := Claim.BundleOpens ∧ Claim.BundleCloses

/-- hcfg, hexpect, hexpect.a, harr, hwait.p, hwait.s, hacq and hrel (R38, R170, R171, R172, R173, R174, R175). -/
def Obligations.HandleForms : Prop := Claim.HandleForms ∧ Claim.HandleWaits

/-- What the changes of a handle do, and their events (R169, R171, R172, R174, R175, R336, R415). The model's choices here: the 16 cycles after which
an arrival at a frozen core comes again (log 8). -/
def Obligations.HandleChanges : Prop := Claim.HandleChanges ∧ Claim.HandleEvents

/-- shape, cp, cp.d, cp.bv, cpx and cpx.d (R124, R149, R151, R152, R154, R155, R156, R159, R175, R232, R310, R311). The model's choices here: the trap
of a record or image that is poisoned or in a versioned window (log 95), and the cycle after which the first line follows (logs 8 and 94). -/
def Obligations.ShapesAndCopies : Prop := Claim.ShapeForm ∧ Claim.CopyForms ∧ Claim.AcceptedCopy

/-- stream, unstream, mxs and mxr (R31, R84, R166, R167, R168, R312, R314, R315, R321). The model's choices here: that a register that changes its
mode is no target of an earlier load any more (log 36). -/
def Obligations.StreamsAndMatrixForms : Prop := Claim.StreamForms ∧ Claim.MatrixForms

/-- yield, park, tick, selfid, rdsw, wrsw, fitw and wake (R38, R177, R211, R323, R329, R330). The model's choices here: that a wake's sb[20:4] is
judged before its route (log 13), and the SIZE 0 of its journal entry (log 15). -/
def Obligations.ThreadForms : Prop := Claim.ThreadForms ∧ Claim.WakeForm ∧ Claim.WakeAtASlot

/-- quit, and what a freed slot leaves (R36, R42, R145, R168, R175, R209). -/
def Obligations.QuitAndFreedSlot : Prop := Claim.QuitForm ∧ Claim.FreedSlot

/-- spawn, tenq, tdep, amsg, bar, popq and popmig (R188, R189, R199, R200, R204, R209, R322, R326, R327, R328). The model's choices here: the number
of flits of a spawn and of an amsg (log 7), that operands read with ~ are consumed at the answer (log 30), and that tenq and tdep hold their thread in
the same way (log 76). -/
def Obligations.SpawnTasksAndMessages : Prop := Claim.SpawnTenqTdep ∧ Claim.MessagesAndBarriers

/-- mig and link (R43, R206, R207, R324, R325). The model's choices here: that a register that link binds or unbinds is no target of an earlier load
any more (log 36). -/
def Obligations.MigrationAndLinks : Prop := Claim.MigrateForm ∧ Claim.LinkForm

/-- Taking an exact trap (R382, R383, R384, R385, R386, R387, R388). -/
def Obligations.ExactTraps : Prop := Claim.ExactTrapEntry ∧ Claim.TrapsOfTheHandlerAndFullQueues

/-- Returning from an exact trap; trap, tret and halt (R332, R386, R388, R398). -/
def Obligations.TrapReturn : Prop := Claim.ReturnFromTrap ∧ Claim.TrapTretHalt

/-- The privileged forms that ask another core or the hub, and asid (R93, R147, R178, R180, R202, R213, R215, R331, R333, R336, R337, R338). The
model's choices here: that operands read with ~ are consumed at the answer (log 30). -/
def Obligations.PrivilegedRequests : Prop := Claim.ControlRegisterRequests ∧ Claim.HubRequests ∧ Claim.HubRequestLeaves ∧ Claim.RemoteHandlesAndAsid

/-- The squarer cell computes dot products from sums of squares (R68, R75, R77). -/
def Obligations.SquaresGiveDotProducts : Prop := Claim.SquaresGiveDotProducts

/-- FILL, ACKNOWLEDGEMENT, REFUSAL and BUSY (R28, R30, R96, R100, R101, R110, R342, R347, R391, R431). The model's choices here: that operands read
with ~ are consumed at the acknowledgement (log 30), and the 16 cycles after which the own core is asked again (log 8). -/
def Obligations.AnswersOfAccesses : Prop := Claim.Answers ∧ Claim.BusyAnswers

/-- ORDERED_STORE, ORDERED_STORE_RELEASE, JOURNAL_REPLAY, JOURNAL_CANCEL, and accesses at their place (R95, R96, R128, R269, R270, R349, R350, R391,
R423). The model's choices here: the turn in which a slot's ordered stores are performed (log 88), and that a held one takes a place in the table (log
48). -/
def Obligations.OrderedStoresAndBanks : Prop := Claim.OrderedStoresAndReplay ∧ Claim.AccessAtItsPlace

/-- BANK_ACCESS, REMOTE_READ, REMOTE_WRITE, REMOTE_ATOMIC and SERVICE_BUILTIN_ACCESS (R93, R94, R95, R96, R100, R110, R208, R218, R331, R350, R391).
The model's choices here: what a posted store meets while the ordering table is full (logs 48 and 88), and which events ask a bank (log 94). -/
def Obligations.BankAndRemoteAccess : Prop := Claim.BankAccess ∧ Claim.RemoteRequests ∧ Claim.ControlAccess

/-- VWIN_WRITE, WINDOW_METADATA_CLEARING_END, REGISTER_WRITE, TRAP_RECORD_ENTRY, LINK_WORD, LINK_CREDIT_RETURN and WAKE_MESSAGE (R93, R133, R205,
R207, R323, R386, R394). The model's choices here: that only an enabled window keeps another one disabled (log 90), and where the metadata of a line
lie, which a new window clears (log 10). -/
def Obligations.ControlRegistersRecordsAndLinks : Prop := Claim.ControlWrites ∧ Claim.RecordsLinksWakes

/-- The matrix commands and their completion (R74, R82, R84, R85, R86, R87, R89, R314, R317, R318, R319, R320). The model's choices here: the error
code of a read in a versioned window (log 89), the cell and the time of a capture (log 81), that a command's effects come at one time (log 22), and
the codes for an orphaned bank and a poisoned B set (logs 120 and 121). -/
def Obligations.MatrixEvents : Prop := Claim.MatrixEvents

/-- COPY_ACCEPTANCE, COPY_TRANSFER_LINE, HANDLE_SUBTRACTION, STREAM_REFILL and POOL_EXHAUSTED_TIMEOUT (R109, R149, R156, R166, R311). The model's
choices here: the order of a copy's lines (log 45), the time from line to line (log 94), and that a request waits for a page's expansion (log 8). -/
def Obligations.CopyAndStreamEvents : Prop := Claim.CopyEvents

/-- COMMIT_RECORD_OPERATION, BUNDLE_STORE, VIEW_LOAD, VIEW_AGE_EXPIRY, SNAPSHOT_BLOCK_COPY and versioned lines (R132, R134, R135, R137, R138, R139,
R141, R143, R144, R147). The model's choices here: where a line's slots and metadata lie (log 10), what becomes of a closing that is refused (log 46),
and the time of an own core's answer (log 8). -/
def Obligations.BundleEvents : Prop := Claim.BundleEvents ∧ Claim.VersionedLines

/-- DISPATCH, DECREMENT and TASK_ARM_REQUEST (R100, R190, R193, R196, R198, R199, R213, R401). The model's choices here: the 16 cycles of an own
core's retry (log 8), the order of tenq's checks (log 51), the cause at a poisoned TCB (log 59), and the record of a TCB whose STATE is none of R195's
(log 122). -/
def Obligations.TasksAndDispatch : Prop := Claim.Dispatching ∧ Claim.Decrements ∧ Claim.TaskArming

/-- SPAWN_REQUEST, ACTIVE_MESSAGE, the service handler, CONTEXT_IMAGE, MIGRATION_RESEND and BARRIER_ARRIVAL (R41, R43, R191, R193, R204, R208, R209,
R210). The model's choices here: how requests of one cycle come to their order (log 54), and the 16 cycles of a retry at the own core (log 8). -/
def Obligations.SpawnsMessagesAndMigration : Prop := Claim.SpawnsAndMessages ∧ Claim.ImagesAndArrivals

/-- BANK_RISE_COMPLETE, BANK_CLEAR_COMPLETE, CLOCK_GATE and SPAWN_THROTTLE_EXPIRY (R36, R40, R193). -/
def Obligations.BanksAndClocks : Prop := Claim.BanksAndClocks

/-- POP_CONSUME, POP_CHILD_COMMIT, POP_LINEAGE_APPEND and POP_STEP_CLOSE (R109, R177, R180, R182, R183, R186, R187, R214). The model's choices here:
the 16 cycles of a retry at a frozen core (log 8), and that a manager's abort is tried again while another writer is joined (log 98). -/
def Obligations.PopulationEvents : Prop := Claim.PopulationEvents

/-- GANG_RESERVE, GANG_CONFIRMATION, GANG_CONFIRM_DEADLINE, GANG_GO, GANG_CANCEL and GANG_MEMBER_START (R202, R203, R213, R214). The model's choices
here: that a launch acts on the copy of the record that the hub has staged (log 57). -/
def Obligations.GangEvents : Prop := Claim.GangEvents

/-- CONTEXT_SAVE, SAVE_FILL_TIMEOUT, CONTEXT_RESTORE, CONTEXT_DISCARD and CONTEXT_KILL (R394, R395, R396, R397, R398, R404). -/
def Obligations.ContextOperations : Prop := Claim.ContextOperations

/-- HUB_REQUEST and HUB_ANSWER (R180, R188, R331, R333, R335, R354, R355, R383, R384). The model's choices here: that the hub changes the banks of a
core directly (log 75), and that operands read with ~ are consumed at the answer (log 30). -/
def Obligations.HubRequestsAndAnswers : Prop := Claim.HubServes ∧ Claim.HubAnswers

/-- Routes, links going up and down, and the time base (R351, R352, R353, R355, R430, R431). The model's choices here: what EN does to a link that is
up or trains (log 62), that a value other than 0 leaves a link counter as it was (log 106), the form and the time of an exchange (logs 126 and 127),
and the delays that the spec does not give (log 8). -/
def Obligations.RoutesLinksAndTime : Prop := Claim.RoutesAndLinks ∧ Claim.TimeBase

/-- FABRIC_OPEN, FABRIC_GRANT, ROUTER_CYCLE, UCIE_FLIT, CREDIT_SYNC_DUE, CREDIT_SYNC and LINK_RETRAIN (R339, R340, R342, R344, R345, R429, R430). The
model's choices here: the delays that the spec does not give (log 8), when a bridge reports releases (log 20), which productive output a flit takes
(log 21), and the envelope of a sync (log 126). -/
def Obligations.FabricEvents : Prop := Claim.Reassembly ∧ Claim.RouterCycles ∧ Claim.BridgesAndCredits

/-- LINK_FRAME, DEVICE_ACKNOWLEDGEMENT and RETRANSMIT_TIMEOUT (R346, R347, R348). The model's choices here: the delays that the spec does not give
(log 8). -/
def Obligations.DeviceMessages : Prop := Claim.DeviceMessages

/-- Translation, HBM requests, expansion, refresh and scrub, and error handling (R96, R104, R105, R108, R109, R110, R111, R219, R389, R422, R424,
R426). The model's choices here: what a rebuild and a scrub carry, and when they come (log 66), when a new page becomes zero (log 25), and the delays
that the spec does not give (log 8). -/
def Obligations.MemoryFabricEvents : Prop := Claim.Translations ∧ Claim.HbmRequests ∧ Claim.LineErrors

/-- PACKAGE_RESET_RELEASE, CORE_RESET, COMPUTE_DIE_RESET, JUNCTION_OVER_TEMPERATURE and POWER_LOSS (R332, R358, R363, R365, R389, R434). The model's
choices here: the entry and the place and zeros of the configuration block (log 2), that HBM reads 0 after power-on (log 4), the flash log's code (log
73), and what becomes of a number that another package has (log 74). -/
def Obligations.BootAndResets : Prop := Claim.Boot ∧ Claim.Resets

/-- GOVERNOR_SAMPLE and MEASUREMENT_REPORT_REQUEST (R361, R362, R364). The model's choices here: where the sensors' readings come from (log 28), and
that what is no request gets no answer (log 108). -/
def Obligations.PowerAndReports : Prop := Claim.PowerAndReports
end

