-- ==== Sys2Proof/Laws/Encoding.lean ====
section
/-!
SUPPORT. What the decoder reads back from the encoder's words: immediates, prefix chains and base words.
-/

namespace Sys2Proof

theorem immPayloads_length {w : Nat} (k : Nat) (v : BitVec w) (n : Nat) : (immPayloads k v n).length = n := by
  simp [immPayloads]

theorem immCount_fits {w : Nat} (k m : Nat) (v : BitVec w) (hm : fitsIn v (k + 10 * m) = true) : fitsIn v (k + 10 * immCount k m v) = true := by
  unfold immCount
  cases h : (List.range m).find? (fun n => fitsIn v (k + 10 * n)) with
  | none => simpa using hm
  | some n => simpa using List.find?_some h

theorem immCount_le {w : Nat} (k m : Nat) (v : BitVec w) : immCount k m v ≤ m := by
  unfold immCount
  cases h : (List.range m).find? (fun n => fitsIn v (k + 10 * n)) with
  | none => simp
  | some n =>
    have := List.mem_of_find?_eq_some h
    simp at this ⊢
    omega

theorem immFold {w : Nat} (k : Nat) (v : BitVec w) (n acc : Nat) :
    (immPayloads k v n).foldl (fun n y => n * 1024 + y.toNat) acc = acc * 2 ^ (10 * n) + v.toNat / 2 ^ k % 2 ^ (10 * n) := by
  induction n generalizing acc with
  | zero => simp [immPayloads, Nat.mod_one]
  | succ n ih =>
    have h : immPayloads k v (n + 1) = v.extractLsb' (k + 10 * n) 10 :: immPayloads k v n := by
      simp [immPayloads, List.range_succ]
    rw [h, List.foldl_cons, ih]
    simp only [BitVec.extractLsb'_toNat, Nat.shiftRight_eq_div_pow]
    have e : v.toNat / 2 ^ k % 2 ^ (10 * (n + 1)) = v.toNat / 2 ^ (k + 10 * n) % 2 ^ 10 * 2 ^ (10 * n) + v.toNat / 2 ^ k % 2 ^ (10 * n) := by
      rw [show 10 * (n + 1) = 10 * n + 10 by omega, Nat.pow_add, Nat.mod_mul, Nat.div_div_eq_div_mul, ← Nat.pow_add, Nat.mul_comm (2 ^ (10 * n)), Nat.add_comm]
    rw [e, show 10 * (n + 1) = 10 + 10 * n by omega, Nat.pow_add 2 10 (10 * n), Nat.add_mul, Nat.mul_assoc, Nat.add_assoc]

theorem immOf_payloads {w : Nat} (k n : Nat) (v : BitVec w) (h : fitsIn v (k + 10 * n) = true) :
    immOf w k (immPayloads k v n) (v.toNat % 2 ^ k) = v := by
  unfold immOf
  rw [immPayloads_length, immFold]
  have e : (BitVec.ofNat (k + 10 * n) ((0 * 2 ^ (10 * n) + v.toNat / 2 ^ k % 2 ^ (10 * n)) * 2 ^ k + v.toNat % 2 ^ k)) = v.setWidth (k + 10 * n) := by
    apply BitVec.eq_of_toNat_eq
    simp only [BitVec.toNat_ofNat, BitVec.toNat_setWidth]
    have e2 : v.toNat % 2 ^ (k + 10 * n) = v.toNat / 2 ^ k % 2 ^ (10 * n) * 2 ^ k + v.toNat % 2 ^ k := by
      rw [Nat.pow_add, Nat.mod_mul, Nat.mul_comm, Nat.add_comm]
    rw [Nat.zero_mul, Nat.zero_add, ← e2, Nat.mod_mod]
  rw [e]
  simpa [fitsIn] using h

theorem immOf_words {w : Nat} (k m low : Nat) (v : BitVec w) (hw : w ≤ k + 10 * m) (hl : low = v.toNat % 2 ^ k) :
    immOf w k (immWords k m v) low = v := by
  subst hl
  refine immOf_payloads k _ v (immCount_fits k m v ?_)
  simp only [fitsIn, beq_iff_eq]
  rw [BitVec.signExtend_eq_setWidth_of_le _ hw, BitVec.setWidth_setWidth_of_le _ hw, BitVec.setWidth_eq]

theorem immWords_length {w : Nat} (k m : Nat) (v : BitVec w) : (immWords k m v).length ≤ m := by
  simpa [immWords, immPayloads_length] using immCount_le k m v

theorem part_hi {a b : Nat} (x : BitVec a) (y : BitVec b) (k n : Nat) (h : b ≤ k) : (x ++ y).extractLsb' k n = x.extractLsb' (k - b) n := by
  ext i hi
  simp only [BitVec.getElem_extractLsb', BitVec.getLsbD_append]
  rw [if_neg (by omega), show k + i - b = k - b + i by omega]

theorem part_lo {a b : Nat} (x : BitVec a) (y : BitVec b) (k n : Nat) (h : k + n ≤ b) : (x ++ y).extractLsb' k n = y.extractLsb' k n := by
  ext i hi
  simp only [BitVec.getElem_extractLsb', BitVec.getLsbD_append]
  rw [if_pos (by omega)]

theorem bit_hi {a b : Nat} (x : BitVec a) (y : BitVec b) (k : Nat) (h : b ≤ k) : (x ++ y).getLsbD k = x.getLsbD (k - b) := by
  rw [BitVec.getLsbD_append, if_neg (by omega)]

theorem bit_lo {a b : Nat} (x : BitVec a) (y : BitVec b) (k : Nat) (h : k < b) : (x ++ y).getLsbD k = y.getLsbD k := by
  rw [BitVec.getLsbD_append, if_pos h]

theorem pfx_op (op : BitVec 6) (y : BitVec 10) : (pfx op y).extractLsb' 10 6 = op :=
  (part_hi op y 10 6 (by omega)).trans (by simp)
  
theorem pfx_payload (op : BitVec 6) (y : BitVec 10) : payload (pfx op y) = y :=
  (part_lo op y 0 10 (by omega)).trans (by simp)

theorem chain_add_x (c : Chain) (y : BitVec 10) (h : c.x = none) : c.add (pfx 0x3F y) = .ok { c with x := some y } := by
  simp [Chain.add, pfx_op, pfx_payload, h]

theorem chain_add_r (c : Chain) (y : BitVec 10) (h : c.r = none) : c.add (pfx 0x3D y) = .ok { c with r := some y } := by
  simp [Chain.add, pfx_op, pfx_payload, h]

theorem chain_add_p (c : Chain) (y : BitVec 10) (h : c.p = none) : c.add (pfx 0x3E y) = .ok { c with p := some y } := by
  simp [Chain.add, pfx_op, pfx_payload, h]

theorem chain_add_i (c : Chain) (y : BitVec 10) : c.add (pfx 0x3C y) = .ok { c with imms := c.imms ++ [y] } := by
  simp [Chain.add, pfx_op, pfx_payload]

theorem isPfx_pfx (op : BitVec 6) (y : BitVec 10) : isPfx (pfx op y) = decide (0x3C ≤ op.toNat) := by
  simp [isPfx, pfx_op]

theorem regX_bits (r : RegX) : RegX.ofBits r.bits = r := by
  have h : ∀ (ah bh ch : Bool) (c : BitVec 4) (bc : Bool) (lo : BitVec 2),
      RegX.ofBits (RegX.bits ⟨ah, bh, ch, c, bc, lo⟩) = ⟨ah, bh, ch, c, bc, lo⟩ := by decide +kernel
  exact h r.ah r.bh r.ch r.c r.bc r.lo

/-- PFX.P of a set of fields, if it has one. -/
def Fields.pageWord (f : Fields) : Option (BitVec 10) := if f.page = 0 ∧ f.guard = none then none else some (pageBits f.page f.guard)

/-- The chain that a set of fields' prefix words make. -/
def Fields.chain (f : Fields) : Chain := { p := f.pageWord, x := f.x, r := f.r.map RegX.bits, imms := f.imms }

theorem pageBits_checks (page : BitVec 4) (g : Option Guard) :
    ((pageBits page g).getLsbD 0 || ((pageBits page g).getLsbD 4 && !(pageBits page g).getLsbD 5)) = false ∧
    (pageBits page g).extractLsb' 6 4 = page ∧ guardOf (pageBits page g) = g := by
  have hn : ∀ page : BitVec 4,
      ((pageBits page none).getLsbD 0 || ((pageBits page none).getLsbD 4 && !(pageBits page none).getLsbD 5)) = false ∧
      (pageBits page none).extractLsb' 6 4 = page ∧ guardOf (pageBits page none) = none := by decide +kernel
  have hs : ∀ (page : BitVec 4) (n : Bool) (i : BitVec 3),
      ((pageBits page (some ⟨n, i⟩)).getLsbD 0 || ((pageBits page (some ⟨n, i⟩)).getLsbD 4 && !(pageBits page (some ⟨n, i⟩)).getLsbD 5)) = false ∧
      (pageBits page (some ⟨n, i⟩)).extractLsb' 6 4 = page ∧ guardOf (pageBits page (some ⟨n, i⟩)) = some ⟨n, i⟩ := by decide +kernel
  cases g with
  | none => exact hn page
  | some g => exact hs page g.neg g.idx

theorem base_op (f : Fields) : f.base.extractLsb' 10 6 = f.op :=
  (part_hi (f.op ++ BitVec.ofBool f.sw ++ f.a ++ f.b) (BitVec.ofBool f.q) 10 6 (by omega)).trans <|
  (part_hi (f.op ++ BitVec.ofBool f.sw ++ f.a) f.b 9 6 (by omega)).trans <|
  (part_hi (f.op ++ BitVec.ofBool f.sw) f.a 5 6 (by omega)).trans <|
  (part_hi f.op (BitVec.ofBool f.sw) 1 6 (by omega)).trans (by simp)

theorem fields_of_chain (f : Fields) : Fields.of f.chain f.base = .ok f := by
  have hp : f.pageWord.getD 0 = pageBits f.page f.guard := by
    simp only [Fields.pageWord]
    split
    · rename_i h; rw [h.1, h.2]; rfl
    · rfl
  obtain ⟨h1, h2, h3⟩ := pageBits_checks f.page f.guard
  have hr : Option.map (RegX.ofBits ∘ RegX.bits) f.r = f.r := by
    cases f.r <;> simp [regX_bits]
  have e0 : f.base.getLsbD 0 = f.q := (bit_lo (f.op ++ BitVec.ofBool f.sw ++ f.a ++ f.b) (BitVec.ofBool f.q) 0 (by omega)).trans (by simp)
  have e1 : f.base.extractLsb' 1 4 = f.b :=
    (part_hi (f.op ++ BitVec.ofBool f.sw ++ f.a ++ f.b) (BitVec.ofBool f.q) 1 4 (by omega)).trans <|
    (part_lo (f.op ++ BitVec.ofBool f.sw ++ f.a) f.b 0 4 (by omega)).trans (by simp)
  have e5 : f.base.extractLsb' 5 4 = f.a :=
    (part_hi (f.op ++ BitVec.ofBool f.sw ++ f.a ++ f.b) (BitVec.ofBool f.q) 5 4 (by omega)).trans <|
    (part_hi (f.op ++ BitVec.ofBool f.sw ++ f.a) f.b 4 4 (by omega)).trans <|
    (part_lo (f.op ++ BitVec.ofBool f.sw) f.a 0 4 (by omega)).trans (by simp)
  have e9 : f.base.getLsbD 9 = f.sw :=
    (bit_hi (f.op ++ BitVec.ofBool f.sw ++ f.a ++ f.b) (BitVec.ofBool f.q) 9 (by omega)).trans <|
    (bit_hi (f.op ++ BitVec.ofBool f.sw ++ f.a) f.b 8 (by omega)).trans <|
    (bit_hi (f.op ++ BitVec.ofBool f.sw) f.a 4 (by omega)).trans <|
    (bit_lo f.op (BitVec.ofBool f.sw) 0 (by omega)).trans (by simp)
  simp only [Fields.of, Fields.chain, hp, h1, h2, h3, Option.map_map, hr]
  rw [e0, e1, e5, e9, base_op]
  simp

/-- The prefix words of a set of fields, with the chain that they make on top of another. -/
theorem readChain_imms (c : Chain) (w : Half) (rest : List Half) (ys : List (BitVec 10)) (k n : Nat) (hw : isPfx w = false) (hk : ys.length ≤ k) :
    readChain k c n (ys.map (pfx 0x3C) ++ [w] ++ rest) = .ok ({ c with imms := c.imms ++ ys }, w, n + ys.length + 1) := by
  induction ys generalizing c k n with
  | nil => cases k <;> simp [readChain, hw]
  | cons y ys ih =>
    cases k with
    | zero => simp at hk
    | succ k =>
      have hp : isPfx (pfx 0x3C y) = true := by rw [isPfx_pfx]; decide
      simp only [List.map_cons, List.cons_append, readChain, hp, if_true, chain_add_i]
      rw [ih _ _ _ (by simpa using hk)]
      simp
      omega

theorem readChain_step (k n : Nat) (c c' : Chain) (w : Half) (ws : List Half) (hp : isPfx w = true) (ha : c.add w = .ok c') :
    readChain (k + 1) c n (w :: ws) = readChain k c' (n + 1) ws := by
  simp [readChain, hp, ha]

/-- The decoder reads back the prefix chain and the base word of a set of fields. -/
theorem readChain_words (f : Fields) (rest : List Half) (hop : f.op.toNat < 0x3C) (hp : f.prefixes ≤ 4) :
    readChain 4 {} 0 (f.words ++ rest) = .ok (f.chain, f.base, f.words.length) := by
  have hb : isPfx f.base = false := by simp [isPfx, base_op]; omega
  have i3F (y) : isPfx (pfx 0x3F y) = true := by rw [isPfx_pfx]; decide
  have i3D (y) : isPfx (pfx 0x3D y) = true := by rw [isPfx_pfx]; decide
  have i3E (y) : isPfx (pfx 0x3E y) = true := by rw [isPfx_pfx]; decide
  have hw : f.words = (match f.pageWord with | none => [] | some y => [pfx 0x3E y]) ++ (match f.x with | none => [] | some y => [pfx 0x3F y]) ++
      (match f.r with | none => [] | some r => [pfx 0x3D r.bits]) ++ f.imms.map (pfx 0x3C) ++ [f.base] := by
    simp only [Fields.words, Fields.pageWord]
    split <;> rfl
  simp only [Fields.prefixes] at hp
  rw [hw] at hp ⊢
  simp only [Fields.chain]
  rcases hpw : f.pageWord with _ | p <;> rcases hx : f.x with _ | x <;> rcases hr : f.r with _ | r <;>
    simp only [hpw, hx, hr, List.nil_append, List.append_nil, List.cons_append, List.length_append, List.length_cons, List.length_nil, List.length_map,
      Option.map_none, Option.map_some] at hp ⊢
  · rw [readChain_imms _ _ _ _ _ _ hb (by omega)]; simp
  · rw [readChain_step _ _ _ _ _ _ (i3D _) (chain_add_r _ _ rfl), readChain_imms _ _ _ _ _ _ hb (by omega)]; simp; omega
  · rw [readChain_step _ _ _ _ _ _ (i3F _) (chain_add_x _ _ rfl), readChain_imms _ _ _ _ _ _ hb (by omega)]; simp; omega
  · rw [readChain_step _ _ _ _ _ _ (i3F _) (chain_add_x _ _ rfl), readChain_step _ _ _ _ _ _ (i3D _) (chain_add_r _ _ rfl),
      readChain_imms _ _ _ _ _ _ hb (by omega)]; simp; omega
  · rw [readChain_step _ _ _ _ _ _ (i3E _) (chain_add_p _ _ rfl), readChain_imms _ _ _ _ _ _ hb (by omega)]; simp; omega
  · rw [readChain_step _ _ _ _ _ _ (i3E _) (chain_add_p _ _ rfl), readChain_step _ _ _ _ _ _ (i3D _) (chain_add_r _ _ rfl),
      readChain_imms _ _ _ _ _ _ hb (by omega)]; simp; omega
  · rw [readChain_step _ _ _ _ _ _ (i3E _) (chain_add_p _ _ rfl), readChain_step _ _ _ _ _ _ (i3F _) (chain_add_x _ _ rfl),
      readChain_imms _ _ _ _ _ _ hb (by omega)]; simp; omega
  · rw [readChain_step _ _ _ _ _ _ (i3E _) (chain_add_p _ _ rfl), readChain_step _ _ _ _ _ _ (i3F _) (chain_add_x _ _ rfl),
      readChain_step _ _ _ _ _ _ (i3D _) (chain_add_r _ _ rfl), readChain_imms _ _ _ _ _ _ hb (by omega)]; simp; omega

/-- The decoder of words reads back the words of a set of fields. -/
theorem decodeWords_words (f : Fields) (i : Instr) (rest : List Half) (hop : f.op.toNat < 0x3C) (hp : f.prefixes ≤ 4) (hi : f.instr = .ok i) :
    decodeWords (f.words ++ rest) = .ok (i, f.words.length) := by
  simp only [decodeWords, readChain_words f rest hop hp, fields_of_chain, hi]

end Sys2Proof
end

