-- ==== Sys2Proof/Laws/Forms.lean ====
section
/-!
SUPPORT. Each operand form of the decoder reads back what its encoder wrote.
-/

namespace Sys2Proof

theorem arith_bits (x : ArithX) : ArithX.ofBits x.bits = x := by
  obtain ⟨t, s, r⟩ := x
  cases t <;> cases s <;> cases r <;> rfl

theorem arith_low (x : ArithX) : x.bits.extractLsb' 0 4 = 0 := by
  obtain ⟨t, s, r⟩ := x
  cases t <;> cases s <;> cases r <;> rfl

theorem mem_bits (x : MemX) : MemX.ofBits x.bits = x := by
  have h : ∀ (m : BitVec 5) (o : BitVec 2) (a b c : Bool), MemX.ofBits (MemX.bits ⟨m, o, a, b, c⟩) = ⟨m, o, a, b, c⟩ := by decide +kernel
  exact h x.mask x.ord x.rx x.mig x.bv

theorem withA_enc (cls : ArithClass) (f : Fields) (x : Option ArithX) (k : Option ArithX → Except DecodeError Instr) (hf : f.x = x.map ArithX.bits)
    (h : axOk cls x = true) : withA cls f k = k x := by
  cases x with
  | none => simp [withA, hf]
  | some x => simp_all [withA, need, axOk, arith_bits, arith_low]

theorem withM_enc (cls : MemClass) (f : Fields) (x : MemX) (k : MemX → Except DecodeError Instr) (hf : f.x = x.word)
    (h : cls.allows x = true) : withM cls f k = k x := by
  simp only [withM, hf, MemX.word]
  split
  · rename_i hx; split at hx
    · rename_i h0; subst h0; simp only [need, h, if_true]
    · simp at hx
  · rename_i y hx; split at hx
    · simp at hx
    · simp at hx; subst hx; simp [need, mem_bits, h]

theorem low5_bits {w : Nat} (f : Fields) (v : BitVec w) : (low5 f v).imm5 = v.toNat % 2 ^ 5 := by
  simp only [Fields.imm5, low5, BitVec.extractLsb'_toNat, Nat.shiftRight_eq_div_pow]
  have : (v.getLsbD 0).toNat = v.toNat % 2 := by
    rw [BitVec.getLsbD, Nat.testBit_zero]; rcases Nat.mod_two_eq_zero_or_one v.toNat with h | h <;> simp [h]
  omega

theorem decBin_enc (f : Fields) (o : OpBin) (k : OpBin → Instr) (h : f.imms = []) : decBin (encBin f o) k = .ok (k o) := by
  obtain ⟨a, b, q, c⟩ := o
  cases c <;> simp [decBin, encBin, need, Fields.noImm, rFits, h]

theorem decUn_enc (f : Fields) (o : OpAB) (k : OpAB → Instr) (h : f.imms = []) (hr : f.r = none) : decUn (encAB f o) k = .ok (k o) := by
  simp [decUn, encAB, need, Fields.noImm, h, hr]

theorem decAB_enc (f : Fields) (o : OpAB) (k : OpAB → Instr) (h : f.imms = []) (hr : f.r = none) : decAB (encAB f o) k = .ok (k o) := by
  simp [decAB, encAB, need, Fields.noImm, h, hr, rFits]

theorem decImm_enc (f : Fields) (o : OpImm) (k : OpImm → Instr) (hr : f.r = none) : decImm (encImm f o) k = .ok (k o) := by
  have h5 : (encImm f o).imm5 = o.imm.toNat % 2 ^ 5 := low5_bits f o.imm
  have hl := immWords_length 5 4 o.imm
  simp only [decImm, h5]
  rw [show (encImm f o).imms = immWords 5 4 o.imm from rfl, immOf_words 5 4 _ o.imm (by omega) rfl]
  simp [encImm, low5, need, hr, hl]


theorem decN_enc (f : Fields) (i : Instr) (h : f.imms = []) (hr : f.r = none) (ha : f.a = 0) (hb : f.b = 0) (hq : f.q = false) :
    decN (encN f) i = .ok i := by
  simp [decN, encN, need, Fields.noImm, h, hr, ha, hb, hq]

theorem decABC_enc (f : Fields) (o : OpABC) (k : OpABC → Instr) (h : f.imms = []) : decABC (encABC f o) k = .ok (k o) := by
  simp [decABC, encABC, need, Fields.noImm, h, rFits]

theorem needIndex_enc (w : Nat) (f : Fields) (y : BitVec 10) (k : Except DecodeError Instr) (h : f.imms = indexWords y) (hy : y.toNat < 2 ^ w) :
    needIndex w f k = k := by
  simp only [needIndex, Fields.index, h, indexWords, need]
  split
  · simp
  · simp [hy]

theorem index_enc (f : Fields) (y : BitVec 10) (h : f.imms = indexWords y) : f.index = y := by
  by_cases h0 : y = 0
  · simp only [Fields.index, h, indexWords, h0, if_true]
  · simp only [Fields.index, h, indexWords, h0, if_false]

theorem decShift_enc (f : Fields) (o : OpShift) (k : OpShift → Instr) (hr : f.r = none) : decShift (encShift f o) k = .ok (k o) := by
  have h5 : (encShift f o).imm5 = (o.n.setWidth 45).toNat % 2 ^ 5 := low5_bits f (o.n.setWidth 45)
  have hl := immWords_length 5 4 (o.n.setWidth 45)
  have hn := o.n.isLt
  simp only [decShift, h5]
  rw [show (encShift f o).imms = immWords 5 4 (o.n.setWidth 45) from rfl, immOf_words 5 4 _ (o.n.setWidth 45) (by omega) rfl]
  have h6 : (o.n.setWidth 45).toNat < 64 := by simp; omega
  simp only [need, encShift, encImm, low5, hr, hl, h6, decide_true, if_true, Option.isNone_none]
  congr 2
  obtain ⟨a, n⟩ := o
  simp

theorem decExt_enc (f : Fields) (o : OpExt) (k : OpExt → Instr) (hr : f.r = none) (hw : o.wf = true) : decExt (encExt f o) k = .ok (k o) := by
  have h5 : (encExt f o).imm5 = (o.n.setWidth 45).toNat % 2 ^ 5 := low5_bits f (o.n.setWidth 45)
  have hl := immWords_length 5 4 (o.n.setWidth 45)
  have hn := o.n.isLt
  simp only [OpExt.wf, Bool.and_eq_true, decide_eq_true_eq] at hw
  simp only [decExt, h5]
  rw [show (encExt f o).imms = immWords 5 4 (o.n.setWidth 45) from rfl, immOf_words 5 4 _ (o.n.setWidth 45) (by omega) rfl]
  have e : (o.n.setWidth 45).toNat = o.n.toNat := by simp; omega
  simp only [need, encExt, encImm, low5, hr, hl, e, hw.1, hw.2, decide_true, if_true, Option.isNone_none, Bool.and_self]
  congr 2
  obtain ⟨a, n⟩ := o
  simp

theorem offset_words (f : Fields) (off : BitVec 40) (h : f.imms = immWords 0 4 off) : f.offset = off := by
  rw [Fields.offset, h]
  exact immOf_words 0 4 0 off (by omega) (by simp [Nat.mod_one])

theorem decLea_enc (f : Fields) (o : OpLea) (k : OpLea → Instr) : decLea (encLea f o) k = .ok (k o) := by
  have hl := immWords_length 0 4 o.off
  rw [decLea, offset_words (encLea f o) o.off rfl]
  obtain ⟨a, b, q, c, off⟩ := o
  cases c <;> simp_all [encLea, encM, need, rFits]

theorem sel_field (n : Bool) (p : BitVec 3) : ((BitVec.ofBool n ++ p).setWidth 10).toNat < 2 ^ 4 ∧
    ((BitVec.ofBool n ++ p).setWidth 10).extractLsb' 0 3 = p ∧ ((BitVec.ofBool n ++ p).setWidth 10).getLsbD 3 = n := by
  revert n p; decide +kernel

theorem decSel_enc (f : Fields) (o : OpSel) (k : OpSel → Instr) : decSel (encSel f o) k = .ok (k o) := by
  obtain ⟨h1, h2, h3⟩ := sel_field o.neg o.p
  rw [decSel, needIndex_enc 4 _ _ _ rfl h1, index_enc (encSel f o) _ rfl, h2, h3]
  obtain ⟨a, b, q, c, p, n⟩ := o
  cases c <;> simp [encSel, need, rFits]

theorem ofP_toP (p : PNum) : toP (ofP p) = p ∧ isP (ofP p) = true := by revert p; decide +kernel

theorem condField_parts (p : PNum) (n : Bool) : toP (condField p n) = p ∧ (condField p n).getLsbD 3 = n := by revert p n; decide +kernel


theorem hi_lo (v : VNum) : BitVec.ofBool (hi v) ++ lo4 v = v := by revert v; decide +kernel

theorem hi_lo' (v : VNum) : BitVec.ofBool (v.getLsbD 4) ++ v.extractLsb' 0 4 = v := hi_lo v

theorem lo_small (v : VNum) (h : v.toNat < 16) : BitVec.ofBool false ++ lo4 v = v := by
  have e : ∀ v : VNum, v.toNat < 16 → BitVec.ofBool false ++ lo4 v = v := by decide +kernel
  exact e v h

theorem decPlog_enc (f : Fields) (o : OpPlog) (k : OpPlog → Instr) (hq : f.q = false) : decPlog (encPlog f o) k = .ok (k o) := by
  have hy : ∀ t : BitVec 4, (t.setWidth 10).toNat < 2 ^ 4 ∧ (t.setWidth 10).extractLsb' 0 4 = t := by decide +kernel
  rw [decPlog, needIndex_enc 4 _ _ _ rfl (hy o.tt).1, index_enc (encPlog f o) _ rfl, (hy o.tt).2]
  obtain ⟨a, b, c, tt⟩ := o
  cases c <;> simp [encPlog, need, rFits, ofP_toP, hq]

theorem decA_enc (f : Fields) (o : OpA) (k : OpA → Instr) (h : f.imms = []) (hr : f.r = none) (hb : f.b = 0) (hq : f.q = false) :
    decA (encA f o) k = .ok (k o) := by
  simp [decA, encA, need, Fields.noImm, rFits, h, hr, hb, hq]

theorem decB_enc (f : Fields) (o : OpB) (k : OpB → Instr) (h : f.imms = []) (hr : f.r = none) (ha : f.a = 0) : decB (encB f o) k = .ok (k o) := by
  simp [decB, encB, need, Fields.noImm, rFits, h, hr, ha]

theorem condDest_enc (f : Fields) (p : PNum) (n : Bool) (h : f.r = if p = 0 ∧ n = false then none else some { c := condField p n }) :
    condDest f = (p, n) ∧ rFits f.r false false false true false = true := by
  obtain ⟨e1, e2⟩ := condField_parts p n
  by_cases h0 : p = 0 ∧ n = false
  · rw [if_pos h0] at h
    simp only [condDest, h, rFits, h0.1, h0.2, and_self]
  · rw [if_neg h0] at h
    simp only [condDest, h, rFits, e1, e2]
    simp

theorem decCmp_enc (f : Fields) (o : OpCmp) (k : OpCmp → Instr) (h : f.imms = []) : decCmp (encCmp f o) k = .ok (k o) := by
  obtain ⟨h1, h2⟩ := condDest_enc (encCmp f o) o.p o.neg rfl
  rw [decCmp, h1, h2]
  simp [need, Fields.noImm, encCmp, h]

theorem decCmpI_enc (f : Fields) (o : OpCmpI) (k : OpCmpI → Instr) : decCmpI (encCmpI f o) k = .ok (k o) := by
  obtain ⟨h1, h2⟩ := condDest_enc (encCmpI f o) o.p o.neg rfl
  have h5 : (encCmpI f o).imm5 = o.imm.toNat % 2 ^ 5 := low5_bits f o.imm
  have hl := immWords_length 5 4 o.imm
  rw [decCmpI, h1, h2, h5, show (encCmpI f o).imms = immWords 5 4 o.imm from rfl, immOf_words 5 4 _ o.imm (by omega) rfl]
  simp [need, encCmpI, encImm, hl]

theorem decJ_enc (f : Fields) (o : OpJ) (k : OpJ → Instr) (hr : f.r = none) : decJ (encJ f o) k = .ok (k o) := by
  have h9 : (encJ f o).imm9 = o.off.toNat % 2 ^ 9 := by
    have h5 := low5_bits f o.off
    have : (encJ f o).imm9 = (o.off.extractLsb' 5 4).toNat * 32 + (low5 f o.off).imm5 := rfl
    rw [this, h5]
    simp only [BitVec.extractLsb'_toNat, Nat.shiftRight_eq_div_pow]
    omega
  have hl := immWords_length 9 3 o.off
  rw [decJ, h9, show (encJ f o).imms = immWords 9 3 o.off from rfl, immOf_words 9 3 _ o.off (by omega) rfl]
  simp [need, encJ, low5, hl, hr]

theorem decP_enc (f : Fields) (o : OpP) (k : OpP → Instr) (hr : f.r = none) : decP (encP f o) k = .ok (k o) := by
  have h5 : (encP f o).imm5 = o.off.toNat % 2 ^ 5 := low5_bits f o.off
  have hl := immWords_length 5 3 o.off
  have hp : ∀ (p : PNum) (n : Bool), (p ++ BitVec.ofBool n : BitVec 4).extractLsb' 1 3 = p ∧ (p ++ BitVec.ofBool n : BitVec 4).getLsbD 0 = n := by
    decide +kernel
  rw [decP, h5, show (encP f o).imms = immWords 5 3 o.off from rfl, immOf_words 5 3 _ o.off (by omega) rfl]
  have e := hp o.p o.neg
  rw [show (encP f o).a = o.p ++ BitVec.ofBool o.neg from rfl, e.1, e.2]
  simp [need, encP, low5, hl, hr]

theorem decTrap_enc (f : Fields) (o : OpTrap) (k : OpTrap → Instr) (hr : f.r = none) (ha : f.a = 0) : decTrap (encTrap f o) k = .ok (k o) := by
  have h5 : (encTrap f o).imm5 = o.imm.toNat % 2 ^ 5 := low5_bits f o.imm
  have hl := immWords_length 5 4 o.imm
  rw [decTrap, h5, show (encTrap f o).imms = immWords 5 4 o.imm from rfl, immOf_words 5 4 _ o.imm (by omega) rfl]
  simp [need, encTrap, low5, hl, hr, ha]

/-! ## Memory forms -/

theorem sized_op (op : BitVec 6) (sz : BitVec 2) (h : op.extractLsb' 0 2 = 0) : (op ||| sz.setWidth 6).extractLsb' 0 2 = sz := by
  have e : ∀ (op : BitVec 6) (sz : BitVec 2), op.extractLsb' 0 2 = 0 → (op ||| sz.setWidth 6).extractLsb' 0 2 = sz := by decide +kernel
  exact e op sz h

theorem decLd_enc (cls : MemClass) (f : Fields) (o : OpLd) (k : OpLd → Instr) (hop : f.op.extractLsb' 0 2 = 0) (hw : o.wf cls = true) :
    decLd cls (encLd f o) k = .ok (k o) := by
  simp only [OpLd.wf, Bool.and_eq_true, beq_iff_eq] at hw
  have hl := immWords_length 0 4 o.off
  rw [decLd, withM_enc cls _ o.x _ rfl hw.1, offset_words (encLd f o) o.off rfl]
  rw [show (encLd f o).op.extractLsb' 0 2 = o.sz from sized_op f.op o.sz hop]
  obtain ⟨sz, a, b, q, off, c, x⟩ := o
  cases c <;> simp_all [encLd, encM, need, rFits, sized]

theorem decLdt_enc (cls : MemClass) (f : Fields) (o : OpLdt) (k : OpLdt → Instr) (hop : f.op.extractLsb' 0 2 = 0) (hw : cls.allows o.x = true) :
    decLdt cls (encLdt f o) k = .ok (k o) := by
  have hl := immWords_length 0 4 o.off
  rw [decLdt, withM_enc cls _ o.x _ rfl hw, offset_words (encLdt f o) o.off rfl]
  rw [show (encLdt f o).op.extractLsb' 0 2 = o.sz from sized_op f.op o.sz hop]
  simp [encLdt, encM, need, rFits, sized, hl]

theorem decLdf_enc (cls : MemClass) (f : Fields) (o : OpLdf) (k : OpLdf → Instr) (hop : f.op.extractLsb' 0 2 = 0) (hr : f.r = none)
    (hw : cls.allows o.x = true) : decLdf cls (encLdf f o) k = .ok (k o) := by
  have hl := immWords_length 0 4 o.off
  rw [decLdf, withM_enc cls _ o.x _ rfl hw, offset_words (encLdf f o) o.off rfl]
  rw [show (encLdf f o).op.extractLsb' 0 2 = o.sz from sized_op f.op o.sz hop]
  simp [encLdf, encM, need, sized, hl, hr]

theorem decSet_enc (cls : MemClass) (f : Fields) (o : OpSet) (k : OpSet → Instr) (hr : f.r = none) (hw : cls.allows o.x = true) :
    decSet cls (encSet f o) k = .ok (k o) := by
  have hl := immWords_length 0 4 o.off
  rw [decSet, withM_enc cls _ o.x _ rfl hw, offset_words (encSet f o) o.off rfl]
  simp [encSet, encM, need, hl, hr]

theorem decFence_enc (f : Fields) (o : OpFence) (k : OpFence → Instr) (h : f.imms = []) (hr : f.r = none) (ha : f.a = 0) (hb : f.b = 0)
    (hq : f.q = false) : decFence (encFence f o) k = .ok (k o) := by
  have hm : ∀ m : BitVec 5, (m ++ (0 : BitVec 5)).extractLsb' 0 5 = 0 ∧ (m ++ (0 : BitVec 5)).extractLsb' 5 5 = m := by decide +kernel
  obtain ⟨m⟩ := o
  cases m with
  | none => simp [decFence, encFence, decN, need, Fields.noImm, h, hr, ha, hb, hq, Except.bind]
  | some m =>
    obtain ⟨e1, e2⟩ := hm m
    simp only [decFence, encFence, decN, need, Fields.noImm, h, hr, ha, hb, hq, Except.bind, e1, e2, Option.map_some]
    simp

theorem decAmo_enc (cls : MemClass) (f : Fields) (o : OpAmo) (k : OpAmo → Instr) (hr : f.r = none) (hw : cls.allows o.x = true) :
    decAmo cls (encAmo f o) k = .ok (k o) := by
  have hl := immWords_length 0 4 o.off
  rw [decAmo, withM_enc cls _ o.x _ rfl hw, offset_words (encAmo f o) o.off rfl]
  simp [encAmo, encM, need, hl, hr]

theorem decCas_enc (cls : MemClass) (f : Fields) (o : OpCas) (k : OpCas → Instr) (hw : cls.allows o.x = true) :
    decCas cls (encCas f o) k = .ok (k o) := by
  have hl := immWords_length 0 4 o.off
  rw [decCas, withM_enc cls _ o.x _ rfl hw, offset_words (encCas f o) o.off rfl]
  simp [encCas, encM, need, hl, rFits]

theorem decAmoOp_enc (cls : MemClass) (f : Fields) (o : OpAmoOp) (k : OpAmoOp → Instr) (hop : f.op = 0x20) (hr : f.r = none)
    (hw : cls.allows o.x = true) : decAmoOp cls (encAmoOp f o) k = .ok (k o) := by
  have hl := immWords_length 0 4 o.off
  have he : ∀ (p : BitVec 3) (d : Bool), ((0x20 : BitVec 6) ||| (p ++ BitVec.ofBool d).setWidth 6).extractLsb' 1 3 = p ∧
      ((0x20 : BitVec 6) ||| (p ++ BitVec.ofBool d).setWidth 6).getLsbD 0 = d := by decide +kernel
  obtain ⟨e1, e2⟩ := he o.op o.dbl
  rw [decAmoOp, withM_enc cls _ o.x _ rfl hw, offset_words (encAmoOp f o) o.off rfl]
  rw [show (encAmoOp f o).op = (0x20 : BitVec 6) ||| (o.op ++ BitVec.ofBool o.dbl).setWidth 6 by simp [encAmoOp, encM, hop], e1, e2]
  simp [encAmoOp, encM, need, hl, hr]

theorem cvt_field (s t : BitVec 4) : ((s ++ t).setWidth 10).toNat < 2 ^ 8 ∧ ((s ++ t).setWidth 10).extractLsb' 0 4 = t ∧
    ((s ++ t).setWidth 10).extractLsb' 4 4 = s := by revert s t; decide +kernel

theorem decCvt_enc (f : Fields) (o : OpCvt) (k : OpCvt → Instr) (hr : f.r = none) (hw : o.wf = true) : decCvt (encCvt f o) k = .ok (k o) := by
  obtain ⟨h1, h2, h3⟩ := cvt_field o.src o.tgt
  rw [decCvt, needIndex_enc 8 _ _ _ rfl h1, index_enc (encCvt f o) _ rfl, h2, h3]
  obtain ⟨a, b, q, t, s⟩ := o
  simp_all [encCvt, need, rFits]

/-! ## Vector forms -/

theorem rHigh_fits (a b : Bool) : rFits (rHigh a b) true true false false false = true := by cases a <;> cases b <;> rfl
theorem rHigh_fits_a (a : Bool) : rFits (rHigh a false) true false false false false = true := by cases a <;> rfl
theorem rHigh_fits_b (b : Bool) : rFits (rHigh false b) false true false false false = true := by cases b <;> rfl

theorem rHigh_a5 (f : Fields) (a : VNum) (b : Bool) (hr : f.r = rHigh (hi a) b) (ha : f.a = lo4 a) : f.a5 = a := by
  have e : ∀ (a : VNum) (b : Bool), BitVec.ofBool (match rHigh (hi a) b with | none => false | some r => r.ah) ++ lo4 a = a := by decide +kernel
  rw [Fields.a5, hr, ha]; exact e a b

theorem rHigh_b5 (f : Fields) (a : Bool) (b : VNum) (hr : f.r = rHigh a (hi b)) (hb : f.b = lo4 b) : f.b5 = b := by
  have e : ∀ (a : Bool) (b : VNum), BitVec.ofBool (match rHigh a (hi b) with | none => false | some r => r.bh) ++ lo4 b = b := by decide +kernel
  rw [Fields.b5, hr, hb]; exact e a b

theorem vsrcR_fits (a b : VNum) (c : VSrc) : rFits (vsrcR a b c) true true true true true = true ∧ vsrcFits (vsrcR a b c) = true ∧
    vsrcOf (vsrcR a b c) = c := by
  cases c with
  | absent => simp [vsrcR, rFits, vsrcFits, vsrcOf]
  | vec v => simp [vsrcR, rFits, vsrcFits, vsrcOf, RegX.c5, hi_lo]
  | scal s => simp [vsrcR, rFits, vsrcFits, vsrcOf]

theorem vsrcR_a5 (f : Fields) (a b : VNum) (c : VSrc) (hr : f.r = vsrcR a b c) (ha : f.a = lo4 a) (hb : f.b = lo4 b)
    (hw : c ≠ .absent ∨ (a.toNat < 16 ∧ b.toNat < 16)) : f.a5 = a ∧ f.b5 = b := by
  cases c with
  | absent =>
    simp at hw
    simp only [vsrcR] at hr
    simp only [Fields.a5, Fields.b5, hr, ha, hb]
    exact ⟨lo_small a hw.1, lo_small b hw.2⟩
  | vec v => simp only [vsrcR] at hr; simp only [Fields.a5, Fields.b5, hr, ha, hb, hi_lo, and_self]
  | scal s => simp only [vsrcR] at hr; simp only [Fields.a5, Fields.b5, hr, ha, hb, hi_lo, and_self]

theorem decVBin_enc (f : Fields) (o : OpVBin) (k : OpVBin → Instr) (h : f.imms = []) (hw : o.wf = true) : decVBin (encVBin f o) k = .ok (k o) := by
  obtain ⟨h1, h2, h3⟩ := vsrcR_fits o.a o.b o.c
  have hw' : o.c ≠ .absent ∨ (o.a.toNat < 16 ∧ o.b.toNat < 16) := by simpa [OpVBin.wf, bne_iff_ne] using hw
  obtain ⟨ha, hb⟩ := vsrcR_a5 (encVBin f o) o.a o.b o.c rfl rfl rfl hw'
  rw [decVBin, ha, hb, show (encVBin f o).r = vsrcR o.a o.b o.c from rfl, h1, h2, h3]
  simp [need, Fields.noImm, encVBin, h]

theorem decVTer_enc (f : Fields) (o : OpVBin) (k : OpVBin → Instr) (h : f.imms = []) (hw : o.wfTer = true) : decVTer (encVBin f o) k = .ok (k o) := by
  have hw' : o.wf = true := by simp_all [OpVBin.wf, OpVBin.wfTer]
  rw [decVTer, decVBin_enc f o k h hw']
  have : (encVBin f o).r.isSome = true := by
    obtain ⟨a, b, q, c⟩ := o
    cases c <;> simp_all [encVBin, vsrcR, OpVBin.wfTer]
  simp [need, this]

theorem decVUn_enc (f : Fields) (o : OpVUn) (k : OpVUn → Instr) (h : f.imms = []) : decVUn (encVUn f o) k = .ok (k o) := by
  rw [decVUn, rHigh_a5 (encVUn f o) o.a (hi o.b) rfl rfl, rHigh_b5 (encVUn f o) (hi o.a) o.b rfl rfl]
  simp [need, Fields.noImm, encVUn, h, rHigh_fits]

theorem vcmpR (a b : VNum) (p : PNum) (n : Bool) (f : Fields) (ha : f.a = lo4 a) (hb : f.b = lo4 b)
    (h : f.r = if p = 0 ∧ n = false then rHigh (hi a) (hi b) else some { ah := hi a, bh := hi b, c := condField p n }) :
    condDest f = (p, n) ∧ rFits f.r true true false true false = true ∧ f.a5 = a ∧ f.b5 = b := by
  by_cases h0 : p = 0 ∧ n = false
  · simp only [h0, and_self, if_true] at h
    refine ⟨?_, ?_, rHigh_a5 f a _ h ha, rHigh_b5 f _ b h hb⟩
    · rw [condDest, h]
      cases hi a <;> cases hi b <;> simp [rHigh, h0.1, h0.2] <;> decide
    · rw [h]; cases hi a <;> cases hi b <;> rfl
  · simp only [h0, if_false] at h
    refine ⟨?_, ?_, ?_, ?_⟩
    · simp only [condDest, h, (condField_parts p n).1, (condField_parts p n).2]
    · simp [h, rFits]
    · simp only [Fields.a5, h, ha, hi_lo]
    · simp only [Fields.b5, h, hb, hi_lo]

theorem decVCmp_enc (f : Fields) (o : OpVCmp) (k : OpVCmp → Instr) (h : f.imms = []) : decVCmp (encVCmp f o) k = .ok (k o) := by
  obtain ⟨h1, h2, h3, h4⟩ := vcmpR o.a o.b o.m o.neg (encVCmp f o) rfl rfl rfl
  rw [decVCmp, h1, h2, h3, h4]
  simp [need, Fields.noImm, encVCmp, h]

theorem decVSel_enc (f : Fields) (o : OpVSel) (k : OpVSel → Instr) (hw : o.wf = true) : decVSel (encVSel f o) k = .ok (k o) := by
  obtain ⟨h1, h2, h3⟩ := vsrcR_fits o.a o.b o.c
  have hw' : o.c ≠ .absent ∨ (o.a.toNat < 16 ∧ o.b.toNat < 16) := by simpa [OpVSel.wf, bne_iff_ne] using hw
  obtain ⟨ha, hb⟩ := vsrcR_a5 (encVSel f o) o.a o.b o.c rfl rfl rfl hw'
  obtain ⟨i1, i2, i3⟩ := sel_field o.neg o.m
  rw [decVSel, needIndex_enc 4 _ _ _ rfl i1, index_enc (encVSel f o) _ rfl, i2, i3, ha, hb, show (encVSel f o).r = vsrcR o.a o.b o.c from rfl, h1, h2, h3]
  simp [need, encVSel]

theorem decVCvt_enc (nw : Bool) (f : Fields) (o : OpVCvt) (k : OpVCvt → Instr) (hw : o.wf nw = true) : decVCvt nw (encVCvt f o) k = .ok (k o) := by
  obtain ⟨h1, h2, h3⟩ := cvt_field o.src o.tgt
  rw [decVCvt, needIndex_enc 8 _ _ _ rfl h1, index_enc (encVCvt f o) _ rfl, h2, h3, rHigh_a5 (encVCvt f o) o.a (hi o.b) rfl rfl,
    rHigh_b5 (encVCvt f o) (hi o.a) o.b rfl rfl, show (encVCvt f o).r = rHigh (hi o.a) (hi o.b) from rfl, rHigh_fits]
  have e : (⟨o.a, o.b, (encVCvt f o).q, o.tgt, o.src⟩ : OpVCvt) = o := rfl
  simp only [e, need, hw, if_true]

theorem decSV_enc (f : Fields) (o : OpSV) (k : OpSV → Instr) (h : f.imms = []) : decSV (encSV f o) k = .ok (k o) := by
  rw [decSV, rHigh_b5 (encSV f o) false o.b rfl rfl, show (encSV f o).r = rHigh false (hi o.b) from rfl, rHigh_fits_b]
  simp [need, Fields.noImm, encSV, h]

theorem decVS_enc (f : Fields) (o : OpVS) (k : OpVS → Instr) (h : f.imms = []) : decVS (encVS f o) k = .ok (k o) := by
  rw [decVS, rHigh_a5 (encVS f o) o.a false rfl rfl, show (encVS f o).r = rHigh (hi o.a) false from rfl, rHigh_fits_a]
  simp [need, Fields.noImm, encVS, h]

theorem index7 (i : BitVec 7) : (i.setWidth 10).toNat < 2 ^ 7 ∧ (i.setWidth 10).extractLsb' 0 7 = i := by revert i; decide +kernel
theorem index6 (i : BitVec 6) : (i.setWidth 10).toNat < 2 ^ 6 ∧ (i.setWidth 10).extractLsb' 0 6 = i := by revert i; decide +kernel
theorem index4 (i : BitVec 4) : (i.setWidth 10).toNat < 2 ^ 4 ∧ (i.setWidth 10).extractLsb' 0 4 = i ∧
    (i.setWidth 10).extractLsb' 2 2 = i.extractLsb' 2 2 := by revert i; decide +kernel

theorem decVExt_enc (f : Fields) (o : OpVExt) (k : OpVExt → Instr) (hw : laneIndexOk o.idx = true) : decVExt (encVExt f o) k = .ok (k o) := by
  rw [decVExt, needIndex_enc 7 _ _ _ rfl (index7 o.idx).1, index_enc (encVExt f o) _ rfl, (index7 o.idx).2, rHigh_b5 (encVExt f o) false o.b rfl rfl,
    show (encVExt f o).r = rHigh false (hi o.b) from rfl, rHigh_fits_b]
  simp [need, encVExt, hw]

theorem decVIns_enc (f : Fields) (o : OpVIns) (k : OpVIns → Instr) (hw : laneIndexOk o.idx = true) : decVIns (encVIns f o) k = .ok (k o) := by
  rw [decVIns, needIndex_enc 7 _ _ _ rfl (index7 o.idx).1, index_enc (encVIns f o) _ rfl, (index7 o.idx).2, rHigh_a5 (encVIns f o) o.a false rfl rfl,
    show (encVIns f o).r = rHigh (hi o.a) false from rfl, rHigh_fits_a]
  simp [need, encVIns, hw]

theorem decVMem_enc (cls : MemClass) (f : Fields) (o : OpVMem) (k : OpVMem → Instr) (hw : cls.allows o.x = true) :
    decVMem cls (encVMem f o) k = .ok (k o) := by
  have hl := immWords_length 0 4 o.off
  rw [decVMem, withM_enc cls _ o.x _ rfl hw, offset_words (encVMem f o) o.off rfl, rHigh_a5 (encVMem f o) o.a false rfl rfl,
    show (encVMem f o).r = rHigh (hi o.a) false from rfl, rHigh_fits_a]
  simp [encVMem, encM, need, hl]

theorem decVGat_enc (cls : MemClass) (f : Fields) (o : OpVGat) (k : OpVGat → Instr) (hw : cls.allows o.x = true) :
    decVGat cls (encVGat f o) k = .ok (k o) := by
  have hl := immWords_length 0 4 o.off
  rw [decVGat, withM_enc cls _ o.x _ rfl hw, offset_words (encVGat f o) o.off rfl]
  simp [encVGat, encM, need, hl, rFits, Fields.a5, RegX.c5, hi_lo]

theorem decV_enc (f : Fields) (o : OpV) (k : OpV → Instr) (h : f.imms = []) (hb : f.b = 0) (hq : f.q = false) : decV (encV f o) k = .ok (k o) := by
  rw [decV, rHigh_a5 (encV f o) o.a false rfl rfl, show (encV f o).r = rHigh (hi o.a) false from rfl, rHigh_fits_a]
  simp [need, Fields.noImm, encV, h, hb, hq]

theorem decVClr_enc (f : Fields) (o : OpV) (k : OpV → Instr) (h : f.imms = []) (hb : f.b = 0) (hq : f.q = false) (hg : f.guard = none) :
    decVClr (encV f o) k = .ok (k o) := by
  rw [decVClr, decV_enc f o k h hb hq]
  simp [need, encV, hg]

theorem decMBin_enc (f : Fields) (o : OpMBin) (k : OpMBin → Instr) (h : f.imms = []) (hq : f.q = false) : decMBin (encMBin f o) k = .ok (k o) := by
  obtain ⟨a, b, c⟩ := o
  cases c <;> simp [decMBin, encMBin, need, Fields.noImm, rFits, h, hq, ofP_toP]

theorem decMUn_enc (f : Fields) (o : OpMUn) (k : OpMUn → Instr) (h : f.imms = []) (hr : f.r = none) (hq : f.q = false) :
    decMUn (encMUn f o) k = .ok (k o) := by
  simp [decMUn, encMUn, need, Fields.noImm, rFits, h, hr, hq, ofP_toP]

theorem decMSet_enc (f : Fields) (o : OpMSet) (k : OpMSet → Instr) (h : f.imms = []) (hr : f.r = none) : decMSet (encMSet f o) k = .ok (k o) := by
  simp [decMSet, encMSet, need, Fields.noImm, rFits, h, hr, ofP_toP]

theorem decMGet_enc (f : Fields) (o : OpMGet) (k : OpMGet → Instr) (h : f.imms = []) (hr : f.r = none) (hq : f.q = false) :
    decMGet (encMGet f o) k = .ok (k o) := by
  simp [decMGet, encMGet, need, Fields.noImm, rFits, h, hr, hq, ofP_toP]

/-! ## Engine forms -/

theorem decShape_enc (f : Fields) (o : OpShape) (k : OpShape → Instr) : decShape (encShape f o) k = .ok (k o) := by
  have hl := immWords_length 0 4 o.off
  have he : ∀ e : PNum, (ofP e).getLsbD 3 = false := by decide +kernel
  rw [decShape, offset_words (encShape f o) o.off rfl]
  by_cases h0 : hi o.k = false ∧ o.esz = 0
  · have hr : (encShape f o).r = none := by simp [encShape, h0]
    have hk : BitVec.ofBool false ++ lo4 o.k = o.k := by rw [← h0.1]; exact hi_lo o.k
    have ha : (encShape f o).a5 = o.k := by simp only [Fields.a5, hr]; exact hk
    rw [ha, condDest, hr]
    obtain ⟨kk, b, q, off, e⟩ := o
    simp_all [encShape, encM, need, rFits]
  · have hr : (encShape f o).r = some { ah := hi o.k, c := ofP o.esz } := if_neg h0
    have ha : (encShape f o).a5 = o.k := by simp only [Fields.a5, hr]; exact hi_lo o.k
    rw [ha, condDest, hr]
    simp only [need, rFits, ofP_toP, he]
    simp [encShape, encM, hl]

theorem decCp_enc (f : Fields) (o : OpCp) (k : OpCp → Instr) (hq : f.q = false) : decCp (encCp f o) k = .ok (k o) := by
  rw [decCp, needIndex_enc 6 _ _ _ rfl (index6 o.h).1, index_enc (encCp f o) _ rfl, (index6 o.h).2, rHigh_a5 (encCp f o) o.kd (hi o.ks) rfl rfl,
    rHigh_b5 (encCp f o) (hi o.kd) o.ks rfl rfl, show (encCp f o).r = rHigh (hi o.kd) (hi o.ks) from rfl, rHigh_fits]
  simp [need, encCp, hq]

theorem decCpc_enc (f : Fields) (o : OpCpc) (k : OpCpc → Instr) (hq : f.q = false) : decCpc (encCpc f o) k = .ok (k o) := by
  rw [decCpc, needIndex_enc 6 _ _ _ rfl (index6 o.h).1, index_enc (encCpc f o) _ rfl, (index6 o.h).2]
  simp [need, encCpc, hq, rFits, Fields.a5, Fields.b5, hi_lo]

theorem decStrS_enc (f : Fields) (o : OpStrS) (k : OpStrS → Instr) (hq : f.q = false) : decStrS (encStrS f o) k = .ok (k o) := by
  rw [decStrS, needIndex_enc 6 _ _ _ rfl (index6 o.h).1, index_enc (encStrS f o) _ rfl, (index6 o.h).2, rHigh_b5 (encStrS f o) false o.ks rfl rfl,
    show (encStrS f o).r = rHigh false (hi o.ks) from rfl, rHigh_fits_b]
  simp [need, encStrS, hq]

theorem decStrV_enc (f : Fields) (o : OpStrV) (k : OpStrV → Instr) (hq : f.q = false) : decStrV (encStrV f o) k = .ok (k o) := by
  rw [decStrV, needIndex_enc 6 _ _ _ rfl (index6 o.h).1, index_enc (encStrV f o) _ rfl, (index6 o.h).2, rHigh_a5 (encStrV f o) o.a (hi o.ks) rfl rfl,
    rHigh_b5 (encStrV f o) (hi o.a) o.ks rfl rfl, show (encStrV f o).r = rHigh (hi o.a) (hi o.ks) from rfl, rHigh_fits]
  simp [need, encStrV, hq]

theorem decHb_enc (f : Fields) (o : OpHb) (k : OpHb → Instr) (hr : f.r = none) (ha : f.a = 0) : decHb (encHb f o) k = .ok (k o) := by
  rw [decHb, needIndex_enc 6 _ _ _ rfl (index6 o.h).1, index_enc (encHb f o) _ rfl, (index6 o.h).2]
  simp [need, encHb, hr, ha, rFits]

theorem decH_enc (f : Fields) (o : OpH) (k : OpH → Instr) (hr : f.r = none) (ha : f.a = 0) (hb : f.b = 0) (hq : f.q = false) :
    decH (encH f o) k = .ok (k o) := by
  rw [decH, needIndex_enc 6 _ _ _ rfl (index6 o.h).1, index_enc (encH f o) _ rfl, (index6 o.h).2]
  simp [need, encH, hr, ha, hb, hq, rFits]

theorem decLink_enc (f : Fields) (o : OpLink) (k : OpLink → Instr) (hr : f.r = none) (hb : f.b = 0) (hq : f.q = false) (hw : o.wf = true) :
    decLink (encLink f o) k = .ok (k o) := by
  obtain ⟨h1, h2, h3⟩ := index4 o.idx
  rw [decLink, needIndex_enc 4 _ _ _ rfl h1, index_enc (encLink f o) _ rfl, h2, h3]
  simp only [OpLink.wf] at hw
  simp [need, encLink, hr, hb, hq, rFits]
  simpa using hw

theorem decBC_enc (f : Fields) (o : OpBC) (k : OpBC → Instr) (h : f.imms = []) (ha : f.a = 0) : decBC (encBC f o) k = .ok (k o) := by
  simp [decBC, encBC, need, Fields.noImm, rFits, h, ha]

theorem decABH_enc (f : Fields) (o : OpABH) (k : OpABH → Instr) (hr : f.r = none) : decABH (encABH f o) k = .ok (k o) := by
  rw [decABH, needIndex_enc 6 _ _ _ rfl (index6 o.h).1, index_enc (encABH f o) _ rfl, (index6 o.h).2]
  simp [need, encABH, hr, rFits]

end Sys2Proof
end

