-- ==== Sys2Proof/Laws/PerInstr.lean ====
section
/-!
SUPPORT. Statements made per instruction. Family Coding: an instruction's fields stand for it.
-/

namespace Sys2Proof.Laws.Coding

/-- A well-formed instruction has fields, its op is no prefix op, and the decoder reads it back from them (R221 to R241). -/
def Statement (i : Instr) : Prop := i.isCoded = true → i.wf = true → ∃ f, i.fields = some f ∧ f.op.toNat < 0x3C ∧ f.instr = .ok i

theorem nop (m : Mods) : Statement (.nop m) := fun _ _ => ⟨_, rfl,
  by show (0x00 : BitVec 6).toNat < _; decide, decN_enc (m.fields 0 0x00) (.nop m) rfl rfl rfl rfl rfl⟩

theorem mov (m : Mods) (o : OpAB) : Statement (.mov m o) := fun _ _ => ⟨_, rfl,
  by show (0x01 : BitVec 6).toNat < _; decide, decUn_enc (m.fields 0 0x01) o (.mov m) rfl rfl⟩

theorem movi (m : Mods) (o : OpImm) : Statement (.movi m o) := fun _ _ => ⟨_, rfl,
  by show (0x02 : BitVec 6).toNat < _; decide, decImm_enc (m.fields 0 0x02) o (.movi m) rfl⟩

theorem add (m : Mods) (x : Option ArithX) (o : OpBin) : Statement (.add m x o) := fun _ hw => ⟨_, rfl,
  by show (0x03 : BitVec 6).toNat < _; decide, (withA_enc .anyInt (encBin (m.fields 0 0x03 (x.map ArithX.bits)) o) x (fun x => decBin  (encBin (m.fields 0 0x03 (x.map ArithX.bits)) o) (.add m x)) rfl hw).trans (decBin_enc (m.fields 0 0x03 (x.map ArithX.bits)) o (.add m x) rfl)⟩

theorem addi (m : Mods) (x : Option ArithX) (o : OpImm) : Statement (.addi m x o) := fun _ hw => ⟨_, rfl,
  by show (0x04 : BitVec 6).toNat < _; decide, (withA_enc .anyInt (encImm (m.fields 0 0x04 (x.map ArithX.bits)) o) x (fun x => decImm  (encImm (m.fields 0 0x04 (x.map ArithX.bits)) o) (.addi m x)) rfl hw).trans (decImm_enc (m.fields 0 0x04 (x.map ArithX.bits)) o (.addi m x) rfl)⟩

theorem sub (m : Mods) (x : Option ArithX) (o : OpBin) : Statement (.sub m x o) := fun _ hw => ⟨_, rfl,
  by show (0x05 : BitVec 6).toNat < _; decide, (withA_enc .anyInt (encBin (m.fields 0 0x05 (x.map ArithX.bits)) o) x (fun x => decBin  (encBin (m.fields 0 0x05 (x.map ArithX.bits)) o) (.sub m x)) rfl hw).trans (decBin_enc (m.fields 0 0x05 (x.map ArithX.bits)) o (.sub m x) rfl)⟩

theorem mul (m : Mods) (x : Option ArithX) (o : OpBin) : Statement (.mul m x o) := fun _ hw => ⟨_, rfl,
  by show (0x06 : BitVec 6).toNat < _; decide, (withA_enc .anyInt (encBin (m.fields 0 0x06 (x.map ArithX.bits)) o) x (fun x => decBin  (encBin (m.fields 0 0x06 (x.map ArithX.bits)) o) (.mul m x)) rfl hw).trans (decBin_enc (m.fields 0 0x06 (x.map ArithX.bits)) o (.mul m x) rfl)⟩

theorem mulh (m : Mods) (x : Option ArithX) (o : OpBin) : Statement (.mulh m x o) := fun _ hw => ⟨_, rfl,
  by show (0x07 : BitVec 6).toNat < _; decide, (withA_enc .signed (encBin (m.fields 0 0x07 (x.map ArithX.bits)) o) x (fun x => decBin  (encBin (m.fields 0 0x07 (x.map ArithX.bits)) o) (.mulh m x)) rfl hw).trans (decBin_enc (m.fields 0 0x07 (x.map ArithX.bits)) o (.mulh m x) rfl)⟩

theorem mulhu (m : Mods) (x : Option ArithX) (o : OpBin) : Statement (.mulhu m x o) := fun _ hw => ⟨_, rfl,
  by show (0x08 : BitVec 6).toNat < _; decide, (withA_enc .unsigned (encBin (m.fields 0 0x08 (x.map ArithX.bits)) o) x (fun x => decBin  (encBin (m.fields 0 0x08 (x.map ArithX.bits)) o) (.mulhu m x)) rfl hw).trans (decBin_enc (m.fields 0 0x08 (x.map ArithX.bits)) o (.mulhu m x) rfl)⟩

theorem div (m : Mods) (x : Option ArithX) (o : OpBin) : Statement (.div m x o) := fun _ hw => ⟨_, rfl,
  by show (0x09 : BitVec 6).toNat < _; decide, (withA_enc .signed (encBin (m.fields 0 0x09 (x.map ArithX.bits)) o) x (fun x => decBin  (encBin (m.fields 0 0x09 (x.map ArithX.bits)) o) (.div m x)) rfl hw).trans (decBin_enc (m.fields 0 0x09 (x.map ArithX.bits)) o (.div m x) rfl)⟩

theorem divu (m : Mods) (x : Option ArithX) (o : OpBin) : Statement (.divu m x o) := fun _ hw => ⟨_, rfl,
  by show (0x0A : BitVec 6).toNat < _; decide, (withA_enc .unsigned (encBin (m.fields 0 0x0A (x.map ArithX.bits)) o) x (fun x => decBin  (encBin (m.fields 0 0x0A (x.map ArithX.bits)) o) (.divu m x)) rfl hw).trans (decBin_enc (m.fields 0 0x0A (x.map ArithX.bits)) o (.divu m x) rfl)⟩

theorem rem (m : Mods) (x : Option ArithX) (o : OpBin) : Statement (.rem m x o) := fun _ hw => ⟨_, rfl,
  by show (0x0B : BitVec 6).toNat < _; decide, (withA_enc .signed (encBin (m.fields 0 0x0B (x.map ArithX.bits)) o) x (fun x => decBin  (encBin (m.fields 0 0x0B (x.map ArithX.bits)) o) (.rem m x)) rfl hw).trans (decBin_enc (m.fields 0 0x0B (x.map ArithX.bits)) o (.rem m x) rfl)⟩

theorem remu (m : Mods) (x : Option ArithX) (o : OpBin) : Statement (.remu m x o) := fun _ hw => ⟨_, rfl,
  by show (0x0C : BitVec 6).toNat < _; decide, (withA_enc .unsigned (encBin (m.fields 0 0x0C (x.map ArithX.bits)) o) x (fun x => decBin  (encBin (m.fields 0 0x0C (x.map ArithX.bits)) o) (.remu m x)) rfl hw).trans (decBin_enc (m.fields 0 0x0C (x.map ArithX.bits)) o (.remu m x) rfl)⟩

theorem and (m : Mods) (o : OpBin) : Statement (.and m o) := fun _ _ => ⟨_, rfl,
  by show (0x0D : BitVec 6).toNat < _; decide, decBin_enc (m.fields 0 0x0D) o (.and m) rfl⟩

theorem andi (m : Mods) (o : OpImm) : Statement (.andi m o) := fun _ _ => ⟨_, rfl,
  by show (0x0E : BitVec 6).toNat < _; decide, decImm_enc (m.fields 0 0x0E) o (.andi m) rfl⟩

theorem or (m : Mods) (o : OpBin) : Statement (.or m o) := fun _ _ => ⟨_, rfl,
  by show (0x0F : BitVec 6).toNat < _; decide, decBin_enc (m.fields 0 0x0F) o (.or m) rfl⟩

theorem ori (m : Mods) (o : OpImm) : Statement (.ori m o) := fun _ _ => ⟨_, rfl,
  by show (0x10 : BitVec 6).toNat < _; decide, decImm_enc (m.fields 0 0x10) o (.ori m) rfl⟩

theorem xor (m : Mods) (o : OpBin) : Statement (.xor m o) := fun _ _ => ⟨_, rfl,
  by show (0x11 : BitVec 6).toNat < _; decide, decBin_enc (m.fields 0 0x11) o (.xor m) rfl⟩

theorem xori (m : Mods) (o : OpImm) : Statement (.xori m o) := fun _ _ => ⟨_, rfl,
  by show (0x12 : BitVec 6).toNat < _; decide, decImm_enc (m.fields 0 0x12) o (.xori m) rfl⟩

theorem not (m : Mods) (o : OpAB) : Statement (.not m o) := fun _ _ => ⟨_, rfl,
  by show (0x13 : BitVec 6).toNat < _; decide, decUn_enc (m.fields 0 0x13) o (.not m) rfl rfl⟩

theorem neg (m : Mods) (x : Option ArithX) (o : OpAB) : Statement (.neg m x o) := fun _ hw => ⟨_, rfl,
  by show (0x14 : BitVec 6).toNat < _; decide, (withA_enc .anyInt (encAB (m.fields 0 0x14 (x.map ArithX.bits)) o) x (fun x => decUn  (encAB (m.fields 0 0x14 (x.map ArithX.bits)) o) (.neg m x)) rfl hw).trans (decUn_enc (m.fields 0 0x14 (x.map ArithX.bits)) o (.neg m x) rfl rfl)⟩

theorem shl (m : Mods) (o : OpBin) : Statement (.shl m o) := fun _ _ => ⟨_, rfl,
  by show (0x15 : BitVec 6).toNat < _; decide, decBin_enc (m.fields 0 0x15) o (.shl m) rfl⟩

theorem shli (m : Mods) (o : OpShift) : Statement (.shli m o) := fun _ _ => ⟨_, rfl,
  by show (0x16 : BitVec 6).toNat < _; decide, decShift_enc (m.fields 0 0x16) o (.shli m) rfl⟩

theorem shr (m : Mods) (o : OpBin) : Statement (.shr m o) := fun _ _ => ⟨_, rfl,
  by show (0x17 : BitVec 6).toNat < _; decide, decBin_enc (m.fields 0 0x17) o (.shr m) rfl⟩

theorem shri (m : Mods) (o : OpShift) : Statement (.shri m o) := fun _ _ => ⟨_, rfl,
  by show (0x18 : BitVec 6).toNat < _; decide, decShift_enc (m.fields 0 0x18) o (.shri m) rfl⟩

theorem sar (m : Mods) (o : OpBin) : Statement (.sar m o) := fun _ _ => ⟨_, rfl,
  by show (0x19 : BitVec 6).toNat < _; decide, decBin_enc (m.fields 0 0x19) o (.sar m) rfl⟩

theorem sari (m : Mods) (o : OpShift) : Statement (.sari m o) := fun _ _ => ⟨_, rfl,
  by show (0x1A : BitVec 6).toNat < _; decide, decShift_enc (m.fields 0 0x1A) o (.sari m) rfl⟩

theorem rol (m : Mods) (o : OpBin) : Statement (.rol m o) := fun _ _ => ⟨_, rfl,
  by show (0x1B : BitVec 6).toNat < _; decide, decBin_enc (m.fields 0 0x1B) o (.rol m) rfl⟩

theorem min (m : Mods) (x : Option ArithX) (o : OpBin) : Statement (.min m x o) := fun _ hw => ⟨_, rfl,
  by show (0x1C : BitVec 6).toNat < _; decide, (withA_enc .signed (encBin (m.fields 0 0x1C (x.map ArithX.bits)) o) x (fun x => decBin  (encBin (m.fields 0 0x1C (x.map ArithX.bits)) o) (.min m x)) rfl hw).trans (decBin_enc (m.fields 0 0x1C (x.map ArithX.bits)) o (.min m x) rfl)⟩

theorem max (m : Mods) (x : Option ArithX) (o : OpBin) : Statement (.max m x o) := fun _ hw => ⟨_, rfl,
  by show (0x1D : BitVec 6).toNat < _; decide, (withA_enc .signed (encBin (m.fields 0 0x1D (x.map ArithX.bits)) o) x (fun x => decBin  (encBin (m.fields 0 0x1D (x.map ArithX.bits)) o) (.max m x)) rfl hw).trans (decBin_enc (m.fields 0 0x1D (x.map ArithX.bits)) o (.max m x) rfl)⟩

theorem minu (m : Mods) (x : Option ArithX) (o : OpBin) : Statement (.minu m x o) := fun _ hw => ⟨_, rfl,
  by show (0x1E : BitVec 6).toNat < _; decide, (withA_enc .unsigned (encBin (m.fields 0 0x1E (x.map ArithX.bits)) o) x (fun x => decBin  (encBin (m.fields 0 0x1E (x.map ArithX.bits)) o) (.minu m x)) rfl hw).trans (decBin_enc (m.fields 0 0x1E (x.map ArithX.bits)) o (.minu m x) rfl)⟩

theorem maxu (m : Mods) (x : Option ArithX) (o : OpBin) : Statement (.maxu m x o) := fun _ hw => ⟨_, rfl,
  by show (0x1F : BitVec 6).toNat < _; decide, (withA_enc .unsigned (encBin (m.fields 0 0x1F (x.map ArithX.bits)) o) x (fun x => decBin  (encBin (m.fields 0 0x1F (x.map ArithX.bits)) o) (.maxu m x)) rfl hw).trans (decBin_enc (m.fields 0 0x1F (x.map ArithX.bits)) o (.maxu m x) rfl)⟩

theorem clz (m : Mods) (o : OpAB) : Statement (.clz m o) := fun _ _ => ⟨_, rfl,
  by show (0x20 : BitVec 6).toNat < _; decide, decUn_enc (m.fields 0 0x20) o (.clz m) rfl rfl⟩

theorem ctz (m : Mods) (o : OpAB) : Statement (.ctz m o) := fun _ _ => ⟨_, rfl,
  by show (0x21 : BitVec 6).toNat < _; decide, decUn_enc (m.fields 0 0x21) o (.ctz m) rfl rfl⟩

theorem popc (m : Mods) (o : OpAB) : Statement (.popc m o) := fun _ _ => ⟨_, rfl,
  by show (0x22 : BitVec 6).toNat < _; decide, decUn_enc (m.fields 0 0x22) o (.popc m) rfl rfl⟩

theorem sext (m : Mods) (o : OpExt) : Statement (.sext m o) := fun _ hw => ⟨_, rfl,
  by show (0x23 : BitVec 6).toNat < _; decide, decExt_enc (m.fields 0 0x23) o (.sext m) rfl hw⟩

theorem zext (m : Mods) (o : OpExt) : Statement (.zext m o) := fun _ hw => ⟨_, rfl,
  by show (0x24 : BitVec 6).toNat < _; decide, decExt_enc (m.fields 0 0x24) o (.zext m) rfl hw⟩

theorem bfx (m : Mods) (o : OpABC) : Statement (.bfx m o) := fun _ _ => ⟨_, rfl,
  by show (0x25 : BitVec 6).toNat < _; decide, decABC_enc (m.fields 0 0x25) o (.bfx m) rfl⟩

theorem bfi (m : Mods) (o : OpABC) : Statement (.bfi m o) := fun _ _ => ⟨_, rfl,
  by show (0x26 : BitVec 6).toNat < _; decide, decABC_enc (m.fields 0 0x26) o (.bfi m) rfl⟩

theorem lea (m : Mods) (o : OpLea) : Statement (.lea m o) := fun _ _ => ⟨_, rfl,
  by show (0x27 : BitVec 6).toNat < _; decide, decLea_enc (m.fields 0 0x27) o (.lea m)⟩

theorem sel (m : Mods) (o : OpSel) : Statement (.sel m o) := fun _ _ => ⟨_, rfl,
  by show (0x28 : BitVec 6).toNat < _; decide, decSel_enc (m.fields 0 0x28) o (.sel m)⟩

theorem plog (m : Mods) (o : OpPlog) : Statement (.plog m o) := fun _ _ => ⟨_, rfl,
  by show (0x29 : BitVec 6).toNat < _; decide, decPlog_enc (m.fields 0 0x29) o (.plog m) rfl⟩

theorem rdp (m : Mods) (o : OpA) : Statement (.rdp m o) := fun _ _ => ⟨_, rfl,
  by show (0x2A : BitVec 6).toNat < _; decide, decA_enc (m.fields 0 0x2A) o (.rdp m) rfl rfl rfl rfl⟩

theorem wrp (m : Mods) (o : OpAB) : Statement (.wrp m o) := fun _ _ => ⟨_, rfl,
  by show (0x2B : BitVec 6).toNat < _; decide, decAB_enc (m.fields 0 0x2B) o (.wrp m) rfl rfl⟩

theorem cmpEq (m : Mods) (o : OpCmp) : Statement (.cmpEq m o) := fun _ _ => ⟨_, rfl,
  by show (0x2C : BitVec 6).toNat < _; decide, decCmp_enc (m.fields 0 0x2C) o (.cmpEq m) rfl⟩

theorem cmpLt (m : Mods) (o : OpCmp) : Statement (.cmpLt m o) := fun _ _ => ⟨_, rfl,
  by show (0x2D : BitVec 6).toNat < _; decide, decCmp_enc (m.fields 0 0x2D) o (.cmpLt m) rfl⟩

theorem cmpLtu (m : Mods) (o : OpCmp) : Statement (.cmpLtu m o) := fun _ _ => ⟨_, rfl,
  by show (0x2E : BitVec 6).toNat < _; decide, decCmp_enc (m.fields 0 0x2E) o (.cmpLtu m) rfl⟩

theorem cmpiEq (m : Mods) (o : OpCmpI) : Statement (.cmpiEq m o) := fun _ _ => ⟨_, rfl,
  by show (0x30 : BitVec 6).toNat < _; decide, decCmpI_enc (m.fields 0 0x30) o (.cmpiEq m)⟩

theorem cmpiLt (m : Mods) (o : OpCmpI) : Statement (.cmpiLt m o) := fun _ _ => ⟨_, rfl,
  by show (0x31 : BitVec 6).toNat < _; decide, decCmpI_enc (m.fields 0 0x31) o (.cmpiLt m)⟩

theorem cmpiLtu (m : Mods) (o : OpCmpI) : Statement (.cmpiLtu m o) := fun _ _ => ⟨_, rfl,
  by show (0x32 : BitVec 6).toNat < _; decide, decCmpI_enc (m.fields 0 0x32) o (.cmpiLtu m)⟩

theorem cmpiLe (m : Mods) (o : OpCmpI) : Statement (.cmpiLe m o) := fun _ _ => ⟨_, rfl,
  by show (0x33 : BitVec 6).toNat < _; decide, decCmpI_enc (m.fields 0 0x33) o (.cmpiLe m)⟩

theorem cmpiLeu (m : Mods) (o : OpCmpI) : Statement (.cmpiLeu m o) := fun _ _ => ⟨_, rfl,
  by show (0x34 : BitVec 6).toNat < _; decide, decCmpI_enc (m.fields 0 0x34) o (.cmpiLeu m)⟩

theorem br (m : Mods) (o : OpJ) : Statement (.br m o) := fun _ _ => ⟨_, rfl,
  by show (0x35 : BitVec 6).toNat < _; decide, decJ_enc (m.fields 0 0x35) o (.br m) rfl⟩

theorem brp (m : Mods) (o : OpP) : Statement (.brp m o) := fun _ _ => ⟨_, rfl,
  by show (0x36 : BitVec 6).toNat < _; decide, decP_enc (m.fields 0 0x36) o (.brp m) rfl⟩

theorem call (m : Mods) (o : OpJ) : Statement (.call m o) := fun _ _ => ⟨_, rfl,
  by show (0x37 : BitVec 6).toNat < _; decide, decJ_enc (m.fields 0 0x37) o (.call m) rfl⟩

theorem ret (m : Mods) : Statement (.ret m) := fun _ _ => ⟨_, rfl,
  by show (0x38 : BitVec 6).toNat < _; decide, decN_enc (m.fields 0 0x38) (.ret m) rfl rfl rfl rfl rfl⟩

theorem jmpr (m : Mods) (o : OpB) : Statement (.jmpr m o) := fun _ _ => ⟨_, rfl,
  by show (0x39 : BitVec 6).toNat < _; decide, decB_enc (m.fields 0 0x39) o (.jmpr m) rfl rfl rfl⟩

theorem loop (m : Mods) (o : OpImm) : Statement (.loop m o) := fun _ _ => ⟨_, rfl,
  by show (0x3A : BitVec 6).toNat < _; decide, decImm_enc (m.fields 0 0x3A) o (.loop m) rfl⟩

theorem clr (m : Mods) (o : OpA) : Statement (.clr m o) := fun _ _ => ⟨_, rfl,
  by show (0x3B : BitVec 6).toNat < _; decide, decA_enc (m.fields 0 0x3B) o (.clr m) rfl rfl rfl rfl⟩

theorem ld (m : Mods) (o : OpLd) : Statement (.ld m o) := fun _ hw => by
  have hz : o.sz = 0 ∨ o.sz = 1 ∨ o.sz = 2 ∨ o.sz = 3 := by generalize o.sz = z; revert z; decide
  refine ⟨_, rfl, ?_, ?_⟩
  · rcases hz with h | h | h | h <;> simp [encLd, encM, sized, Mods.fields, h]
  · refine Eq.trans ?_ (decLd_enc .ld (m.fields 1 0x00) o (.ld m) (by show (0x00 : BitVec 6).extractLsb' 0 2 = 0; decide) hw)
    rcases hz with h | h | h | h <;> simp [Fields.instr, decodePage1, encLd, encM, sized, Mods.fields, h]

theorem st (m : Mods) (o : OpLd) : Statement (.st m o) := fun _ hw => by
  have hz : o.sz = 0 ∨ o.sz = 1 ∨ o.sz = 2 ∨ o.sz = 3 := by generalize o.sz = z; revert z; decide
  refine ⟨_, rfl, ?_, ?_⟩
  · rcases hz with h | h | h | h <;> simp [encLd, encM, sized, Mods.fields, h]
  · refine Eq.trans ?_ (decLd_enc .st (m.fields 1 0x04) o (.st m) (by show (0x04 : BitVec 6).extractLsb' 0 2 = 0; decide) hw)
    rcases hz with h | h | h | h <;> simp [Fields.instr, decodePage1, encLd, encM, sized, Mods.fields, h]

theorem ldt (m : Mods) (o : OpLdt) : Statement (.ldt m o) := fun _ hw => by
  have hz : o.sz = 0 ∨ o.sz = 1 ∨ o.sz = 2 ∨ o.sz = 3 := by generalize o.sz = z; revert z; decide
  refine ⟨_, rfl, ?_, ?_⟩
  · rcases hz with h | h | h | h <;> simp [encLdt, encM, sized, Mods.fields, h]
  · refine Eq.trans ?_ (decLdt_enc .load (m.fields 1 0x08) o (.ldt m) (by show (0x08 : BitVec 6).extractLsb' 0 2 = 0; decide) hw)
    rcases hz with h | h | h | h <;> simp [Fields.instr, decodePage1, encLdt, encM, sized, Mods.fields, h]

theorem ldf (m : Mods) (o : OpLdf) : Statement (.ldf m o) := fun _ hw => by
  have hz : o.sz = 0 ∨ o.sz = 1 ∨ o.sz = 2 ∨ o.sz = 3 := by generalize o.sz = z; revert z; decide
  refine ⟨_, rfl, ?_, ?_⟩
  · rcases hz with h | h | h | h <;> simp [encLdf, encM, sized, Mods.fields, h]
  · refine Eq.trans ?_ (decLdf_enc .load (m.fields 1 0x0C) o (.ldf m) (by show (0x0C : BitVec 6).extractLsb' 0 2 = 0; decide) rfl hw)
    rcases hz with h | h | h | h <;> simp [Fields.instr, decodePage1, encLdf, encM, sized, Mods.fields, h]

theorem ldfe (m : Mods) (o : OpLdf) : Statement (.ldfe m o) := fun _ hw => by
  have hz : o.sz = 0 ∨ o.sz = 1 ∨ o.sz = 2 ∨ o.sz = 3 := by generalize o.sz = z; revert z; decide
  refine ⟨_, rfl, ?_, ?_⟩
  · rcases hz with h | h | h | h <;> simp [encLdf, encM, sized, Mods.fields, h]
  · refine Eq.trans ?_ (decLdf_enc .load (m.fields 1 0x10) o (.ldfe m) (by show (0x10 : BitVec 6).extractLsb' 0 2 = 0; decide) rfl hw)
    rcases hz with h | h | h | h <;> simp [Fields.instr, decodePage1, encLdf, encM, sized, Mods.fields, h]

theorem stef (m : Mods) (o : OpLdf) : Statement (.stef m o) := fun _ hw => by
  have hz : o.sz = 0 ∨ o.sz = 1 ∨ o.sz = 2 ∨ o.sz = 3 := by generalize o.sz = z; revert z; decide
  refine ⟨_, rfl, ?_, ?_⟩
  · rcases hz with h | h | h | h <;> simp [encLdf, encM, sized, Mods.fields, h]
  · refine Eq.trans ?_ (decLdf_enc .store (m.fields 1 0x14) o (.stef m) (by show (0x14 : BitVec 6).extractLsb' 0 2 = 0; decide) rfl hw)
    rcases hz with h | h | h | h <;> simp [Fields.instr, decodePage1, encLdf, encM, sized, Mods.fields, h]

theorem setf (m : Mods) (o : OpSet) : Statement (.setf m o) := fun _ hw => ⟨_, rfl,
  by show (0x18 : BitVec 6).toNat < _; decide, decSet_enc .store (m.fields 1 0x18) o (.setf m) rfl hw⟩

theorem sete (m : Mods) (o : OpSet) : Statement (.sete m o) := fun _ hw => ⟨_, rfl,
  by show (0x19 : BitVec 6).toNat < _; decide, decSet_enc .store (m.fields 1 0x19) o (.sete m) rfl hw⟩

theorem fence (m : Mods) (o : OpFence) : Statement (.fence m o) := fun _ _ => ⟨_, rfl,
  by show (0x1A : BitVec 6).toNat < _; decide, decFence_enc (m.fields 1 0x1A) o (.fence m) rfl rfl rfl rfl rfl⟩

theorem amoSwapW (m : Mods) (o : OpAmo) : Statement (.amoSwapW m o) := fun _ hw => ⟨_, rfl,
  by show (0x1B : BitVec 6).toNat < _; decide, decAmo_enc .atomic (m.fields 1 0x1B) o (.amoSwapW m) rfl hw⟩

theorem amoSwapD (m : Mods) (o : OpAmo) : Statement (.amoSwapD m o) := fun _ hw => ⟨_, rfl,
  by show (0x1C : BitVec 6).toNat < _; decide, decAmo_enc .atomic (m.fields 1 0x1C) o (.amoSwapD m) rfl hw⟩

theorem casW (m : Mods) (o : OpCas) : Statement (.casW m o) := fun _ hw => ⟨_, rfl,
  by show (0x1D : BitVec 6).toNat < _; decide, decCas_enc .atomic (m.fields 1 0x1D) o (.casW m) hw⟩

theorem casD (m : Mods) (o : OpCas) : Statement (.casD m o) := fun _ hw => ⟨_, rfl,
  by show (0x1E : BitVec 6).toNat < _; decide, decCas_enc .atomic (m.fields 1 0x1E) o (.casD m) hw⟩

theorem amoOp (m : Mods) (o : OpAmoOp) : Statement (.amoOp m o) := fun _ hw => by
  have hz : ∃ z : Fin 16, ((0x20 : BitVec 6) ||| (o.op ++ BitVec.ofBool o.dbl).setWidth 6) = BitVec.ofNat 6 (0x20 + z.val) := by
    generalize o.op = p; generalize o.dbl = d; revert p d; decide +kernel
  obtain ⟨z, hz⟩ := hz
  have hop : (encAmoOp (m.fields 1 0x20) o).op = BitVec.ofNat 6 (0x20 + z.val) := hz
  refine ⟨_, rfl, ?_, ?_⟩
  · rw [hop]; clear hop hz; revert z; decide
  · refine Eq.trans ?_ (decAmoOp_enc .atomic (m.fields 1 0x20) o (.amoOp m) rfl rfl hw)
    have hp : (encAmoOp (m.fields 1 0x20) o).page.toNat = 1 := rfl
    simp only [Fields.instr, hp, decodePage1, hop]
    clear hop hz
    obtain ⟨z, h⟩ := z
    have : z = 0 ∨ z = 1 ∨ z = 2 ∨ z = 3 ∨ z = 4 ∨ z = 5 ∨ z = 6 ∨ z = 7 ∨ z = 8 ∨ z = 9 ∨ z = 10 ∨ z = 11 ∨ z = 12 ∨ z = 13 ∨ z = 14 ∨ z = 15 := by omega
    rcases this with h | h | h | h | h | h | h | h | h | h | h | h | h | h | h | h <;> subst h <;> rfl

theorem view (m : Mods) (o : OpAB) : Statement (.view m o) := fun _ _ => ⟨_, rfl,
  by show (0x30 : BitVec 6).toNat < _; decide, decUn_enc (m.fields 1 0x30) o (.view m) rfl rfl⟩

theorem vclose (m : Mods) (o : OpAB) : Statement (.vclose m o) := fun _ _ => ⟨_, rfl,
  by show (0x31 : BitVec 6).toNat < _; decide, decUn_enc (m.fields 1 0x31) o (.vclose m) rfl rfl⟩

theorem bopen (m : Mods) (o : OpAB) : Statement (.bopen m o) := fun _ _ => ⟨_, rfl,
  by show (0x32 : BitVec 6).toNat < _; decide, decUn_enc (m.fields 1 0x32) o (.bopen m) rfl rfl⟩

theorem bopenJ (m : Mods) (o : OpAB) : Statement (.bopenJ m o) := fun _ _ => ⟨_, rfl,
  by show (0x33 : BitVec 6).toNat < _; decide, decUn_enc (m.fields 1 0x33) o (.bopenJ m) rfl rfl⟩

theorem bcommit (m : Mods) (o : OpAB) : Statement (.bcommit m o) := fun _ _ => ⟨_, rfl,
  by show (0x34 : BitVec 6).toNat < _; decide, decUn_enc (m.fields 1 0x34) o (.bcommit m) rfl rfl⟩

theorem babort (m : Mods) (o : OpAB) : Statement (.babort m o) := fun _ _ => ⟨_, rfl,
  by show (0x35 : BitVec 6).toNat < _; decide, decUn_enc (m.fields 1 0x35) o (.babort m) rfl rfl⟩

theorem fadd (m : Mods) (x : Option ArithX) (o : OpBin) : Statement (.fadd m x o) := fun _ hw => ⟨_, rfl,
  by show (0x00 : BitVec 6).toNat < _; decide, (withA_enc .float (encBin (m.fields 2 0x00 (x.map ArithX.bits)) o) x (fun x => decBin  (encBin (m.fields 2 0x00 (x.map ArithX.bits)) o) (.fadd m x)) rfl hw).trans (decBin_enc (m.fields 2 0x00 (x.map ArithX.bits)) o (.fadd m x) rfl)⟩

theorem fsub (m : Mods) (x : Option ArithX) (o : OpBin) : Statement (.fsub m x o) := fun _ hw => ⟨_, rfl,
  by show (0x01 : BitVec 6).toNat < _; decide, (withA_enc .float (encBin (m.fields 2 0x01 (x.map ArithX.bits)) o) x (fun x => decBin  (encBin (m.fields 2 0x01 (x.map ArithX.bits)) o) (.fsub m x)) rfl hw).trans (decBin_enc (m.fields 2 0x01 (x.map ArithX.bits)) o (.fsub m x) rfl)⟩

theorem fmul (m : Mods) (x : Option ArithX) (o : OpBin) : Statement (.fmul m x o) := fun _ hw => ⟨_, rfl,
  by show (0x02 : BitVec 6).toNat < _; decide, (withA_enc .float (encBin (m.fields 2 0x02 (x.map ArithX.bits)) o) x (fun x => decBin  (encBin (m.fields 2 0x02 (x.map ArithX.bits)) o) (.fmul m x)) rfl hw).trans (decBin_enc (m.fields 2 0x02 (x.map ArithX.bits)) o (.fmul m x) rfl)⟩

theorem fdiv (m : Mods) (x : Option ArithX) (o : OpBin) : Statement (.fdiv m x o) := fun _ hw => ⟨_, rfl,
  by show (0x03 : BitVec 6).toNat < _; decide, (withA_enc .float (encBin (m.fields 2 0x03 (x.map ArithX.bits)) o) x (fun x => decBin  (encBin (m.fields 2 0x03 (x.map ArithX.bits)) o) (.fdiv m x)) rfl hw).trans (decBin_enc (m.fields 2 0x03 (x.map ArithX.bits)) o (.fdiv m x) rfl)⟩

theorem fsqrt (m : Mods) (x : Option ArithX) (o : OpAB) : Statement (.fsqrt m x o) := fun _ hw => ⟨_, rfl,
  by show (0x04 : BitVec 6).toNat < _; decide, (withA_enc .float (encAB (m.fields 2 0x04 (x.map ArithX.bits)) o) x (fun x => decUn  (encAB (m.fields 2 0x04 (x.map ArithX.bits)) o) (.fsqrt m x)) rfl hw).trans (decUn_enc (m.fields 2 0x04 (x.map ArithX.bits)) o (.fsqrt m x) rfl rfl)⟩

theorem fma (m : Mods) (x : Option ArithX) (o : OpABC) : Statement (.fma m x o) := fun _ hw => ⟨_, rfl,
  by show (0x05 : BitVec 6).toNat < _; decide, (withA_enc .float (encABC (m.fields 2 0x05 (x.map ArithX.bits)) o) x (fun x => decABC  (encABC (m.fields 2 0x05 (x.map ArithX.bits)) o) (.fma m x)) rfl hw).trans (decABC_enc (m.fields 2 0x05 (x.map ArithX.bits)) o (.fma m x) rfl)⟩

theorem fmin (m : Mods) (x : Option ArithX) (o : OpBin) : Statement (.fmin m x o) := fun _ hw => ⟨_, rfl,
  by show (0x06 : BitVec 6).toNat < _; decide, (withA_enc .float (encBin (m.fields 2 0x06 (x.map ArithX.bits)) o) x (fun x => decBin  (encBin (m.fields 2 0x06 (x.map ArithX.bits)) o) (.fmin m x)) rfl hw).trans (decBin_enc (m.fields 2 0x06 (x.map ArithX.bits)) o (.fmin m x) rfl)⟩

theorem fmax (m : Mods) (x : Option ArithX) (o : OpBin) : Statement (.fmax m x o) := fun _ hw => ⟨_, rfl,
  by show (0x07 : BitVec 6).toNat < _; decide, (withA_enc .float (encBin (m.fields 2 0x07 (x.map ArithX.bits)) o) x (fun x => decBin  (encBin (m.fields 2 0x07 (x.map ArithX.bits)) o) (.fmax m x)) rfl hw).trans (decBin_enc (m.fields 2 0x07 (x.map ArithX.bits)) o (.fmax m x) rfl)⟩

theorem fabs (m : Mods) (x : Option ArithX) (o : OpAB) : Statement (.fabs m x o) := fun _ hw => ⟨_, rfl,
  by show (0x08 : BitVec 6).toNat < _; decide, (withA_enc .float (encAB (m.fields 2 0x08 (x.map ArithX.bits)) o) x (fun x => decUn  (encAB (m.fields 2 0x08 (x.map ArithX.bits)) o) (.fabs m x)) rfl hw).trans (decUn_enc (m.fields 2 0x08 (x.map ArithX.bits)) o (.fabs m x) rfl rfl)⟩

theorem fneg (m : Mods) (x : Option ArithX) (o : OpAB) : Statement (.fneg m x o) := fun _ hw => ⟨_, rfl,
  by show (0x09 : BitVec 6).toNat < _; decide, (withA_enc .float (encAB (m.fields 2 0x09 (x.map ArithX.bits)) o) x (fun x => decUn  (encAB (m.fields 2 0x09 (x.map ArithX.bits)) o) (.fneg m x)) rfl hw).trans (decUn_enc (m.fields 2 0x09 (x.map ArithX.bits)) o (.fneg m x) rfl rfl)⟩

theorem fcmpEq (m : Mods) (x : Option ArithX) (o : OpCmp) : Statement (.fcmpEq m x o) := fun _ hw => ⟨_, rfl,
  by show (0x0A : BitVec 6).toNat < _; decide, (withA_enc .float (encCmp (m.fields 2 0x0A (x.map ArithX.bits)) o) x (fun x => decCmp  (encCmp (m.fields 2 0x0A (x.map ArithX.bits)) o) (.fcmpEq m x)) rfl hw).trans (decCmp_enc (m.fields 2 0x0A (x.map ArithX.bits)) o (.fcmpEq m x) rfl)⟩

theorem fcmpLt (m : Mods) (x : Option ArithX) (o : OpCmp) : Statement (.fcmpLt m x o) := fun _ hw => ⟨_, rfl,
  by show (0x0B : BitVec 6).toNat < _; decide, (withA_enc .float (encCmp (m.fields 2 0x0B (x.map ArithX.bits)) o) x (fun x => decCmp  (encCmp (m.fields 2 0x0B (x.map ArithX.bits)) o) (.fcmpLt m x)) rfl hw).trans (decCmp_enc (m.fields 2 0x0B (x.map ArithX.bits)) o (.fcmpLt m x) rfl)⟩

theorem fcmpLe (m : Mods) (x : Option ArithX) (o : OpCmp) : Statement (.fcmpLe m x o) := fun _ hw => ⟨_, rfl,
  by show (0x0C : BitVec 6).toNat < _; decide, (withA_enc .float (encCmp (m.fields 2 0x0C (x.map ArithX.bits)) o) x (fun x => decCmp  (encCmp (m.fields 2 0x0C (x.map ArithX.bits)) o) (.fcmpLe m x)) rfl hw).trans (decCmp_enc (m.fields 2 0x0C (x.map ArithX.bits)) o (.fcmpLe m x) rfl)⟩

theorem fcmpUn (m : Mods) (x : Option ArithX) (o : OpCmp) : Statement (.fcmpUn m x o) := fun _ hw => ⟨_, rfl,
  by show (0x0D : BitVec 6).toNat < _; decide, (withA_enc .float (encCmp (m.fields 2 0x0D (x.map ArithX.bits)) o) x (fun x => decCmp  (encCmp (m.fields 2 0x0D (x.map ArithX.bits)) o) (.fcmpUn m x)) rfl hw).trans (decCmp_enc (m.fields 2 0x0D (x.map ArithX.bits)) o (.fcmpUn m x) rfl)⟩

theorem fcvt (m : Mods) (x : Option ArithX) (o : OpCvt) : Statement (.fcvt m x o) := fun _ hw => ⟨_, rfl,
  by show (0x0E : BitVec 6).toNat < _; decide, (withA_enc .conv (encCvt (m.fields 2 0x0E (x.map ArithX.bits)) o) x (fun x => decCvt  (encCvt (m.fields 2 0x0E (x.map ArithX.bits)) o) (.fcvt m x)) rfl (Bool.and_eq_true_iff.mp hw).1).trans (decCvt_enc (m.fields 2 0x0E (x.map ArithX.bits)) o (.fcvt m x) rfl (Bool.and_eq_true_iff.mp hw).2)⟩

theorem fround (m : Mods) (x : Option ArithX) (o : OpAB) : Statement (.fround m x o) := fun _ hw => ⟨_, rfl,
  by show (0x0F : BitVec 6).toNat < _; decide, (withA_enc .float (encAB (m.fields 2 0x0F (x.map ArithX.bits)) o) x (fun x => decUn  (encAB (m.fields 2 0x0F (x.map ArithX.bits)) o) (.fround m x)) rfl hw).trans (decUn_enc (m.fields 2 0x0F (x.map ArithX.bits)) o (.fround m x) rfl rfl)⟩

theorem fsin (m : Mods) (x : Option ArithX) (o : OpAB) : Statement (.fsin m x o) := fun _ hw => ⟨_, rfl,
  by show (0x10 : BitVec 6).toNat < _; decide, (withA_enc .float (encAB (m.fields 2 0x10 (x.map ArithX.bits)) o) x (fun x => decUn  (encAB (m.fields 2 0x10 (x.map ArithX.bits)) o) (.fsin m x)) rfl hw).trans (decUn_enc (m.fields 2 0x10 (x.map ArithX.bits)) o (.fsin m x) rfl rfl)⟩

theorem fcos (m : Mods) (x : Option ArithX) (o : OpAB) : Statement (.fcos m x o) := fun _ hw => ⟨_, rfl,
  by show (0x11 : BitVec 6).toNat < _; decide, (withA_enc .float (encAB (m.fields 2 0x11 (x.map ArithX.bits)) o) x (fun x => decUn  (encAB (m.fields 2 0x11 (x.map ArithX.bits)) o) (.fcos m x)) rfl hw).trans (decUn_enc (m.fields 2 0x11 (x.map ArithX.bits)) o (.fcos m x) rfl rfl)⟩

theorem fexp2 (m : Mods) (x : Option ArithX) (o : OpAB) : Statement (.fexp2 m x o) := fun _ hw => ⟨_, rfl,
  by show (0x12 : BitVec 6).toNat < _; decide, (withA_enc .float (encAB (m.fields 2 0x12 (x.map ArithX.bits)) o) x (fun x => decUn  (encAB (m.fields 2 0x12 (x.map ArithX.bits)) o) (.fexp2 m x)) rfl hw).trans (decUn_enc (m.fields 2 0x12 (x.map ArithX.bits)) o (.fexp2 m x) rfl rfl)⟩

theorem flog2 (m : Mods) (x : Option ArithX) (o : OpAB) : Statement (.flog2 m x o) := fun _ hw => ⟨_, rfl,
  by show (0x13 : BitVec 6).toNat < _; decide, (withA_enc .float (encAB (m.fields 2 0x13 (x.map ArithX.bits)) o) x (fun x => decUn  (encAB (m.fields 2 0x13 (x.map ArithX.bits)) o) (.flog2 m x)) rfl hw).trans (decUn_enc (m.fields 2 0x13 (x.map ArithX.bits)) o (.flog2 m x) rfl rfl)⟩

theorem frcp (m : Mods) (x : Option ArithX) (o : OpAB) : Statement (.frcp m x o) := fun _ hw => ⟨_, rfl,
  by show (0x14 : BitVec 6).toNat < _; decide, (withA_enc .float (encAB (m.fields 2 0x14 (x.map ArithX.bits)) o) x (fun x => decUn  (encAB (m.fields 2 0x14 (x.map ArithX.bits)) o) (.frcp m x)) rfl hw).trans (decUn_enc (m.fields 2 0x14 (x.map ArithX.bits)) o (.frcp m x) rfl rfl)⟩

theorem fclass (m : Mods) (o : OpAB) : Statement (.fclass m o) := fun _ _ => ⟨_, rfl,
  by show (0x15 : BitVec 6).toNat < _; decide, decUn_enc (m.fields 2 0x15) o (.fclass m) rfl rfl⟩

theorem fbit (m : Mods) (o : OpBin) : Statement (.fbit m o) := fun _ _ => ⟨_, rfl,
  by show (0x16 : BitVec 6).toNat < _; decide, decBin_enc (m.fields 2 0x16) o (.fbit m) rfl⟩

theorem vadd (m : Mods) (x : Option ArithX) (o : OpVBin) : Statement (.vadd m x o) := fun _ hw => ⟨_, rfl,
  by show (0x00 : BitVec 6).toNat < _; decide, (withA_enc .all8 (encVBin (m.fields 3 0x00 (x.map ArithX.bits)) o) x (fun x => decVBin  (encVBin (m.fields 3 0x00 (x.map ArithX.bits)) o) (.vadd m x)) rfl (Bool.and_eq_true_iff.mp hw).1).trans (decVBin_enc (m.fields 3 0x00 (x.map ArithX.bits)) o (.vadd m x) rfl (Bool.and_eq_true_iff.mp hw).2)⟩

theorem vsub (m : Mods) (x : Option ArithX) (o : OpVBin) : Statement (.vsub m x o) := fun _ hw => ⟨_, rfl,
  by show (0x01 : BitVec 6).toNat < _; decide, (withA_enc .all8 (encVBin (m.fields 3 0x01 (x.map ArithX.bits)) o) x (fun x => decVBin  (encVBin (m.fields 3 0x01 (x.map ArithX.bits)) o) (.vsub m x)) rfl (Bool.and_eq_true_iff.mp hw).1).trans (decVBin_enc (m.fields 3 0x01 (x.map ArithX.bits)) o (.vsub m x) rfl (Bool.and_eq_true_iff.mp hw).2)⟩

theorem vmul (m : Mods) (x : Option ArithX) (o : OpVBin) : Statement (.vmul m x o) := fun _ hw => ⟨_, rfl,
  by show (0x02 : BitVec 6).toNat < _; decide, (withA_enc .all8 (encVBin (m.fields 3 0x02 (x.map ArithX.bits)) o) x (fun x => decVBin  (encVBin (m.fields 3 0x02 (x.map ArithX.bits)) o) (.vmul m x)) rfl (Bool.and_eq_true_iff.mp hw).1).trans (decVBin_enc (m.fields 3 0x02 (x.map ArithX.bits)) o (.vmul m x) rfl (Bool.and_eq_true_iff.mp hw).2)⟩

theorem vfma (m : Mods) (x : Option ArithX) (o : OpVBin) : Statement (.vfma m x o) := fun _ hw => ⟨_, rfl,
  by show (0x03 : BitVec 6).toNat < _; decide, (withA_enc .all8 (encVBin (m.fields 3 0x03 (x.map ArithX.bits)) o) x (fun x => decVTer  (encVBin (m.fields 3 0x03 (x.map ArithX.bits)) o) (.vfma m x)) rfl (Bool.and_eq_true_iff.mp hw).1).trans (decVTer_enc (m.fields 3 0x03 (x.map ArithX.bits)) o (.vfma m x) rfl (Bool.and_eq_true_iff.mp hw).2)⟩

theorem vdiv (m : Mods) (x : Option ArithX) (o : OpVBin) : Statement (.vdiv m x o) := fun _ hw => ⟨_, rfl,
  by show (0x04 : BitVec 6).toNat < _; decide, (withA_enc .float (encVBin (m.fields 3 0x04 (x.map ArithX.bits)) o) x (fun x => decVBin  (encVBin (m.fields 3 0x04 (x.map ArithX.bits)) o) (.vdiv m x)) rfl (Bool.and_eq_true_iff.mp hw).1).trans (decVBin_enc (m.fields 3 0x04 (x.map ArithX.bits)) o (.vdiv m x) rfl (Bool.and_eq_true_iff.mp hw).2)⟩

theorem vsqrt (m : Mods) (x : Option ArithX) (o : OpVUn) : Statement (.vsqrt m x o) := fun _ hw => ⟨_, rfl,
  by show (0x05 : BitVec 6).toNat < _; decide, (withA_enc .float (encVUn (m.fields 3 0x05 (x.map ArithX.bits)) o) x (fun x => decVUn  (encVUn (m.fields 3 0x05 (x.map ArithX.bits)) o) (.vsqrt m x)) rfl hw).trans (decVUn_enc (m.fields 3 0x05 (x.map ArithX.bits)) o (.vsqrt m x) rfl)⟩

theorem vmin (m : Mods) (x : Option ArithX) (o : OpVBin) : Statement (.vmin m x o) := fun _ hw => ⟨_, rfl,
  by show (0x06 : BitVec 6).toNat < _; decide, (withA_enc .all8 (encVBin (m.fields 3 0x06 (x.map ArithX.bits)) o) x (fun x => decVBin  (encVBin (m.fields 3 0x06 (x.map ArithX.bits)) o) (.vmin m x)) rfl (Bool.and_eq_true_iff.mp hw).1).trans (decVBin_enc (m.fields 3 0x06 (x.map ArithX.bits)) o (.vmin m x) rfl (Bool.and_eq_true_iff.mp hw).2)⟩

theorem vmax (m : Mods) (x : Option ArithX) (o : OpVBin) : Statement (.vmax m x o) := fun _ hw => ⟨_, rfl,
  by show (0x07 : BitVec 6).toNat < _; decide, (withA_enc .all8 (encVBin (m.fields 3 0x07 (x.map ArithX.bits)) o) x (fun x => decVBin  (encVBin (m.fields 3 0x07 (x.map ArithX.bits)) o) (.vmax m x)) rfl (Bool.and_eq_true_iff.mp hw).1).trans (decVBin_enc (m.fields 3 0x07 (x.map ArithX.bits)) o (.vmax m x) rfl (Bool.and_eq_true_iff.mp hw).2)⟩

theorem vabs (m : Mods) (x : Option ArithX) (o : OpVUn) : Statement (.vabs m x o) := fun _ hw => ⟨_, rfl,
  by show (0x08 : BitVec 6).toNat < _; decide, (withA_enc .all8 (encVUn (m.fields 3 0x08 (x.map ArithX.bits)) o) x (fun x => decVUn  (encVUn (m.fields 3 0x08 (x.map ArithX.bits)) o) (.vabs m x)) rfl hw).trans (decVUn_enc (m.fields 3 0x08 (x.map ArithX.bits)) o (.vabs m x) rfl)⟩

theorem vneg (m : Mods) (x : Option ArithX) (o : OpVUn) : Statement (.vneg m x o) := fun _ hw => ⟨_, rfl,
  by show (0x09 : BitVec 6).toNat < _; decide, (withA_enc .all8 (encVUn (m.fields 3 0x09 (x.map ArithX.bits)) o) x (fun x => decVUn  (encVUn (m.fields 3 0x09 (x.map ArithX.bits)) o) (.vneg m x)) rfl hw).trans (decVUn_enc (m.fields 3 0x09 (x.map ArithX.bits)) o (.vneg m x) rfl)⟩

theorem vmulh (m : Mods) (x : Option ArithX) (o : OpVBin) : Statement (.vmulh m x o) := fun _ hw => ⟨_, rfl,
  by show (0x0A : BitVec 6).toNat < _; decide, (withA_enc .anyInt (encVBin (m.fields 3 0x0A (x.map ArithX.bits)) o) x (fun x => decVBin  (encVBin (m.fields 3 0x0A (x.map ArithX.bits)) o) (.vmulh m x)) rfl (Bool.and_eq_true_iff.mp hw).1).trans (decVBin_enc (m.fields 3 0x0A (x.map ArithX.bits)) o (.vmulh m x) rfl (Bool.and_eq_true_iff.mp hw).2)⟩

theorem vand (m : Mods) (o : OpVBin) : Statement (.vand m o) := fun _ hw => ⟨_, rfl,
  by show (0x0B : BitVec 6).toNat < _; decide, decVBin_enc (m.fields 3 0x0B) o (.vand m) rfl hw⟩

theorem vor (m : Mods) (o : OpVBin) : Statement (.vor m o) := fun _ hw => ⟨_, rfl,
  by show (0x0C : BitVec 6).toNat < _; decide, decVBin_enc (m.fields 3 0x0C) o (.vor m) rfl hw⟩

theorem vxor (m : Mods) (o : OpVBin) : Statement (.vxor m o) := fun _ hw => ⟨_, rfl,
  by show (0x0D : BitVec 6).toNat < _; decide, decVBin_enc (m.fields 3 0x0D) o (.vxor m) rfl hw⟩

theorem vnot (m : Mods) (o : OpVUn) : Statement (.vnot m o) := fun _ _ => ⟨_, rfl,
  by show (0x0E : BitVec 6).toNat < _; decide, decVUn_enc (m.fields 3 0x0E) o (.vnot m) rfl⟩

theorem vshl (m : Mods) (o : OpVBin) : Statement (.vshl m o) := fun _ hw => ⟨_, rfl,
  by show (0x0F : BitVec 6).toNat < _; decide, decVBin_enc (m.fields 3 0x0F) o (.vshl m) rfl hw⟩

theorem vshr (m : Mods) (o : OpVBin) : Statement (.vshr m o) := fun _ hw => ⟨_, rfl,
  by show (0x10 : BitVec 6).toNat < _; decide, decVBin_enc (m.fields 3 0x10) o (.vshr m) rfl hw⟩

theorem vsar (m : Mods) (o : OpVBin) : Statement (.vsar m o) := fun _ hw => ⟨_, rfl,
  by show (0x11 : BitVec 6).toNat < _; decide, decVBin_enc (m.fields 3 0x11) o (.vsar m) rfl hw⟩

theorem vcmpEq (m : Mods) (x : Option ArithX) (o : OpVCmp) : Statement (.vcmpEq m x o) := fun _ hw => ⟨_, rfl,
  by show (0x12 : BitVec 6).toNat < _; decide, (withA_enc .all8 (encVCmp (m.fields 3 0x12 (x.map ArithX.bits)) o) x (fun x => decVCmp  (encVCmp (m.fields 3 0x12 (x.map ArithX.bits)) o) (.vcmpEq m x)) rfl hw).trans (decVCmp_enc (m.fields 3 0x12 (x.map ArithX.bits)) o (.vcmpEq m x) rfl)⟩

theorem vcmpLt (m : Mods) (x : Option ArithX) (o : OpVCmp) : Statement (.vcmpLt m x o) := fun _ hw => ⟨_, rfl,
  by show (0x13 : BitVec 6).toNat < _; decide, (withA_enc .all8 (encVCmp (m.fields 3 0x13 (x.map ArithX.bits)) o) x (fun x => decVCmp  (encVCmp (m.fields 3 0x13 (x.map ArithX.bits)) o) (.vcmpLt m x)) rfl hw).trans (decVCmp_enc (m.fields 3 0x13 (x.map ArithX.bits)) o (.vcmpLt m x) rfl)⟩

theorem vcmpLe (m : Mods) (x : Option ArithX) (o : OpVCmp) : Statement (.vcmpLe m x o) := fun _ hw => ⟨_, rfl,
  by show (0x14 : BitVec 6).toNat < _; decide, (withA_enc .all8 (encVCmp (m.fields 3 0x14 (x.map ArithX.bits)) o) x (fun x => decVCmp  (encVCmp (m.fields 3 0x14 (x.map ArithX.bits)) o) (.vcmpLe m x)) rfl hw).trans (decVCmp_enc (m.fields 3 0x14 (x.map ArithX.bits)) o (.vcmpLe m x) rfl)⟩

theorem vcmpUn (m : Mods) (x : Option ArithX) (o : OpVCmp) : Statement (.vcmpUn m x o) := fun _ hw => ⟨_, rfl,
  by show (0x15 : BitVec 6).toNat < _; decide, (withA_enc .float (encVCmp (m.fields 3 0x15 (x.map ArithX.bits)) o) x (fun x => decVCmp  (encVCmp (m.fields 3 0x15 (x.map ArithX.bits)) o) (.vcmpUn m x)) rfl hw).trans (decVCmp_enc (m.fields 3 0x15 (x.map ArithX.bits)) o (.vcmpUn m x) rfl)⟩

theorem vsel (m : Mods) (o : OpVSel) : Statement (.vsel m o) := fun _ hw => ⟨_, rfl,
  by show (0x16 : BitVec 6).toNat < _; decide, decVSel_enc (m.fields 3 0x16) o (.vsel m) hw⟩

theorem vcvt (m : Mods) (x : Option ArithX) (o : OpVCvt) : Statement (.vcvt m x o) := fun _ hw => ⟨_, rfl,
  by show (0x17 : BitVec 6).toNat < _; decide, (withA_enc .conv (encVCvt (m.fields 3 0x17 (x.map ArithX.bits)) o) x (fun x => decVCvt false (encVCvt (m.fields 3 0x17 (x.map ArithX.bits)) o) (.vcvt m x)) rfl (Bool.and_eq_true_iff.mp hw).1).trans (decVCvt_enc false (m.fields 3 0x17 (x.map ArithX.bits)) o (.vcvt m x) (Bool.and_eq_true_iff.mp hw).2)⟩

theorem vcvtn (m : Mods) (x : Option ArithX) (o : OpVCvt) : Statement (.vcvtn m x o) := fun _ hw => ⟨_, rfl,
  by show (0x18 : BitVec 6).toNat < _; decide, (withA_enc .conv (encVCvt (m.fields 3 0x18 (x.map ArithX.bits)) o) x (fun x => decVCvt true (encVCvt (m.fields 3 0x18 (x.map ArithX.bits)) o) (.vcvtn m x)) rfl (Bool.and_eq_true_iff.mp hw).1).trans (decVCvt_enc true (m.fields 3 0x18 (x.map ArithX.bits)) o (.vcvtn m x) (Bool.and_eq_true_iff.mp hw).2)⟩

theorem vredadd (m : Mods) (x : Option ArithX) (o : OpSV) : Statement (.vredadd m x o) := fun _ hw => ⟨_, rfl,
  by show (0x19 : BitVec 6).toNat < _; decide, (withA_enc .all8 (encSV (m.fields 3 0x19 (x.map ArithX.bits)) o) x (fun x => decSV  (encSV (m.fields 3 0x19 (x.map ArithX.bits)) o) (.vredadd m x)) rfl hw).trans (decSV_enc (m.fields 3 0x19 (x.map ArithX.bits)) o (.vredadd m x) rfl)⟩

theorem vredmin (m : Mods) (x : Option ArithX) (o : OpSV) : Statement (.vredmin m x o) := fun _ hw => ⟨_, rfl,
  by show (0x1A : BitVec 6).toNat < _; decide, (withA_enc .all8 (encSV (m.fields 3 0x1A (x.map ArithX.bits)) o) x (fun x => decSV  (encSV (m.fields 3 0x1A (x.map ArithX.bits)) o) (.vredmin m x)) rfl hw).trans (decSV_enc (m.fields 3 0x1A (x.map ArithX.bits)) o (.vredmin m x) rfl)⟩

theorem vredmax (m : Mods) (x : Option ArithX) (o : OpSV) : Statement (.vredmax m x o) := fun _ hw => ⟨_, rfl,
  by show (0x1B : BitVec 6).toNat < _; decide, (withA_enc .all8 (encSV (m.fields 3 0x1B (x.map ArithX.bits)) o) x (fun x => decSV  (encSV (m.fields 3 0x1B (x.map ArithX.bits)) o) (.vredmax m x)) rfl hw).trans (decSV_enc (m.fields 3 0x1B (x.map ArithX.bits)) o (.vredmax m x) rfl)⟩

theorem vperm (m : Mods) (o : OpVBin) : Statement (.vperm m o) := fun _ hw => ⟨_, rfl,
  by show (0x1C : BitVec 6).toNat < _; decide, decVBin_enc (m.fields 3 0x1C) o (.vperm m) rfl hw⟩

theorem vrot (m : Mods) (o : OpVBin) : Statement (.vrot m o) := fun _ hw => ⟨_, rfl,
  by show (0x1D : BitVec 6).toNat < _; decide, decVBin_enc (m.fields 3 0x1D) o (.vrot m) rfl hw⟩

theorem vbcast (m : Mods) (o : OpVS) : Statement (.vbcast m o) := fun _ _ => ⟨_, rfl,
  by show (0x1E : BitVec 6).toNat < _; decide, decVS_enc (m.fields 3 0x1E) o (.vbcast m) rfl⟩

theorem vext (m : Mods) (o : OpVExt) : Statement (.vext m o) := fun _ hw => ⟨_, rfl,
  by show (0x1F : BitVec 6).toNat < _; decide, decVExt_enc (m.fields 3 0x1F) o (.vext m) hw⟩

theorem vins (m : Mods) (o : OpVIns) : Statement (.vins m o) := fun _ hw => ⟨_, rfl,
  by show (0x20 : BitVec 6).toNat < _; decide, decVIns_enc (m.fields 3 0x20) o (.vins m) hw⟩

theorem vexp2 (m : Mods) (x : Option ArithX) (o : OpVUn) : Statement (.vexp2 m x o) := fun _ hw => ⟨_, rfl,
  by show (0x21 : BitVec 6).toNat < _; decide, (withA_enc .float (encVUn (m.fields 3 0x21 (x.map ArithX.bits)) o) x (fun x => decVUn  (encVUn (m.fields 3 0x21 (x.map ArithX.bits)) o) (.vexp2 m x)) rfl hw).trans (decVUn_enc (m.fields 3 0x21 (x.map ArithX.bits)) o (.vexp2 m x) rfl)⟩

theorem vrcp (m : Mods) (x : Option ArithX) (o : OpVUn) : Statement (.vrcp m x o) := fun _ hw => ⟨_, rfl,
  by show (0x22 : BitVec 6).toNat < _; decide, (withA_enc .float (encVUn (m.fields 3 0x22 (x.map ArithX.bits)) o) x (fun x => decVUn  (encVUn (m.fields 3 0x22 (x.map ArithX.bits)) o) (.vrcp m x)) rfl hw).trans (decVUn_enc (m.fields 3 0x22 (x.map ArithX.bits)) o (.vrcp m x) rfl)⟩

theorem vmov (m : Mods) (o : OpVUn) : Statement (.vmov m o) := fun _ _ => ⟨_, rfl,
  by show (0x23 : BitVec 6).toNat < _; decide, decVUn_enc (m.fields 3 0x23) o (.vmov m) rfl⟩

theorem vld (m : Mods) (o : OpVMem) : Statement (.vld m o) := fun _ hw => ⟨_, rfl,
  by show (0x00 : BitVec 6).toNat < _; decide, decVMem_enc .vload (m.fields 4 0x00) o (.vld m) hw⟩

theorem vst (m : Mods) (o : OpVMem) : Statement (.vst m o) := fun _ hw => ⟨_, rfl,
  by show (0x01 : BitVec 6).toNat < _; decide, decVMem_enc .vstore (m.fields 4 0x01) o (.vst m) hw⟩

theorem vldf (m : Mods) (o : OpVMem) : Statement (.vldf m o) := fun _ hw => ⟨_, rfl,
  by show (0x02 : BitVec 6).toNat < _; decide, decVMem_enc .vload (m.fields 4 0x02) o (.vldf m) hw⟩

theorem vldfe (m : Mods) (o : OpVMem) : Statement (.vldfe m o) := fun _ hw => ⟨_, rfl,
  by show (0x03 : BitVec 6).toNat < _; decide, decVMem_enc .vload (m.fields 4 0x03) o (.vldfe m) hw⟩

theorem vstef (m : Mods) (o : OpVMem) : Statement (.vstef m o) := fun _ hw => ⟨_, rfl,
  by show (0x04 : BitVec 6).toNat < _; decide, decVMem_enc .vstore (m.fields 4 0x04) o (.vstef m) hw⟩

theorem vgath (m : Mods) (o : OpVGat) : Statement (.vgath m o) := fun _ hw => ⟨_, rfl,
  by show (0x05 : BitVec 6).toNat < _; decide, decVGat_enc .vload (m.fields 4 0x05) o (.vgath m) hw⟩

theorem vscat (m : Mods) (o : OpVGat) : Statement (.vscat m o) := fun _ hw => ⟨_, rfl,
  by show (0x06 : BitVec 6).toNat < _; decide, decVGat_enc .vstore (m.fields 4 0x06) o (.vscat m) hw⟩

theorem vclr (m : Mods) (o : OpV) : Statement (.vclr m o) := fun _ hw => ⟨_, rfl,
  by show (0x07 : BitVec 6).toNat < _; decide, decVClr_enc (m.fields 4 0x07) o (.vclr m) rfl rfl rfl (Option.isNone_iff_eq_none.mp hw)⟩

theorem mand (m : Mods) (o : OpMBin) : Statement (.mand m o) := fun _ _ => ⟨_, rfl,
  by show (0x08 : BitVec 6).toNat < _; decide, decMBin_enc (m.fields 4 0x08) o (.mand m) rfl rfl⟩

theorem mor (m : Mods) (o : OpMBin) : Statement (.mor m o) := fun _ _ => ⟨_, rfl,
  by show (0x09 : BitVec 6).toNat < _; decide, decMBin_enc (m.fields 4 0x09) o (.mor m) rfl rfl⟩

theorem mxor (m : Mods) (o : OpMBin) : Statement (.mxor m o) := fun _ _ => ⟨_, rfl,
  by show (0x0A : BitVec 6).toNat < _; decide, decMBin_enc (m.fields 4 0x0A) o (.mxor m) rfl rfl⟩

theorem mnot (m : Mods) (o : OpMUn) : Statement (.mnot m o) := fun _ _ => ⟨_, rfl,
  by show (0x0B : BitVec 6).toNat < _; decide, decMUn_enc (m.fields 4 0x0B) o (.mnot m) rfl rfl rfl⟩

theorem mset (m : Mods) (o : OpMSet) : Statement (.mset m o) := fun _ _ => ⟨_, rfl,
  by show (0x0C : BitVec 6).toNat < _; decide, decMSet_enc (m.fields 4 0x0C) o (.mset m) rfl rfl⟩

theorem mget (m : Mods) (o : OpMGet) : Statement (.mget m o) := fun _ _ => ⟨_, rfl,
  by show (0x0D : BitVec 6).toNat < _; decide, decMGet_enc (m.fields 4 0x0D) o (.mget m) rfl rfl rfl⟩

theorem mpopc (m : Mods) (o : OpMGet) : Statement (.mpopc m o) := fun _ _ => ⟨_, rfl,
  by show (0x0E : BitVec 6).toNat < _; decide, decMGet_enc (m.fields 4 0x0E) o (.mpopc m) rfl rfl rfl⟩

theorem mfirst (m : Mods) (o : OpMGet) : Statement (.mfirst m o) := fun _ _ => ⟨_, rfl,
  by show (0x0F : BitVec 6).toNat < _; decide, decMGet_enc (m.fields 4 0x0F) o (.mfirst m) rfl rfl rfl⟩

theorem shape (m : Mods) (o : OpShape) : Statement (.shape m o) := fun _ _ => ⟨_, rfl,
  by show (0x00 : BitVec 6).toNat < _; decide, decShape_enc (m.fields 5 0x00) o (.shape m)⟩

theorem cp (m : Mods) (o : OpCp) : Statement (.cp m o) := fun _ _ => ⟨_, rfl,
  by show (0x01 : BitVec 6).toNat < _; decide, decCp_enc (m.fields 5 0x01) o (.cp m) rfl⟩

theorem cpD (m : Mods) (o : OpCp) : Statement (.cpD m o) := fun _ _ => ⟨_, rfl,
  by show (0x02 : BitVec 6).toNat < _; decide, decCp_enc (m.fields 5 0x02) o (.cpD m) rfl⟩

theorem cpBv (m : Mods) (o : OpCpc) : Statement (.cpBv m o) := fun _ _ => ⟨_, rfl,
  by show (0x03 : BitVec 6).toNat < _; decide, decCpc_enc (m.fields 5 0x03) o (.cpBv m) rfl⟩

theorem cpx (m : Mods) (o : OpCpc) : Statement (.cpx m o) := fun _ _ => ⟨_, rfl,
  by show (0x04 : BitVec 6).toNat < _; decide, decCpc_enc (m.fields 5 0x04) o (.cpx m) rfl⟩

theorem cpxD (m : Mods) (o : OpCpc) : Statement (.cpxD m o) := fun _ _ => ⟨_, rfl,
  by show (0x05 : BitVec 6).toNat < _; decide, decCpc_enc (m.fields 5 0x05) o (.cpxD m) rfl⟩

theorem streamScalar (m : Mods) (o : OpStrS) : Statement (.streamScalar m o) := fun _ _ => ⟨_, rfl,
  by show (0x06 : BitVec 6).toNat < _; decide, decStrS_enc (m.fields 5 0x06) o (.streamScalar m) rfl⟩

theorem streamVector (m : Mods) (o : OpStrV) : Statement (.streamVector m o) := fun _ _ => ⟨_, rfl,
  by show (0x07 : BitVec 6).toNat < _; decide, decStrV_enc (m.fields 5 0x07) o (.streamVector m) rfl⟩

theorem unstreamScalar (m : Mods) (o : OpA) : Statement (.unstreamScalar m o) := fun _ _ => ⟨_, rfl,
  by show (0x08 : BitVec 6).toNat < _; decide, decA_enc (m.fields 5 0x08) o (.unstreamScalar m) rfl rfl rfl rfl⟩

theorem unstreamVector (m : Mods) (o : OpV) : Statement (.unstreamVector m o) := fun _ _ => ⟨_, rfl,
  by show (0x09 : BitVec 6).toNat < _; decide, decV_enc (m.fields 5 0x09) o (.unstreamVector m) rfl rfl rfl⟩

theorem hcfg (m : Mods) (o : OpHb) : Statement (.hcfg m o) := fun _ _ => ⟨_, rfl,
  by show (0x0A : BitVec 6).toNat < _; decide, decHb_enc (m.fields 5 0x0A) o (.hcfg m) rfl rfl⟩

theorem hexpect (m : Mods) (o : OpHb) : Statement (.hexpect m o) := fun _ _ => ⟨_, rfl,
  by show (0x0B : BitVec 6).toNat < _; decide, decHb_enc (m.fields 5 0x0B) o (.hexpect m) rfl rfl⟩

theorem hexpectA (m : Mods) (o : OpHb) : Statement (.hexpectA m o) := fun _ _ => ⟨_, rfl,
  by show (0x0C : BitVec 6).toNat < _; decide, decHb_enc (m.fields 5 0x0C) o (.hexpectA m) rfl rfl⟩

theorem harr (m : Mods) (o : OpH) : Statement (.harr m o) := fun _ _ => ⟨_, rfl,
  by show (0x0D : BitVec 6).toNat < _; decide, decH_enc (m.fields 5 0x0D) o (.harr m) rfl rfl rfl rfl⟩

theorem hwaitP (m : Mods) (o : OpHb) : Statement (.hwaitP m o) := fun _ hw => ⟨_, rfl,
  by show (0x0E : BitVec 6).toNat < _; decide, decHb_enc (m.fields 5 0x0E) o (.hwaitP m) rfl rfl⟩

theorem hwaitS (m : Mods) (o : OpHb) : Statement (.hwaitS m o) := fun _ hw => ⟨_, rfl,
  by show (0x0F : BitVec 6).toNat < _; decide, decHb_enc (m.fields 5 0x0F) o (.hwaitS m) rfl rfl⟩

theorem hacq (m : Mods) (o : OpH) : Statement (.hacq m o) := fun _ _ => ⟨_, rfl,
  by show (0x10 : BitVec 6).toNat < _; decide, decH_enc (m.fields 5 0x10) o (.hacq m) rfl rfl rfl rfl⟩

theorem hrel (m : Mods) (o : OpH) : Statement (.hrel m o) := fun _ _ => ⟨_, rfl,
  by show (0x11 : BitVec 6).toNat < _; decide, decH_enc (m.fields 5 0x11) o (.hrel m) rfl rfl rfl rfl⟩

theorem mxs (m : Mods) : Statement (.mxs m) := fun _ _ => ⟨_, rfl,
  by show (0x12 : BitVec 6).toNat < _; decide, decN_enc (m.fields 5 0x12) (.mxs m) rfl rfl rfl rfl rfl⟩

theorem mxr (m : Mods) (o : OpA) : Statement (.mxr m o) := fun _ _ => ⟨_, rfl,
  by show (0x13 : BitVec 6).toNat < _; decide, decA_enc (m.fields 5 0x13) o (.mxr m) rfl rfl rfl rfl⟩

theorem spawn (m : Mods) (o : OpAB) : Statement (.spawn m o) := fun _ _ => ⟨_, rfl,
  by show (0x00 : BitVec 6).toNat < _; decide, decAB_enc (m.fields 6 0x00) o (.spawn m) rfl rfl⟩

theorem quit (m : Mods) : Statement (.quit m) := fun _ _ => ⟨_, rfl,
  by show (0x01 : BitVec 6).toNat < _; decide, decN_enc (m.fields 6 0x01) (.quit m) rfl rfl rfl rfl rfl⟩

theorem yield (m : Mods) : Statement (.yield m) := fun _ _ => ⟨_, rfl,
  by show (0x02 : BitVec 6).toNat < _; decide, decN_enc (m.fields 6 0x02) (.yield m) rfl rfl rfl rfl rfl⟩

theorem park (m : Mods) : Statement (.park m) := fun _ _ => ⟨_, rfl,
  by show (0x03 : BitVec 6).toNat < _; decide, decN_enc (m.fields 6 0x03) (.park m) rfl rfl rfl rfl rfl⟩

theorem wake (m : Mods) (o : OpB) : Statement (.wake m o) := fun _ _ => ⟨_, rfl,
  by show (0x04 : BitVec 6).toNat < _; decide, decB_enc (m.fields 6 0x04) o (.wake m) rfl rfl rfl⟩

theorem mig (m : Mods) (o : OpB) : Statement (.mig m o) := fun _ _ => ⟨_, rfl,
  by show (0x05 : BitVec 6).toNat < _; decide, decB_enc (m.fields 6 0x05) o (.mig m) rfl rfl rfl⟩

theorem link (m : Mods) (o : OpLink) : Statement (.link m o) := fun _ hw => ⟨_, rfl,
  by show (0x06 : BitVec 6).toNat < _; decide, decLink_enc (m.fields 6 0x06) o (.link m) rfl rfl rfl hw⟩

theorem amsg (m : Mods) (o : OpB) : Statement (.amsg m o) := fun _ _ => ⟨_, rfl,
  by show (0x07 : BitVec 6).toNat < _; decide, decB_enc (m.fields 6 0x07) o (.amsg m) rfl rfl rfl⟩

theorem tenq (m : Mods) (o : OpAB) : Statement (.tenq m o) := fun _ _ => ⟨_, rfl,
  by show (0x08 : BitVec 6).toNat < _; decide, decAB_enc (m.fields 6 0x08) o (.tenq m) rfl rfl⟩

theorem tdep (m : Mods) (o : OpB) : Statement (.tdep m o) := fun _ _ => ⟨_, rfl,
  by show (0x09 : BitVec 6).toNat < _; decide, decB_enc (m.fields 6 0x09) o (.tdep m) rfl rfl rfl⟩

theorem bar (m : Mods) : Statement (.bar m) := fun _ _ => ⟨_, rfl,
  by show (0x0A : BitVec 6).toNat < _; decide, decN_enc (m.fields 6 0x0A) (.bar m) rfl rfl rfl rfl rfl⟩

theorem fitw (m : Mods) (o : OpB) : Statement (.fitw m o) := fun _ _ => ⟨_, rfl,
  by show (0x0B : BitVec 6).toNat < _; decide, decB_enc (m.fields 6 0x0B) o (.fitw m) rfl rfl rfl⟩

theorem popq (m : Mods) (o : OpAB) : Statement (.popq m o) := fun _ _ => ⟨_, rfl,
  by show (0x0C : BitVec 6).toNat < _; decide, decAB_enc (m.fields 6 0x0C) o (.popq m) rfl rfl⟩

theorem tick (m : Mods) (o : OpA) : Statement (.tick m o) := fun _ _ => ⟨_, rfl,
  by show (0x0D : BitVec 6).toNat < _; decide, decA_enc (m.fields 6 0x0D) o (.tick m) rfl rfl rfl rfl⟩

theorem selfid (m : Mods) (o : OpA) : Statement (.selfid m o) := fun _ _ => ⟨_, rfl,
  by show (0x0E : BitVec 6).toNat < _; decide, decA_enc (m.fields 6 0x0E) o (.selfid m) rfl rfl rfl rfl⟩

theorem popmig (m : Mods) (o : OpAB) : Statement (.popmig m o) := fun _ _ => ⟨_, rfl,
  by show (0x0F : BitVec 6).toNat < _; decide, decAB_enc (m.fields 6 0x0F) o (.popmig m) rfl rfl⟩

theorem rdsw (m : Mods) (o : OpA) : Statement (.rdsw m o) := fun _ _ => ⟨_, rfl,
  by show (0x10 : BitVec 6).toNat < _; decide, decA_enc (m.fields 6 0x10) o (.rdsw m) rfl rfl rfl rfl⟩

theorem wrsw (m : Mods) (o : OpB) : Statement (.wrsw m o) := fun _ _ => ⟨_, rfl,
  by show (0x11 : BitVec 6).toNat < _; decide, decB_enc (m.fields 6 0x11) o (.wrsw m) rfl rfl rfl⟩

theorem crd (m : Mods) (o : OpAB) : Statement (.crd m o) := fun _ _ => ⟨_, rfl,
  by show (0x00 : BitVec 6).toNat < _; decide, decAB_enc (m.fields 7 0x00) o (.crd m) rfl rfl⟩

theorem cwr (m : Mods) (o : OpAB) : Statement (.cwr m o) := fun _ _ => ⟨_, rfl,
  by show (0x01 : BitVec 6).toNat < _; decide, decAB_enc (m.fields 7 0x01) o (.cwr m) rfl rfl⟩

theorem trap (m : Mods) (o : OpTrap) : Statement (.trap m o) := fun _ _ => ⟨_, rfl,
  by show (0x02 : BitVec 6).toNat < _; decide, decTrap_enc (m.fields 7 0x02) o (.trap m) rfl rfl⟩

theorem tret (m : Mods) : Statement (.tret m) := fun _ _ => ⟨_, rfl,
  by show (0x03 : BitVec 6).toNat < _; decide, decN_enc (m.fields 7 0x03) (.tret m) rfl rfl rfl rfl rfl⟩

theorem halt (m : Mods) : Statement (.halt m) := fun _ _ => ⟨_, rfl,
  by show (0x04 : BitVec 6).toNat < _; decide, decN_enc (m.fields 7 0x04) (.halt m) rfl rfl rfl rfl rfl⟩

theorem bankpw (m : Mods) (o : OpAB) : Statement (.bankpw m o) := fun _ _ => ⟨_, rfl,
  by show (0x05 : BitVec 6).toNat < _; decide, decAB_enc (m.fields 7 0x05) o (.bankpw m) rfl rfl⟩

theorem xinv (m : Mods) (o : OpAB) : Statement (.xinv m o) := fun _ _ => ⟨_, rfl,
  by show (0x06 : BitVec 6).toNat < _; decide, decAB_enc (m.fields 7 0x06) o (.xinv m) rfl rfl⟩

theorem snap (m : Mods) (o : OpAB) : Statement (.snap m o) := fun _ _ => ⟨_, rfl,
  by show (0x07 : BitVec 6).toNat < _; decide, decAB_enc (m.fields 7 0x07) o (.snap m) rfl rfl⟩

theorem evac (m : Mods) (o : OpABC) : Statement (.evac m o) := fun _ _ => ⟨_, rfl,
  by show (0x08 : BitVec 6).toNat < _; decide, decABC_enc (m.fields 7 0x08) o (.evac m) rfl⟩

theorem fwd (m : Mods) (o : OpBC) : Statement (.fwd m o) := fun _ _ => ⟨_, rfl,
  by show (0x09 : BitVec 6).toNat < _; decide, decBC_enc (m.fields 7 0x09) o (.fwd m) rfl rfl⟩

theorem glaunch (m : Mods) (o : OpABC) : Statement (.glaunch m o) := fun _ _ => ⟨_, rfl,
  by show (0x0A : BitVec 6).toNat < _; decide, decABC_enc (m.fields 7 0x0A) o (.glaunch m) rfl⟩

theorem popcfg (m : Mods) (o : OpABC) : Statement (.popcfg m o) := fun _ _ => ⟨_, rfl,
  by show (0x0B : BitVec 6).toNat < _; decide, decABC_enc (m.fields 7 0x0B) o (.popcfg m) rfl⟩

theorem popstep (m : Mods) (o : OpAB) : Statement (.popstep m o) := fun _ _ => ⟨_, rfl,
  by show (0x0C : BitVec 6).toNat < _; decide, decAB_enc (m.fields 7 0x0C) o (.popstep m) rfl rfl⟩

theorem hdead (m : Mods) (o : OpABH) : Statement (.hdead m o) := fun _ _ => ⟨_, rfl,
  by show (0x0D : BitVec 6).toNat < _; decide, decABH_enc (m.fields 7 0x0D) o (.hdead m) rfl⟩

theorem hcomp (m : Mods) (o : OpABH) : Statement (.hcomp m o) := fun _ _ => ⟨_, rfl,
  by show (0x0E : BitVec 6).toNat < _; decide, decABH_enc (m.fields 7 0x0E) o (.hcomp m) rfl⟩

theorem attest (m : Mods) (o : OpAB) : Statement (.attest m o) := fun _ _ => ⟨_, rfl,
  by show (0x0F : BitVec 6).toNat < _; decide, decAB_enc (m.fields 7 0x0F) o (.attest m) rfl rfl⟩

theorem asid (m : Mods) (o : OpAB) : Statement (.asid m o) := fun _ _ => ⟨_, rfl,
  by show (0x10 : BitVec 6).toNat < _; decide, decAB_enc (m.fields 7 0x10) o (.asid m) rfl rfl⟩

theorem matrixPushAcceptance : Statement .matrixPushAcceptance := fun h => absurd h (by decide)

theorem mm : Statement .mm := fun h => absurd h (by decide)

theorem ldb : Statement .ldb := fun h => absurd h (by decide)

theorem drain : Statement .drain := fun h => absurd h (by decide)

theorem drainWakeUp : Statement .drainWakeUp := fun h => absurd h (by decide)

theorem accZero : Statement .accZero := fun h => absurd h (by decide)

theorem ldacc : Statement .ldacc := fun h => absurd h (by decide)

theorem setfmt : Statement .setfmt := fun h => absurd h (by decide)

theorem mfence : Statement .mfence := fun h => absurd h (by decide)

theorem matrixCommandCompletion : Statement .matrixCommandCompletion := fun h => absurd h (by decide)

theorem copyAcceptance : Statement .copyAcceptance := fun h => absurd h (by decide)

theorem copyTransferLine : Statement .copyTransferLine := fun h => absurd h (by decide)

theorem handleSubtraction : Statement .handleSubtraction := fun h => absurd h (by decide)

theorem streamRefill : Statement .streamRefill := fun h => absurd h (by decide)

theorem handleEvaluation : Statement .handleEvaluation := fun h => absurd h (by decide)

theorem remoteHandleArrival : Statement .remoteHandleArrival := fun h => absurd h (by decide)

theorem snapshotBlockCopy : Statement .snapshotBlockCopy := fun h => absurd h (by decide)

theorem commitRecordOperation : Statement .commitRecordOperation := fun h => absurd h (by decide)

theorem bundleStore : Statement .bundleStore := fun h => absurd h (by decide)

theorem viewLoad : Statement .viewLoad := fun h => absurd h (by decide)

theorem viewAgeExpiry : Statement .viewAgeExpiry := fun h => absurd h (by decide)

theorem popConsume : Statement .popConsume := fun h => absurd h (by decide)

theorem popChildCommit : Statement .popChildCommit := fun h => absurd h (by decide)

theorem popLineageAppend : Statement .popLineageAppend := fun h => absurd h (by decide)

theorem popStepClose : Statement .popStepClose := fun h => absurd h (by decide)

theorem spawnRequest : Statement .spawnRequest := fun h => absurd h (by decide)

theorem taskArmRequest : Statement .taskArmRequest := fun h => absurd h (by decide)

theorem decrement : Statement .decrement := fun h => absurd h (by decide)

theorem dispatch : Statement .dispatch := fun h => absurd h (by decide)

theorem spawnThrottleExpiry : Statement .spawnThrottleExpiry := fun h => absurd h (by decide)

theorem bankRiseComplete : Statement .bankRiseComplete := fun h => absurd h (by decide)

theorem bankClearComplete : Statement .bankClearComplete := fun h => absurd h (by decide)

theorem clockGate : Statement .clockGate := fun h => absurd h (by decide)

theorem gangReserve : Statement .gangReserve := fun h => absurd h (by decide)

theorem gangConfirmation : Statement .gangConfirmation := fun h => absurd h (by decide)

theorem gangConfirmDeadline : Statement .gangConfirmDeadline := fun h => absurd h (by decide)

theorem gangGo : Statement .gangGo := fun h => absurd h (by decide)

theorem gangCancel : Statement .gangCancel := fun h => absurd h (by decide)

theorem gangMemberStart : Statement .gangMemberStart := fun h => absurd h (by decide)

theorem barrierArrival : Statement .barrierArrival := fun h => absurd h (by decide)

theorem contextImage : Statement .contextImage := fun h => absurd h (by decide)

theorem migrationResend : Statement .migrationResend := fun h => absurd h (by decide)

theorem activeMessage : Statement .activeMessage := fun h => absurd h (by decide)

theorem serviceHandlerStart : Statement .serviceHandlerStart := fun h => absurd h (by decide)

theorem serviceBuiltinAccess : Statement .serviceBuiltinAccess := fun h => absurd h (by decide)

theorem serviceHandlerLimit : Statement .serviceHandlerLimit := fun h => absurd h (by decide)

theorem bankAccess : Statement .bankAccess := fun h => absurd h (by decide)

theorem remoteRead : Statement .remoteRead := fun h => absurd h (by decide)

theorem remoteWrite : Statement .remoteWrite := fun h => absurd h (by decide)

theorem remoteAtomic : Statement .remoteAtomic := fun h => absurd h (by decide)

theorem fill : Statement .fill := fun h => absurd h (by decide)

theorem acknowledgement : Statement .acknowledgement := fun h => absurd h (by decide)

theorem refusal : Statement .refusal := fun h => absurd h (by decide)

theorem trapRecordEntry : Statement .trapRecordEntry := fun h => absurd h (by decide)

theorem busy : Statement .busy := fun h => absurd h (by decide)

theorem wakeMessage : Statement .wakeMessage := fun h => absurd h (by decide)

theorem orderedStore : Statement .orderedStore := fun h => absurd h (by decide)

theorem orderedStoreRelease : Statement .orderedStoreRelease := fun h => absurd h (by decide)

theorem hubRequest : Statement .hubRequest := fun h => absurd h (by decide)

theorem hubAnswer : Statement .hubAnswer := fun h => absurd h (by decide)

theorem fabricOpen : Statement .fabricOpen := fun h => absurd h (by decide)

theorem fabricGrant : Statement .fabricGrant := fun h => absurd h (by decide)

theorem routerCycle : Statement .routerCycle := fun h => absurd h (by decide)

theorem linkWord : Statement .linkWord := fun h => absurd h (by decide)

theorem linkCreditReturn : Statement .linkCreditReturn := fun h => absurd h (by decide)

theorem ucieFlit : Statement .ucieFlit := fun h => absurd h (by decide)

theorem linkFrame : Statement .linkFrame := fun h => absurd h (by decide)

theorem deviceAcknowledgement : Statement .deviceAcknowledgement := fun h => absurd h (by decide)

theorem retransmitTimeout : Statement .retransmitTimeout := fun h => absurd h (by decide)

theorem creditSyncDue : Statement .creditSyncDue := fun h => absurd h (by decide)

theorem creditSync : Statement .creditSync := fun h => absurd h (by decide)

theorem linkRetrain : Statement .linkRetrain := fun h => absurd h (by decide)

theorem linkUp : Statement .linkUp := fun h => absurd h (by decide)

theorem linkDown : Statement .linkDown := fun h => absurd h (by decide)

theorem routeRefusalTimeout : Statement .routeRefusalTimeout := fun h => absurd h (by decide)

theorem timeBaseTick : Statement .timeBaseTick := fun h => absurd h (by decide)

theorem timeExchangePeriod : Statement .timeExchangePeriod := fun h => absurd h (by decide)

theorem timeExchange : Statement .timeExchange := fun h => absurd h (by decide)

theorem translationRequest : Statement .translationRequest := fun h => absurd h (by decide)

theorem translationWalkComplete : Statement .translationWalkComplete := fun h => absurd h (by decide)

theorem hbmChannelRequest : Statement .hbmChannelRequest := fun h => absurd h (by decide)

theorem bulkBufferInvalidationAck : Statement .bulkBufferInvalidationAck := fun h => absurd h (by decide)

theorem capacityExpansion : Statement .capacityExpansion := fun h => absurd h (by decide)

theorem poolExhaustedTimeout : Statement .poolExhaustedTimeout := fun h => absurd h (by decide)

theorem parityRebuild : Statement .parityRebuild := fun h => absurd h (by decide)

theorem hbmRefresh : Statement .hbmRefresh := fun h => absurd h (by decide)

theorem hbmScrub : Statement .hbmScrub := fun h => absurd h (by decide)

theorem notLiveLineExpiry : Statement .notLiveLineExpiry := fun h => absurd h (by decide)

theorem tileScrub : Statement .tileScrub := fun h => absurd h (by decide)

theorem stateStorageError : Statement .stateStorageError := fun h => absurd h (by decide)

theorem journalReplay : Statement .journalReplay := fun h => absurd h (by decide)

theorem journalCancel : Statement .journalCancel := fun h => absurd h (by decide)

theorem contextSave : Statement .contextSave := fun h => absurd h (by decide)

theorem saveFillTimeout : Statement .saveFillTimeout := fun h => absurd h (by decide)

theorem contextRestore : Statement .contextRestore := fun h => absurd h (by decide)

theorem contextDiscard : Statement .contextDiscard := fun h => absurd h (by decide)

theorem contextKill : Statement .contextKill := fun h => absurd h (by decide)

theorem vwinWrite : Statement .vwinWrite := fun h => absurd h (by decide)

theorem routeWrite : Statement .routeWrite := fun h => absurd h (by decide)

theorem tmasterWrite : Statement .tmasterWrite := fun h => absurd h (by decide)

theorem linkstWrite : Statement .linkstWrite := fun h => absurd h (by decide)

theorem registerWrite : Statement .registerWrite := fun h => absurd h (by decide)

theorem governorSample : Statement .governorSample := fun h => absurd h (by decide)

theorem junctionOverTemperature : Statement .junctionOverTemperature := fun h => absurd h (by decide)

theorem packageResetRelease : Statement .packageResetRelease := fun h => absurd h (by decide)

theorem computeDieReset : Statement .computeDieReset := fun h => absurd h (by decide)

theorem coreReset : Statement .coreReset := fun h => absurd h (by decide)

theorem powerLoss : Statement .powerLoss := fun h => absurd h (by decide)

theorem measurementReportRequest : Statement .measurementReportRequest := fun h => absurd h (by decide)

theorem windowMetadataClearingEnd : Statement .windowMetadataClearingEnd := fun h => absurd h (by decide)

end Sys2Proof.Laws.Coding
end

