-- ==== Sys2Proof/Tests/Slice0.lean ====
section
/-!
SUPPORT. Tests: terms that WellFormed refuses, words written out from spec/11, single steps with results worked out by hand from the rules, and a state that
meets the hypotheses of each statement.
-/

open Sys2Proof Sys2Proof.Machine Sys2Proof.Claim

namespace Sys2Proof.Tests

set_option Elab.async false

/-! ## What WellFormed refuses -/

theorem test_wf_refuses_a_float_type_of_add : (Instr.add {} (some { ty := .f32 }) { a := 1, b := 2 }).wf = false := by decide
theorem test_wf_refuses_rounding_of_an_integer : (Instr.add {} (some { ty := .i32, rnd := .rz }) { a := 1, b := 2 }).wf = false := by decide
theorem test_wf_refuses_an_unsigned_type_of_div : (Instr.div {} (some { ty := .u8 }) { a := 1, b := 2 }).wf = false := by decide
theorem test_wf_refuses_a_signed_type_of_divu : (Instr.divu {} (some { ty := .i8 }) { a := 1, b := 2 }).wf = false := by decide
theorem test_wf_refuses_an_integer_type_of_fadd : (Instr.fadd {} (some { ty := .i32 }) { a := 1, b := 2 }).wf = false := by decide
theorem test_wf_refuses_a_type_of_fcvt : (Instr.fcvt {} (some { ty := .f16 }) { tgt := 1, src := 0, a := 1, b := 2 }).wf = false := by decide
theorem test_wf_refuses_fcvt_to_itself : (Instr.fcvt {} none { tgt := 0, src := 0, a := 1, b := 2 }).wf = false := by decide
theorem test_wf_refuses_a_width_of_sext : (Instr.sext {} { a := 1, n := 65 }).wf = false := by decide
theorem test_wf_refuses_width_zero : (Instr.zext {} { a := 1, n := 0 }).wf = false := by decide
theorem test_wf_refuses_release_of_a_load : (Instr.ld {} { sz := 2, a := 1, b := 2, off := 0, x := { mask := 1, ord := 2 } }).wf = false := by decide
theorem test_wf_refuses_acquire_of_a_store : (Instr.st {} { sz := 2, a := 1, b := 2, off := 0, x := { mask := 1, ord := 1 } }).wf = false := by decide
theorem test_wf_refuses_a_mask_without_an_order : (Instr.ld {} { sz := 2, a := 1, b := 2, off := 0, x := { mask := 3 } }).wf = false := by decide
theorem test_wf_refuses_bv_without_an_entry : (Instr.ld {} { sz := 2, a := 1, b := 2, off := 0, x := { bv := true } }).wf = false := by decide
theorem test_wf_refuses_bv_of_an_atomic : (Instr.amoSwapD {} { a := 1, b := 2, off := 0, x := { bv := true } }).wf = false := by decide
theorem test_wf_refuses_mig_of_a_vector_load : (Instr.vld {} { a := 1, b := 2, off := 0, x := { mig := true } }).wf = false := by decide
theorem test_wf_refuses_a_high_register_of_a_two_address_form : (Instr.vadd {} none { a := 17, b := 2 }).wf = false := by decide
theorem test_wf_refuses_vfma_without_c : (Instr.vfma {} none { a := 1, b := 2 }).wf = false := by decide
theorem test_wf_refuses_a_high_register_of_vsel : (Instr.vsel {} { a := 1, b := 20, m := 1 }).wf = false := by decide
theorem test_wf_refuses_vcvt_by_four : (Instr.vcvt {} none { a := 1, b := 2, tgt := 0, src := 5 }).wf = false := by decide
theorem test_wf_refuses_vcvtn_of_equal_widths : (Instr.vcvtn {} none { a := 1, b := 2, tgt := 0, src := 3 }).wf = false := by decide
theorem test_wf_refuses_a_lane_above_64 : (Instr.vins {} { a := 1, b := 2, idx := 65 }).wf = false := by decide
theorem test_wf_refuses_link_sense_3 : (Instr.link {} { a := 1, idx := 12 }).wf = false := by decide
theorem test_wf_refuses_a_guarded_vclr : (Instr.vclr { guard := some ⟨false, 1⟩ } { a := 1 }).wf = false := by decide

/-! ## Words written out from spec/11 -/

theorem test_decode_add_consuming : decodeWords [0x0C25] = .ok (.add {} none { a := 1, b := 2, q := true }, 1) := by rfl
theorem test_decode_addi_negative : decodeWords [0x107F] = .ok (.addi {} none { a := 3, imm := BitVec.ofInt 45 (-1) }, 1) := by rfl
theorem test_decode_addi_two_words : decodeWords [0xF001, 0x1068] = .ok (.addi {} none { a := 3, imm := 40 }, 2) := by rfl
theorem test_decode_guarded_mov : decodeWords [0xF834, 0x048A] = .ok (.mov { guard := some ⟨true, 2⟩ } { a := 4, b := 5 }, 2) := by rfl
theorem test_decode_cmp : decodeWords [0xF458, 0xB424] = .ok (.cmpLt {} { p := 3, neg := true, a := 1, b := 2 }, 2) := by rfl
theorem test_decode_br : decodeWords [0xD5FE] = .ok (.br {} { off := BitVec.ofInt 39 (-2) }, 1) := by rfl
theorem test_decode_ld : decodeWords [0xF840, 0xF010, 0x0824] = .ok (.ld {} { sz := 2, a := 1, b := 2, off := 16 }, 3) := by rfl
theorem test_decode_st_release :
    decodeWords [0xF840, 0xFC30, 0x1C24] = .ok (.st {} { sz := 3, a := 1, b := 2, off := 0, x := { mask := 1, ord := 2 } }, 3) := by rfl
theorem test_decode_amo : decodeWords [0xF840, 0x8424] = .ok (.amoOp {} { op := 0, dbl := true, a := 1, b := 2, off := 0 }, 2) := by rfl
theorem test_decode_bopen : decodeWords [0xF840, 0xC824] = .ok (.bopen {} { a := 1, b := 2 }, 2) := by rfl
theorem test_decode_fma :
    decodeWords [0xF880, 0xF418, 0xFC10, 0x1424] = .ok (.fma {} (some { ty := .f32, rnd := .rz }) { a := 1, b := 2, c := 3 }, 4) := by rfl
theorem test_decode_vadd : decodeWords [0xF8C0, 0xF518, 0x0024] = .ok (.vadd {} none { a := 1, b := 18, c := .vec 3 }, 3) := by rfl
theorem test_decode_vld : decodeWords [0xF900, 0xF100, 0x0024] = .ok (.vld {} { a := 1, b := 2, off := 256 }, 3) := by rfl
theorem test_decode_hwait : decodeWords [0xF940, 0xF005, 0x3804] = .ok (.hwaitP {} { b := 2, h := 5 }, 3) := by rfl
theorem test_decode_spawn : decodeWords [0xF980, 0x0024] = .ok (.spawn {} { a := 1, b := 2 }, 2) := by rfl
theorem test_decode_trap : decodeWords [0xF9C0, 0x0807] = .ok (.trap {} { imm := 7 }, 2) := by rfl
theorem test_decode_halt : decodeWords [0xF9C0, 0x1000] = .ok (.halt {}, 2) := by rfl
/-- A reserved page, and an op that page 0 leaves free (R242). -/
theorem test_decode_refuses : (decodeWords [0xFA00, 0x0000]).toOption = none ∧ (decodeWords [0xBC00]).toOption = none := by decide +kernel
theorem test_encode_add : encode (.add {} none { a := 1, b := 2, q := true }) = [0x0C25] := by rfl

/-! ## States -/

/-- A thread in slot 0 of compute core 5, whose instruction is at 0. -/
def here (t : Slot) : State :=
  { (State.reset.modCore 5 fun k => { k with slots := [(0, t)], running := true }) with cur := ⟨5, 0, 0, 2⟩ }
def regs (l : List (Nat × Word)) : Table XReg := l.foldl (fun t x => t.put x.1 { v := x.2 }) []
/-- An address of core 5's own tile store or control space. -/
def own (off : Nat) : Word := fabricAddr 5 off

def thread : Slot := { st := .ready, asid := 3, regs := regs [(1, 100), (2, 50), (3, 1), (4, 0), (5, 7), (6, own 0x208), (7, own 0x200), (15, 0x40)], pred := 0x0104 }
def plainly : State := here thread
def super : State := here { thread with status := 2 }
/-- One register of the thread in another state. -/
def withReg (n : Nat) (x : XReg) : State := here (thread.setReg n x)
/-- A thread with vector banks 0 and 2. -/
def lanes : State :=
  (here { thread with banks := 5, masks := [(1, 0xF0F0), (2, 0)] }).modMyCore fun k => { k with banks := [(0, { holder := some 0, power := Power.on }), (2, { holder := some 0, power := Power.on })], vregs := [(1, { v := 3, full := true }), (2, { v := 5, full := true }), (3, { v := 9, full := true })] }

/-- What register n of the thread holds after the instruction. -/
def regAfter (i : Instr) (s : State) (n : Nat) : Option (Word × Bool) :=
  match exec i s with | .next t => some ((t.me.reg n).v, (t.me.reg n).full) | _ => none
def predAfter (i : Instr) (s : State) : Option (BitVec 16) := match exec i s with | .next t => some t.me.pred | _ => none
def causeAfter (i : Instr) (s : State) : Option Nat :=
  match exec i s with | .next t => if t.me.stopped then some (field (t.myCore.traps.ring.get 0 0) 0 6) else none | _ => none

/-! ## Single steps -/

/-- add.i8.sat of 100 and 50 is 127 with V set (R251, R252). -/
theorem test_add_i8_sat : regAfter (.add {} (some { ty := .i8, sat := true }) { a := 1, b := 2 }) plainly 1 = some (0x7F, true) := by decide +kernel
/-- 100 + 50 as i8 wraps to -106, sign-extended. -/
theorem test_add_i8_wraps : regAfter (.add {} (some { ty := .i8 }) { a := 1, b := 2 }) plainly 1 = some (0xFFFFFFFFFFFFFF96, true) := by decide +kernel
/-- 50 - 100: N and no C, since a borrow leaves C clear (R252): bits 9 of the predicate word, and 2 of p2 stay. -/
theorem test_sub_flags : predAfter (.sub {} none { a := 2, b := 1 }) plainly = some 0x0204 := by decide +kernel
/-- A consuming read leaves its register empty (R29). -/
theorem test_consume : regAfter (.add {} none { a := 1, b := 2, q := true }) plainly 2 = some (50, false) := by decide +kernel
/-- Division by zero gives all ones and V (R254). -/
theorem test_divu_by_zero : regAfter (.divu {} none { a := 1, b := 4 }) plainly 1 = some (0xFFFFFFFFFFFFFFFF, true) := by decide +kernel
/-- A taken call leaves the next address in s15 (R262). -/
theorem test_call : regAfter (.call {} { off := 8 }) plainly 15 = some (2, true) := by decide +kernel
/-- Two minus one is one: 0x40000000 - 0x3F800000 in f32 (R273). -/
theorem test_fsub : regAfter (.fsub {} none { a := 1, b := 2 }) (here { thread with regs := regs [(1, 0x40000000), (2, 0x3F800000)] }) 1 =
    some (0x3F800000, true) := by decide +kernel
/-- fexp2(-130.0) under FLUSH is +0 with FX (R58, R281). -/
theorem test_fexp2_flushes : predAfter (.fexp2 {} none { a := 1, b := 2 }) (here { thread with regs := regs [(1, 0), (2, 0xC3020000)], status := 1, pred := 0 }) =
    some 0x8000 := by decide +kernel
/-- A user thread takes the privilege trap (R241), an odd jump the alignment trap (R262), trap its own cause (R332). -/
theorem test_privilege : causeAfter (.halt {}) plainly = some 3 := by decide +kernel
theorem test_odd_jump : causeAfter (.jmpr {} { b := 5 }) plainly = some 7 := by decide +kernel
theorem test_trap : causeAfter (.trap {} { imm := 7 }) plainly = some 28 := by decide +kernel
/-- A misaligned load traps with cause 7 (R265, R384). -/
theorem test_misaligned : causeAfter (.ld {} { sz := 3, a := 1, b := 6, off := 4 }) plainly = some 7 := by decide +kernel
/-- A load empties its register until the fill (R267). -/
theorem test_load_empties : regAfter (.ld {} { sz := 3, a := 1, b := 6, off := 0 }) plainly 1 = some (100, false) := by decide +kernel
/-- vmov copies the register. -/
theorem test_vmov : (match exec (.vmov {} { a := 2, b := 3 }) lanes with | .next t => (t.vregAt 2).v | _ => 0) = 9 := by decide +kernel
/-- tick reads the hub's time, 0 after reset. -/
theorem test_tick : regAfter (.tick {} { a := 1 }) plainly 1 = some (0, true) := by decide +kernel
/-- The first step after a load of `addi s3, 40` at reset runs it. -/
theorem test_first_step :
    (match step (State.reset.withFetchWord 32 0x1068F001) with | .next t => ((t.slot bootCore 0).reg 3).v | _ => 0) = 40 := by decide +kernel

/-! ## States that meet the hypotheses of the statements -/

theorem test_witness_decode_of_encode : (Instr.fma {} (some { ty := .f32, rnd := .rz }) { a := 1, b := 2, c := 3 }).encodable = true := by decide +kernel

/-- Reset with `addi s3, 40` loaded, at the owner's turn. -/
def loaded : State := State.reset.withFetchWord 32 0x1068F001
theorem test_witness_step_runs : loaded.turns.head? = some ⟨bootCore, .owner, 0⟩ ∧ (loaded.core bootCore).halted = false ∧
    ((ownerTurn loaded bootCore 0 loaded.turns.tail).fetch bootCore ((ownerTurn loaded bootCore 0 loaded.turns.tail).slot bootCore 0).pc).toOption =
      some (.addi {} none { a := 3, imm := 40 }, 4) ∧
    ((ownerTurn loaded bootCore 0 loaded.turns.tail).slot bootCore 0).canIssue = true ∧
    (ownerTurn loaded bootCore 0 loaded.turns.tail).produced bootCore 0 (.addi {} none { a := 3, imm := 40 }) = true ∧
    ((ownerTurn loaded bootCore 0 loaded.turns.tail).core bootCore).handlerSpent 0 = false := by decide +kernel
theorem test_witness_due_event : ∃ (s : State) (d : Due) (ds : List Due), s.turns = [] ∧ s.agenda = d :: ds ∧ d.at_ ≤ s.now :=
  ⟨{ State.reset with turns := [], agenda := [⟨0, .dispatch 5⟩] }, ⟨0, .dispatch 5⟩, [], rfl, rfl, Nat.le_refl _⟩
/-- A decrement at the own core's tile store asks a bank; a message to a package that is off is lost. -/
def lateDecr : Event := .decrement { src := ⟨5, 0, 4⟩, kind := .tdep, tcb := own 0x700, asid := 3, sup := false }
theorem test_witness_due_event_and_bank : plainly.lostInReset lateDecr = false ∧ plainly.bankOf lateDecr = some ⟨5, 0x700, ⟨5, 0, 4⟩, 2⟩ ∧ lateDecr ∉ plainly.granted ∧
    plainly.bankOf (.dispatch 5) = none ∧ (plainly.modHub 0 fun h => { h with power := .off }).lostInReset lateDecr = true := by decide +kernel
/-- An empty granule, and a program counter beyond the tile store. -/
theorem test_witness_fetch_traps : (plainly.core 5).handlerSpent 0 = false ∧ plainly.poisoned (tileKey 5 (plainly.slot 5 0).pc) = false ∧
    plainly.present false (tileKey 5 (plainly.slot 5 0).pc) = false ∧ 2 ^ 20 ≤ ((here { thread with pc := 2 ^ 20 }).slot 5 0).pc ∧
    (plainly.setBytes (tileKey 5 0) [0, 0xBC]).poisoned (tileKey 5 0) = false := by decide +kernel
theorem test_witness_memory_canonical : MemOk State.reset := by rfl
theorem test_witness_memory_reads : MemOk plainly := by rfl

theorem test_witness_scalar_reads : (plainly.me.reg 1).mode = 0 ∧ (plainly.me.reg 1).failed = false ∧ (plainly.me.reg 1).full = true ∧
    ((withReg 1 { full := false }).me.reg 1).full = false ∧ ((withReg 1 { failed := true }).me.reg 1).failed = true ∧
    ((withReg 1 { mode := 2 }).myCore.linkEnd ((withReg 1 { mode := 2 }).me.reg 1).dir).fifo = [] ∧
    ((withReg 1 { mode := 3 }).me.reg 1).mode = 3 := by decide +kernel
/-- A stream register with one word, and a link-in register with one. -/
def streamed : State := (withReg 1 { mode := 1 }).modMyCore fun k => { k with streams := [{ id := 9, slot := 0, reg := 1, vec := false, shape := ⟨0, 3⟩, h := 2, asid := 3, sup := false, fifo := [77] }] }
def linked : State := (withReg 1 { mode := 2, dir := 1 }).modMyCore fun k => { k with links := [(1, { fifo := [8] })] }
theorem test_witness_stream_reads : ((streamed.myCore.streamAt 0 1 false).map fun x => x.fifo) = some [77] ∧ (streamed.me.reg 1).mode = 1 := by decide +kernel
theorem test_witness_link_reads : (linked.me.reg 1).mode = 2 ∧ (linked.myCore.linkEnd (linked.me.reg 1).dir).fifo = [8] := by decide +kernel
theorem test_witness_forms_stop : mayTake plainly 1 ∧ ¬ mayTake streamed 1 ∧ (plainly.me.reg 2).mode ≠ 3 ∧
    (withReg 2 { failed := true }).peek 2 = .error (.trap 42 0 2) ∧
    4 ≤ (((withReg 1 { mode := 3 }).modMyCore fun k => { k with links := [(0, { used := 4 })] }).myCore.linkEnd 0).used := by
  unfold mayTake
  decide +kernel
theorem test_witness_false_guard : (Instr.mov { guard := some ⟨false, 1⟩ } { a := 1, b := 2 }).isCoded = true ∧
    guardHolds { guard := some ⟨false, 1⟩ } plainly.me = false ∧ pageOf (.mov { guard := some ⟨false, 1⟩ } { a := 1, b := 2 }) ≤ 2 := by decide +kernel
theorem test_witness_waiting : ∀ bs, Why.park ≠ .rise bs := fun _ h => by cases h
theorem test_witness_privilege : (Instr.halt {}).isCoded = true ∧ pageOf (.halt {}) = 7 ∧ plainly.me.sup = false := by decide +kernel
theorem test_witness_switch_marker : plainly.me.st = .ready ∧ plainly.me.stopped = false ∧ plainly.me.saving = false ∧ plainly.me.saved = false ∧
    plainly.me.throttled = false := by decide +kernel

/-! ### Scalar forms -/

theorem test_witness_binary : Bin plainly {} { a := 1, b := 2, c := some 3 } 50 1 ∧ Bin plainly {} { a := 1, b := 2 } 100 50 ∧
    (Instr.add {} none { a := 1, b := 2 }).wf = true ∧ (Instr.mulhu {} (some { ty := .u32 }) { a := 1, b := 2 }).wf = true ∧
    (Instr.div {} none { a := 1, b := 2 }).wf = true ∧ (Instr.divu {} none { a := 1, b := 2 }).wf = true := by
  unfold Bin
  repeat' apply And.intro
  all_goals first | decide +kernel | rfl | exact .inl rfl
theorem test_witness_unary : Un plainly {} { a := 1, b := 2, q := true } 50 ∧ Acc plainly {} 1 100 ∧ Out plainly {} 1 ∧
    Tern plainly {} { a := 1, b := 2, c := 3 } 100 50 1 ∧ ({ a := 1, n := 64 } : OpExt).wf = true := by
  unfold Un Claim.Acc Out Tern
  repeat' apply And.intro
  all_goals first | decide +kernel | rfl | exact .inl rfl
/-- The field of bits 8 up to 15 of 0x1234 is 0x12; and 0x34 put there gives 0x3434. -/
theorem test_witness_fields : Sys2Proof.Claim.IsField 0x1234 8 8 0x12 ∧ IsPatch 0x1234 0x34 8 8 0x3434 := by
  unfold Sys2Proof.Claim.IsField IsPatch
  decide +kernel
/-- A control in s2 that gives lo 50 and len 1. -/
theorem test_witness_bit_fields : plainly.peek 2 = .ok 50 ∧ Sys2Proof.Claim.IsField 1 0 1 1 := by
  unfold Sys2Proof.Claim.IsField
  decide +kernel
theorem test_witness_sel : plainly.me.pred.getLsbD 2 ≠ false ∧ plainly.me.pred.getLsbD 1 = false := by decide +kernel
theorem test_witness_predicates : IsChosen 0x0104 3 1 0x0105 ∧ IsBit 0x0104 0 true 0x0105 := by
  unfold IsChosen IsBit
  decide +kernel
theorem test_witness_control : guardHolds {} plainly.me = true ∧ plainly.peek 15 = .ok 0x40 ∧ (plainly.me.reg 15).mode = 0 ∧ plainly.cur.slot ≠ 15 ∧
    (withReg 15 { full := false }).peek 15 = .error (.wait (.reg 15 false)) ∧ (withReg 15 { mode := 1 }).me.reg 15 = { mode := 1 } ∧
    (5 : Word).getLsbD 0 = true := by decide +kernel
theorem test_witness_conversion : ({ tgt := 1, src := 0, a := 1, b := 2 } : OpCvt).wf = true := by decide +kernel
/-- One, and the number between one and the next above it. -/
theorem test_witness_rounding : fp32.dec false 0x3F800000 = .num false 0x800000 (-23) ∧ 0x3F800000 < fp32.maxCode ∧ 0x3F800000 < 2 ^ fp32.width := by decide +kernel

/-- Numbers, an infinity and a NaN of FP32; and the inputs of the fixed sequences whose results the rules state. -/
theorem test_witness_float_exact : Claim.IsFinite fp32 (code none 0x3F800000) ∧ number fp32 0x3F800000 = one fp32 ∧ number fp32 0xBF800000 < 0 ∧
    number fp32 0x80000000 = 0 ∧ Claim.IsNan fp32 0x7FC00000 ∧ ¬ Claim.IsNan fp32 0x7F800000 := by
  unfold Claim.IsFinite Claim.IsNan
  decide +kernel
theorem test_witness_special_inputs : format none = fp32 ∧ (env plainly none).flush = false ∧ (env plainly none).sat = false ∧
    magnitude fp32 0x80000000 = 0 ∧ magnitude fp32 0xFF800000 = fp32.infCode ∧ (128 * one fp32 : Int) < number fp32 0x43000001 ∧
    number fp32 0xC3160001 < -(150 * one fp32 : Int) ∧ number fp32 0x40400000 = 3 * one fp32 ∧ cvtFmt 0 = some fp32 ∧ cvtFmt 3 = none := by decide +kernel

/-! ### Vector forms -/

theorem test_witness_vector : VecOk lanes {} [1, 2, 3] false ∧ VecTakes lanes 1 ∧ VecUp lanes [1] := by
  unfold VecOk VecTakes VecUp
  refine ⟨⟨?_, by decide +kernel⟩, by decide +kernel, ?_⟩ <;> intro v h <;> simp only [List.mem_cons, List.not_mem_nil, or_false] at h <;> rcases h with rfl | rfl | rfl <;> exact ⟨_, rfl, by decide +kernel⟩
theorem test_witness_vector_binary : VBin lanes {} 4 { a := 1, b := 2, c := .vec 3 } 5 9 ∧ VUn lanes {} 1 2 5 := by
  unfold VBin VUn VecOk VecTakes VecUp
  refine ⟨⟨⟨?_, by decide +kernel⟩, by decide +kernel, rfl, rfl⟩, ⟨?_, by decide +kernel⟩, by decide +kernel, rfl⟩ <;> intro v h <;> simp only [vecsOf, List.mem_cons, List.not_mem_nil, or_false] at h <;> rcases h with rfl | rfl | rfl <;> exact ⟨_, rfl, by decide +kernel⟩
theorem test_witness_to_scalar : ToScalar lanes {} { a := 1, b := 2 } 5 := by
  unfold ToScalar VecOk VecUp
  refine ⟨⟨?_, by decide +kernel⟩, .inl rfl, rfl⟩ <;> intro v h <;> simp only [List.mem_cons, List.not_mem_nil, or_false] at h <;> rcases h with rfl | rfl | rfl <;> exact ⟨_, rfl, by decide +kernel⟩
theorem test_witness_lane_masks : lanes.me.banks ≠ 0 ∧ Masked lanes {} 1 (fun _ => true) (BitVec.allOnes 64) ∧ lanes.cur.slot ≠ 15 := by
  unfold Masked active
  decide +kernel
/-- A register that the thread does not hold, a bank in Retain, and one that clears. -/
theorem test_witness_vector_stops : lanes.cur.slot ≠ 15 ∧ lanes.me.place 17 = none ∧ lanes.me.place 1 ≠ none ∧ plainly.me.banks = 0 ∧
    ((lanes.modMyCore fun k => k.setBank 0 { k.bank 0 with clears := some 9 }).myCore.bank 0).clears.isSome = true ∧
    ((lanes.modMyCore fun k => k.setBank 0 { k.bank 0 with power := .retain }).myCore.bank 0).power = .retain ∧ (lanes.vregAt 4).full = false := by decide +kernel
/-- A form of page 3 with its register in a bank that is up, one whose first source is empty, one into a scalar register and one that names masks. -/
theorem test_witness_vector_use : vectorUse (.vmov {} { a := 1, b := 4 }) = some ({}, { names := [1, 4], dest := some 1, reads := [4] }) ∧ VecUp lanes [1, 4] ∧
    VecTakes lanes 1 ∧ (lanes.vregAt 4).full = false ∧ (lanes.vregAt 4).stream = false ∧ (lanes.vregAt 4).failed = false ∧
    ((lanes.modMyCore fun k => { k with vregs := [(4, { failed := true })] }).vregAt 4).failed = true ∧
    ¬ VecTakes (lanes.modMyCore fun k => { k with vregs := [(1, { stream := true })] }) 1 ∧
    vectorUse (.mand {} { a := 1, b := 2 }) = some ({}, { masks := [1, 2] }) ∧ lanes.takesWrite 1 ∧ lanes.peek 7 = .ok (own 0x200) := by
  unfold VecUp VecTakes
  refine ⟨rfl, fun v h => ?_, ?_⟩
  · simp only [List.mem_cons, List.not_mem_nil, or_false] at h
    rcases h with rfl | rfl <;> exact ⟨_, rfl, by decide +kernel⟩
  · repeat' apply And.intro
    all_goals first | decide +kernel | rfl | exact .inl rfl

/-! ### Memory -/

/-- An access of the thread, plain, relaxed or an acquire, is outstanding. -/
def waitingFor (relaxed : Bool) (acq : BitVec 5) : State := here { thread with out := [{ id := 4, addr := own 0x200, home := .own, relaxed := relaxed, acq := acq, cells := [(own 0x200).toNat / 16] }] }
def loadPlan : Plan := { ea := own 0x208, op := .load 8, ord := loadOrder {}, x := {}, fills := [1], takes := [(6, false)] }
def storePlan : Plan := { ea := own 0x208, op := .store 8 50, ord := storeOrder {}, x := {}, takes := [(6, false), (2, false)], writes := true }
def swapPlan : Plan := { ea := own 0x208, op := .amo .swap 8 100, ord := atomicOrder {}, x := {}, fills := [1], takes := [(6, false), (1, false)], presence := true, writes := true }
theorem test_witness_load_sends : Sends plainly loadPlan := by
  have e : homeOf plainly.cur.core loadPlan.ea = .own := by decide +kernel
  unfold Sends
  refine ⟨?_, ?_, fun d h => ?_, by decide +kernel, by decide +kernel⟩
  · unfold MayGo FreeEntries
    decide +kernel
  · unfold Passes
    decide +kernel
  · rw [e] at h
    cases h
theorem test_witness_store_sends : Sends plainly storePlan := by
  have e : homeOf plainly.cur.core storePlan.ea = .own := by decide +kernel
  unfold Sends
  refine ⟨?_, ?_, fun d h => ?_, by decide +kernel, by decide +kernel⟩
  · unfold MayGo FreeEntries
    decide +kernel
  · unfold Passes
    decide +kernel
  · rw [e] at h
    cases h
theorem test_witness_swap_sends : Sends plainly swapPlan := by
  have e : homeOf plainly.cur.core swapPlan.ea = .own := by decide +kernel
  unfold Sends
  refine ⟨?_, ?_, fun d h => ?_, by decide +kernel, by decide +kernel⟩
  · unfold MayGo FreeEntries
    decide +kernel
  · unfold Passes
    decide +kernel
  · rw [e] at h
    cases h
theorem each_of {P : Word → Prop} [DecidablePred P] {as : List Word} (h : as.all (fun a => decide (P a)) = true) : ∀ a ∈ as, P a :=
  fun a ha => of_decide_eq_true (List.all_eq_true.mp h a ha)
theorem test_witness_access_leaves : (∀ x ∈ loadPlan.takes, (plainly.me.reg x.1.toNat).mode = 0) ∧ loadPlan.storing = false ∧ storePlan.storing = true ∧ homeOf plainly.cur.core storePlan.ea = .own ∧ offsetOf storePlan.ea < 2 ^ 20 := by decide +kernel
theorem test_witness_access_is_held : plainly.peek 6 = .ok (own 0x208) ∧ (waitingFor false 0).me.live ≠ [] ∧ (waitingFor true 0).me.live ≠ [] ∧ (∃ a ∈ (waitingFor true 31).me.live, a.bars .own = true) := by decide +kernel
/-- A good address, one in no aperture, a misaligned one, and control registers that are there, are not, and that a user may not read. -/
theorem test_witness_load_traps : MayGo plainly (loadOrder {}) .own 0 ∧ addrOk (own 0x208) = true ∧ addrOk 0x0200000000000000 = false ∧ (own 0x20C).toNat % 8 ≠ 0 ∧ ctlAssigned 5 0x100000 = true ∧ ctlAssigned 5 0x1FFFF8 = false ∧ userReads 0x102000 = false := by
  unfold MayGo FreeEntries
  decide +kernel
/-- The access that a load of s1 at s6, a store, a swap and a marking describe; a view that is the thread's; and a register that is not in normal mode. -/
theorem test_witness_access_of : accessOf plainly (.ld {} { sz := 3, a := 1, b := 6, off := 0 }) = some ({}, { ea := own 0x208, op := .load 8, ord := loadOrder {}, x := {}, fills := [1], takes := [(6, false)] }) ∧
    (accessOf plainly (.st {} { sz := 3, a := 2, b := 6, off := 0 })).isSome = true ∧ (accessOf plainly (.ldfe {} { sz := 3, a := 1, b := 6, off := 0 })).isSome = true ∧
    (accessOf plainly (.amoSwapD {} { a := 1, b := 6, off := 0 })).isSome = true ∧ (accessOf plainly (.setf {} { b := 6, off := 0 })).isSome = true ∧
    (accessOf plainly (.casD {} { a := 1, b := 6, c := 2, off := 0 })).isSome = true ∧ meetsWindow (.storeEmpty 8 0) = true ∧ ((withReg 1 { mode := 2 }).me.reg 1).mode ≠ 0 ∧
    plainly.entryOk (some (0, false)) = false ∧ plainly.entryOk none = true := by decide +kernel
theorem test_witness_fence : Released plainly 31 ∧ ¬ Released (waitingFor false 0) 31 := by
  unfold Released
  decide +kernel
theorem test_witness_block_forms : OwnBlocks lanes [own 0x200] (touchedBy lanes {} (own 0x200)) 256 256 ∧ MayGo lanes (loadOrder {}) .own 0 ∧ lanes.peek 7 = .ok (own 0x200) := by
  unfold OwnBlocks MayGo FreeEntries
  exact ⟨⟨each_of (by decide +kernel), each_of (by decide +kernel)⟩, by decide +kernel, rfl⟩
/-- The addresses of a gather over no active group but those of mask 1. -/
def gathered : List Word := (activeGroups lanes { guard := some ⟨false, 1⟩ }).map fun j => groupAddr { a := 1, b := 7, c := 4, off := 0 } (own 0x200) 0 j
theorem test_witness_gather : OwnBlocks lanes gathered gathered 4 4 ∧ lanes.vpeek 1 = .ok 3 := by
  unfold OwnBlocks
  exact ⟨⟨each_of (by decide +kernel), each_of (by decide +kernel)⟩, rfl⟩
theorem test_witness_vector_access_leaves : lanes.me.place 1 = some 1 := by decide +kernel
/-- A view-table entry under which the slot reads, one under which it writes as opener, and one under which it writes. -/
def viewing : State := plainly.modMyCore fun k => { k with views := [(2, 1), (3, 7), (4, 3)] }
/-- A full view table. -/
def fullViews : State := plainly.modMyCore fun k => { k with views := (List.range 16).map fun i => (i, 1) }
theorem test_witness_bundle_opens : plainly.peek 7 = .ok (own 0x200) ∧ Alone plainly ∧ isFabric (own 0x200) = true ∧ addrOk (own 0x200) = true ∧ (own 0x200).toNat % 64 = 0 ∧ Route plainly (own 0x200) ∧ (plainly.me.reg 1).mode = 0 ∧ FreeView plainly 0 ∧ (∀ i, i < 16 → (fullViews.myCore.view i).getLsbD 0 = true) := by
  unfold Alone Route FreeView
  decide +kernel
theorem test_witness_bundle_closes : (viewing.myCore.view 2).getLsbD 0 = true ∧ viewSlot (viewing.myCore.view 2) = 0 ∧ (viewing.myCore.view 2).getLsbD 1 = false ∧ (viewing.myCore.view 3).getLsbD 1 = true ∧ (viewing.myCore.view 3).getLsbD 2 = true ∧ (viewing.myCore.view 4).getLsbD 1 = true ∧ (viewing.myCore.view 4).getLsbD 2 = false ∧ (viewing.myCore.view 5).getLsbD 0 = false ∧ viewing.me.out = [] ∧ (viewing.myCore.notes.get {} 2).released = false ∧ Alone viewing := by
  unfold Alone
  decide +kernel

/-! ### Engines and threads -/

def withHandle (x : Handle) : State := plainly.modMyCore fun k => { k with handles := [(5, x)] }
theorem test_witness_handle_forms : ((1 : Word).getLsbD 0 = true) ∧ plainly.peek 3 = .ok 1 ∧ (plainly.myCore.handle 5).arr = 0 ∧ (plainly.myCore.handle 5).pend = 0 ∧ plainly.handleBusy 5 5 = false ∧ ((withHandle { tgt := 2 }).myCore.handle 5).buffer = false ∧ ((withHandle { tgt := 2 }).myCore.handle 5).tgt ≠ 0 ∧ Released plainly 9 := by
  unfold Released
  decide +kernel
theorem test_witness_handle_waits : ((withHandle { f := true, fc := 2 }).myCore.handle 5).f = true ∧ ((withHandle {}).myCore.handle 5).seq.getLsbD 0 ≠ (1 : Word).getLsbD 0 ∧ 0 ≤ (((withHandle {}).myCore.handle 5).seq - 0).toInt ∧ ¬ (0 ≤ (((withHandle {}).myCore.handle 5).seq - 1).toInt) ∧ ((withHandle { buffer := true, bst := 2 }).myCore.handle 5).bst = 2 ∧ ((withHandle { buffer := true, bst := 3, hv := true }).myCore.handle 5).hslot = 0 := by decide +kernel
theorem test_witness_handle_changes : let x : Handle := { tgt := 2, arr := 1 }
    x.buffer = false ∧ x.tgt ≠ 0 ∧ x.arr < x.tgt ∧ -(2 ^ 47) ≤ x.pend ∧ x.pend + 100 < 2 ^ 47 ∧ (let y : Handle := { tgt := 2, arr := 2 }
    y.tgt < y.arr + 1 ∧ y.arr ≤ y.tgt) ∧ (let z : Handle := { buffer := true, bst := 1, pend := 64 }
    z.bst = 1 ∧ z.pend = 64) := by decide +kernel
/-- A record of 4 elements of 8 bytes at 0x400 of the own tile store. -/
def shape : Shape := ⟨BitVec.ofNat 256 ((own 0x400).toNat + 2 ^ 64 * 4 + 2 ^ 80 + 2 ^ 96 + 2 ^ 112 + 2 ^ 128 * 8), 3⟩
def shaped : State := (plainly.modMyCore fun k => { k with shapes := [(1, shape), (2, shape)], handles := [(5, { buffer := true })] }).setBytes (tileKey 5 0x200) (natLe 32 shape.image.toNat)
theorem test_witness_shape_form : (own 0x200).toNat % 32 = 0 ∧ shaped.anyPoison (tileKey 5 0x200) 32 = false ∧ BitVec.ofNat 256 (leNat (shaped.bytes (tileKey 5 0x200) 32)) = shape.image ∧ (∀ d, d < 4 → shape.count d ≠ 0) ∧ shape.bytes ≤ 2 ^ 40 ∧ (∀ d, d < 4 → shape.count d ≤ 1 ∨ shape.stride d % shape.size = 0) ∧ homeOf 5 (own 0x200) = .own := by decide +kernel
theorem test_witness_copy_forms : CopyOk shaped { instr := .cp {} { kd := 1, ks := 2, h := 5 }, kd := 1, ks := 2, h := 5 } ∧ shaped.mayPush 2 = true ∧ shaped.myCore.copyq.length < 16 := by
  refine ⟨?_, by decide +kernel, by decide +kernel⟩
  unfold CopyOk
  dsimp only
  refine ⟨fun v h => (by cases h), fun _ => by decide +kernel, by decide +kernel, by decide +kernel, ?_, by decide +kernel, by decide +kernel,
    fun v h => (by cases h)⟩
  rintro k (rfl | rfl) <;> refine ⟨by decide +kernel, by decide +kernel, .inl (by decide +kernel)⟩
/-- The engine with every place taken, so that a copy is held as a push; and its thread, which tries again once there is room. -/
def crowded : State := shaped.modMyCore fun k => { k with copyq := List.range 16 }
def retriedCopy : State := shaped.modMe fun x => { x with st := .held, why := .access, push := some .copy, pushed := some (.cp {} { kd := 1, ks := 2, h := 5 }, 6) }
theorem test_witness_copy_held : ¬ CopyFree crowded { instr := .cp {} { kd := 1, ks := 2, h := 5 }, kd := 1, ks := 2, h := 5 } ∧ CopyFree shaped { instr := .cp {} { kd := 1, ks := 2, h := 5 }, kd := 1, ks := 2, h := 5 } := by
  unfold CopyFree
  decide +kernel
theorem test_witness_copy_retaken : (retriedCopy.slot 5 0).push = some .copy ∧ (retriedCopy.slot 5 0).pushed = some (.cp {} { kd := 1, ks := 2, h := 5 }, 6) ∧ retriedCopy.event = none ∧
    CopyOk (retrying retriedCopy 5 0 6).advance { instr := .cp {} { kd := 1, ks := 2, h := 5 }, kd := 1, ks := 2, h := 5 } ∧
    CopyFree (retrying retriedCopy 5 0 6).advance { instr := .cp {} { kd := 1, ks := 2, h := 5 }, kd := 1, ks := 2, h := 5 } ∧
    StreamOk (retrying retriedCopy 5 0 6) 1 5 ∧ MayPush (retrying retriedCopy 5 0 6) ∧ ((retrying retriedCopy 5 0 6).me.reg 1).mode = 0 := by
  refine ⟨by decide +kernel, by decide +kernel, by decide +kernel, ?_, ?_, ?_, ?_, by decide +kernel⟩
  · unfold CopyOk
    dsimp only
    refine ⟨fun v h => (by cases h), fun _ => by decide +kernel, by decide +kernel, by decide +kernel, ?_, by decide +kernel, by decide +kernel, fun v h => (by cases h)⟩
    rintro k (rfl | rfl) <;> refine ⟨by decide +kernel, by decide +kernel, .inl (by decide +kernel)⟩
  · unfold CopyFree
    decide +kernel
  · unfold StreamOk
    decide +kernel
  · unfold MayPush
    decide +kernel
theorem test_witness_stream_forms : StreamOk shaped 1 5 ∧ MayPush shaped ∧ (shaped.me.reg 1).mode = 0 ∧ (streamed.me.reg 1).mode = 1 ∧ (plainly.me.reg 1).mode ≠ 1 := by
  unfold StreamOk MayPush
  decide +kernel
/-- SETFMT, command 5, with zeros. -/
def packet : List Byte := [5] ++ List.replicate 63 0
theorem test_witness_matrix_forms : isSuper 5 = false ∧ isSuper bootCore = true ∧ (∀ i, i < 16 → (plainly.me.reg i).mode = 0) ∧ plainly.peek 8 = .ok 0 ∧ plainly.peek 14 = .ok 0 ∧ headerOk (List.replicate 64 0) = false ∧ headerOk packet = true ∧ plainly.myCore.matrix.queue.length < 8 ∧ plainly.mayPush 4 = true ∧ namesAcc packet = false := by decide +kernel
/-- A held push of SETFMT: the command is in s8, and all the other registers are zero. -/
def retriedPush : State := here { (thread.setReg 8 { v := 5 }) with st := .held, why := .access, push := some .matrix, pushed := some (.mxs {}, 2) }
theorem test_witness_matrix_push : (retriedPush.slot 5 0).push = some .matrix ∧ (retriedPush.slot 5 0).stopped = false ∧ (retriedPush.slot 5 0).saving = false ∧
    (retriedPush.slot 5 0).pushed = some (.mxs {}, 2) ∧ (retrying retriedPush 5 0 2).peek 8 = .ok 5 ∧ (retrying retriedPush 5 0 2).peek 9 = .ok 0 ∧
    (∀ i, i < 16 → ((retrying retriedPush 5 0 2).me.reg i).mode = 0) ∧ (retrying retriedPush 5 0 2).mayPush 4 = true ∧ retriedPush.myCore.matrix.queue.length < 8 ∧
    (List.range 15).all (fun i => i == 8 || i < 8 || (retrying retriedPush 5 0 2).peek (BitVec.ofNat 4 i) == .ok 0) = true ∧
    (plainly.modMyCore fun k => k.modMatrix fun m => { m with queue := List.replicate 8 ⟨{ pkt := packet, slot := 0, asid := 3, sup := false }, .waiting⟩ }).myCore.matrix.queue.length ≥ 8 := by decide +kernel
theorem test_witness_thread_forms : plainly.cur.slot ≠ 15 ∧ plainly.me.wake = false ∧ (here { thread with wake := true }).me.wake = true ∧ plainly.takesWrite 1 ∧ plainly.peek 3 = .ok 1 ∧ (∀ i, i < 32 → (1 : BitVec 32).getLsbD i = if i = 0 then true else plainly.me.status.getLsbD i) := by
  repeat' apply And.intro
  all_goals first | decide +kernel | rfl | exact .inl rfl
theorem test_witness_quit : plainly.me.pendingAccess = false ∧ plainly.cur.slot ≠ 15 ∧ (waitingFor false 0).me.pendingAccess = true := by decide +kernel
def asked6 (v : Word) : State := here { thread with regs := regs [(3, 1), (6, v)] }
theorem test_witness_wake : (asked6 (own 3)).peek 6 = .ok (own 3) ∧ addrOk (own 3) = true ∧ (own 3).toNat / 16 % 2 ^ 17 = 0 ∧ coreNamed (own 3) = 5 ∧ (own 0x10).toNat / 16 % 2 ^ 17 ≠ 0 ∧ coreNamed (fabricAddr 6 3) ≠ 5 ∧ Route plainly (fabricAddr 6 3) ∧ FreeEntries plainly 1 := by
  unfold Route FreeEntries
  decide +kernel
theorem test_witness_wake_at_a_slot : (plainly.slot 5 0).saved = false ∧ (plainly.slot 5 0).st ≠ .free ∧ (plainly.slot 5 1).st = .free ∧ ((here { thread with st := .waiting, why := .park, resume := some (4, false) }).slot 5 0).resume = some (4, false) ∧ (here { thread with st := .waiting, why := .park, resume := some (4, false) }).me.pendingAccess = false := by decide +kernel
theorem test_witness_spawn_tenq_tdep : plainly.peek 7 = .ok (own 0x200) ∧ plainly.peek 3 = .ok 1 ∧ plainly.peek 4 = .ok 0 ∧ plainly.peek 5 = .ok 7 ∧ offsetOf (own 0x200) % 2 = 0 ∧ offsetOf (own 0x200) < 2 ^ 16 ∧ (1 : Word).toNat < 8 ∧ (1 : Word).getLsbD 2 = false ∧ TcbNamed plainly (own 0x200) ∧ Alone plainly := by
  unfold TcbNamed Alone Route
  decide +kernel
theorem test_witness_messages : FreeEntries plainly 2 ∧ Alone plainly ∧ (here { thread with status := 8 }).me.gang = true ∧ plainly.me.gang = false ∧ plainly.me.barSeq = none ∧ (plainly.myCore.handle plainly.me.hb).f = false ∧ (0x220 : Word).toNat % 32 = 0 ∧ imageAt (plainly.bytes (tileKey 5 0x220) 32) 0 2 < 256 := by
  unfold FreeEntries Alone
  decide +kernel
theorem test_witness_migrate : plainly.myCore.tiedDown 0 = false ∧ (∀ i, i < 16 → (plainly.me.reg i).mode = 0) ∧ plainly.me.pendingAccess = false ∧ (∀ e ∈ plainly.me.regs, e.2.pend = false) ∧ coreNamed (fabricAddr 6 0) ≠ plainly.cur.core ∧ Route plainly (fabricAddr 6 0) ∧ addrOk (fabricAddr 6 0) = true ∧ viewing.myCore.tiedDown 0 = true := by
  unfold Route
  decide +kernel
theorem test_witness_link : ({ a := 1, idx := 5 } : OpLink).wf = true ∧ isCompute 5 = true ∧ plainly.advance.myCore.boundTo 1 2 = false ∧ (linked.me.reg 1).mode = 2 ∧ (linked.me.reg 1).dir = 1 ∧ ((plainly.modCore (neighbour 5 1) fun k => { k with admitList := [(0, 0x8003)] }).core (neighbour 5 1)).lists 3 = true := by decide +kernel

/-! ### Exceptions and page 7 -/

/-- A trap that waits for its return: the head record is exact and names slot 0, which is stopped. -/
def trapped : State := plainly.takeTrap 5 0 0 28 7 0
theorem test_witness_exact_trap : (plainly.core 5).traps.count < 31 ∧ (plainly.core 5).traps.waiting = [] ∧ (plainly.slot 5 0).traph = false := by decide +kernel
theorem test_witness_full_queue : 31 ≤ ((plainly.modMyCore fun k => { k with traps := { count := 31 } }).core 5).traps.count ∧ (((plainly.modCore 5 fun k => { k with slots := [(14, { st := .ready, status := 0x40 })] })).core 5).traps.count < 32 := by decide +kernel
theorem test_witness_return_from_trap : (trapped.core 5).traps.count ≠ 0 ∧ field ((trapped.core 5).traps.ring.get 0 0) 12 1 = 1 ∧ field ((trapped.core 5).traps.ring.get 0 0) 6 2 = 0 ∧ (trapped.slot 5 0).stopped = true ∧ (plainly.core 5).traps.count = 0 := by decide +kernel
/-- Two exact records of slot 0: the later one makes the head record history. -/
def tworecords : TrapQueue := { ring := [(0, 2 ^ 12), (1, 2 ^ 12)], count := 2 }
theorem test_witness_return_history : (((List.range (tworecords.count - 1)).map fun i => tworecords.ring.get 0 ((tworecords.head + 1 + i) % 32)) ++ tworecords.waiting).any
      (fun x => field x 12 1 == 1 && field x 8 4 == field (tworecords.ring.get 0 tworecords.head) 8 4) = true ∧ (trapped.core 5).traps.count = 1 ∧
    (trapped.core 5).traps.waiting = [] := by decide +kernel
theorem test_witness_privileged : Priv super {} ∧ Alone super ∧ super.peek 3 = .ok 1 ∧ CoreRegister super (own 0x100000) ∧ HubRegister (BitVec.ofNat 64 (2 ^ 63 + 2 ^ 44 + 0x400)) ∧ Route super (own 0x100000) := by
  unfold Priv Alone CoreRegister HubRegister Route
  decide +kernel
theorem test_witness_hub_requests : CoreNamed super (own 0) ∧ (1 : Word).toNat < 2 ^ 9 ∧ Block super (own 0x200) 64 ∧ (0x4000 : Word).getLsbD 14 = true ∧ (0x50003 : Word).toNat / 16 % 2 ^ 12 = 0 ∧ isCompute super.cur.core = true := by
  unfold CoreNamed Block Route
  decide +kernel
theorem test_witness_asid : super.takesWrite 1 ∧ super.peek 5 = .ok 7 ∧ (7 : Word).toNat < 2 ^ 14 ∧ 2 ^ 14 ≤ (0x4000 : Word).toNat ∧ CoreNamed super (own 0) := by
  unfold CoreNamed Route
  repeat' apply And.intro
  all_goals first | decide +kernel | rfl | exact .inl rfl

/-! ### Events -/

def core5 (f : Core → Core) : State := plainly.modMyCore f
def hub0 (f : Hub → Hub) : State := plainly.modHub 0 f
def asker : Asker := ⟨5, 0, 4⟩
/-- A load of s1 is outstanding; a form that holds its thread; a posted store with journal entry 0. -/
def filling : Machine.Acc := { id := 4, addr := own 0x200, home := .own, regs := [(1, 0, false, 1)] }
def holding : Machine.Acc := { id := 4, addr := own 0x200, home := .device, hold := some { next := 2, addr := 0, takes := [(2, true)] } }
def posted : Machine.Acc := { id := 4, addr := fabricAddr 6 0, home := .device, store := true, jrn := some 0 }
def waitsOn (x : Machine.Acc) : State := here ({ thread with out := [x] }.setReg 1 { full := false, pend := true })
def replaying : State := (waitsOn posted).modMyCore fun k => { k with journal := [(0, journalImage 0 3 0 0 0 0 0 0 3 (fabricAddr 6 0) 1 0 + 4)] }
theorem test_witness_answers : Asked (waitsOn filling) asker filling ∧ ((waitsOn filling).me.reg 1).pend = true ∧ filling.hold = none ∧ Asked (waitsOn holding) asker holding ∧ Asked (waitsOn posted) asker posted ∧ (∀ e ∈ [(2, true)], e.1 < 16 ∧ ((waitsOn holding).me.reg e.1).mode = 0) := by
  unfold Asked
  decide +kernel
/-- A posted store whose entry has been refused, and one, of an amsg, with a second entry. -/
def refusedEntry : State := (waitsOn posted).modMyCore fun k => { k with journal := [(0, journalImage 0 3 0 0 0 0 0 0 3 (fabricAddr 6 0) 1 0 + 2)] }
def doubled : State := (waitsOn { posted with jrn2 := some 1 }).modMyCore fun k => { k with journal := [(0, journalImage 0 3 0 0 0 0 0 0 3 (fabricAddr 6 0) 1 0), (1, 1)] }
theorem test_witness_late_answers : Asked refusedEntry asker posted ∧ field (refusedEntry.myCore.jrn 0) 1 2 = 1 ∧ field ((waitsOn posted).myCore.jrn 0) 1 2 ≠ 1 ∧
    Asked doubled asker { posted with jrn2 := some 1 } ∧ field (doubled.myCore.jrn 0) 1 2 ≠ 1 ∧ field (doubled.myCore.jrn 1) 0 1 = 1 := by
  unfold Asked
  decide +kernel
theorem test_witness_busy : isFabric (own 0) = true ∧ coreNamed (own 0) = 5 ∧ coreNamed (fabricAddr 6 0) ≠ 5 ∧ isFabric 0x1000 = false := by decide +kernel
theorem test_witness_replay : (replaying.accOfEntry 5 0).map (·.1) = some 0 ∧ field (replaying.myCore.jrn 0) 0 1 = 1 ∧ field (replaying.myCore.jrn 0) 1 2 = 2 ∧ field (replaying.myCore.jrn 0) 9 3 = 0 ∧ field (replaying.myCore.jrn 0) 12 2 ≠ 3 ∧ homeOf 5 (BitVec.ofNat 64 (field (replaying.myCore.jrn 0) 64 64)) = .device := by decide +kernel
theorem test_witness_access_at_its_place : MemOk plainly ∧ (plainly.tilePlace 5 0x200).line = none ∧ (plainly.tilePlace 5 0x200).key % 8 = 0 ∧ plainly.poisoned (plainly.tilePlace 5 0x200).key = false ∧ (plainly.setPoison (tileKey 5 0x200)).poisoned (tileKey 5 0x200) = true ∧ plainly.present false (tileKey 5 0x200) = false ∧ (plainly.setPresent (tileKey 5 0x200) true).present false (tileKey 5 0x200) = true := by
  unfold MemOk
  decide +kernel
def request (op : MemOp) : Req := { src := asker, asid := 3, sup := false, addr := own 0x200, op := op }
def atBank (op : MemOp) : State := core5 fun k => { k with bankq := [(0, [{ req := request op, prio := 4, since := 0 }])] }
theorem test_witness_bank_access : ((atBank (.load 8)).myCore.bankq.get [] 0).length = 1 ∧ (atBank (.load 8)).myCore.clearing = [] ∧ (atBank (.load 8)).myCore.waiting = [] ∧ (request (.load 8)).src.core = 5 ∧ (atBank (.load 8)).myCore.windowHole 0x200 = false ∧ (match plainly.performAt (plainly.tilePlace 5 0x200) 3 (.load 8) with | .done _ v _ _ => v == 0 | _ => false) = true ∧ (match plainly.performAt (plainly.tilePlace 5 0x200) 3 (.loadFull 8) with | .wait => true | _ => false) = true ∧ plainly.myCore.snapshot = none := by decide +kernel
/-- An event that asked the bank; a request held back behind another of the thread's; a line of a versioned window there. -/
theorem test_witness_bank_event : ((core5 fun k => { k with bankq := [(0, [{ req := request (.load 8), prio := 2, since := 0, ev := some lateDecr }])] }).myCore.bankq.get [] 0).length = 1 ∧
    (waitingFor true 0).meeting (cellNumbers (own 0x208) 8) ≠ [] ∧ plainly.meeting (cellNumbers (own 0x208) 8) = [] := by decide +kernel
theorem test_witness_remote_requests : offsetOf (own 0x200) < 2 ^ 20 ∧ plainly.myCore.frozen = false ∧ plainly.myCore.service.length < 64 ∧ 2 ^ 20 ≤ offsetOf (own 0x100000) := by decide +kernel
/-- A posted store from another device; one that only counts; a supervisor core's control access; and no room, a full queue, a frozen core. -/
def fromFar (op : MemOp) : Req := { src := ⟨8197, 0, 4⟩, asid := 3, sup := false, addr := own 0x200, op := op, posted := true }
def fromHub (op : MemOp) (off : Nat) : Req := { src := ⟨bootCore, 0, 4⟩, asid := 0, sup := true, addr := own off, op := op }
theorem test_witness_counts_and_control : devOf (fromFar (.store 8 1)).src.core ≠ devOf 5 ∧ (plainly.hub 0).roomToCount (fromFar (.store 8 1)) = true ∧
    (fromFar (.store 0 1)).op = .store 0 1 ∧ isCompute (fromHub .ctlRead 0x100000).src.core = false ∧ (fromHub .ctlRead 0x100000).src.core ≠ 5 ∧
    offsetOf (fromHub .ctlRead 0x100000).addr % 8 = 0 ∧ ctlAssigned 5 (offsetOf (fromHub .ctlRead 0x100000).addr) = true ∧ ctlAssigned 5 0x100018 = true ∧
    ctlAssigned 5 0x1FFFF8 = false ∧ offsetOf (own 0x100004) % 8 ≠ 0 ∧ (core5 fun k => { k with service := List.replicate 64 (Service.access (fromFar (.load 8))) }).myCore.service.length = 64 ∧
    (core5 fun k => { k with service := [Service.access (fromHub (.load 8) 0x100000)] }).myCore.service.length = 1 := by decide +kernel
theorem test_witness_control_writes : let v : Word := 1 + 2 ^ 12 + 2 ^ 32 * 100
    v.getLsbD 0 = true ∧ field v 32 13 ≠ 0 ∧ field v 32 13 ≤ 7281 ∧ field v 12 8 * 4096 + 144 * field v 32 13 ≤ 2 ^ 20 ∧ (plainly.myCore.vwin.get 0 1).getLsbD 0 = false ∧ plainly.myCore.waiting = [] := by decide +kernel
/-- A core that an evacuation freezes; and an ordering table that cannot count another store. -/
theorem test_witness_frozen_and_full : (core5 fun k => { k with frozen := true }).myCore.frozen = true ∧
    ((hub0 fun h => { h with orders := (List.range 256).map fun i => ⟨2, i, 0, 0, 0, 1⟩ }).hub 0).roomToCount { src := ⟨8197, 0, 4⟩, asid := 3, sup := false, addr := own 0, op := .store 8 1, posted := true } = false ∧
    (plainly.hub 0).epochs.has (orderKey 5 0) = false := by decide +kernel
theorem test_witness_records_and_links : (core5 fun k => { k with traps := { waiting := [5] } }).myCore.traps.waiting = [5] ∧ plainly.myCore.lists 3 = false ∧ (core5 fun k => { k with admitList := [(0, 0x8003)] }).myCore.lists 3 = true ∧ plainly.myCore.frozen = false ∧ (plainly.myCore.slot 0).saved = false := by decide +kernel
/-- A forwarding entry for ASID 3 sends the record of a refused word on to core 6. -/
theorem test_witness_record_follows : plainly.homeNow 5 3 = 5 ∧ ({ (core5 fun k => { k with fwds := [(0, 2 ^ 14 + 3 + 2 ^ 16 * 6)] }) with nextId := 1 } : State).homeNow 5 3 ≠ 5 := by decide +kernel
def command (b : List Byte) : MatCmd := { pkt := b ++ List.replicate (64 - b.length) 0, slot := 0, asid := 3, sup := false }
def running (b : List Byte) : State := core5 fun k => { k with matrix := { queue := [⟨command b, .busy⟩] } }
/-- MM of one step on a loaded B set and a full bank. -/
def multiplying : State := core5 fun k => { k with matrix := { queue := [⟨command [0, 0, 0, 1, 0, 2, 0, 0, 128], .busy⟩], accs := [(0, { full := true })], bset0 := { loaded := true, steps := 1 } } }
def drained (refused : Bool) : State := core5 fun k => { k with matrix := { queue := [⟨command [2], .draining 9⟩], drains := [{ id := 9, cmd := command [2], left := 0, refused := refused }] } }
theorem test_witness_matrix_runs : (running [5]).myCore.matrix.queue = [⟨command [5], .busy⟩] ∧ Owned (running [5]) 5 (command [5]) ∧ (running [5]).myCore.operandIn 0 0 (command [5]).pkt = false ∧ (running [5]).poison = [] ∧ ((running [5]).myCore.acc 0).full = false := by
  unfold Owned
  refine ⟨by decide +kernel, ⟨rfl, fun h => by cases h⟩, by decide +kernel, by decide +kernel, by decide +kernel⟩
theorem test_witness_matrix_multiplies : let x := multiplying.myCore
    let k := command [0, 0, 0, 1, 0, 2, 0, 0, 128]
    (x.acc (pktAcc k.pkt)).full = true ∧ (x.matrix.bset (pktBset k.pkt)).loaded = true ∧ (x.matrix.bset (pktBset k.pkt)).fmt = x.matrix.bfmt ∧ pktSteps k.pkt ≤ (x.matrix.bset (pktBset k.pkt)).steps ∧ pktSteps k.pkt * stepElems x.matrix.afmt % min (groupOf x.matrix.afmt x.matrix.gsz) (groupOf x.matrix.bfmt 0) = 0 ∧ operandBad x.matrix.afmt x.matrix.gsz k.pkt = false ∧ x.operandIn x.matrix.afmt x.matrix.gsz k.pkt = false ∧ (x.matrix.bset (pktBset k.pkt)).poisoned = [] ∧ multiplying.poison = [] := by decide +kernel
/-- A refused drain whose CONS bit has emptied the bank. -/
theorem test_witness_refused_drain : (drained true).myCore.matrix.drains.map (fun d => (d.refused, d.left)) = [(true, 0)] ∧ pktCons (command [2, 0, 0, 8]).pkt = true ∧
    ((drained true).myCore.acc 0).full = false := by decide +kernel
theorem test_witness_matrix_completes : (drained false).myCore.matrix.drains.length = 1 ∧ imageAt (command [2]).pkt 24 8 = 0 ∧ (core5 fun k => { k with matrix := { queue := [⟨command [5], .done 5 none⟩] } }).myCore.matrix.fifo.length < 8 := by decide +kernel
/-- A group of one element, 1.0, of BF16. -/
def unitGroup : Group := { img := [1], cls := [.num false 1 0], unit := 0, d := 0, trunc := false, clamp := false }
theorem test_witness_squares : Sys2Proof.Claim.Finite unitGroup ∧ dot unitGroup.img unitGroup.img ≠ 0 ∧ (groupValue false unitGroup unitGroup 1).isSome = true ∧ fp32.dec false 0x3F800000 = .num false 0x800000 (-23) := by
  unfold Sys2Proof.Claim.Finite
  refine ⟨⟨fun v h => ?_, by decide +kernel⟩, by decide +kernel, by decide +kernel, by decide +kernel⟩
  simp only [unitGroup, List.mem_cons, List.not_mem_nil, or_false] at h
  exact ⟨false, 1, 0, h⟩
/-- A copy of 8 bytes from 0x400 to 0x500, and a stream over the record of `shape`. -/
def one8 (off : Nat) : Shape := ⟨BitVec.ofNat 256 ((own off).toNat + 2 ^ 64 + 2 ^ 80 + 2 ^ 96 + 2 ^ 112), 3⟩
def copying : Machine.Copy := { id := 9, slot := 0, asid := 3, sup := false, kd := one8 0x500, ks := one8 0x400, h := 5, hcore := 5, lines := 1 }
def copies : State := core5 fun k => { k with copies := [copying], copyq := [9] }
def stream5 : Machine.Stream := { id := 9, slot := 0, reg := 1, vec := false, shape := shape, h := 5, asid := 3, sup := false }
theorem test_witness_copy_events : Plain copies 5 ∧ min 64 (copying.kd.bytes - 0) = 8 ∧ joinRuns (copying.kd.runs 70 0 8) = [(own 0x500, 8)] ∧ copying.ks.runs 70 0 8 = [(own 0x400, 8)] ∧ (copying.touches 0).all isFabric = true ∧ InTile 5 (own 0x500) 8 ∧ InTile 5 (own 0x400) 8 := by
  unfold Plain InTile MemOk
  decide +kernel
/-- A page that has found no frame since 0, at 64 us. -/
def starving : State := { hub0 (fun h => { h with expanding := [⟨0x30, 0x105000, 5, stationOf 5, 3, 0x4000000000000000, some 0, [.translationRequest { src := ⟨5, 0, 4⟩, asid := 3, sup := false, addr := 0x4000000000000000, op := .load 8 }]⟩] }) with now := 64 * Config.us }
theorem test_witness_pool : (starving.hub 0).expanding.map (·.starved) = [some 0] ∧ 0 + 64 * Config.us ≤ starving.now := by decide +kernel
theorem test_witness_stream_events : stream5.fifo.length < stream5.depth ∧ stream5.fetched < stream5.total ∧ stream5.shape.runs 260 0 stream5.shape.size = [(own 0x400, stream5.shape.size)] := by decide +kernel
/-- A commit record at 0x600 with no bundle open, or with serial 7 open, committed 6. -/
def recordOf (opened : Nat) : State :=
  ((plainly.recordAt (own 0x600)).set 31 1 1 |>.set 32 24 6 |>.set 64 24 opened |>.set 88 8 (if opened = 0 then 0 else 1) |>.set 416 24 7 |> plainly.putRecord)
def opens (kind : BundleKind) : BundleReq := { src := asker, reg := 1, seq := 0, kind := kind, record := own 0x600, entry := 2, serial := 7, fr := 0, opener := true, write := true, asid := 3, sup := false }
theorem test_witness_bundle_events : let r := (recordOf 0).recordAt (own 0x600)
    let q := (recordOf 7).recordAt (own 0x600)
    Plain (recordOf 0) 5 ∧ Plain (recordOf 7) 5 ∧ r.crcOk = true ∧ r.opened = 0 ∧ r.high < 2 ^ 24 - 1 ∧ r.init = true ∧ r.committed ≠ 0 ∧ r.pinC + 1 < 2 ^ 32 ∧ q.crcOk = true ∧ q.opened = (opens .bcommit).serial ∧ q.writers = 1 ∧ q.lines = 0 := by
  unfold Plain MemOk
  decide +kernel
/-- Line 0 of a window at 0x1000, with serial 6 in slot 0 of bundle name 0. -/
def versioned : State := (core5 fun k => { k with vwin := [(0, 1 + 2 ^ 12 + 2 ^ 32)] }).setBytes (tileKey 5 0x1080) (natLe 16 (6 * 2 ^ 52))
/-- A view whose closing is under way, and one that the age rule may still fracture. -/
def aging (n : EntryNote) : State := core5 fun k => { k with views := [(2, 1)], notes := [(2, n)] }
theorem test_witness_view_age : field ((aging { closing := true }).myCore.view 2) 96 32 = 0 ∧ ((aging { closing := true }).myCore.notes.get {} 2).closing = true ∧ ((aging {}).myCore.notes.get {} 2).released = false ∧ ((aging {}).myCore.view 2).getLsbD 1 = false := by decide +kernel
theorem test_witness_versioned_lines : MemOk versioned ∧ (versioned.tilePlace 5 0x1000).line = some (tileKey 5 0x1000, 0) ∧ metaName (versioned.lineMeta (tileKey 5 0x1000)) = 0 ∧ serialOf versioned (tileKey 5 0x1000) 1 < serialOf versioned (tileKey 5 0x1000) 0 := by
  unfold MemOk
  decide +kernel
/-- A TCB of core 5 at 0x700 with this count and state. -/
def tcbAt (cnt state : Nat) : State := (core5 fun k => { k with sched := { ready := if state = 2 then [(0x700, 0, 5)] else [] } }).setBytes (tileKey 5 0x700) (natLe 16 (cnt + state * 2 ^ 16 + 5 * 2 ^ 32 + 3 * 2 ^ 49))
theorem test_witness_dispatch : (tcbAt 0 2).myCore.openSlot = some 1 ∧ Calm (tcbAt 0 2) 5 ∧ (tcbAt 0 2).myCore.sched.ready = [(0x700, 0, 5)] ∧ bitsOf ((tcbAt 0 2).tcb 5 0x700) 32 12 = 5 ∧ bitsOf ((tcbAt 0 2).tcb 5 0x700) 46 3 ≤ 4 ∧ bitsOf ((tcbAt 0 2).tcb 5 0x700) 92 4 = 0 ∧ (tcbAt 0 2).myCore.banksFor 0 = true := by
  unfold Calm MemOk
  decide +kernel
/-- A queued task whose STATE is none of R195's. -/
theorem test_witness_malformed : let s := (tcbAt 0 7).modMyCore fun k => { k with sched := { ready := [(0x700, 0, 5)] } }
    tcbState (s.tcb 5 0x700) = 7 ∧ s.myCore.sched.ready = [(0x700, 0, 5)] ∧ s.myCore.openSlot = some 1 ∧ Calm s 5 := by
  unfold Calm MemOk
  decide +kernel
theorem test_witness_decrement : tcbState ((tcbAt 2 1).tcb 5 0x700) = 1 ∧ tcbCnt ((tcbAt 2 1).tcb 5 0x700) = 2 ∧ tcbCnt ((tcbAt 1 1).tcb 5 0x700) = 1 ∧ Calm (tcbAt 1 1) 5 ∧ (tcbAt 1 1).anyPoison (tileKey 5 0x700) 16 = false ∧ (tcbAt 1 1).myCore.windowCause 0x700 16 = none ∧ (tcbAt 1 1).myCore.frozen = false ∧ versioned.myCore.windowCause 0x1000 16 = some 12 ∧ Keeps (tcbAt 1 1) 5 3 ∧ 1 < tcbState ((tcbAt 1 3).tcb 5 0x700) ∧ offsetOf (own 0x700) + 64 ≤ 2 ^ 20 := by
  unfold Calm MemOk Keeps
  decide +kernel
theorem test_witness_task_arming : tcbState ((tcbAt 2 0).tcb 5 0x700) = 0 ∧ tcbCnt ((tcbAt 0 0).tcb 5 0x700) = 0 ∧ bitsOf ((tcbAt 2 0).tcb 5 0x700) 49 14 = 3 ∧ bitsOf ((tcbAt 2 0).tcb 5 0x700) 96 32 < 2 ^ 20 ∧ Calm (tcbAt 2 0) 5 := by
  unfold Calm MemOk
  decide +kernel
def spawning : SpawnMsg := { src := ⟨5, 2, 4⟩, core := 5, pc := 0, nbank := 0, handler := false, asid := 3, flush := false, sup := false, args := [] }
theorem test_witness_spawns : Keeps plainly 5 3 ∧ (∀ x ∈ ({ plainly with agenda := [⟨0, .spawnRequest { spawning with src := ⟨5, 0, 4⟩ }⟩] } : State).agenda, x.at_ / Config.cycle = plainly.now / Config.cycle) ∧ plainly.agenda = [] ∧ plainly.myCore.openSlot = some 1 ∧ plainly.myCore.frozen = false ∧ plainly.myCore.halted = false ∧ plainly.myCore.banksFor 1 = true ∧ (plainly.myCore.slot 14).isOpen = true ∧ plainly.myCore.sched.spawns.length < 64 ∧ plainly.myCore.service.length < 64 ∧ plainly.myCore.handler = none ∧ plainly.myCore.banksFor 3 = true := by
  unfold Keeps
  decide +kernel
/-- A request before the last instant of its cycle, at it, and behind one of a lower slot. -/
def atCycleEnd : State := { plainly with now := plainly.cycleEnd }
theorem test_witness_spawn_order : plainly.now < plainly.cycleEnd ∧ atCycleEnd.now = atCycleEnd.cycleEnd ∧ Keeps atCycleEnd 5 3 ∧ atCycleEnd.agenda = [] ∧
    ({ atCycleEnd with agenda := [⟨4, .spawnRequest { spawning with src := ⟨5, 0, 4⟩ }⟩] } : State).agenda.length = 1 ∧ 4 / Config.cycle = atCycleEnd.now / Config.cycle ∧
    (here { thread with throttled := true }).me.throttled = true := by
  unfold Keeps
  decide +kernel
theorem test_witness_banks_and_clocks : ((core5 fun k => { k with banks := [(1, { rising := some 0 })] }).myCore.bank 1).rising = some 0 ∧ (plainly.myCore.bank 0).rising = none ∧ plainly.busy 5 = true ∧ (core5 fun k => { k with slots := [] }).busy 5 = false ∧ (core5 fun k => { k with banks := [(1, { holder := some 0, clears := some 0 })] }).now = 0 ∧ (core5 fun k => { k with slots := [] }).myCore.running = true := by decide +kernel
theorem test_witness_owed_banks : plainly.myCore.owedBanks 0x101 ≤ plainly.now ∧ ((core5 fun k => { k with banks := [(1, { rising := some 0 })] }).myCore.bank 1).rising = some 0 := by decide +kernel
def admitting : State := core5 fun k => { k with admitList := [(0, 0x8003)] }
def image : List Byte := thread.image fun n => (thread.reg n).full
theorem test_witness_images : imageOk image = true ∧ admitting.myCore.gate 5 (({} : Slot).load image).asid (({} : Slot).load image).sup = .pass ∧ plainly.myCore.gate 5 3 false = .refused ∧ admitting.myCore.openSlot = some 1 ∧ Calm admitting 5 := by
  unfold Calm MemOk
  decide +kernel
/-- A gang record that can be read, and one in a versioned window. -/
theorem test_witness_barrier : plainly.readCause 5 (offsetOf (own 0x800)) 64 = none ∧ plainly.myCore.frozen = false ∧ plainly.anyPoison (tileKey 5 0x800 + 64) 48 = false ∧
    ((core5 fun k => { k with vwin := [(0, 1 + 2 ^ 12 + 2 ^ 32)] }).readCause 5 0x1000 64).isSome = true := by decide +kernel
/-- A population of two members whose FITs are full, or not. -/
def population (phase : Nat) (fit : BitVec 33) : State := (hub0 fun h => { h with pops := [(1, { configured := true, members := [{ core := 5 }], phase := phase, desc := List.replicate 64 0 })] }).modMyCore fun k => { k with fit := fit }
/-- A replacement whose record is at 0x600, not ready, and one whose abort is due. -/
def replacing (abort : Option Bool) (ready : Bool) : State := (population 3 0).modHub 0 fun h => { h with pops := [(1, { configured := true, members := [{ core := 5 }], phase := 3, desc := List.replicate 64 0, asid := 3, children := [(0, { child := 5, parent := 5, pfit := 0, cfit := 0, serial := 7, kind := 0, seed := 0, sigma := 0, gen := 0, desc := List.replicate 64 0, asid := 3, abort := abort, ready := ready })] })] }
theorem test_witness_replacement : (((replacing none false).pop 0 1).children.find? fun x => x.1 == 0).map (fun x => (x.2.ready, x.2.abort, x.2.fault.isNone)) = some (false, none, true) ∧ (((replacing (some true) false).pop 0 1).children.find? fun x => x.1 == 0).map (·.2.abort) = some (some true) ∧ (((replacing none true).pop 0 1).children.find? fun x => x.1 == 0).map (·.2.ready) = some true ∧ ((replacing none true).pop 0 1).nextLog = 0 ∧ (replacing none false).homeNow 5 3 = 5 := by decide +kernel
/-- One whose bundle opens still; a ring page that no stall holds up. -/
theorem test_witness_lineage : ((replacing none true).stalledAt 5 3 [(0, 64, 0)] (.popLineageAppend 0 1 0)) = none ∧
    ({ child := 5, parent := 5, pfit := 0, cfit := 0, serial := 7, kind := 0, seed := 0, sigma := 0, gen := 0, desc := [], asid := 3, opening := true } : PopChild).opening = true := by decide +kernel
theorem test_witness_population : (population 1 0x100000001).homeNow 5 0 = 5 ∧ (population 1 0).myCore.frozen = false ∧ ((population 1 0x100000001).pop 0 1).phase = 1 ∧ ((population 1 0x100000001).pop 0 1).members.all (fun m => ((population 1 0x100000001).core m.core).fit.getLsbD 32) = true ∧ ((population 1 0).pop 0 1).members.any (fun m => !((population 1 0).core m.core).fit.getLsbD 32) = true ∧ ((population 2 0).pop 0 1).losers ≤ ((population 2 0).pop 0 1).members.length := by decide +kernel
/-- A launch of one member, slot 1 of core 5, whose record is at 0x800. -/
def launch : Launch := { record := own 0x800, tick := 5000, asid := 3, flush := false, hb := 5, wake := 0, members := [{ core := 5, slot := 1 }] }
def launching : State := (admitting.modHub 0 fun h => { h with launches := [(7, launch)] }).setBytes (tileKey 5 0x840) (natLe 4 (5 + 2 ^ 18))
theorem test_witness_gangs : ((launching.hub 0).launch? 7) = some launch ∧ (launch.member 0).core = 5 ∧ launch.count = 1 ∧ launch.hubs.length = 1 ∧ ((launching.core 5).slot 1).isOpen = true ∧ (launching.core 5).banksFor 0 = true ∧ (launching.core 5).lists 3 = true ∧ launching.handleBusy 5 5 = false ∧ ((launching.core 5).handle 5).arr = 0 ∧ launching.timeOf 0 + 2000 < launch.tick ∧ Calm launching 5 ∧ launch.decided = false := by
  unfold Calm MemOk
  decide +kernel
theorem test_witness_gang_frozen : ((launching.modCore 5 fun k => { k with frozen := true }).core 5).frozen = true ∧ launching.homeNow 5 3 = 5 := by decide +kernel
/-- A context operation on slot 0, whose area is at 0x1000. -/
def context (t : Slot) (since : Option Nat) : State := (here t).modMyCore fun k => { k with ctxarea := own 0x1000, ctxop := some { asker := none, since := since } }
theorem test_witness_context : (context thread none).myCore.ctxSlot = 0 ∧ thread.resident = true ∧ (context thread none).area 5 2048 = some (5, 0x1000) ∧ (context thread (some 0)).myCore.executing 0 = false ∧ (context thread (some 0)).myCore.waitsFor 0 = [] ∧ Calm (context thread (some 0)) 5 ∧ (context thread none).myCore.holdsEntry 0 = false ∧ ((here thread).area 5 2048).isNone = true := by
  unfold Calm MemOk
  decide +kernel
/-- A thread that a held access keeps may be killed. -/
theorem test_witness_kill_held : (here { thread with st := .held, why := .access }).me.st = .held ∧ (here { thread with st := .held, why := .access }).me.out = [] ∧ thread.saved = false ∧ thread.task = false := by decide +kernel
theorem test_witness_context_restore : let b := (context { thread with saved := true, st := .free } none).bytes (tileKey 5 0x1000) 2048
    imageAt b 160 1 = 0 ∧ imageAt b 161 1 % 16 = 0 ∧ areaOk b = true ∧ (context { thread with saved := true, st := .free } none).anyPoison (tileKey 5 0x1000) 2048 = false := by decide +kernel
theorem test_witness_hub_serves : ((population 1 0).hub 0).pops.length = 1 ∧ (((population 1 0).hub 0).pop 1).configured = true ∧ (((population 1 0).hub 0).pop 1).asid ≠ 3 ∧ (((population 1 0).hub 0).pop 2).configured = false := by decide +kernel
theorem test_witness_hub_answers : Asked (waitsOn holding) asker holding ∧ holding.jrn = none ∧ ((waitsOn holding).me.reg 1).mode = 0 ∧ ((waitsOn holding).me.reg 1).pend = true ∧ (waitsOn holding).me.traph = false := by
  unfold Asked
  decide +kernel
def wired : State := { hub0 (fun h => { h with links := (2, { en := true }) :: h.links }) with wiring := [(2, 18)] }
/-- The same with the peer's end enabled. -/
def paired : State := wired.modHub 1 fun h => { h with links := (2, { en := true }) :: h.links }
theorem test_witness_routes_and_links : wired.linkPeer 0 2 = some (1, 2) ∧ ((wired.hub 0).link 2).up = false ∧ ((wired.hub 0).link 2).training = false ∧ ((wired.hub 0).link 2).en = true ∧ ((paired.hub 1).link 2).en = true ∧ ((plainly.hub 0).link 16).up = true ∧ ((plainly.hub 0).link 16).lost < 6 ∧ ((hub0 fun h => { h with links := [(16, { lost := 6 })] }).hub 0).link 16 = { lost := 6 } ∧ ((hub0 fun h => { h with peers := [(1, { lostAt := some 0 })] }).hub 0).livePaths 1 = [] ∧ (plainly.hubs.all fun e => !e.2.tmaster) = true := by decide +kernel
/-- The last acting master; a bridge with one module down that trains again. -/
theorem test_witness_master_and_modules : ((hub0 fun h => { h with tmaster := true }).hubs.all fun e => e.1 == 0 || !e.2.tmaster) = true ∧ (1 : Word).getLsbD 0 = true ∧ (0 : Word).getLsbD 0 = false ∧
    ((hub0 fun h => { h with links := [(16, { up := true, lost := 1 })] }).hub 0).link 16 = { up := true, lost := 1 } := by decide +kernel
/-- A lost peer with a request and an answer that it did not acknowledge. -/
def lonely : State := { (hub0 fun h => { h with peers := [(1, { lostAt := some 0, unacked := [⟨3, 0, .remoteRead 8197 (request (.load 8)), 1, 0, none, none, 1⟩] })] }) with now := Config.ms }
theorem test_witness_lost_peer : ((lonely.hub 0).peer 1).lostAt = some 0 ∧ (lonely.hub 0).livePaths 1 = [] ∧ 0 + Config.ms ≤ lonely.now ∧
    (∀ u ∈ ((lonely.hub 0).peer 1).unacked, isLine u.ev = false) ∧ ((lonely.hub 0).peer 1).held = [] := by decide +kernel
theorem test_witness_time_base : (plainly.hub 0).power ≠ .off ∧ (plainly.hub 0).time < 2 ^ 63 ∧ (∀ n, n < 16 → ((plainly.hub 0).link n).up = false) ∧ (plainly.hub 0).slew = 0 ∧ plainly.hub 0 ≠ {} ∧ ({ (hub0 fun h => { h with links := [(2, { up := true })] }) with wiring := [(2, 18)] } : State).linkPeer 0 2 = some (1, 2) := by decide +kernel
theorem test_witness_reassembly : (plainly.core 6).reasm.length < 4 ∧ ((core5 fun k => { k with outbox := [⟨9, 6, 3, .dispatch 6⟩] }).myCore.outbox.find? fun m => m.token == 9).isSome = true ∧ devOf 5 = devOf 6 := by decide +kernel
theorem test_witness_router : (plainly.router 5).kept = [] ∧ ({ dst := 5, router := 5, src := 6, type := 18, ev := .dispatch 5 } : Flit).type = 18 ∧ ({ dst := 5, router := 5, src := 6, ev := .dispatch 5 } : Flit).zeros = 0 ∧ (plainly.router 5).inputs = [] ∧ (plainly.router 5).inject = [] ∧ plainly.delays = [] ∧ productive 5 6 = [1] ∧ crossesDie 5 1 = false := by decide +kernel
theorem test_witness_bridges : let l : Link := { up := true, chans := [(7, { flits := [⟨21, 0, { dst := 5, router := 5, src := 6, ev := .dispatch 5 }⟩] })] }
    (l.channel 3 true).flits.length = 1 ∧ (l.channel 3 true).syncing = 0 ∧ (plainly.router (21 / 4)).inputs.has 5 = false := by decide +kernel
/-- A chip link with a peer, and a bridge, which has none; a device that is not the link's own peer. -/
theorem test_witness_link_ends : wired.linkPeer 0 2 = some (1, 2) ∧ (1 : Nat) ≠ 0 ∧ plainly.linkPeer 0 16 = none ∧ ((plainly.hub 0).link 16).chans = [] := by decide +kernel
/-- A frame for device 1 on the wire of link 2, which is up; and a message not acknowledged. -/
def frame : Frame := { src := 0, dst := 1, seq := 3, path := 0, ev := .dispatch 8197, token := none }
def framed : State := hub0 fun h => { h with links := (2, { up := true, chans := [(1, { wire := [frame] })] }) :: h.links, peers := [(1, { unacked := [⟨3, 0, .dispatch 6, 1, 0, none, none, 1⟩] })] }
theorem test_witness_device_messages : ((framed.hub 0).link 2).up = true ∧ frame.dst ≠ 0 ∧ frame.due ≤ framed.now ∧ frame.part = (0, 1) ∧ ((framed.hub 1).livePaths 0 = [] ∧ framed.peerLink 1 0 = none) ∧ ((framed.hub 0).link 2).out.wire = [frame] ∧ ((framed.hub 0).link 2).out.frames = [] ∧ framed.delays = [] ∧ ((framed.hub frame.dst).peer frame.src).highest = none ∧ ((framed.hub frame.dst).peer frame.src).got = [] ∧ (((framed.hub 0).peer 1).unacked.find? fun u => u.seq == 3).isSome = true ∧ ((framed.hub 0).peer 1).held = [] ∧ (framed.hub 0).livePaths 1 = [] ∧ isAnswer (.dispatch 6) = false := by decide +kernel
/-- Translation is on, with one leaf that may be read in the buffer of core 5's station. -/
def translating : State := hub0 fun h => { h with xltRoot := 1, tlb := [⟨stationOf 5, 3, 1, false, 1, 0x2000⟩] }
/-- Tables of ASID 3, whose first page lies in frame 0x300000. -/
def walked : State :=
  [(0x100018, 0x101001), (0x101000, 0x102001), (0x102000, 0x103001), (0x103000, 0x104001), (0x104000, 0x105001), (0x105000, 0x300003)].foldl
    (fun s x => s.setBytes (hbmKey 0 x.1) (natLe 8 x.2)) (hub0 fun h => { h with xltRoot := 0x100001 })
theorem test_witness_walk : (walked.fullWalk 0 3 0x10 false).isSome = true ∧ (walked.hub 0).pages = [] ∧ (walked.hub 0).compressed = [] ∧ (walked.hub 0).tlb = [] ∧ MemOk walked := by
  unfold MemOk
  decide +kernel
theorem test_witness_translation : (plainly.hub 0).xltRoot.getLsbD 0 = false ∧ (translating.hub 0).xltRoot.getLsbD 0 = true ∧ (translating.hub 0).compressed = [] ∧ ((translating.hub 0).buffered (stationOf 5) 3 0x10000).isSome = true ∧ ((translating.hub 0).buffered (stationOf 5) 3 0x20000).isNone = true ∧ (1 : Word).getLsbD 2 = false := by decide +kernel
theorem test_witness_hbm : (match plainly.performAt (hbmPlace 0 0x1000 0) 3 (.load 8) with | .done _ v _ _ => v == 0 | _ => false) = true ∧ (plainly.hub 0).hbmWaiting = [] ∧ (plainly.hub 0).lost = [] ∧ (hbmPlace 0 0x1000 0).live = true ∧ (plainly.hub 0).lineBufs = [] ∧ (match plainly.performAt (hbmPlace 0 0x1000 0) 3 (.store 8 1) with | .done t _ _ _ => (t.hub 0).hbmWaiting.isEmpty | _ => false) = true ∧ (plainly.hub 0).pool = [] ∧ ((plainly.hub 0).expanding.find? fun e => e.frame == 4).isNone = true ∧ (plainly.performAt (hbmPlace 0 0x1000 0) 3 (.loadFull 8) matches .wait | .done _ _ _ _) = true := by decide +kernel
/-- A page that waits for its expansion, with a free frame; and a store whose line two stations have buffered. -/
def stalled : State := hub0 fun h => { h with expanding := [⟨0x30, 0x105000, 5, stationOf 5, 3, 0x4000000000000000, none, [.dispatch 5]⟩], pool := [0x50] }
def owing : State := (here { thread with out := [{ id := 7, addr := 0, home := .device, done := true, owed := 2 }] }).modHub 0 fun h => { h with lineBufs := [⟨1, 5, [], [7]⟩, ⟨2, 5, [], [7]⟩] }
theorem test_witness_expansion : ((stalled.hub 0).expanding.find? fun e => e.frame == 0x30).isSome = true ∧ (stalled.expand 0 0 0x105000 false).isSome = true ∧ (owing.accOf ⟨5, 0, 7⟩).map (·.owed) = some 2 ∧ (owing.accOf ⟨5, 0, 7⟩).map (·.done) = some true := by decide +kernel
/-- The same page with a leaf that names its frame, which is compressed; and without a free frame. -/
def resting (pool : List Nat) : State := (stalled.modHub 0 fun h => { h with compressed := [0x30], pool := pool }).setBytes (hbmKey 0 0x105000) (natLe 8 (0x300000 + 3 + 8))
theorem test_witness_expansion_rests : let leaf := (resting [0x50]).value (hbmKey 0 0x105000) 8
    leafFrame leaf / 2 ^ 16 = 0x30 ∧ ((resting [0x50]).hub 0).isCompressed leaf = true ∧ ((resting [0x50]).expand 0 leaf 0x105000 false).isSome = true ∧ ((resting []).hub 0).pool = [] ∧
    (stalled.hub 0).isCompressed (stalled.value (hbmKey 0 0x105000) 8) = false := by decide +kernel
theorem test_witness_line_errors : (plainly.hub 0).lost.contains 4 = false ∧ plainly.canRebuild 0 4 true = true ∧ plainly.canRebuild 0 4 false = false ∧ (plainly.requestTo 0 4).isNone = true ∧ ((hub0 fun h => { h with lastWrite := [(4, 0)] }).hub 0).lastWrite.has 4 = true ∧ plainly.poisoned (tileKey 5 0x40) = false ∧ (plainly.core 5).traps.count < 32 ∧ (plainly.slot 5 0).st ≠ .free := by decide +kernel
/-- A line written at 0 whose page is not-live, and one whose page is guarded. -/
def ageing (attr : Nat) : State := (walked.setBytes (hbmKey 0 0x105000) (natLe 8 (0x300003 + 8 * attr))).modHub 0 fun h =>
  { h with lastWrite := [(0xC000, 0)], pages := [{ at_ := 0x105000, frame := 0x300000, span := 0x10000, asid := 3, va := 0 }] }
theorem test_witness_not_live : (ageing 3).attrOf 0 0xC000 = 3 ∧ (ageing 0).attrOf 0 0xC000 ≠ 3 ∧ ((ageing 3).hub 0).hbmWaiting = [] ∧ MemOk (ageing 3) ∧
    (ageing 3).notLivePages 0 ≠ [] := by
  unfold MemOk
  decide +kernel
theorem test_witness_boot : MemOk plainly ∧ (plainly.hub 0).flash.length ≤ 0xFE000 ∧ (plainly.hub 0).config.length ≤ 8192 ∧ plainly.hubs.has (imageAt (plainly.hub 0).config 0 1 % 64) = true ∧ plainly.hubs.has (imageAt ((hub0 fun h => { h with config := [5] }).hub 0).config 0 1 % 64) = false := by
  unfold MemOk
  decide +kernel
/-- A package whose block names another device that has booted already, and one whose block names a device that has not. -/
def named5 (boot : Nat) : State := { (hub0 fun h => { h with config := [5] }) with hubs := (hub0 fun h => { h with config := [5] }).hubs ++ [(5, { boot := boot })] }
theorem test_witness_renumbering : imageAt (((named5 4).hub 0).config ++ List.replicate 4096 0) 0 1 % 64 = 5 ∧ (named5 4).hubs.has 5 = true ∧ 1 < ((named5 4).hub 5).boot ∧ ¬ 1 < ((named5 0).hub 5).boot ∧
    MemOk (named5 0) := by
  unfold MemOk
  decide +kernel
theorem test_witness_resets : MemOk plainly ∧ Listed plainly ∧ (plainly.hub 0).power ≠ .off ∧ ((hub0 fun h => { h with power := .off }).hub 0).power = .off := by
  unfold MemOk Listed
  decide +kernel
theorem test_witness_power : (plainly.hub 0).power = .active ∧ (plainly.hub 0).measured = true ∧ (plainly.hub 0).formM = false ∧ 3000 * ((4000 :: (plainly.hub 0).samples).take 100).length < ((4000 :: (plainly.hub 0).samples).take 100).sum ∧ (List.replicate 48 (7 : Byte)).length = 48 ∧ ((hub0 fun h => { h with belowFor := 99 }).hub 0).belowFor = 99 ∧ ((hub0 fun h => { h with power := .off }).hub 0).power = .off := by decide +kernel

end Sys2Proof.Tests
end

section
/-!
PROOFS. What a read of the state's memory gives after a write of bytes (spec/00 R5).
-/

namespace Sys2Proof.Machine

theorem State.bytes_setBytes_same {s : State} (a : Nat) (bs : List Byte) (h : MemOk s) : (s.setBytes a bs).bytes a bs.length = bs :=
  memRead_memWrite_same a bs h

theorem State.memByte_setBytes_other {s : State} (a b : Nat) (bs : List Byte) (h : MemOk s) (hb : b < a ∨ a + bs.length ≤ b) :
    memByte (s.setBytes a bs).mem b = memByte s.mem b :=
  memByte_memWrite_other a b bs h hb

/-- Settles O7: the canonical form carries the memory laws of a byte list over to the state. -/
theorem memoryReadsWhatWasWritten : Obligations.MemoryReadsWhatWasWritten :=
  fun _ a bs h => ⟨State.bytes_setBytes_same a bs h, fun b hb => State.memByte_setBytes_other a b bs h hb⟩

end Sys2Proof.Machine
end

section
/-!
PROOFS. A step runs the instruction at the program counter, or the event that is due; and what a fetch that fails does (spec/02 R20, R24, R218, R220, R363).
-/

open Sys2Proof Sys2Proof.Machine Sys2Proof.Claim

namespace Sys2Proof.Machine

/-- A change of a core that leaves its slots leaves every thread. -/
theorem State.slot_modCore_of_slots {s : State} {c : Nat} {f : Core → Core} (h : (f (s.core c)).slots = (s.core c).slots) (d n : Nat) :
    (s.modCore c f).slot d n = s.slot d n := by
  by_cases hd : d = c
  · subst hd
    simp only [State.slot, State.core_modCore_same, Core.slot, h]
  · simp only [State.slot, State.core_modCore_other _ _ _ _ hd]

@[simp] theorem State.takeTurn_slot (s : State) (c d n m : Nat) (wide : Bool) : (s.takeTurn c n wide).slot d m = s.slot d m :=
  State.slot_modCore_of_slots (s := s.usePort c wide) rfl d m

@[simp] theorem State.countHandler_slot (s : State) (c d n m : Nat) : (s.countHandler c n).slot d m = s.slot d m := by
  unfold State.countHandler
  split
  · exact State.slot_modCore_of_slots rfl d m
  · rfl

/-- Readying a slot leaves its program counter. -/
theorem readied_pc (s : State) (c n : Nat) (i : Instr) (next : Nat) (pair : Bool) :
    ((readied s c n i next pair).slot c n).pc = (s.slot c n).pc := by
  show ((((s.takeTurn c n (isWide i)).countHandler c n).modSlot c n fun x => x.startIssue (s.slot c n).pc).slot c n).pc = _
  rw [State.slot_modSlot_same, State.countHandler_slot, State.takeTurn_slot]
  rfl

/-- A turn that issues a slot whose words decode runs that instruction on the readied state. -/
theorem issueSlot_decoded {s t : State} {c n next : Nat} {i : Instr} {pair : Bool} (run : Run) (hn : s.nextOf c n = .ok (i, next))
    (hs : (s.core c).handlerSpent n = false) (ht : run i (readied s c n i next pair) = .next t) :
    s.issueSlot run c n pair = .next (issuedBy (readied s c n i next pair) t c n next i) := by
  have hr : readied s c n i next pair =
      (let r := { ((s.takeTurn c n (isWide i)).countHandler c n).modSlot c n (fun x => x.startIssue (s.slot c n).pc) with
        cur := ⟨c, n, (s.slot c n).pc, next⟩ }
       if pair && (s.slot c n).rose != some (s.slot c n).pc then { r with turns := ⟨c, .pair, n⟩ :: r.turns } else r) := by
    unfold readied
    cases (pair && (s.slot c n).rose != some (s.slot c n).pc) <;> rfl
  unfold State.issueSlot issuedBy
  simp only [hs, hn, Bool.false_eq_true, if_false, ← hr, ht, readied_pc]

/-- A turn whose fetch fails takes the exact trap in the instruction's place. -/
theorem issueSlot_trapped {s : State} {c n : Nat} {pair : Bool} {e : NoInstr} (run : Run) (hn : s.nextOf c n = .error e)
    (hs : (s.core c).handlerSpent n = false) :
    s.issueSlot run c n pair = .next ((s.takeTurn c n false).takeTrap c n (s.slot c n).pc e.cause e.addr e.aux) := by
  unfold State.issueSlot
  simp only [hs, hn, Bool.false_eq_true, if_false]

/-- A step with a turn left takes it. -/
theorem step_turn {s : State} {t : Turn} {ts : List Turn} (h : s.turns = t :: ts) : step s = ({ s with turns := ts } : State).turn exec t := by
  simp only [step, State.stepBy, h]

/-- A step with no turn left and an event that is due takes the event. -/
theorem step_event {s : State} {d : Due} {ds : List Due} (ht : s.turns = []) (ha : s.agenda = d :: ds) (hd : d.at_ ≤ s.now) :
    step s = ({ s with agenda := ds } : State).takeEvent exec d.ev := by
  simp only [step, State.stepBy, ht, ha, hd, if_true]

/-- The owner's turn issues its slot where nothing keeps it. -/
theorem turn_owner {s : State} {c n next : Nat} {i : Instr} (run : Run) (hh : (s.core c).halted = false)
    (hn : (s.modSlot c n fun x => { x with yielded := false }).nextOf c n = .ok (i, next))
    (hi : ((s.modSlot c n fun x => { x with yielded := false }).slot c n).canIssue = true)
    (hp : (s.modSlot c n fun x => { x with yielded := false }).produced c n i = true)
    (hd : (s.modSlot c n fun x => { x with yielded := false }).mustDefer c i (s.hasTurn c .fillWide) = false)
    (hd' : n ∉ ((s.modSlot c n fun x => { x with yielded := false }).core c).issued) :
    s.turn run ⟨c, .owner, n⟩ = (s.modSlot c n fun x => { x with yielded := false }).issueSlot run c n (!(modsOf i).sw) := by
  have hc : (((s.modSlot c n fun x => { x with yielded := false }).core c).issued.contains n) = false := by simpa using hd'
  simp only [State.turn, hh, hn, hi, hp, hd, hc, Bool.not_true, Bool.or_false, Bool.false_eq_true, if_false]

theorem claim_issueRunsTheDecodedInstruction : Claim.IssueRunsTheDecodedInstruction :=
  fun _ _ _ _ _ _ _ hn hs ht => issueSlot_decoded exec hn hs ht

theorem claim_stepRunsTheDecodedInstruction : Claim.StepRunsTheDecodedInstruction := by
  intro s t c n next i ts hts hh hn hi hp hd hs hnot ht
  rw [step_turn hts]
  refine (turn_owner (s := { s with turns := ts }) exec hh hn hi hp hd hnot).trans ?_
  exact issueSlot_decoded exec hn hs ht

/-- Where a forwarded message goes depends on the cores alone. -/
theorem State.homeNow_congr {s t : State} (hc : t.cores = s.cores) (c asid : Nat) : t.homeNow c asid = s.homeNow c asid := by
  have core : ∀ c, t.core c = s.core c := fun c => by rw [State.core, hc, State.core]
  have go : ∀ n c, t.forwarded asid n c = s.forwarded asid n c := by
    intro n
    induction n with
    | zero => intro c; rfl
    | succ n ih => intro c; simp only [State.forwarded, core, ih]
  rw [State.homeNow, State.homeNow, go, hc]

/-- What an event needs, and so whether a reset loses it, depends on the cores and the hubs alone. -/
theorem State.lostInReset_congr {s t : State} (hc : t.cores = s.cores) (hh : t.hubs = s.hubs) (e : Event) : t.lostInReset e = s.lostInReset e := by
  have core : ∀ c, t.core c = s.core c := fun c => by rw [State.core, hc, State.core]
  have hub : ∀ d, t.hub d = s.hub d := fun d => by rw [State.hub, hh, State.hub]
  simp only [State.lostInReset, State.needs, State.homeNow_congr hc, core, hub]

/-- The bank that an event asks depends on the cores alone. -/
theorem State.bankOf_congr {s t : State} (hc : t.cores = s.cores) (e : Event) : t.bankOf e = s.bankOf e := by
  have core : ∀ c, t.core c = s.core c := fun c => by rw [State.core, hc, State.core]
  simp only [State.bankOf, State.engineAsk, State.homeNow_congr hc, core]

theorem claim_stepPerformsTheDueEvent : Claim.StepPerformsTheDueEvent := by
  intro s d ds ht ha hd
  have hlost : ∀ g, ({ s with agenda := ds, granted := g } : State).lostInReset d.ev = s.lostInReset d.ev := by
    intro g; apply State.lostInReset_congr <;> rfl
  have hbank : ({ s with agenda := ds } : State).bankOf d.ev = s.bankOf d.ev := by apply State.bankOf_congr; rfl
  simp only [step_event ht ha hd, State.takeEvent, hbank, hlost]
  refine ⟨fun hl hb => ?_, fun a hl hb hg => ?_, fun hl => by simp [hl]⟩
  · have hasks : (s.bankOf d.ev).filter (fun _ => !s.granted.contains d.ev) = none := by
      rcases hb with hb | hb
      · rw [hb]; rfl
      · cases s.bankOf d.ev <;> simp [hb]
    simp only [hl, hasks, Bool.false_eq_true, if_false]
  · simp [hl, hb, hg, Option.filter]

/-- Settles O2, from what a turn that issues and an event that is due do. -/
theorem stepRunsTheDecodedInstruction : Obligations.StepRunsTheDecodedInstruction :=
  ⟨claim_issueRunsTheDecodedInstruction, claim_stepRunsTheDecodedInstruction, claim_stepPerformsTheDueEvent⟩

/-- A control transfer has left the code slice, for a granule that is poisoned (R230, R422). -/
def strayedToPoison : State :=
  { State.reset.modSlot 0 0 fun t => { t with pc := 2 ^ 16, strayed := some (2 ^ 16) } with poison := [cellKey (tileKey 0 (2 ^ 16))] }

/-- Its fetch trap is the one of the code slice, cause 2 (R406). -/
theorem strayedToPoison_fetch : strayedToPoison.nextOf 0 0 = .error ⟨2, BitVec.ofNat 64 (2 ^ 16), 0⟩ := by decide +kernel

/-- Refutes O3: a transfer out of the code slice takes cause 2 (R230) before the poison of its target is looked at, where the statement asks for cause 29. -/
theorem not_fetchTraps : ¬ Obligations.FetchTraps := by
  intro h
  obtain ⟨-, hpoison, -⟩ := h strayedToPoison 0 0 false (by decide +kernel)
  have ht := hpoison (by decide +kernel) (by decide +kernel)
  rw [issueSlot_trapped exec strayedToPoison_fetch (by decide +kernel)] at ht
  have hrec := congrArg (fun o => match o with
    | Host.Outcome.next t => field ((t.core 0).traps.ring.get 0 0) 0 6
    | _ => 0) ht
  exact absurd hrec (by decide +kernel)

end Sys2Proof.Machine
end

section
/-!
PROOFS. Reading and writing scalar registers, what a scalar result leaves, when the scalar forms stop, and the switch marker (spec/02 R22 to R33).
-/

open Sys2Proof Sys2Proof.Machine Sys2Proof.Claim

namespace Sys2Proof.Machine

/-! ## Outside the issuing thread -/

@[simp] theorem State.me_modMyCore_setSlots {s : State} {f : Core → Core} (h : (f s.myCore).slots = s.myCore.slots) : (s.modMyCore f).me = s.me :=
  State.slot_modCore_of_slots h _ _

theorem outside_refl (s : State) : Outside s s :=
  ⟨fun _ => rfl, rfl, rfl, rfl, rfl, rfl, rfl, rfl, fun _ _ => rfl, rfl, fun _ _ => rfl⟩

theorem outside_trans {s t u : State} (h : Outside s t) (g : Outside t u) : Outside s u := by
  obtain ⟨h1, h2, h3, h4, h5, h6, h7, h8, h9, h10, h11⟩ := h
  obtain ⟨g1, g2, g3, g4, g5, g6, g7, g8, g9, g10, g11⟩ := g
  rw [h8] at g9 g11
  exact ⟨fun a => (g1 a).trans (h1 a), g2.trans h2, g3.trans h3, g4.trans h4, g5.trans h5, g6.trans h6, g7.trans h7, g8.trans h8,
    fun c hc => (g9 c hc).trans (h9 c hc), g10.trans h10, fun n hn => (g11 n hn).trans (h11 n hn)⟩

theorem outside_modMe (s : State) (f : Slot → Slot) : Outside s (s.modMe f) :=
  ⟨fun _ => rfl, rfl, rfl, rfl, rfl, rfl, rfl, rfl, fun _ hc => State.core_modCore_other _ _ _ _ hc, by rw [State.myCore_modMe]; rfl,
    fun _ hn => State.slot_modSlot_other _ _ _ _ _ _ (.inr hn)⟩

theorem outside_modMyCore {s : State} {f : Core → Core} (ho : others (f s.myCore) = others s.myCore) (hs : (f s.myCore).slots = s.myCore.slots) :
    Outside s (s.modMyCore f) :=
  ⟨fun _ => rfl, rfl, rfl, rfl, rfl, rfl, rfl, rfl, fun _ hc => State.core_modCore_other _ _ _ _ hc,
    by rw [State.myCore_modMyCore, ho], fun n _ => State.slot_modCore_of_slots hs _ n⟩

theorem outside_after {s t : State} (d : Nat) (ev : Event) (h : Outside s t) : Outside s (t.after d ev) := h

/-! ## Links and streams -/

@[simp] theorem Core.linkEnd_setLinkEnd_same (k : Core) (d : Nat) (e : LinkEnd) : (k.setLinkEnd d e).linkEnd d = e := Table.get_put_same _ _ _ _

@[simp] theorem State.me_pushLink (s : State) (n dir : Nat) (v : Word) : (s.pushLink s.cur.core n dir v).me = s.me :=
  State.me_modMyCore_setSlots (f := fun k => k.setLinkEnd dir { k.linkEnd dir with used := (k.linkEnd dir).used + 1 }) rfl

@[simp] theorem State.me_popLink (s : State) (dir : Nat) : (s.popLink s.cur.core dir).me = s.me :=
  State.me_modMyCore_setSlots (f := fun k => k.setLinkEnd dir { k.linkEnd dir with fifo := (k.linkEnd dir).fifo.tail }) rfl

@[simp] theorem State.me_popStream (s : State) (x : Stream) : (s.popStream s.cur.core x).me = s.me := by
  have h := State.me_modMyCore_setSlots (s := s)
    (f := fun k => k.modStream x.id fun y => { y with fifo := y.fifo.tail, popped := y.popped + 1 }) rfl
  unfold State.popStream
  split <;> exact h

theorem State.pushLink_eq (s : State) (n dir : Nat) (v : Word) : s.pushLink s.cur.core n dir v =
    (s.modMyCore fun k => k.setLinkEnd dir { k.linkEnd dir with used := (k.linkEnd dir).used + 1 }).after
      ((if crossesDie s.cur.core dir then 20 else 3) * Config.cycle)
      (.linkWord (neighbour s.cur.core dir) (opposite dir) v (s.slot s.cur.core n).asid ⟨s.cur.core, n, 0⟩) := rfl

theorem State.popLink_eq (s : State) (dir : Nat) : s.popLink s.cur.core dir =
    (s.modMyCore fun k => k.setLinkEnd dir { k.linkEnd dir with fifo := (k.linkEnd dir).fifo.tail }).after
      ((if crossesDie s.cur.core dir then 4 else 1) * Config.cycle) (.linkCreditReturn (neighbour s.cur.core dir) (opposite dir)) := rfl

@[simp] theorem State.myCore_after (s : State) (d : Nat) (ev : Event) : (s.after d ev).myCore = s.myCore := rfl

theorem outside_pushLink (s : State) (n dir : Nat) (v : Word) : Outside s (s.pushLink s.cur.core n dir v) := by
  rw [State.pushLink_eq]
  exact outside_after _ _ (outside_modMyCore rfl rfl)

theorem outside_popLink (s : State) (dir : Nat) : Outside s (s.popLink s.cur.core dir) := by
  rw [State.popLink_eq]
  exact outside_after _ _ (outside_modMyCore rfl rfl)

theorem outside_popStream (s : State) (x : Stream) : Outside s (s.popStream s.cur.core x) := by
  have h := outside_modMyCore (s := s) (f := fun k => k.modStream x.id fun y => { y with fifo := y.fifo.tail, popped := y.popped + 1 }) rfl rfl
  unfold State.popStream
  split <;> exact h

/-! ## What reads leave -/

/-- Of the thread, a read changes at most the register that it names. -/
theorem State.me_consume1 (s : State) (n : SReg) (q : Bool) :
    (s.consume1 n q).me = if (s.me.reg n.toNat).mode = 0 ∧ q = true then s.me.modReg n.toNat XReg.empty else s.me := by
  unfold State.consume1
  by_cases h0 : (s.me.reg n.toNat).mode = 0
  · cases q <;> simp [h0]
  · simp only [h0, if_false, false_and]
    split
    · split
      · rfl
      · exact State.me_popStream _ _
    · split
      · exact State.me_popLink _ _
      · rfl

theorem outside_consume1 (s : State) (n : SReg) (q : Bool) : Outside s (s.consume1 n q) := by
  unfold State.consume1
  simp only
  split
  · split
    · exact outside_modMe s _
    · exact outside_refl s
  · split
    · split
      · exact outside_refl s
      · exact outside_popStream s _
    · split
      · exact outside_popLink s _
      · exact outside_refl s

/-- A register after reads: emptied where it is normal and one of them is synchronised (R29). -/
def XReg.readBy (r : XReg) (q : Bool) : XReg := if r.mode = 0 ∧ q = true then { r with full := false } else r

@[simp] theorem XReg.readBy_false (r : XReg) : r.readBy false = r := by simp [XReg.readBy]

@[simp] theorem XReg.readBy_mode (r : XReg) (q : Bool) : (r.readBy q).mode = r.mode := by
  unfold XReg.readBy
  split <;> rfl

theorem XReg.readBy_readBy (r : XReg) (p q : Bool) : (r.readBy p).readBy q = r.readBy (p || q) := by
  by_cases h : r.mode = 0
  · cases p <;> cases q <;> simp [XReg.readBy, h]
  · simp [XReg.readBy, h]

theorem State.reg_consume1 (s : State) (n : SReg) (q : Bool) (m : SReg) :
    (s.consume1 n q).me.reg m.toNat = (s.me.reg m.toNat).readBy (decide (m = n) && q) := by
  rw [State.me_consume1]
  by_cases hm : m = n
  · subst hm
    simp only [XReg.readBy, decide_true, Bool.true_and]
    split
    · exact Slot.reg_modReg_same _ _ _
    · rfl
  · simp only [hm, decide_false, Bool.false_and, XReg.readBy_false]
    split
    · exact Slot.reg_modReg_other _ _ _ _ fun h => hm (BitVec.eq_of_toNat_eq h)
    · rfl

theorem State.noRegs_consume1 (s : State) (n : SReg) (q : Bool) : { (s.consume1 n q).me with regs := [] } = { s.me with regs := [] } := by
  rw [State.me_consume1]
  split <;> rfl

theorem outside_consumeFrom (seen : List SReg) (s : State) (reads : List (SReg × Bool)) : Outside s (s.consumeFrom seen reads) := by
  induction reads generalizing seen s with
  | nil => exact outside_refl s
  | cons x xs ih =>
    rw [State.consumeFrom]
    split
    · exact ih _ _
    · exact outside_trans (outside_consume1 s _ _) (ih _ _)

theorem State.noRegs_consumeFrom (seen : List SReg) (s : State) (reads : List (SReg × Bool)) :
    { (s.consumeFrom seen reads).me with regs := [] } = { s.me with regs := [] } := by
  induction reads generalizing seen s with
  | nil => rfl
  | cons x xs ih =>
    rw [State.consumeFrom]
    split
    · exact ih _ _
    · exact (ih _ _).trans (State.noRegs_consume1 s _ _)

theorem State.reg_consumeFrom (seen : List SReg) (s : State) (reads : List (SReg × Bool)) (m : SReg) :
    (s.consumeFrom seen reads).me.reg m.toNat = (s.me.reg m.toNat).readBy (decide ((m, true) ∈ reads)) := by
  induction reads generalizing seen s with
  | nil => simp [State.consumeFrom]
  | cons x xs ih =>
    obtain ⟨n, q⟩ := x
    rw [State.consumeFrom]
    split
    · -- skipped: the register named is not a normal one, which no read empties
      rename_i hskip
      simp only [Bool.and_eq_true, bne_iff_ne, ne_eq] at hskip
      rw [ih]
      by_cases hm : m = n
      · subst hm
        simp [XReg.readBy, hskip.2]
      · simp [hm]
    · rw [ih, State.reg_consume1, XReg.readBy_readBy]
      congr 1
      by_cases hm : m = n <;> cases q <;> simp [hm]

theorem outside_consume (s : State) (reads : List (SReg × Bool)) : Outside s (s.consume reads) := outside_consumeFrom [] s reads

/-- The registers after an instruction's reads. -/
theorem State.reg_consume (s : State) (reads : List (SReg × Bool)) (m : SReg) :
    (s.consume reads).me.reg m.toNat = (s.me.reg m.toNat).readBy (decide ((m, true) ∈ reads)) := State.reg_consumeFrom [] s reads m

theorem State.noRegs_consume (s : State) (reads : List (SReg × Bool)) :
    { (s.consume reads).me with regs := [] } = { s.me with regs := [] } := State.noRegs_consumeFrom [] s reads

/-- A link or stream register named twice gives one word. -/
theorem State.consume_twice (s : State) (n : SReg) (q r : Bool) (h : (s.me.reg n.toNat).mode ≠ 0) : s.consume [(n, q), (n, r)] = s.consume [(n, q)] := by
  have hm : ((s.consume1 n q).me.reg n.toNat).mode ≠ 0 := by simpa [State.reg_consume1] using h
  simp [State.consume, State.consumeFrom, hm]

/-! ## The statements on reads and writes -/

theorem claim_scalarReads : Claim.ScalarReads := by
  intro s n
  refine ⟨fun hm hf => ?_, fun hm hf hu => ?_, fun hm hf hu => ?_, fun hm he => ?_, fun v vs hm he => ?_, fun hm => ?_, fun x hm hx => ⟨fun v vs he => ?_,
    fun he hd => ?_, fun he hd => ?_⟩⟩
  · simp [State.peek, hm, hf]
  · simp [State.peek, hm, hf, hu]
  · simp [State.peek, hm, hf, hu]
  · simp [State.peek, hm, he]
  · simp [State.peek, hm, he]
  · simp [State.peek, hm]
  · simp [State.peek, hm, hx, streamHead, he]
  · simp [State.peek, hm, hx, streamHead, he, hd]
  · simp [State.peek, hm, hx, streamHead, he, hd]

theorem claim_scalarReadsConsume : Claim.ScalarReadsConsume := by
  intro s reads
  refine ⟨outside_consume s reads, State.noRegs_consume s reads, fun n => ?_, fun n q r h => State.consume_twice s n q r h⟩
  rw [State.reg_consume, XReg.readBy]
  simp only [decide_eq_true_eq]

theorem claim_linkReadsPop : Claim.LinkReadsPop := by
  intro s n q hm
  have ht : s.consume [(n, q)] = s.popLink s.cur.core (s.me.reg n.toNat).dir := by simp [State.consume, State.consumeFrom, State.consume1, hm]
  rw [ht, State.popLink_eq]
  refine ⟨?_, rfl⟩
  rw [State.myCore_after, State.myCore_modMyCore, Core.linkEnd_setLinkEnd_same]

theorem swrite_linkOut {s : State} {n : SReg} (v : Word) (h : (s.me.reg n.toNat).mode = 3) :
    s.swrite n v = s.pushLink s.cur.core s.cur.slot (s.me.reg n.toNat).dir v := by simp [State.swrite, h]

theorem swrite_register {s : State} {n : SReg} (v : Word) (h : (s.me.reg n.toNat).mode ≠ 3) :
    s.swrite n v = s.modMe fun t => t.modReg n.toNat fun r => r.write v := by simp [State.swrite, h]

theorem outside_swrite (s : State) (n : SReg) (v : Word) : Outside s (s.swrite n v) := by
  by_cases h : (s.me.reg n.toNat).mode = 3
  · rw [swrite_linkOut v h]; exact outside_pushLink s _ _ v
  · rw [swrite_register v h]; exact outside_modMe s _

theorem claim_scalarWrites : Claim.ScalarWrites := by
  intro s n v
  refine ⟨outside_swrite s n v, fun h => ?_, fun h => ?_⟩
  · rw [swrite_register v h, State.me_modMe]
    exact ⟨rfl, rfl, Slot.reg_modReg_same _ _ _, fun j hj => Slot.reg_modReg_other _ _ _ _ hj⟩
  · rw [swrite_linkOut v h]
    refine ⟨State.me_pushLink _ _ _ _, ?_, rfl⟩
    rw [State.pushLink_eq, State.myCore_after, State.myCore_modMyCore, Core.linkEnd_setLinkEnd_same]

/-- Settles O8: reads by the register's mode, what they leave by induction on the reads, and a write by the destination's mode. -/
theorem scalarOperands : Obligations.ScalarOperands :=
  ⟨claim_scalarReads, claim_scalarReadsConsume, claim_linkReadsPop, claim_scalarWrites⟩

/-! ## What a scalar result leaves -/

/-- Of a thread, a release changes its state, its reason and its marker. -/
theorem Slot.release_rest (t : Slot) : ∃ st why mk, t.release = { t with st := st, why := why, marker := mk } := by
  unfold Slot.release
  split
  · exact ⟨t.st, t.why, t.marker, rfl⟩
  · split
    · exact ⟨_, _, t.marker, rfl⟩
    · exact ⟨_, _, _, rfl⟩

/-- Of a thread, the end of an instruction changes its state, its reason and its marker. -/
theorem State.me_retire (s : State) (sw : Bool) : ∃ st why mk, (s.retire sw).me = { s.me with st := st, why := why, marker := mk } := by
  cases sw with
  | false => exact ⟨s.me.st, s.me.why, s.me.marker, rfl⟩
  | true =>
    simp only [State.retire, if_true, State.me_modMe]
    split
    · exact Slot.release_rest { s.me with marker := true }
    · split
      · exact ⟨s.me.st, s.me.why, s.me.marker, rfl⟩
      · exact ⟨s.me.st, s.me.why, true, rfl⟩

theorem outside_retire (s : State) (sw : Bool) : Outside s (s.retire sw) := by
  unfold State.retire
  split
  · exact outside_modMe s _
  · exact outside_refl s

theorem getLsbD_oneBit (i j : Nat) (hj : j < 16) : (1#16 <<< i).getLsbD j = decide (j = i) := by
  rw [BitVec.getLsbD_shiftLeft, BitVec.getLsbD_one]
  by_cases h : j = i
  · simp [h, h ▸ hj]
  · simp only [h, decide_false]
    by_cases hl : j < i
    · simp [hl]
    · simp [show j - i ≠ 0 by omega]

theorem getLsbD_withBit (p : BitVec 16) (i j : Nat) (b : Bool) (hj : j < 16) :
    (withBit p i b).getLsbD j = if j = i then b else p.getLsbD j := by
  cases b with
  | true =>
    simp only [withBit, if_true, BitVec.getLsbD_or, getLsbD_oneBit i j hj]
    by_cases h : j = i <;> simp only [h, decide_true, decide_false, Bool.or_true, Bool.or_false, if_true, if_false]
  | false =>
    simp only [withBit, Bool.false_eq_true, if_false, BitVec.getLsbD_and, BitVec.getLsbD_not, getLsbD_oneBit i j hj, hj, decide_true, Bool.true_and]
    by_cases h : j = i <;> simp only [h, decide_true, decide_false, Bool.not_true, Bool.not_false, Bool.and_true, Bool.and_false, if_true, if_false]

theorem getLsbD_withOpt (p : BitVec 16) (i j : Nat) (o : Option Bool) (hj : j < 16) :
    (withOpt p i o).getLsbD j = if j = i then o.getD (p.getLsbD j) else p.getLsbD j := by
  cases o with
  | none => simp [withOpt]
  | some b => rw [withOpt, getLsbD_withBit _ _ _ _ hj]; rfl

/-- The predicate word's bits after a result's flags. -/
theorem FlagSet.getLsbD_apply (f : FlagSet) (p : BitVec 16) (j : Nat) (hj : j < 16) :
    (f.apply p).getLsbD j = if j = 8 then f.z.getD (p.getLsbD j) else if j = 9 then f.n.getD (p.getLsbD j) else
      if j = 10 then f.c.getD (p.getLsbD j) else if j = 11 then f.v.getD (p.getLsbD j) else p.getLsbD j := by
  unfold FlagSet.apply
  simp only [getLsbD_withOpt _ _ _ _ hj]
  grind

/-- The sticky flags as bits of the predicate word. -/
theorem Sticky.getLsbD_bits (k : Sticky) (j : Nat) (hj : j < 16) :
    k.bits.getLsbD j = if j = 12 then k.fi else if j = 13 then k.fz else if j = 14 then k.fo else if j = 15 then k.fx else false := by
  have h : ∀ (a b c d : Bool) (j : Fin 16), (Sticky.bits ⟨a, b, c, d⟩).getLsbD j =
      if j = 12 then a else if j = 13 then b else if j = 14 then c else if j = 15 then d else false := by decide +kernel
  have := h k.fi k.fz k.fo k.fx ⟨j, hj⟩
  simpa [Fin.ext_iff] using this

/-- The predicate word after a result. -/
theorem State.pred_result (s : State) (a : SReg) (reads : List (SReg × Bool)) (r : Res) :
    (s.result a reads r).me.pred = r.sticky.raise (r.flags.apply s.me.pred) := by
  have hp : (s.consume reads).me.pred = s.me.pred := by
    have h := congrArg Slot.pred (State.noRegs_consume s reads)
    exact h
  have hw : ∀ (t : State), (t.swrite a r.v).me.pred = t.me.pred := by
    intro t
    by_cases h : (t.me.reg a.toNat).mode = 3
    · rw [swrite_linkOut _ h, State.me_pushLink]
    · rw [swrite_register _ h, State.me_modMe]; rfl
  rw [State.result, hw, State.me_modPred]
  simp only [hp]

theorem State.aside_swrite (s : State) (a : SReg) (v : Word) : aside (s.swrite a v).me = aside s.me := by
  by_cases h : (s.me.reg a.toNat).mode = 3
  · rw [swrite_linkOut _ h, State.me_pushLink]
  · rw [swrite_register _ h, State.me_modMe]; rfl

theorem State.reg_swrite_other (s : State) (a : SReg) (v : Word) (n : SReg) (h : n ≠ a) : (s.swrite a v).me.reg n.toNat = s.me.reg n.toNat := by
  by_cases hm : (s.me.reg a.toNat).mode = 3
  · rw [swrite_linkOut _ hm, State.me_pushLink]
  · rw [swrite_register _ hm, State.me_modMe]
    exact Slot.reg_modReg_other _ _ _ _ fun e => h (BitVec.eq_of_toNat_eq e)

theorem outside_result (s : State) (a : SReg) (reads : List (SReg × Bool)) (r : Res) : Outside s (s.result a reads r) :=
  outside_trans (outside_trans (outside_consume s reads) (outside_modMe _ _)) (outside_swrite _ a r.v)

/-- `aside` forgets what `noRegs_consume` does. -/
theorem aside_eq_of_noRegs {t u : Slot} (h : { t with regs := [] } = { u with regs := [] }) : aside t = aside u := by
  have ha := congrArg aside h
  exact ha

theorem State.aside_result (s : State) (a : SReg) (reads : List (SReg × Bool)) (r : Res) : aside (s.result a reads r).me = aside s.me := by
  have hp : ∀ p, aside { (s.consume reads).me with pred := p } = aside (s.consume reads).me := fun _ => rfl
  rw [State.result, State.aside_swrite, State.me_modPred, hp, aside_eq_of_noRegs (State.noRegs_consume s reads)]

theorem State.reg_result_other (s : State) (a : SReg) (reads : List (SReg × Bool)) (r : Res) (n : SReg) (ha : n ≠ a) (hr : (n, true) ∉ reads) :
    (s.result a reads r).me.reg n.toNat = s.me.reg n.toNat := by
  rw [State.result, State.reg_swrite_other _ _ _ _ ha, State.me_modPred, Slot.reg_with_pred, State.reg_consume]
  simp [hr]

theorem aside_with_end (t : Slot) (st : SlotSt) (why : Why) (mk : Bool) : aside { t with st := st, why := why, marker := mk } = aside t := rfl

@[simp] theorem State.aside_advance (s : State) : aside s.advance.me = aside s.me := by
  rw [State.me_advance]
  rfl

theorem State.aside_retire (s : State) (sw : Bool) : aside (s.retire sw).me = aside s.me := by
  obtain ⟨st, why, mk, hme⟩ := State.me_retire s sw
  rw [hme, aside_with_end]

theorem State.regs_retire (s : State) (sw : Bool) : (s.retire sw).me.regs = s.me.regs := by
  obtain ⟨st, why, mk, hme⟩ := State.me_retire s sw
  rw [hme]

theorem State.pred_retire (s : State) (sw : Bool) : (s.retire sw).me.pred = s.me.pred := by
  obtain ⟨st, why, mk, hme⟩ := State.me_retire s sw
  rw [hme]

/-- Settles O9, from what reads, a result's flags, a write and the switch marker leave. -/
theorem scalarResultFrame : Obligations.ScalarResultFrame := by
  intro s a reads r sw t
  have hpred : t.me.pred = r.sticky.raise (r.flags.apply s.me.pred) := by
    rw [State.pred_retire, State.pred_result, State.me_advance]
  have hbit : ∀ j, j < 16 → t.me.pred.getLsbD j = ((r.flags.apply s.me.pred).getLsbD j || r.sticky.bits.getLsbD j) := by
    intro j hj
    rw [hpred, Sticky.raise, BitVec.getLsbD_or]
  refine ⟨outside_trans (outside_modMe s _) (outside_trans (outside_result s.advance a reads r) (outside_retire _ sw)), ?_, fun n hn hr => ?_,
    fun i hi => ?_, ?_, ?_, ?_, ?_, ?_, ?_, ?_, ?_⟩
  · rw [State.aside_retire, State.aside_result, State.aside_advance]
  · rw [Slot.reg, State.regs_retire, ← Slot.reg, State.reg_result_other _ _ _ _ _ hn hr, State.me_advance, Slot.reg_with_pc]
  · rw [hbit i (by omega), FlagSet.getLsbD_apply _ _ _ (by omega), Sticky.getLsbD_bits _ _ (by omega)]
    simp only [show i ≠ 8 by omega, show i ≠ 9 by omega, show i ≠ 10 by omega, show i ≠ 11 by omega, show i ≠ 12 by omega, show i ≠ 13 by omega,
      show i ≠ 14 by omega, show i ≠ 15 by omega, if_false, Bool.or_false]
  all_goals
    rw [hbit _ (by omega), FlagSet.getLsbD_apply _ _ _ (by omega), Sticky.getLsbD_bits _ _ (by omega)]
    simp

/-! ## When scalar forms stop, and the switch marker -/

theorem writable_mayTake {α : Type} {s : State} {n : SReg} (k : Try α) (h : mayTake s n) : s.writable n k = k := by
  rcases h with h | h <;> simp [State.writable, ensure, h]

theorem writable_trap {α : Type} {s : State} {n : SReg} (k : Try α) (h : ¬ mayTake s n) : s.writable n k = .error (.trap 5 0 n.toNat) := by
  simp only [mayTake, not_or] at h
  simp [State.writable, ensure, h]

theorem readable_of_mode {α : Type} {s : State} {n : SReg} (k : Try α) (h : (s.me.reg n.toNat).mode ≠ 3) : s.readable n k = k := by
  simp [State.readable, ensure, h]

theorem readable_trap {α : Type} {s : State} {n : SReg} (k : Try α) (h : (s.me.reg n.toNat).mode = 3) :
    s.readable n k = .error (.trap 5 0 n.toNat) := by
  simp [State.readable, ensure, h]

theorem mode_of_peek {s : State} {n : SReg} {v : Word} (h : s.peek n = .ok v) : (s.me.reg n.toNat).mode ≠ 3 := by
  simpa using peek_mode h

theorem claim_scalarFormsStop : Claim.ScalarFormsStop := by
  intro s o f
  refine ⟨fun ha => ?_, fun ha hb => ?_, fun e ha hb he => ?_, fun u ha hu hx => ?_, fun c g => ⟨fun ha => ?_, fun e ha hb hc he => ?_,
    fun u e ha hc hx he => ?_⟩⟩
  · rw [State.unary, writable_trap _ ha]
  · rw [State.unary, writable_mayTake _ ha, readable_trap _ hb]
  · rw [State.unary, writable_mayTake _ ha, readable_of_mode _ hb, he]
  · have hroom : ¬ (s.myCore.linkEnd (s.me.reg o.a.toNat).dir).used < 4 := by omega
    rw [State.unary, writable_mayTake _ (.inr ha), readable_of_mode _ (mode_of_peek hx), hx]
    simp [State.room, hold, ha, hroom]
  · rw [State.binary, writable_trap _ ha]
  · simp only [State.binary, writable_mayTake _ ha, readable_of_mode _ hb, readable_of_mode _ hc, State.peek2, he]
  · simp only [State.binary, writable_mayTake _ ha, readable_of_mode _ (mode_of_peek hx), readable_of_mode _ hc, State.peek2, hx, he]

/-- A wait that makes no bank rise changes its slot alone. -/
theorem State.suspend_plain (s : State) (w : Why) (h : ∀ bs, w ≠ .rise bs) : s.suspend w = s.modMe fun t => { t with st := w.st, why := w } := by
  cases w with
  | rise bs => exact absurd rfl (h bs)
  | _ => rfl

theorem claim_waitingHasNoEffect : Claim.WaitingHasNoEffect := by
  intro s w h
  rw [State.suspend_plain s w h]
  cases w <;> rfl

/-- Settles O10: each stop in the order of the form's checks. -/
theorem scalarFormsStop : Obligations.ScalarFormsStop := ⟨claim_scalarFormsStop, claim_waitingHasNoEffect⟩

/-- A slot that may look again: it is held by its marker, an access that holds it, a push or the throttle, and else Ready. -/
theorem Slot.release_open {t : Slot} (h : (t.stopped || t.saving || t.st == .free || t.st == .departing || t.saved) = false) :
    t.release = if ((t.marker && t.pendingAccess) || (t.out.any fun a => a.hold.isSome && !a.done) || t.push.isSome || t.throttled) = true
      then { t with st := .held, why := if t.throttled then .throttle else .access } else { t with st := .ready, why := .none, marker := false } := by
  rw [Slot.release, h]
  rfl

/-- An access that holds its thread, and a held push, are among what keeps a marker waiting. -/
theorem Slot.pendingAccess_absorbs (t : Slot) :
    (t.pendingAccess || (t.out.any fun a => a.hold.isSome && !a.done) || t.push.isSome) = t.pendingAccess := by
  have hhold : (t.out.any fun a => a.hold.isSome && !a.done) = true → (t.out.any fun a => !a.done) = true := by
    simp only [List.any_eq_true, Bool.and_eq_true]
    rintro ⟨a, ha, -, hd⟩
    exact ⟨a, ha, hd⟩
  unfold Slot.pendingAccess
  cases hd : t.out.any fun a => !a.done with
  | true => rfl
  | false =>
    rw [hd] at hhold
    cases hh : t.out.any fun a => a.hold.isSome && !a.done with
    | true => exact absurd (hhold hh) Bool.false_ne_true
    | false => simp

/-- A slot that nothing but its marker may hold. -/
theorem Slot.release_marked {t : Slot} (hst : t.st = .ready) (h1 : t.stopped = false) (h2 : t.saving = false) (h3 : t.saved = false)
    (h4 : t.throttled = false) : ({ t with marker := true } : Slot).release.st = if t.pendingAccess then .held else .ready := by
  have hheld : ((t.pendingAccess || (t.out.any fun a => a.hold.isSome && !a.done) || t.push.isSome) || t.throttled) = t.pendingAccess := by
    rw [Slot.pendingAccess_absorbs, h4, Bool.or_false]
  refine (congrArg Slot.st (Slot.release_open (by simp [hst, h1, h2, h3]))).trans ?_
  rw [show (true && ({ t with marker := true } : Slot).pendingAccess) = t.pendingAccess from rfl, hheld]
  cases t.pendingAccess <;> rfl

/-- Settles O13: the marker holds exactly while an access or a push is outstanding. -/
theorem switchMarker : Obligations.SwitchMarker := by
  intro s hst h1 h2 h3 h4
  obtain ⟨st, why, mk, hme⟩ := State.me_retire s true
  refine ⟨rfl, ?_, outside_retire s true, by rw [hme]; rfl⟩
  have hm : (s.retire true).me = ({ s.me with marker := true } : Slot).release := by simp [State.retire, hst]
  rw [hm, Slot.release_marked hst h1 h2 h3 h4, Slot.pendingAccess]
  simp only [Bool.or_eq_true]

end Sys2Proof.Machine
end

section
/-!
PROOFS. What does not see the program counter of the issuing thread, and what lets an access or a request go (spec/06 R113, R115, R120).
-/

open Sys2Proof Sys2Proof.Machine Sys2Proof.Claim

namespace Sys2Proof.Machine

/-! ## Checks -/

theorem ensure_ok {α : Type} {b : Bool} {c : Nat} {a : Word} {x : Nat} (k : Try α) (h : b = true) : ensure b c a x k = k := if_pos h

theorem ensure_trap {α : Type} {b : Bool} {c : Nat} {a : Word} {x : Nat} (k : Try α) (h : b = false) :
    ensure b c a x k = .error (.trap c a x) := by simp [ensure, h]

theorem hold_ok {α : Type} {b : Bool} {w : Why} (k : Try α) (h : b = true) : hold b w k = k := if_pos h

theorem hold_wait {α : Type} {b : Bool} {w : Why} (k : Try α) (h : b = false) : hold b w k = .error (.wait w) := by simp [hold, h]

/-! ## An instruction about to issue -/

/-- What a table's sum over its entries is after a put that keeps the entry's term. -/
theorem Table.sum_put {α : Type} (f : α → Nat) (d : α) (hd : f d = 0) (t : Table α) (n : Nat) (x : α) (hx : f x = f (Table.get d t n)) :
    ((Table.put t n x).map fun e => f e.2).sum = (t.map fun e => f e.2).sum := by
  induction t with
  | nil => simpa [Table.put, Table.get, hd] using hx
  | cons e t ih =>
    obtain ⟨k, v⟩ := e
    simp only [Table.put, Table.get] at hx ⊢
    by_cases h : n = k
    · subst h
      simp_all
    · by_cases hlt : n < k
      · simp_all [Ne.symm h]
      · rw [if_neg (Ne.symm h), if_neg hlt] at hx
        simp [h, hlt, ih hx]

/-- A put of a slot with as many live accesses leaves the core's count. -/
theorem Core.liveCount_setSlot {k : Core} {n : Nat} {t : Slot} (h : t.live.length = (k.slot n).live.length) : (k.setSlot n t).liveCount = k.liveCount := by
  simp only [Core.liveCount, Core.setSlot, ← List.sum_eq_foldl]
  exact Table.sum_put (fun t : Slot => t.live.length) {} rfl k.slots n t h

@[simp] theorem State.slot_myCore (s : State) : s.myCore.slot s.cur.slot = s.me := rfl

@[simp] theorem State.liveCount_advance (s : State) : s.advance.myCore.liveCount = s.myCore.liveCount := by
  rw [State.myCore_advance]
  exact Core.liveCount_setSlot rfl

@[simp] theorem Core.setSlot_jrn (k : Core) (n j : Nat) (t : Slot) : (k.setSlot n t).jrn j = k.jrn j := rfl

@[simp] theorem State.jrn_advance (s : State) (j : Nat) : s.advance.myCore.jrn j = s.myCore.jrn j := by
  rw [State.myCore_advance, Core.setSlot_jrn]

@[simp] theorem State.live_advance (s : State) : s.advance.me.live = s.me.live := by
  rw [State.me_advance]
  rfl

@[simp] theorem State.out_advance (s : State) : s.advance.me.out = s.me.out := by rw [State.me_advance]
@[simp] theorem State.prior_advance (s : State) : s.advance.me.prior = s.me.prior := by rw [State.me_advance]
@[simp] theorem State.myRoutes_advance (s : State) : s.advance.myRoutes = s.myRoutes := rfl
@[simp] theorem State.reg_advance (s : State) (n : Nat) : s.advance.me.reg n = s.me.reg n := by rw [State.me_advance, Slot.reg_with_pc]

@[simp] theorem State.priorInFlight_advance (s : State) : s.advance.priorInFlight = s.priorInFlight := by
  simp only [State.priorInFlight, State.live_advance, State.prior_advance, State.jrn_advance]

@[simp] theorem State.mayPush_advance (s : State) (k : BitVec 5) : s.advance.mayPush k = s.mayPush k := by
  simp only [State.mayPush, State.live_advance, State.out_advance]

@[simp] theorem mayIssue_advance {α : Type} (s : State) (o : Order) (h : Home) (n : Nat) (k : Try α) :
    s.advance.mayIssue o h n k = s.mayIssue o h n k := by
  simp only [State.mayIssue, State.priorInFlight_advance, State.live_advance, State.out_advance, State.liveCount_advance, State.jrn_advance]

/-! ## What lets an access go -/

/-- The check of `mayIssue`. -/
def goNow (s : State) (o : Order) (h : Home) (n : Nat) : Bool :=
  !s.priorInFlight && !(s.me.live.any (Acc.bars h)) && !(s.me.out.any (Acc.awaited o.rel)) &&
    (if o.relaxed then !(s.me.live.any fun a => !a.relaxed) && decide (s.me.live.length < 8) else s.me.live.isEmpty) &&
    decide (s.myCore.liveCount < 64) && decide (n ≤ ((List.range 64).filter fun i => field (s.myCore.jrn i) 0 1 == 0).length)

theorem mayIssue_eq {α : Type} (s : State) (o : Order) (h : Home) (n : Nat) (k : Try α) : s.mayIssue o h n k = hold (goNow s o h n) .access k := rfl

/-- It is that of the statements (R113, R115, R120). -/
theorem goNow_iff (s : State) (o : Order) (h : Home) (n : Nat) : goNow s o h n = true ↔ MayGo s o h n := by
  have horder : (if o.relaxed then !(s.me.live.any fun a => !a.relaxed) && decide (s.me.live.length < 8) else s.me.live.isEmpty) = true ↔
      (o.relaxed = false → s.me.live = []) ∧ (o.relaxed = true → s.me.live.length < 8 ∧ ∀ a ∈ s.me.live, a.relaxed = true) := by
    cases o.relaxed <;> simp [and_comm]
  simp only [goNow, MayGo, FreeEntries, Bool.and_eq_true, horder, Bool.not_eq_true', decide_eq_true_eq, List.any_eq_false, Bool.not_eq_true, and_assoc]

theorem mayIssue_go {α : Type} {s : State} {o : Order} {h : Home} {n : Nat} (k : Try α) (hg : MayGo s o h n) : s.mayIssue o h n k = k :=
  hold_ok k ((goNow_iff s o h n).mpr hg)

theorem mayIssue_held {α : Type} {s : State} {o : Order} {h : Home} {n : Nat} (k : Try α) (hg : ¬ MayGo s o h n) :
    s.mayIssue o h n k = .error (.wait .access) :=
  hold_wait k (Bool.eq_false_iff.mpr fun e => hg ((goNow_iff s o h n).mp e))

/-- With no access in flight, none is awaited by a mask of completions. -/
theorem awaited_of_noLive {s : State} (h : s.me.live = []) {m : BitVec 5} (h1 : m.getLsbD 1 = false) (h4 : m.getLsbD 4 = false) :
    ∀ a ∈ s.me.out, a.awaited m = false := by
  intro a ha
  have hdone : a.done = true := by
    have := List.filter_eq_nil_iff.mp h a ha
    simpa using this
  simp only [Acc.awaited, hdone, h1, h4, Bool.not_true, Bool.and_false, Bool.false_and, Bool.or_false]

/-- A plain request of a thread with no access in flight may go (R113, R115). -/
theorem mayGo_of_alone {s : State} {o : Order} {n : Nat} (h : Home) (ha : Alone s) (hr : o.relaxed = false) (h1 : o.rel.getLsbD 1 = false)
    (h4 : o.rel.getLsbD 4 = false) (hf : FreeEntries s n) : MayGo s o h n := by
  obtain ⟨hlive, hcount⟩ := ha
  refine ⟨by simp [State.priorInFlight, hlive], by simp [hlive], awaited_of_noLive hlive h1 h4, fun _ => hlive, by simp [hr], hcount, hf⟩

theorem freeEntries_zero (s : State) : FreeEntries s 0 := Nat.zero_le _

/-! ## Operands of requests -/

theorem withReg_ok {s : State} {n : SReg} {v : Word} (k : Word → Try State) (h : s.peek n = .ok v) : s.advance.withReg n k = k v := by
  simp only [State.withReg, readable_advance, readable_ok _ h, State.peek_advance, h]

theorem reading_ok {s : State} {n : SReg} {v : Word} (q : Bool) (k : Word → State → Try State) (h : s.peek n = .ok v) :
    s.advance.reading n q k = k v (s.advance.consume [(n, q)]) := by
  simp only [State.reading, readable_advance, readable_ok _ h, State.peek_advance, h]

theorem fabricOperand_ok {α : Type} (s : State) {v : Word} (k : Try α) (hf : isFabric v = true) (ha : addrOk v = true) :
    s.fabricOperand v k = k := ensure_ok k (by simp [hf, ha])

theorem routed_ok {α : Type} {s : State} {v : Word} (k : Try α) (h : Route s v) : s.routed v k = k := by
  refine ensure_ok k ?_
  rcases h with h | h
  · simp [h]
  · simp only [Bool.or_eq_true]; exact .inr h

@[simp] theorem routed_advance {α : Type} (s : State) (v : Word) (k : Try α) : s.advance.routed v k = s.routed v k := rfl

theorem notInService_ok {s : State} (k : Try State) (h : s.cur.slot ≠ 15) : notInService s.advance k = k := if_neg h

/-- Changes of the issuing thread that agree on it as it is. -/
theorem State.modMe_congr {s : State} {f g : Slot → Slot} (h : f s.me = g s.me) : s.modMe f = s.modMe g :=
  congrArg (fun t => s.setSlot s.cur.core s.cur.slot t) h

/-! ## What reads leave of the state -/

@[simp] theorem State.consume_cur (s : State) (r : List (SReg × Bool)) : (s.consume r).cur = s.cur := (outside_consume s r).2.2.2.2.2.2.2.1
@[simp] theorem State.consume_hubs (s : State) (r : List (SReg × Bool)) : (s.consume r).hubs = s.hubs := (outside_consume s r).2.2.2.1
@[simp] theorem State.consume_now (s : State) (r : List (SReg × Bool)) : (s.consume r).now = s.now := (outside_consume s r).2.2.2.2.2.2.1
@[simp] theorem State.hub_consume (s : State) (r : List (SReg × Bool)) (d : Nat) : (s.consume r).hub d = s.hub d := by
  rw [State.hub, State.consume_hubs, State.hub]

/-- A field of the issuing thread that is no register is as it was after reads. -/
theorem State.me_consume_field {α : Type} (s : State) (r : List (SReg × Bool)) (f : Slot → α) (h : ∀ t, f { t with regs := [] } = f t) :
    f (s.consume r).me = f s.me := by
  have e := congrArg f (State.noRegs_consume s r)
  exact (h _).symm.trans (e.trans (h _))

@[simp] theorem State.asid_consume (s : State) (r : List (SReg × Bool)) : (s.consume r).me.asid = s.me.asid :=
  State.me_consume_field s r Slot.asid fun _ => rfl

@[simp] theorem State.sup_consume (s : State) (r : List (SReg × Bool)) : (s.consume r).me.sup = s.me.sup :=
  State.me_consume_field s r Slot.sup fun _ => rfl

@[simp] theorem State.asid_advance (s : State) : s.advance.me.asid = s.me.asid := by rw [State.me_advance]
@[simp] theorem State.sup_advance (s : State) : s.advance.me.sup = s.me.sup := by rw [State.me_advance]; rfl

/-- A part of the issuing core that is no slot, link or stream is as it was after reads. -/
theorem State.myCore_consume_field {α : Type} (s : State) (r : List (SReg × Bool)) (f : Core → α) (h : ∀ k, f (others k) = f k) :
    f (s.consume r).myCore = f s.myCore := by
  have e := congrArg f (outside_consume s r).2.2.2.2.2.2.2.2.2.1
  exact (h _).symm.trans (e.trans (h _))

end Sys2Proof.Machine
end

section
/-!
PROOFS. The thread forms of page 6: yield, park, tick, selfid, rdsw, wrsw, fitw, wake, quit, mig and link (spec/14 R323 to R330), and what a freed slot
leaves.
-/

open Sys2Proof Sys2Proof.Machine Sys2Proof.Claim

namespace Sys2Proof.Machine

/-! ## Ends, traps and waits of the guarded forms -/

theorem ends_guarded {i : Instr} {s t : State} {m : Mods} {body : State → Try State} (he : exec i s = s.guarded m body)
    (hg : guardHolds m s.me = true) (hb : body s.advance = .ok t) : Ends i m s t := he.trans (guarded_ok hg hb)

theorem traps_guarded {i : Instr} {s : State} {m : Mods} {body : State → Try State} {c : Nat} {a : Word} {x : Nat}
    (he : exec i s = s.guarded m body) (hg : guardHolds m s.me = true) (hb : body s.advance = .error (.trap c a x)) (hc : s.cur.slot ≠ 15 ∨ c ≠ 4) :
    Traps i s c a x := he.trans (guarded_trap hg hb hc)

theorem waits_guarded {i : Instr} {s : State} {m : Mods} {body : State → Try State} {w : Why} (he : exec i s = s.guarded m body)
    (hg : guardHolds m s.me = true) (hb : body s.advance = .error (.wait w)) (hw : s.cur.slot ≠ 15 ∨ w.st ≠ .waiting) :
    exec i s = .next (s.suspend w) := he.trans (guarded_wait hg hb hw)

/-! ## yield, park, tick, selfid, rdsw, wrsw, fitw -/

theorem exec_fitw (m : Mods) (o : OpB) (s : State) : exec (.fitw m o) s = execFitw m o s := rfl
theorem exec_yield (m : Mods) (s : State) : exec (.yield m) s = execYield m s := rfl
theorem exec_park (m : Mods) (s : State) : exec (.park m) s = execPark m s := rfl
theorem exec_tick (m : Mods) (o : OpA) (s : State) : exec (.tick m o) s = execTick m o s := rfl
theorem exec_selfid (m : Mods) (o : OpA) (s : State) : exec (.selfid m o) s = execSelfid m o s := rfl
theorem exec_rdsw (m : Mods) (o : OpA) (s : State) : exec (.rdsw m o) s = execRdsw m o s := rfl
theorem exec_wrsw (m : Mods) (o : OpB) (s : State) : exec (.wrsw m o) s = execWrsw m o s := rfl
theorem exec_wake (m : Mods) (o : OpB) (s : State) : exec (.wake m o) s = execWake m o s := rfl

@[simp] theorem State.timeOf_advance (s : State) (d : Nat) : s.advance.timeOf d = s.timeOf d := rfl

theorem toNat_setField_low (x : BitVec 32) (b : Bool) : (setField x 0 1 (b2n b)).toNat = x.toNat / 2 * 2 + b2n b := by
  have hx := x.isLt
  have hb : b2n b < 2 := by cases b <;> decide
  simp only [setField, setBits, bitsOf, BitVec.toNat_ofNat]
  omega

theorem getLsbD_eq_mod_two {w : Nat} (x : BitVec w) (i : Nat) : x.getLsbD i = decide (x.toNat / 2 ^ i % 2 = 1) := by
  rw [BitVec.getLsbD, Nat.testBit_eq_decide_div_mod_eq]

/-- Field 0 of a status word replaced, bit by bit. -/
theorem setField_low_eq {x w : BitVec 32} {b : Bool} (h : ∀ i, i < 32 → w.getLsbD i = if i = 0 then b else x.getLsbD i) : setField x 0 1 (b2n b) = w := by
  apply BitVec.eq_of_getLsbD_eq
  intro i hi
  rw [h i hi, getLsbD_eq_mod_two, toNat_setField_low]
  by_cases h0 : i = 0
  · subst h0
    cases b <;> simp [b2n]
  · obtain ⟨j, rfl⟩ : ∃ j, i = j + 1 := ⟨i - 1, by omega⟩
    have hb : b2n b < 2 := by cases b <;> decide
    have hhalf : (x.toNat / 2 * 2 + b2n b) / 2 = x.toNat / 2 := by omega
    rw [if_neg h0, getLsbD_eq_mod_two, Nat.pow_succ', ← Nat.div_div_eq_div_mul, ← Nat.div_div_eq_div_mul, hhalf]

/-- FIT as `fitw` writes it: the operand's low word, marked valid. -/
theorem fitWord_eq {v : Word} {w : BitVec 33} (h : ∀ i, i < 33 → w.getLsbD i = if i = 32 then true else v.getLsbD i) :
    BitVec.ofNat 33 (2 ^ 32 + v.toNat % 2 ^ 32) = w := by
  apply BitVec.eq_of_getLsbD_eq
  intro i hi
  rw [h i hi, BitVec.getLsbD_ofNat]
  by_cases h32 : i = 32
  · subst h32
    have hlow : v.toNat % 2 ^ 32 < 2 ^ 32 := Nat.mod_lt _ (by decide)
    rw [Nat.testBit_two_pow_add_eq, Nat.testBit_lt_two_pow hlow]
    rfl
  · have hlt : i < 32 := by omega
    rw [if_neg h32, Nat.testBit_two_pow_add_gt hlt, Nat.testBit_mod_two_pow]
    simp [hi, hlt]
    rfl

theorem claim_threadForms : Claim.ThreadForms := by
  intro s m hg
  refine ⟨ends_guarded (exec_yield m s) hg rfl, fun hslot hwake => ends_guarded (exec_park m s) hg ?_,
    fun hslot hwake => ends_guarded (exec_park m s) hg ?_,
    fun o ha => ⟨ends_guarded (exec_tick m o s) hg (produce_ok _ ha), ends_guarded (exec_selfid m o s) hg ?_, ends_guarded (exec_rdsw m o s) hg ?_⟩,
    fun o v w hv hw => ends_guarded (exec_wrsw m o s) hg ?_,
    fun o v w hv hal hw => ends_guarded (exec_fitw m o s) hg ?_⟩
  · rw [notInService_ok _ hslot]
    exact congrArg Except.ok (State.modMe_congr (by simp [hwake]))
  · rw [notInService_ok _ hslot]
    exact congrArg Except.ok (State.modMe_congr (by simp [hwake]))
  · rw [State.asid_advance]
    exact produce_ok _ ha
  · rw [State.me_advance]
    exact produce_ok _ ha
  · rw [reading_ok _ _ hv]
    refine congrArg Except.ok (State.modMe_congr ?_)
    have hst : (s.advance.consume [(o.b, o.q)]).me.status = s.me.status :=
      (State.me_consume_field s.advance _ Slot.status fun _ => rfl).trans (by rw [State.me_advance])
    rw [hst, setField_low_eq hw]
  · rw [withReg_ok _ hv, mayIssue_advance, mayIssue_go _ (mayGo_of_alone .own hal rfl rfl rfl (freeEntries_zero s)), fitWord_eq hw]

/-! ## wake -/

theorem freeEntries_advance (s : State) (n : Nat) : FreeEntries s.advance n ↔ FreeEntries s n := by
  simp only [FreeEntries, State.jrn_advance]

theorem offsetOf_mod (v : Word) : offsetOf v % 16 = v.toNat % 16 := by
  simp only [offsetOf, bitsOf]
  omega

/-- The bits that a wake's operand must have clear. -/
theorem field_wake (v : Word) : (field v 4 17 == 0) = decide (v.toNat / 16 % 2 ^ 17 = 0) := by
  rw [Bool.eq_iff_iff, beq_iff_eq, decide_eq_true_iff]
  rfl

/-! ### Names and journal entries -/

@[simp] theorem State.fresh_name (s : State) : s.fresh.1 = s.nextId := rfl
@[simp] theorem State.fresh_cur (s : State) : s.fresh.2.cur = s.cur := rfl
@[simp] theorem State.me_fresh (s : State) : s.fresh.2.me = s.me := rfl
@[simp] theorem State.hub_fresh (s : State) (d : Nat) : s.fresh.2.hub d = s.hub d := rfl
@[simp] theorem State.takeEntry_cur (s : State) (img : BitVec 256) : (s.takeEntry img).2.cur = s.cur := rfl
@[simp] theorem State.me_takeEntry (s : State) (img : BitVec 256) : (s.takeEntry img).2.me = s.me := State.me_modMyCore_setSlots rfl
@[simp] theorem State.addOut_cur (s : State) (a : Acc) : (s.addOut a).cur = s.cur := rfl
@[simp] theorem State.asid_addOut (s : State) (a : Acc) : (s.addOut a).me.asid = s.me.asid := by rw [State.addOut, State.me_modMe]
@[simp] theorem State.sup_addOut (s : State) (a : Acc) : (s.addOut a).me.sup = s.me.sup := by
  rw [State.addOut, State.me_modMe]
  rfl

@[simp] theorem State.pathFor_fresh (s : State) (v : Word) : s.fresh.2.pathFor v = s.pathFor v := rfl
@[simp] theorem State.pathFor_advance (s : State) (v : Word) : s.advance.pathFor v = s.pathFor v := rfl
@[simp] theorem State.pathFor_consume (s : State) (r : List (SReg × Bool)) (v : Word) : (s.consume r).pathFor v = s.pathFor v := by
  simp only [State.pathFor, State.consume_cur, State.hub_consume]

theorem claim_wakeForm : Claim.WakeForm := by
  intro s m o v hg hv hf ha
  refine ⟨fun hz => traps_guarded (exec_wake m o s) hg ?_ (.inr (by decide)), fun hz hc => ends_guarded (exec_wake m o s) hg ?_,
    fun hz hc hr hal hfree => ends_guarded (exec_wake m o s) hg ?_⟩
  · rw [withReg_ok _ hv, fabricOperand_ok _ _ hf ha]
    exact ensure_trap _ (by rw [field_wake, decide_eq_false hz])
  · rw [withReg_ok _ hv, fabricOperand_ok _ _ hf ha, ensure_ok _ (by rw [field_wake, decide_eq_true hz]), State.advance_cur, if_pos hc, offsetOf_mod]
  · have hgo : MayGo s requestOrder (homeOf s.cur.core v) 1 := mayGo_of_alone _ hal rfl (by decide) (by decide) hfree
    rw [withReg_ok _ hv, fabricOperand_ok _ _ hf ha, ensure_ok _ (by rw [field_wake, decide_eq_true hz]), State.advance_cur, if_neg hc,
      routed_advance, routed_ok _ hr, mayIssue_advance, mayIssue_go _ hgo, offsetOf_mod]
    unfold wakePosted
    simp only [State.fresh_name, State.fresh_cur, State.me_fresh, State.pathFor_fresh, State.pathFor_consume, State.pathFor_advance, State.consume_cur,
      State.advance_cur, State.asid_consume, State.asid_advance]
    simp only [State.me_takeEntry, State.me_fresh, State.asid_consume, State.asid_advance, State.sup_consume, State.sup_advance, State.addOut_cur,
      State.takeEntry_cur, State.fresh_cur, State.consume_cur, State.advance_cur, State.asid_addOut, State.sup_addOut]

/-! ### A wake at its slot -/

@[simp] theorem Core.ungate_slots (k : Core) : k.ungate.slots = k.slots := by
  unfold Core.ungate
  split <;> rfl

@[simp] theorem Core.slot_ungate (k : Core) (n : Nat) : k.ungate.slot n = k.slot n := by
  rw [Core.slot, Core.ungate_slots, Core.slot]

/-- A wake at a slot that keeps no saved context and is not Free. -/
theorem State.wakeSlot_resident {s : State} {m : WakeMsg} (hs : (s.slot m.core m.slot).saved = false) (hf : (s.slot m.core m.slot).st ≠ .free) :
    s.wakeSlot m = s.modCore m.core fun k => (k.setSlot m.slot (s.slot m.core m.slot).woken).ungate := by
  simp [State.wakeSlot, hs, hf]

theorem State.wakeSlot_free {s : State} {m : WakeMsg} (hs : (s.slot m.core m.slot).saved = false) (hf : (s.slot m.core m.slot).st = .free) :
    s.wakeSlot m = s.modCore m.core fun k => k.count 7 := by
  simp [State.wakeSlot, hs, hf]

/-- A thread whose park ends goes on behind it. -/
theorem Slot.woken_parked {t : Slot} {pc : Nat} {sw : Bool} (hst : t.st = .waiting) (hw : t.why = .park) (hr : t.resume = some (pc, sw))
    (h1 : t.stopped = false) (h2 : t.saving = false) (h3 : t.saved = false) (h4 : t.throttled = false) (h5 : t.pendingAccess = false) :
    t.woken.st = .ready ∧ t.woken.pc = pc ∧ t.woken.resume = none := by
  have hwoken : t.woken = ({ t with pc := pc, resume := none, marker := sw, st := .held, barSeq := none } : Slot).release := by
    simp [Slot.woken, Slot.endWait, hst, hw, hr]
  have hnone : ((t.out.any fun a => a.hold.isSome && !a.done) || t.push.isSome) = false := by
    have := Slot.pendingAccess_absorbs t
    rw [h5, Bool.false_or] at this
    exact this
  have hp : (sw && ({ t with pc := pc, resume := none, marker := sw, st := .held, barSeq := none } : Slot).pendingAccess) = false := by
    show (sw && t.pendingAccess) = false
    rw [h5, Bool.and_false]
  rw [hwoken, Slot.release_open (by simp [h1, h2, h3]), if_neg]
  · exact ⟨rfl, rfl, rfl⟩
  · rw [hp, Bool.false_or, hnone, Bool.false_or, h4]
    exact Bool.false_ne_true

theorem claim_wakeAtASlot : Claim.WakeAtASlot := by
  intro s m x t hs
  refine ⟨fun hf => State.wakeSlot_free hs hf, fun hf hp => ?_, fun pc sw hst hw hr h1 h2 h4 h5 => ?_, fun n hn => ?_, fun a => ?_⟩
  · have hwoken : x.woken = { x with wake := true } := by
      rw [Slot.woken, if_neg]
      simpa using fun h1 h2 => hp ⟨h1, h2⟩
    show (s.wakeSlot m).slot _ _ = _
    rw [State.wakeSlot_resident hs hf, State.slot, State.core_modCore_same, Core.slot_ungate, Core.slot_setSlot_same]
    exact hwoken
  · have ht : t.slot m.core m.slot = x.woken := by
      show (s.wakeSlot m).slot _ _ = _
      rw [State.wakeSlot_resident hs (by rw [hst]; decide), State.slot, State.core_modCore_same, Core.slot_ungate, Core.slot_setSlot_same]
    rw [ht]
    exact Slot.woken_parked hst hw hr h1 h2 hs h4 h5
  · show (s.wakeSlot m).slot _ _ = _
    by_cases hf : x.st = .free
    · rw [State.wakeSlot_free hs hf]
      exact State.slot_modCore_of_slots rfl _ _
    · rw [State.wakeSlot_resident hs hf, State.slot, State.core_modCore_same, Core.slot_ungate, Core.slot_setSlot_other _ _ _ _ hn, State.slot]
  · show memByte (s.wakeSlot m).mem a = _
    by_cases hf : x.st = .free
    · rw [State.wakeSlot_free hs hf]
      rfl
    · rw [State.wakeSlot_resident hs hf]
      rfl

/-- Settles O33: each thread form's body, and a wake by the state of its slot. -/
theorem threadForms : Obligations.ThreadForms := ⟨claim_threadForms, claim_wakeForm, claim_wakeAtASlot⟩

/-! ## quit and a freed slot -/

theorem exec_quit (m : Mods) (s : State) : exec (.quit m) s = execQuit m s := rfl

@[simp] theorem State.pendingAccess_advance (s : State) : s.advance.me.pendingAccess = s.me.pendingAccess := by
  rw [State.me_advance]
  rfl

@[simp] theorem State.service_advance (s : State) : s.advance.myCore.service = s.myCore.service := by
  rw [State.myCore_advance, Core.setSlot_service]

theorem claim_quitForm : Claim.QuitForm := by
  intro s m hg
  refine ⟨fun hp hslot => ends_guarded (exec_quit m s) hg ?_, fun hp hslot => ends_guarded (exec_quit m s) hg ?_,
    fun hp => waits_guarded (exec_quit m s) hg (hold_wait _ (by rw [State.pendingAccess_advance, hp]; rfl)) (.inr (by decide))⟩
  · rw [hold_ok _ (by rw [State.pendingAccess_advance, hp]; rfl), State.advance_cur, if_neg hslot]
    have hf : s.advance.me.faultAtQuit = s.me.faultAtQuit := by rw [State.me_advance]
    rw [hf]
  · rw [hold_ok _ (by rw [State.pendingAccess_advance, hp]; rfl), State.advance_cur, if_pos hslot]
    refine congrArg Except.ok ?_
    simp only [State.myCore_modMyCore, List.isEmpty_iff]
    have hserv : (Core.endHandler s.advance.myCore).service = s.myCore.service := State.service_advance s
    rw [hserv]
    rfl

/-! ### Looking again -/

/-- A core whose clock is let run is as it was otherwise. -/
theorem Core.ungate_eq (k : Core) : ∃ r, k.ungate = { k with running := r } := by
  unfold Core.ungate
  split
  · exact ⟨k.running, rfl⟩
  · exact ⟨true, rfl⟩

@[simp] theorem State.core_soon (s : State) (evs : List Event) (c : Nat) : (s.soon evs).core c = s.core c := by
  induction evs generalizing s with
  | nil => rfl
  | cons e es ih => exact (ih (s.after 0 e)).trans (State.core_after _ _ _ _)

@[simp] theorem State.soon_mem (s : State) (evs : List Event) : (s.soon evs).mem = s.mem := by
  induction evs generalizing s with
  | nil => rfl
  | cons e es ih => exact ih (s.after 0 e)

@[simp] theorem State.soon_now (s : State) (evs : List Event) : (s.soon evs).now = s.now := by
  induction evs generalizing s with
  | nil => rfl
  | cons e es ih => exact ih (s.after 0 e)

theorem mem_agendaAdd (x e : Due) (ds : List Due) : x ∈ agendaAdd e ds ↔ x = e ∨ x ∈ ds := by
  induction ds with
  | nil => simp [agendaAdd]
  | cons d ds ih =>
    rw [agendaAdd]
    split
    · simp
    · simp [ih, or_left_comm]

/-- What is on the agenda stays on it. -/
theorem State.mem_agenda_after {s : State} {x : Due} (d : Nat) (ev : Event) (h : x ∈ s.agenda) : x ∈ (s.after d ev).agenda :=
  (mem_agendaAdd _ _ _).mpr (.inr h)

theorem now_after (s t : State) (ev : Event) (h : t.now = s.now) : Sys2Proof.Claim.Now s (t.after 0 ev) ev :=
  (mem_agendaAdd _ _ _).mpr (.inl (by rw [h]; rfl))

theorem State.mem_agenda_soon {s : State} {x : Due} (evs : List Event) (h : x ∈ s.agenda) : x ∈ (s.soon evs).agenda := by
  induction evs generalizing s with
  | nil => exact h
  | cons e es ih => exact ih (State.mem_agenda_after 0 e h)

theorem State.kickAll_eq (s : State) (c : Nat) : ∃ evs, s.kickAll c =
    (s.modCore c fun k => ({ k with slots := Table.mapVals Slot.kick k.slots } : Core).ungate).soon evs := ⟨_, rfl⟩

/-- When its slots look again, a core is as it was but for them and its clock. -/
theorem State.core_kickAll_same (s : State) (c : Nat) : ∃ r, (s.kickAll c).core c =
    { s.core c with slots := Table.mapVals Slot.kick (s.core c).slots, running := r } := by
  obtain ⟨evs, he⟩ := State.kickAll_eq s c
  obtain ⟨r, hr⟩ := Core.ungate_eq { s.core c with slots := Table.mapVals Slot.kick (s.core c).slots }
  exact ⟨r, by rw [he, State.core_soon, State.core_modCore_same, hr]⟩

theorem State.core_kickAll_other (s : State) (c d : Nat) (h : d ≠ c) : (s.kickAll c).core d = s.core d := by
  obtain ⟨evs, he⟩ := State.kickAll_eq s c
  rw [he, State.core_soon, State.core_modCore_other _ _ _ _ h]

@[simp] theorem State.kickAll_mem (s : State) (c : Nat) : (s.kickAll c).mem = s.mem := by
  obtain ⟨evs, he⟩ := State.kickAll_eq s c
  rw [he, State.soon_mem, State.modCore_mem]

@[simp] theorem State.kickAll_now (s : State) (c : Nat) : (s.kickAll c).now = s.now := by
  obtain ⟨evs, he⟩ := State.kickAll_eq s c
  rw [he, State.soon_now, State.modCore_now]

theorem State.mem_agenda_kickAll {s : State} {x : Due} (c : Nat) (h : x ∈ s.agenda) : x ∈ (s.kickAll c).agenda := by
  obtain ⟨evs, he⟩ := State.kickAll_eq s c
  rw [he]
  exact State.mem_agenda_soon evs h

/-! ### What a thread gives back -/

theorem Core.endStream_streams (k : Core) (x : Stream) : (k.endStream x).streams = k.streams.filter fun y => y.id != x.id := by
  simp only [Core.endStream]
  split <;> split <;> rfl

theorem Core.endStream_copyq (k : Core) (x : Stream) : (k.endStream x).copyq = k.copyq.filter (· != x.id) := by
  simp only [Core.endStream]
  split <;> split <;> rfl

/-- The streams that the end of some of them leaves. -/
theorem Core.mem_endStreams {k : Core} {xs : List Stream} {y : Stream} (h : y ∈ (xs.foldl Core.endStream k).streams) :
    y ∈ k.streams ∧ ∀ x ∈ xs, y.id ≠ x.id := by
  induction xs generalizing k with
  | nil => exact ⟨h, by simp⟩
  | cons x xs ih =>
    obtain ⟨hy, hxs⟩ := ih h
    rw [Core.endStream_streams, List.mem_filter, bne_iff_ne] at hy
    exact ⟨hy.1, List.forall_mem_cons.mpr ⟨hy.2, hxs⟩⟩

/-- The end of streams gives back their places in the copy queue. -/
theorem Core.mem_endStreams_copyq {k : Core} {xs : List Stream} {i : Nat} (h : i ∈ (xs.foldl Core.endStream k).copyq) :
    i ∈ k.copyq ∧ ∀ x ∈ xs, i ≠ x.id := by
  induction xs generalizing k with
  | nil => exact ⟨h, by simp⟩
  | cons x xs ih =>
    obtain ⟨hi, hxs⟩ := ih h
    rw [Core.endStream_copyq, List.mem_filter, bne_iff_ne] at hi
    exact ⟨hi.1, List.forall_mem_cons.mpr ⟨hi.2, hxs⟩⟩

/-- Giving back the buffers that a thread drains changes handles alone. -/
theorem Core.freeDraining_eq (k : Core) (n : Nat) : ∃ hs, k.freeDraining n = { k with handles := hs } := by
  unfold Core.freeDraining
  induction List.range 64 generalizing k with
  | nil => exact ⟨k.handles, rfl⟩
  | cons h hs ih =>
    simp only [List.foldl_cons]
    split
    · obtain ⟨t, ht⟩ := ih (k.setHandle h { k.handle h with bst := 0, hv := false })
      exact ⟨t, ht⟩
    · exact ih k

/-- The streams and the copy queue of a core that a thread has left. -/
theorem Core.vacate_streams (k : Core) (n : Nat) : (k.vacate n).streams = ((k.streams.filter fun x => x.slot == n).foldl Core.endStream k).streams ∧
    (k.vacate n).copyq = ((k.streams.filter fun x => x.slot == n).foldl Core.endStream k).copyq := by
  obtain ⟨hs, he⟩ := Core.freeDraining_eq ((k.streams.filter fun x => x.slot == n).foldl Core.endStream k) n
  simp only [Core.vacate, he, and_self]

theorem Core.vacate_slots (k : Core) (n : Nat) : ∃ ts os, (k.vacate n).slots = Table.put ts n { orders := os } := by
  simp only [Core.vacate]
  generalize Core.freeDraining _ n = k'
  exact ⟨_, _, rfl⟩

theorem Core.vacate_holder (k : Core) (n b : Nat) : ((k.vacate n).bank b).holder ≠ some n := by
  simp only [Core.vacate, Core.bank]
  generalize Core.freeDraining _ n = k'
  rw [Table.get_mapVals _ _ _ _ rfl]
  split
  · simp
  · rename_i h
    simpa using h

theorem Core.vacate_accHolder (k : Core) (n b : Nat) : ((k.vacate n).acc b).holder ≠ some n := by
  simp only [Core.vacate, Core.acc]
  generalize Core.freeDraining _ n = k'
  rw [Table.get_mapVals _ _ _ _ rfl]
  split
  · simp
  · rename_i h
    simpa using h

theorem Core.vacate_hwaiters (k : Core) (n : Nat) : ∀ w ∈ (k.vacate n).hwaiters, w.slot ≠ n := by
  simp only [Core.vacate]
  generalize Core.freeDraining _ n = k'
  intro w hw
  simpa using (List.mem_filter.mp hw).2

/-- A freed slot's core: that which the thread has left, its slots looking again. -/
theorem State.core_freeSlot (s : State) (c n : Nat) : ∃ r, (s.freeSlot c n).core c =
    { (s.core c).vacate n with slots := Table.mapVals Slot.kick ((s.core c).vacate n).slots, running := r } := by
  obtain ⟨r, hr⟩ := State.core_kickAll_same (s.modCore c fun k => k.vacate n) c
  rw [State.core_modCore_same] at hr
  exact ⟨r, hr⟩

theorem claim_freedSlot : Claim.FreedSlot := by
  intro s c n t
  obtain ⟨r, hcore⟩ : ∃ r, t.core c = _ := State.core_freeSlot s c n
  obtain ⟨ts, os, hslots⟩ := Core.vacate_slots (s.core c) n
  obtain ⟨hstr, hcq⟩ := Core.vacate_streams (s.core c) n
  have hbank := Core.vacate_holder (s.core c) n
  have hacc := Core.vacate_accHolder (s.core c) n
  have hwait := Core.vacate_hwaiters (s.core c) n
  have hother : ∀ d, d ≠ c → t.core d = s.core d := fun d hd =>
    (State.core_kickAll_other _ c d hd).trans (State.core_modCore_other _ _ _ _ hd)
  have hmem : t.mem = s.mem := State.kickAll_mem (s.modCore c fun k => k.vacate n) c
  have hnow : Sys2Proof.Claim.Now s t (.dispatch c) := now_after s _ _ (State.kickAll_now _ _)
  have hagenda : ∀ x ∈ s.agenda, x ∈ t.agenda := fun x hx => State.mem_agenda_after _ _ (State.mem_agenda_kickAll c hx)
  generalize (s.core c).vacate n = k at *
  refine ⟨⟨os, ?_⟩, fun b => ?_, fun b => ?_, fun w hw => ?_, fun x hx => ?_, fun x hx hn hq => ?_, hnow, hagenda, hother, fun a => by rw [hmem]⟩
  · rw [State.slot, hcore, Core.slot, Table.get_mapVals _ _ _ _ rfl, hslots, Table.get_put_same]
    rfl
  · rw [hcore]
    exact hbank b
  · rw [hcore]
    exact hacc b
  · rw [hcore] at hw
    exact hwait w hw
  · rw [hcore] at hx
    obtain ⟨hin, hne⟩ := Core.mem_endStreams (hstr ▸ hx)
    exact ⟨fun hn => hne x (List.mem_filter.mpr ⟨hin, by simp [hn]⟩) rfl, hin⟩
  · rw [hcore] at hq
    obtain ⟨-, hne⟩ := Core.mem_endStreams_copyq (hcq ▸ hq)
    exact hne x (List.mem_filter.mpr ⟨hx, by simp [hn]⟩) rfl

/-- Settles O34: quit by what its thread has outstanding, and the parts of a core that a thread leaves. -/
theorem quitAndFreedSlot : Obligations.QuitAndFreedSlot := ⟨claim_quitForm, claim_freedSlot⟩

end Sys2Proof.Machine
end

section
/-!
PROOFS. mig and link (spec/14 R324, R325), and the handle forms of page 5 (spec/08 R170 to R175).
-/

open Sys2Proof Sys2Proof.Machine Sys2Proof.Claim

namespace Sys2Proof.Machine

/-! ## mig -/

theorem exec_mig (m : Mods) (o : OpB) (s : State) : exec (.mig m o) s = execMig m o s := rfl
theorem exec_link (m : Mods) (o : OpLink) (s : State) : exec (.link m o) s = execLink m o s := rfl

@[simp] theorem State.tiedDown_advance (s : State) : s.advance.myCore.tiedDown s.cur.slot = s.myCore.tiedDown s.cur.slot := by
  rw [State.myCore_advance]
  simp only [Core.tiedDown, Core.slot_setSlot_same, Core.setSlot_acc, Core.setSlot_handle, Core.holdsEntry, Core.setSlot_view]
  rfl

/-- A thread that is tied down does not move (R43). -/
theorem mayMove_tied {α : Type} {s : State} {v : Word} (k : Try α) (h : s.myCore.tiedDown s.cur.slot = true) :
    s.advance.mayMove v k = .error (.trap 25 v 0) :=
  ensure_trap _ (by rw [State.advance_cur, State.tiedDown_advance, h]; rfl)

/-- A thread with normal registers that is not tied down moves once nothing of it is outstanding (R43). -/
theorem mayMove_normal {α : Type} {s : State} {v : Word} (k : Try α) (h : s.myCore.tiedDown s.cur.slot = false)
    (hm : ∀ i, i < 16 → (s.me.reg i).mode = 0) :
    s.advance.mayMove v k = hold (s.me.out.isEmpty && s.me.push.isNone && !(s.me.regs.any fun r => r.2.pend)) .access k := by
  have hfind : (List.range 16).find? (fun i => (s.advance.me.reg i).mode != 0) = none := by
    rw [List.find?_eq_none]
    intro i hi
    rw [State.reg_advance]
    simpa using hm i (List.mem_range.mp hi)
  rw [State.mayMove, ensure_ok _ (by rw [State.advance_cur, State.tiedDown_advance, h]; rfl), hfind, State.me_advance]

theorem claim_migrateForm : Claim.MigrateForm := by
  intro s m o v hg hslot hv hf ha hr
  have hbody : ∀ {α : Type} (k : Try α), s.advance.fabricOperand v (s.advance.routed v k) = k := fun k => by
    rw [fabricOperand_ok _ _ hf ha, routed_advance, routed_ok _ hr]
  refine ⟨fun ht => traps_guarded (exec_mig m o s) hg ?_ (.inl hslot), fun ht hm => ⟨fun ho => waits_guarded (exec_mig m o s) hg ?_ (.inl hslot),
    fun ho hp hpend => ⟨fun hc => ends_guarded (exec_mig m o s) hg ?_, fun hc => ends_guarded (exec_mig m o s) hg ?_⟩⟩⟩
  · rw [notInService_ok _ hslot, withReg_ok _ hv, hbody, mayMove_tied _ ht]
  · rw [notInService_ok _ hslot, withReg_ok _ hv, hbody, mayMove_normal _ ht hm]
    exact hold_wait _ (by simp [ho])
  all_goals
    have hfree : (s.me.out.isEmpty && s.me.push.isNone && !(s.me.regs.any fun r => r.2.pend)) = true := by
      simpa [ho, hp] using fun a b hab => hpend (a, b) hab
    rw [notInService_ok _ hslot, withReg_ok _ hv, hbody, mayMove_normal _ ht hm, hold_ok _ hfree, State.advance_cur]
  · rw [if_pos hc]
  · rw [if_neg hc]

/-! ## link -/

theorem Core.lists_setSlot (k : Core) (n : Nat) (t : Slot) (asid : Nat) : (k.setSlot n t).lists asid = k.lists asid := rfl

@[simp] theorem State.lists_advance (s : State) (d asid : Nat) : (s.advance.core d).lists asid = (s.core d).lists asid := by
  by_cases h : d = s.cur.core
  · subst h
    show (s.advance.myCore).lists asid = _
    rw [State.myCore_advance, Core.lists_setSlot, State.myCore]
  · exact congrArg (fun k : Core => k.lists asid) (State.core_modCore_other _ _ _ _ h)

theorem claim_linkForm : Claim.LinkForm := by
  intro s m o hg hslot hw n r dir
  have hlink : ∀ (k : Try State), notInService s.advance k = k := fun k => notInService_ok k hslot
  refine ⟨fun h0 hm hd => ends_guarded (exec_link m o s) hg ?_, fun h0 hm => traps_guarded (exec_link m o s) hg ?_ (.inl hslot),
    fun sense hs h12 hm hc hb hl => ends_guarded (exec_link m o s) hg ?_, fun h0 hm => traps_guarded (exec_link m o s) hg ?_ (.inl hslot)⟩
  · rw [hlink, if_pos h0, State.reg_advance]
    have hbound : (((s.me.reg o.a.toNat).mode = 2 ∨ (s.me.reg o.a.toNat).mode = 3) ∧ (s.me.reg o.a.toNat).dir = o.idx.toNat % 4) := ⟨hm, hd⟩
    exact ensure_ok _ (by simpa using hbound)
  · rw [hlink, if_pos h0, State.reg_advance]
    exact ensure_trap _ (by simpa [← not_and] using hm)
  · have hs0 : ¬ o.idx.toNat / 4 = 0 := by omega
    have hlists : (sense == 1 || (s.advance.core (neighbour s.cur.core dir)).lists s.advance.me.asid) = true := by
      rw [State.lists_advance, State.asid_advance]
      rcases h12 with h1 | h2
      · simp [h1]
      · rw [hl h2, Bool.or_true]
    rw [hlink, if_neg hs0, State.reg_advance, hs, State.advance_cur, ensure_ok _ (by rw [hm]; rfl), ensure_ok _ (by rw [hc, hb]; rfl), ensure_ok _ hlists]
  · rw [hlink, if_neg h0, State.reg_advance]
    exact ensure_trap _ (by simpa using hm)

/-- Settles O36: what ties a thread down, what it has outstanding, and what a link register is bound to. -/
theorem migrationAndLinks : Obligations.MigrationAndLinks := ⟨claim_migrateForm, claim_linkForm⟩

/-! ## hcfg, hexpect, hexpect.a and harr -/

theorem exec_hcfg (m : Mods) (o : OpHb) (s : State) : exec (.hcfg m o) s = execHcfg m o s := rfl
theorem exec_hexpect (m : Mods) (o : OpHb) (s : State) : exec (.hexpect m o) s = execHexpect m o s := rfl
theorem exec_hexpectA (m : Mods) (o : OpHb) (s : State) : exec (.hexpectA m o) s = execHexpectA m o s := rfl
theorem exec_harr (m : Mods) (o : OpH) (s : State) : exec (.harr m o) s = execHarr m o s := rfl
theorem exec_hwaitP (m : Mods) (o : OpHb) (s : State) : exec (.hwaitP m o) s = execHwaitP m o s := rfl
theorem exec_hwaitS (m : Mods) (o : OpHb) (s : State) : exec (.hwaitS m o) s = execHwaitS m o s := rfl
theorem exec_hacq (m : Mods) (o : OpH) (s : State) : exec (.hacq m o) s = execHacq m o s := rfl
theorem exec_hrel (m : Mods) (o : OpH) (s : State) : exec (.hrel m o) s = execHrel m o s := rfl

theorem releasing_ok {α : Type} {s : State} {mask : BitVec 5} (k : Try α) (h : Released s mask) : s.releasing mask k = k :=
  hold_ok k (by rw [h]; rfl)

theorem releasing_held {α : Type} {s : State} {mask : BitVec 5} (k : Try α) (h : ¬ Released s mask) : s.releasing mask k = .error (.wait .access) :=
  hold_wait k (by rw [(Bool.not_eq_false _).mp h]; rfl)

@[simp] theorem released_advance (s : State) (mask : BitVec 5) : Released s.advance mask ↔ Released s mask := by
  simp only [Released, State.out_advance]

@[simp] theorem State.handle_advance (s : State) (h : Nat) : s.advance.myCore.handle h = s.myCore.handle h := by
  rw [State.myCore_advance, Core.setSlot_handle]

@[simp] theorem State.handle_consume (s : State) (r : List (SReg × Bool)) (h : Nat) : (s.consume r).myCore.handle h = s.myCore.handle h :=
  State.myCore_consume_field s r (fun k => k.handle h) fun _ => rfl

/-- A barrier's change joins those of its cycle (R171). -/
theorem barrierForm_ok {s t : State} {h : HNum} (c : HandleChange) (hcur : t.cur = s.cur) (hasid : t.me.asid = s.me.asid)
    (hb : (t.myCore.handle h.toNat).buffer = false) (ht : (t.myCore.handle h.toNat).tgt ≠ 0) :
    t.barrierForm h c = .ok (t.changeHandle s.cur.core (handleChange s h c)) := by
  rw [State.barrierForm, ensure_ok _ (by simp [hb, ht]), hcur, hasid]
  rfl

theorem barrierForm_trap {t : State} {h : HNum} (c : HandleChange) (hb : (t.myCore.handle h.toNat).buffer = true ∨ (t.myCore.handle h.toNat).tgt = 0) :
    t.barrierForm h c = .error (.trap 15 0 h.toNat) :=
  ensure_trap _ (by rcases hb with hb | hb <;> simp [hb])

theorem claim_handleForms : Claim.HandleForms := by
  intro s m hg
  refine ⟨fun o v hv => ?_, fun o hrel hb ht => ends_guarded (exec_harr m o s) hg ?_⟩
  · intro t x
    have hcur : t.cur = s.cur := State.consume_cur s.advance _
    have hasid : t.me.asid = s.me.asid := (State.asid_consume s.advance _).trans (State.asid_advance s)
    refine ⟨fun h17 h7 hz ha hp hbst hbusy => ends_guarded (exec_hcfg m o s) hg ?_, fun h47 hb ht => ⟨ends_guarded (exec_hexpect m o s) hg ?_,
      fun hrel => ends_guarded (exec_hexpectA m o s) hg ?_⟩, fun h47 hb => traps_guarded (exec_hexpect m o s) hg ?_ (.inr (by decide))⟩
    · have hfield : field v 1 7 = 0 := h7
      have hok : (decide (v.toNat < 2 ^ 17) && field v 1 7 == 0 && (v.getLsbD 0 || field v 8 8 != 0) && x.arr == 0 && x.pend == 0 &&
          !(x.buffer && x.bst != 0) && !t.handleBusy s.cur.core o.h.toNat) = true := by
        have hz' : (v.getLsbD 0 || field v 8 8 != 0) = true := by
          rw [Bool.or_eq_true, bne_iff_ne]
          exact hz
        have hb' : (x.buffer && x.bst != 0) = false := by
          rw [Bool.eq_false_iff, ne_eq, Bool.and_eq_true, bne_iff_ne]
          exact hbst
        simp only [h17, hfield, hz', ha, hp, hb', hbusy, decide_true, beq_self_eq_true, Bool.and_self, Bool.not_false]
      rw [reading_ok _ _ hv]
      show ensure (_ && !t.handleBusy t.cur.core o.h.toNat) 15 0 o.h.toNat _ = _
      rw [hcur, ensure_ok _ hok]
      rfl
    · rw [reading_ok _ _ hv, ensure_ok _ (decide_eq_true h47)]
      exact barrierForm_ok _ hcur hasid hb ht
    · rw [reading_ok _ _ hv, ensure_ok _ (decide_eq_true h47), releasing_ok (mask := maskCP) _ hrel]
      exact barrierForm_ok _ hcur hasid hb ht
    · rw [reading_ok _ _ hv, ensure_ok _ (decide_eq_true h47)]
      exact barrierForm_trap _ hb
  · rw [releasing_ok (mask := maskCP) _ ((released_advance s _).mpr hrel)]
    exact barrierForm_ok _ rfl (State.asid_advance s) (by rwa [State.handle_advance]) (by rwa [State.handle_advance])

/-! ## hwait.p, hwait.s, hacq and hrel -/

/-- The thread waits at the handle with what the statements say. -/
theorem waitAt_eq (s : State) (m : Mods) (h : HNum) (kind : Nat) (v : BitVec 32) (takes : List (Nat × Bool)) :
    s.advance.waitAt { h := h.toNat, slot := s.cur.slot, kind := kind, v := v, takes := takes } m.sw = waitsAt s m h kind v takes := rfl

theorem hwaitForm_eq {s : State} {o : OpHb} {v : Word} (m : Mods) (kind : Nat) (hslot : s.cur.slot ≠ 15) (hv : s.peek o.b = .ok v) :
    s.advance.hwaitForm m o kind = ensure (!(s.myCore.handle o.h.toNat).f) 16 0 (o.h.toNat + (s.myCore.handle o.h.toNat).fc * 2 ^ 8)
      (if (s.myCore.handle o.h.toNat).holds kind (v.setWidth 32) then .ok (s.advance.consume [(o.b, o.q)])
       else .ok (waitsAt s m o.h kind (v.setWidth 32) [(o.b.toNat, o.q)])) := by
  rw [State.hwaitForm, notInService_ok _ hslot, readable_advance, readable_ok _ hv, State.peek_advance, hv]
  simp only [State.handle_advance, State.advance_cur, waitAt_eq]

theorem Handle.holds_parity (x : Handle) (v : BitVec 32) : x.holds 0 v = (x.seq.getLsbD 0 != v.getLsbD 0) := rfl

theorem Handle.holds_past (x : Handle) (v : BitVec 32) : x.holds 1 v = decide (0 ≤ (x.seq - v).toInt) := by
  simp [Handle.holds, BitVec.msb_eq_toInt, ← decide_not]

theorem claim_handleWaits : Claim.HandleWaits := by
  intro s m hg hslot
  refine ⟨fun o v hv => ?_, fun o => ?_⟩
  · intro x past
    have hp : ∀ kind, x.f = false → s.advance.hwaitForm m o kind = if x.holds kind (v.setWidth 32) then .ok (s.advance.consume [(o.b, o.q)])
        else .ok (waitsAt s m o.h kind (v.setWidth 32) [(o.b.toNat, o.q)]) := fun kind hf =>
      (hwaitForm_eq m kind hslot hv).trans (ensure_ok _ (by rw [hf]; rfl))
    have hfault : ∀ kind, x.f = true → s.advance.hwaitForm m o kind = .error (.trap 16 0 (o.h.toNat + x.fc * 2 ^ 8)) := fun kind hf =>
      (hwaitForm_eq m kind hslot hv).trans (ensure_trap _ (by rw [hf]; rfl))
    have hbit : (v.setWidth 32).getLsbD 0 = v.getLsbD 0 := by simp
    refine ⟨fun hf => ⟨traps_guarded (exec_hwaitP m o s) hg (hfault 0 hf) (.inl hslot), traps_guarded (exec_hwaitS m o s) hg (hfault 1 hf) (.inl hslot)⟩,
      fun hf hb => ends_guarded (exec_hwaitP m o s) hg ?_, fun hf hb => ends_guarded (exec_hwaitP m o s) hg ?_,
      fun hf hb => ends_guarded (exec_hwaitS m o s) hg ?_, fun hf hb => ends_guarded (exec_hwaitS m o s) hg ?_⟩
    · rw [hp 0 hf, Handle.holds_parity, hbit, if_pos (by simpa using hb)]
    · rw [hp 0 hf, Handle.holds_parity, hbit, if_neg (by simpa using hb)]
    · rw [hp 1 hf, Handle.holds_past, if_pos (decide_eq_true hb)]
    · rw [hp 1 hf, Handle.holds_past, if_neg (by rw [decide_eq_true_iff]; exact hb)]
  · intro x
    have hx : s.advance.myCore.handle o.h.toNat = x := State.handle_advance s _
    refine ⟨fun hb hf h2 => ends_guarded (exec_hacq m o s) hg ?_, fun hb hf h2 => ends_guarded (exec_hacq m o s) hg ?_,
      fun hb => traps_guarded (exec_hacq m o s) hg ?_ (.inl hslot), fun hb h3 hv hs hrel => ends_guarded (exec_hrel m o s) hg ?_,
      fun hn => traps_guarded (exec_hrel m o s) hg ?_ (.inl hslot)⟩
    · simp only [notInService_ok _ hslot, hx]
      rw [ensure_ok _ hb, ensure_ok _ (by rw [hf]; rfl), ensure_ok _ (by rw [h2]; rfl), if_pos h2]
      rfl
    · simp only [notInService_ok _ hslot, hx]
      rw [ensure_ok _ hb, ensure_ok _ (by rw [hf]; rfl), ensure_ok _ (bne_iff_ne.mpr (by omega)),
        if_neg (by omega)]
      rfl
    · simp only [notInService_ok _ hslot, hx]
      rw [ensure_trap _ hb]
    · simp only [hx]
      rw [ensure_ok _ (by simp [hb, h3, hv, hs]), releasing_ok (mask := maskCE) _ ((released_advance s _).mpr hrel)]
      rfl
    · simp only [hx]
      exact ensure_trap _ (Bool.eq_false_iff.mpr fun h => hn (by simpa [and_assoc] using h))

/-- Settles O29: a handle's form by the handle's state. -/
theorem handleForms : Obligations.HandleForms := ⟨claim_handleForms, claim_handleWaits⟩

end Sys2Proof.Machine
end

section
/-!
PROOFS. The events of the banks and the clock (spec/02 R36, R40, R193).
-/

open Sys2Proof Sys2Proof.Machine Sys2Proof.Claim

namespace Sys2Proof.Machine

/-! ## Events -/

/-- An event that is performed from a state that holds none. -/
theorem occurs_of {i : Instr} {s t : State} {e : Event} {f : State → Event → Option State} (he : ∀ u, exec i u = u.perform f) (hf : f s e = some t) :
    Occurs i s e t := by
  intro hn
  rw [he]
  refine perform_some rfl ?_
  have hs : ({ ({ s with event := some e } : State) with event := none } : State) = s := by
    cases s
    simp only at hn
    simp only [hn]
  rw [hs, hf]

theorem happens_of {i : Instr} {s t : State} {e : Event} {f : State → Event → Option State} {p : State → Prop} (he : ∀ u, exec i u = u.perform f)
    (hf : f s e = some t) (hp : p t) : Happens i s e p := fun hn => ⟨t, occurs_of he hf hn, hp⟩

/-! ## Banks and clocks -/

theorem Slot.kick_rest (t : Slot) : ∃ st why mk, t.kick = { t with st := st, why := why, marker := mk } := by
  unfold Slot.kick
  split
  · exact Slot.release_rest t
  · exact ⟨t.st, t.why, t.marker, rfl⟩

@[simp] theorem Slot.kick_regs (t : Slot) : t.kick.regs = t.regs := by
  obtain ⟨st, why, mk, h⟩ := Slot.kick_rest t
  rw [h]

@[simp] theorem Slot.kick_throttled (t : Slot) : t.kick.throttled = t.throttled := by
  obtain ⟨st, why, mk, h⟩ := Slot.kick_rest t
  rw [h]

/-- Looking again changes no slot that is not Held. -/
theorem Slot.kick_of_not_held {t : Slot} (h : t.st ≠ .held) : t.kick = t := by
  rw [Slot.kick, if_neg (by simpa using h)]

theorem State.slot_kickAll_same (s : State) (c n : Nat) : (s.kickAll c).slot c n = (s.slot c n).kick := by
  obtain ⟨r, hr⟩ := State.core_kickAll_same s c
  rw [State.slot, hr, Core.slot, Table.get_mapVals _ _ _ _ rfl]
  rfl

theorem State.slot_kickAll_other (s : State) (c d n : Nat) (h : d ≠ c) : (s.kickAll c).slot d n = s.slot d n := by
  rw [State.slot, State.core_kickAll_other s c d h, State.slot]

@[simp] theorem State.bank_kickAll (s : State) (c b : Nat) : ((s.kickAll c).core c).bank b = (s.core c).bank b := by
  obtain ⟨r, hr⟩ := State.core_kickAll_same s c
  rw [hr]
  rfl

@[simp] theorem State.bank_risen (s : State) (c b i : Nat) : ((s.risen c b).core c).bank i = (s.core c).bank i := by
  rw [State.risen, State.core_soon, State.core_modCore_same]
  rfl

@[simp] theorem State.risen_mem (s : State) (c b : Nat) : (s.risen c b).mem = s.mem := by
  rw [State.risen, State.soon_mem, State.modCore_mem]

@[simp] theorem Core.bank_setBank_same (k : Core) (b : Nat) (x : Bank) : (k.setBank b x).bank b = x := Table.get_put_same _ _ _ _
theorem Core.bank_setBank_other (k : Core) (b i : Nat) (x : Bank) (h : i ≠ b) : (k.setBank b x).bank i = k.bank i := Table.get_put_other _ _ _ _ _ h

theorem exec_bankRise (s : State) : exec .bankRiseComplete s = execBankRiseComplete s := rfl
theorem exec_bankClear (s : State) : exec .bankClearComplete s = execBankClearComplete s := rfl
theorem exec_clockGate (s : State) : exec .clockGate s = execClockGate s := rfl
theorem exec_throttleExpiry (s : State) : exec .spawnThrottleExpiry s = execSpawnThrottleExpiry s := rfl

/-- A rise that has ended puts its bank on, and only its bank. -/
theorem bank_afterRise (s : State) (c b i : Nat) (x : Bank) :
    (((((s.modCore c fun k => k.setBank b x).kickAll c).risen c b)).core c).bank i = if i = b then x else (s.core c).bank i := by
  rw [State.bank_risen, State.bank_kickAll, State.core_modCore_same]
  by_cases h : i = b
  · rw [if_pos h, h, Core.bank_setBank_same]
  · rw [if_neg h, Core.bank_setBank_other _ _ _ _ h]

/-- A throttled thread's expiry at its core. -/
theorem core_throttleExpiry (s : State) (c n : Nat) :
    ∃ r, (s.modCore c fun k => (k.setSlot n ({ k.slot n with throttled := false } : Slot).kick).ungate).core c =
      { (s.core c).setSlot n ({ (s.core c).slot n with throttled := false } : Slot).kick with running := r } := by
  obtain ⟨r, hr⟩ := Core.ungate_eq ((s.core c).setSlot n ({ (s.core c).slot n with throttled := false } : Slot).kick)
  exact ⟨r, by rw [State.core_modCore_same, hr]⟩

/-- The slots of a core after a throttle's expiry. -/
theorem slot_throttleExpiry (s : State) (c n i : Nat) :
    (s.modCore c fun k => (k.setSlot n ({ k.slot n with throttled := false } : Slot).kick).ungate).slot c i =
      if i = n then ({ (s.core c).slot n with throttled := false } : Slot).kick else s.slot c i := by
  rw [State.slot, State.core_modCore_same, Core.slot_ungate]
  by_cases h : i = n
  · rw [if_pos h, h, Core.slot_setSlot_same]
  · rw [if_neg h, Core.slot_setSlot_other _ _ _ _ h, State.slot]

/-- A bank of a slot whose clearing has ended (R36). -/
theorem Bank.freed_eq (x : Bank) (n now : Nat) : (if x.holder == some n then x.cleared now else x) =
    if x.holder = some n ∧ (∃ u, x.clears = some u ∧ u ≤ now) then { x with clears := none } else x := by
  by_cases h : x.holder = some n
  · rw [if_pos (beq_iff_eq.mpr h)]
    obtain ⟨holder, power, rising, clears⟩ := x
    cases clears with
    | none => simp [Bank.cleared]
    | some u =>
      by_cases hu : u ≤ now
      · simp only at h
        simp [Bank.cleared, Option.filter, h, hu]
      · simp [Bank.cleared, Option.filter, hu, Nat.lt_of_not_le hu]
  · simp [h]

theorem any_le_of_rising {o : Option Nat} {now : Nat} (h : ∀ u, o = some u → now < u) : ¬ o.any (· ≤ now) = true := by
  cases o with
  | none => simp
  | some u => simpa using h u rfl

/-- Settles O50: each event's change of its core, and that looking again leaves the banks and the registers. -/
theorem banksAndClocks : Obligations.BanksAndClocks := by
  intro s c k
  refine ⟨fun b hr => occurs_of exec_bankRise (if_neg (any_le_of_rising hr)),
    fun b u hu hle => happens_of exec_bankRise (if_pos ?_) ⟨fun a => ?_, ?_, fun i hi => ?_⟩,
    fun n => happens_of exec_bankClear rfl ⟨fun a => ?_, ?_, fun b => ?_⟩, fun n => happens_of exec_throttleExpiry rfl ⟨fun a => rfl, ?_, ?_, ?_, fun i hi => ?_⟩,
    fun h => occurs_of exec_clockGate (if_pos ?_), fun hb hr => happens_of exec_clockGate (if_neg ?_) ⟨fun a => rfl, ?_, ?_, fun b => ?_⟩⟩
  · have hu' : ((s.core c).bank b).rising = some u := hu
    rw [hu']
    exact decide_eq_true hle
  · rw [State.risen_mem, State.kickAll_mem, State.modCore_mem]
  · rw [bank_afterRise, if_pos rfl]
  · rw [bank_afterRise, if_neg hi]
  · rw [State.kickAll_mem, State.modCore_mem]
  · rw [State.slot_kickAll_same, Slot.kick_regs, State.slot_modCore_of_slots rfl, State.slot]
  · rw [State.bank_kickAll, State.core_modCore_same]
    exact (Table.get_mapVals _ _ _ _ rfl).trans (Bank.freed_eq _ n s.now)
  · rw [slot_throttleExpiry, if_pos rfl, Slot.kick_throttled]
  · rw [slot_throttleExpiry, if_pos rfl, Slot.kick_regs]
  · obtain ⟨r, h⟩ := core_throttleExpiry s c n
    rw [h]
    rfl
  · rw [slot_throttleExpiry, if_neg hi]
    rfl
  · rcases h with h | h
    · rw [h, Bool.true_or]
    · rw [show (s.core c).running = false from h, Bool.not_false, Bool.or_true]
  · rw [hb, show (s.core c).running = true from hr]
    exact Bool.false_ne_true
  · rw [State.core_setCore_same]
  · rw [State.core_setCore_same]
  · rw [State.core_setCore_same]
    show Table.get {} (if k.retainCtl then Table.mapVals _ k.banks else k.banks) b = _
    cases hk : k.retainCtl with
    | false => simp [Core.bank]
    | true =>
      rw [if_pos rfl, Table.get_mapVals _ _ _ _ rfl]
      simp only [Core.bank, Bool.and_eq_true, beq_iff_eq, true_and]

end Sys2Proof.Machine
end

section
/-!
PROOFS. The issue of an access of page 1 (spec/12 R265 to R270): every form comes to `access` of the plan that it describes, and what stops or holds
that.
-/

open Sys2Proof Sys2Proof.Machine Sys2Proof.Claim

namespace Sys2Proof.Machine

/-! ## Every form of page 1 is the access that it describes -/

/-- The instruction is, under its guard, the access of a plan. -/
def IsAccess (s : State) (i : Instr) (m : Mods) (p : Plan) : Prop :=
  ∃ body, exec i s = s.guarded m body ∧ body s.advance = s.advance.access p

theorem withEa_ok {s : State} {b : SReg} {u : Word} (off : BitVec 40) (k : Word → Try State) (h : s.peek b = .ok u) :
    s.advance.withEa b off k = k (u + off.signExtend 64) := by
  simp only [State.withEa, readable_advance, readable_ok _ h, State.peek_advance, h, immWord]

theorem readableAll_ok {α : Type} {s : State} {rs : List SReg} (k : Try α) (h : ∀ r ∈ rs, ∃ v, s.peek r = .ok v) : s.advance.readableAll rs k = k := by
  induction rs with
  | nil => rfl
  | cons r rs ih =>
    obtain ⟨v, hv⟩ := h r List.mem_cons_self
    rw [State.readableAll, readable_advance, readable_ok _ hv, ih fun x hx => h x (List.mem_cons_of_mem r hx)]

/-- A value that can be read. -/
theorem ok_of_read {r : Try Word} {v : Word} (h : (match r with | .ok v => some v | _ => none) = some v) : r = .ok v := by
  cases r with
  | ok u => exact congrArg _ (Option.some.inj h)
  | error e => simp at h

theorem exec_ld (m : Mods) (o : OpLd) (s : State) : exec (.ld m o) s = execLd m o s := rfl
theorem exec_ldt (m : Mods) (o : OpLdt) (s : State) : exec (.ldt m o) s = execLdt m o s := rfl
theorem exec_ldf (m : Mods) (o : OpLdf) (s : State) : exec (.ldf m o) s = execLdf m o s := rfl
theorem exec_ldfe (m : Mods) (o : OpLdf) (s : State) : exec (.ldfe m o) s = execLdfe m o s := rfl
theorem exec_st (m : Mods) (o : OpLd) (s : State) : exec (.st m o) s = execSt m o s := rfl
theorem exec_stef (m : Mods) (o : OpLdf) (s : State) : exec (.stef m o) s = execStef m o s := rfl
theorem exec_setf (m : Mods) (o : OpSet) (s : State) : exec (.setf m o) s = execSetf m o s := rfl
theorem exec_sete (m : Mods) (o : OpSet) (s : State) : exec (.sete m o) s = execSete m o s := rfl
theorem exec_amoSwapW (m : Mods) (o : OpAmo) (s : State) : exec (.amoSwapW m o) s = execAmoSwapW m o s := rfl
theorem exec_amoSwapD (m : Mods) (o : OpAmo) (s : State) : exec (.amoSwapD m o) s = execAmoSwapD m o s := rfl
theorem exec_amoOp (m : Mods) (o : OpAmoOp) (s : State) : exec (.amoOp m o) s = execAmoOp m o s := rfl
theorem exec_casW (m : Mods) (o : OpCas) (s : State) : exec (.casW m o) s = execCasW m o s := rfl
theorem exec_casD (m : Mods) (o : OpCas) (s : State) : exec (.casD m o) s = execCasD m o s := rfl
theorem exec_fence (m : Mods) (o : OpFence) (s : State) : exec (.fence m o) s = execFence m o s := rfl

section
variable {s : State} {u v w : Word}

theorem loadForm_ok {b : SReg} (q : Bool) (off : BitVec 40) (x : MemX) (fills : List SReg) (op : MemOp) (presence writes : Bool) (hb : s.peek b = .ok u) :
    s.advance.loadForm b q off x fills op presence writes = s.advance.access
      { ea := u + off.signExtend 64, op := op, ord := loadOrder x, x := x, fills := fills, takes := [(b, q)], presence := presence, writes := writes } :=
  withEa_ok off _ hb

theorem storeForm_ok {a b : SReg} (q : Bool) (off : BitVec 40) (x : MemX) (op : Word → MemOp) (presence : Bool) (hb : s.peek b = .ok u)
    (ha : s.peek a = .ok v) : s.advance.storeForm a b q off x op presence = s.advance.access
      { ea := u + off.signExtend 64, op := op v, ord := storeOrder x, x := x, takes := [(b, q), (a, false)], presence := presence, writes := true } := by
  rw [State.storeForm, readableAll_ok _ (by simp [ha, hb]), withEa_ok off _ hb, withReg_ok _ ha]

theorem markForm_ok {o : OpSet} (op : MemOp) (hb : s.peek o.b = .ok u) : s.advance.markForm o op = s.advance.access
    { ea := u + o.off.signExtend 64, op := op, ord := storeOrder o.x, x := o.x, takes := [(o.b, o.q)], presence := true, writes := true, anyByte := true } :=
  withEa_ok o.off _ hb

theorem amoForm_ok {o : OpAmo} (k : AmoKind) (n : Nat) (hb : s.peek o.b = .ok u) (ha : s.peek o.a = .ok v) : s.advance.amoForm k n o = s.advance.access
    { ea := u + o.off.signExtend 64, op := .amo k n v, ord := atomicOrder o.x, x := o.x, fills := [o.a], takes := [(o.b, o.q), (o.a, false)],
      presence := true, writes := true } := by
  rw [State.amoForm, readableAll_ok _ (by simp [ha, hb]), withEa_ok o.off _ hb, withReg_ok _ ha]

theorem casForm_ok {o : OpCas} (n : Nat) (hb : s.peek o.b = .ok u) (ha : s.peek o.a = .ok v) (hc : s.peek o.c = .ok w) :
    s.advance.casForm n o = s.advance.access
      { ea := u + o.off.signExtend 64, op := .cas n v w, ord := atomicOrder o.x, x := o.x, fills := [o.a],
        takes := [(o.b, o.q), (o.a, false), (o.c, false)], presence := true, writes := true } := by
  rw [State.casForm, readableAll_ok _ (by simp [ha, hb, hc]), withEa_ok o.off _ hb, withReg_ok _ ha, withReg_ok _ hc]

end

@[simp] theorem State.view_advance (s : State) (i : Nat) : s.advance.myCore.view i = s.myCore.view i := by
  rw [State.myCore_advance]
  rfl

/-- The kind of `amo.op` by its code, in the order of R235. -/
theorem amoKind_get (op : BitVec 3) : [AmoKind.add, .and, .or, .xor, .min, .max, .minu, .maxu][op.toNat]? = some (amoKindOf op) := by
  revert op
  decide

section
variable {s : State} {n m : Mods} {p : Plan}

theorem isAccess_ld {o : OpLd} (h : accessOf s (.ld n o) = some (m, p)) : IsAccess s (.ld n o) m p := by
  obtain ⟨sz, a, b, q, off, c, x⟩ := o
  cases c with
  | none =>
    obtain ⟨u, hb, h⟩ := Option.map_eq_some_iff.mp h
    obtain ⟨rfl, rfl⟩ := h
    exact ⟨_, exec_ld .., loadForm_ok q off x [a] _ false false (ok_of_read hb)⟩
  | some c =>
    obtain ⟨w, hc, h⟩ := Option.bind_eq_some_iff.mp h
    obtain ⟨r, h, hp⟩ := Option.map_eq_some_iff.mp h
    obtain ⟨u, hb, h⟩ := Option.map_eq_some_iff.mp h
    subst h
    simp only [Prod.mk.injEq] at hp
    obtain ⟨rfl, rfl⟩ := hp
    have hb := ok_of_read hb
    have hc := ok_of_read hc
    refine ⟨_, exec_ld .., ?_⟩
    simp only
    rw [readableAll_ok _ (by simp [hb, hc]), withEa_ok off _ hb, withReg_ok _ hc]
    simp only [State.advance_cur, State.view_advance, sizeOf]

theorem isAccess_st {o : OpLd} (h : accessOf s (.st n o) = some (m, p)) : IsAccess s (.st n o) m p := by
  obtain ⟨sz, a, b, q, off, c, x⟩ := o
  cases c with
  | none =>
    obtain ⟨u, hb, h⟩ := Option.bind_eq_some_iff.mp h
    obtain ⟨v, ha, h⟩ := Option.map_eq_some_iff.mp h
    obtain ⟨rfl, rfl⟩ := h
    exact ⟨_, exec_st .., storeForm_ok q off x _ false (ok_of_read hb) (ok_of_read ha)⟩
  | some c =>
    obtain ⟨w, hc, h⟩ := Option.bind_eq_some_iff.mp h
    obtain ⟨r, h, hp⟩ := Option.map_eq_some_iff.mp h
    obtain ⟨u, hb, h⟩ := Option.bind_eq_some_iff.mp h
    obtain ⟨v, ha, h⟩ := Option.map_eq_some_iff.mp h
    subst h
    simp only [Prod.mk.injEq] at hp
    obtain ⟨rfl, rfl⟩ := hp
    have ha := ok_of_read ha
    have hb := ok_of_read hb
    have hc := ok_of_read hc
    refine ⟨_, exec_st .., ?_⟩
    simp only
    rw [readableAll_ok _ (by simp [ha, hb, hc]), withEa_ok off _ hb, withReg_ok _ ha, withReg_ok _ hc]
    simp only [State.advance_cur, State.view_advance, sizeOf]

/-- The operands of an atomic, and what it does with them. -/
theorem atomic_of_access {a b : SReg} {mk : Word → Word → MemOp → Mods × Plan} {op : Word → Option MemOp} {r : Mods × Plan}
    (h : ((match s.peek b with | .ok v => some v | _ => none).bind fun u => (match s.peek a with | .ok v => some v | _ => none).bind fun v =>
      (op v).map (mk u v)) = some r) : ∃ u v x, s.peek b = .ok u ∧ s.peek a = .ok v ∧ op v = some x ∧ mk u v x = r := by
  obtain ⟨u, hb, h⟩ := Option.bind_eq_some_iff.mp h
  obtain ⟨v, ha, h⟩ := Option.bind_eq_some_iff.mp h
  obtain ⟨x, hx, h⟩ := Option.map_eq_some_iff.mp h
  exact ⟨u, v, x, ok_of_read hb, ok_of_read ha, hx, h⟩

theorem isAccess_amoOp {o : OpAmoOp} (h : accessOf s (.amoOp n o) = some (m, p)) : IsAccess s (.amoOp n o) m p := by
  obtain ⟨u, v, x, hb, ha, hx, h⟩ := atomic_of_access h
  obtain ⟨rfl, rfl⟩ := h
  rw [amoKind_get, Option.map_some, Option.some.injEq] at hx
  subst hx
  exact ⟨_, exec_amoOp .., amoForm_ok (amoKindOf o.op) _ hb ha⟩

/-- Every form that describes an access is that access. -/
theorem isAccess_of_accessOf {i : Instr} (h : accessOf s i = some (m, p)) : IsAccess s i m p := by
  cases i with
  | ld n o => exact isAccess_ld h
  | st n o => exact isAccess_st h
  | ldt n o =>
    obtain ⟨u, hb, h⟩ := Option.map_eq_some_iff.mp h
    obtain ⟨rfl, rfl⟩ := h
    exact ⟨_, exec_ldt .., loadForm_ok o.q o.off o.x _ _ true false (ok_of_read hb)⟩
  | ldf n o =>
    obtain ⟨u, hb, h⟩ := Option.map_eq_some_iff.mp h
    obtain ⟨rfl, rfl⟩ := h
    exact ⟨_, exec_ldf .., loadForm_ok o.q o.off o.x _ _ true false (ok_of_read hb)⟩
  | ldfe n o =>
    obtain ⟨u, hb, h⟩ := Option.map_eq_some_iff.mp h
    obtain ⟨rfl, rfl⟩ := h
    exact ⟨_, exec_ldfe .., loadForm_ok o.q o.off o.x _ _ true false (ok_of_read hb)⟩
  | stef n o =>
    obtain ⟨u, hb, h⟩ := Option.bind_eq_some_iff.mp h
    obtain ⟨v, ha, h⟩ := Option.map_eq_some_iff.mp h
    obtain ⟨rfl, rfl⟩ := h
    exact ⟨_, exec_stef .., storeForm_ok o.q o.off o.x _ true (ok_of_read hb) (ok_of_read ha)⟩
  | setf n o =>
    obtain ⟨u, hb, h⟩ := Option.map_eq_some_iff.mp h
    obtain ⟨rfl, rfl⟩ := h
    exact ⟨_, exec_setf .., markForm_ok _ (ok_of_read hb)⟩
  | sete n o =>
    obtain ⟨u, hb, h⟩ := Option.map_eq_some_iff.mp h
    obtain ⟨rfl, rfl⟩ := h
    exact ⟨_, exec_sete .., markForm_ok _ (ok_of_read hb)⟩
  | amoSwapW n o =>
    obtain ⟨u, v, x, hb, ha, hx, h⟩ := atomic_of_access h
    obtain ⟨rfl, rfl⟩ := h
    obtain rfl := Option.some.inj hx
    exact ⟨_, exec_amoSwapW .., amoForm_ok _ _ hb ha⟩
  | amoSwapD n o =>
    obtain ⟨u, v, x, hb, ha, hx, h⟩ := atomic_of_access h
    obtain ⟨rfl, rfl⟩ := h
    obtain rfl := Option.some.inj hx
    exact ⟨_, exec_amoSwapD .., amoForm_ok _ _ hb ha⟩
  | amoOp n o => exact isAccess_amoOp h
  | casW n o =>
    obtain ⟨u, v, x, hb, ha, hx, h⟩ := atomic_of_access h
    obtain ⟨rfl, rfl⟩ := h
    obtain ⟨w, hc, rfl⟩ := Option.map_eq_some_iff.mp hx
    exact ⟨_, exec_casW .., casForm_ok _ hb ha (ok_of_read hc)⟩
  | casD n o =>
    obtain ⟨u, v, x, hb, ha, hx, h⟩ := atomic_of_access h
    obtain ⟨rfl, rfl⟩ := h
    obtain ⟨w, hc, rfl⟩ := Option.map_eq_some_iff.mp hx
    exact ⟨_, exec_casD .., casForm_ok _ hb ha (ok_of_read hc)⟩
  | _ => exact absurd h (by simp [accessOf])

end

/-! ## What stops an access -/

@[simp] theorem State.windowHole_advance (s : State) (off : Nat) : s.advance.myCore.windowHole off = s.myCore.windowHole off := by
  rw [State.myCore_advance]
  rfl

@[simp] theorem State.lineAt_advance (s : State) (off : Nat) : s.advance.myCore.lineAt off = s.myCore.lineAt off := by
  rw [State.myCore_advance]
  rfl

@[simp] theorem State.entryOk_advance (s : State) (e : Option (Word × Bool)) : s.advance.entryOk e = s.entryOk e := by
  cases e with
  | none => rfl
  | some e => simp only [State.entryOk, State.view_advance, State.advance_cur]

@[simp] theorem State.accessChecks_advance {α : Type} (s : State) (p : Plan) (k : Try α) : s.advance.accessChecks p k = s.accessChecks p k := by
  simp only [State.accessChecks, State.advance_cur, State.myRoutes_advance, State.windowHole_advance, State.lineAt_advance, State.entryOk_advance,
    State.sup_advance, State.reg_advance]

@[simp] theorem State.orphans_advance (s : State) : s.advance.myCore.orphans = s.myCore.orphans := by
  rw [State.myCore_advance]
  rfl

@[simp] theorem State.storesOut_advance (s : State) : s.advance.storesOut = s.storesOut := by
  simp only [State.storesOut, State.live_advance, State.orphans_advance, State.jrn_advance, State.advance_cur]

@[simp] theorem State.mayCount_advance (s : State) (out : List Acc) (d path : Nat) (ordered : Bool) :
    s.advance.me.mayCount out d path ordered = s.me.mayCount out d path ordered := by
  rw [State.me_advance]
  rfl

/-- The ordering record has room for the access (R349). -/
def Counts (s : State) (p : Plan) : Prop :=
  ∀ d, homeOf s.cur.core p.ea = .other d → p.posted (homeOf s.cur.core p.ea) = true →
    s.me.mayCount s.storesOut d (((s.hub (devOf s.cur.core)).choosePath d).getD 0) p.ord.ordered = true

/-- The check of `access` on the ordering record. -/
def countsNow (s : State) (p : Plan) : Bool :=
  match homeOf s.cur.core p.ea with
  | .other d => !p.posted (homeOf s.cur.core p.ea) ||
      s.me.mayCount s.storesOut d (((s.hub (devOf s.cur.core)).choosePath d).getD 0) p.ord.ordered
  | _ => true

/-- What `access` does when nothing holds or stops it. -/
def accessEffect (s : State) (p : Plan) : Try State :=
  if p.x.mig && isFabric p.ea && homeOf s.cur.core p.ea != .own then s.mayMove p.ea (.ok (s.depart p.ea { s.me with pc := s.cur.addr }))
  else .ok (s.launch p)

theorem countsNow_iff (s : State) (p : Plan) : countsNow s p = true ↔ Counts s p := by
  unfold countsNow Counts
  cases homeOf s.cur.core p.ea with
  | other d => cases p.posted (.other d) <;> simp
  | own => simp
  | device => simp
  | hbm => simp

theorem countsNow_advance (s : State) (p : Plan) : countsNow s.advance p = countsNow s p := by
  simp only [countsNow, State.advance_cur, State.mayCount_advance, State.storesOut_advance, State.hub_advance]

theorem access_eq (s : State) (p : Plan) : s.advance.access p = s.advance.serviceLocal (homeOf s.cur.core p.ea)
    (s.mayIssue p.ord (homeOf s.cur.core p.ea) (if p.posted (homeOf s.cur.core p.ea) then 1 else 0)
      (hold (countsNow s p) .access (s.accessChecks p (accessEffect s.advance p)))) := by
  have e : s.advance.access p = s.advance.serviceLocal (homeOf s.cur.core p.ea)
      (s.advance.mayIssue p.ord (homeOf s.cur.core p.ea) (if p.posted (homeOf s.cur.core p.ea) then 1 else 0)
        (hold (countsNow s.advance p) .access (s.advance.accessChecks p (accessEffect s.advance p)))) := rfl
  rw [e, mayIssue_advance, countsNow_advance, State.accessChecks_advance]

section
variable {s : State} {p : Plan}

theorem serviceLocal_ok {h : Home} (k : Try State) (hs : s.cur.slot = 15 → h = .own) : s.advance.serviceLocal h k = k :=
  if_neg fun e => e.2 (hs e.1)

/-- An access that nothing holds is judged. -/
theorem access_goes (hg : MayGo s p.ord (homeOf s.cur.core p.ea) (if p.posted (homeOf s.cur.core p.ea) then 1 else 0))
    (hs : s.cur.slot = 15 → homeOf s.cur.core p.ea = .own) (hc : Counts s p) : s.advance.access p = s.accessChecks p (accessEffect s.advance p) := by
  rw [access_eq, serviceLocal_ok _ hs, mayIssue_go _ hg, hold_ok _ ((countsNow_iff s p).mpr hc)]

/-- An access that something holds waits. -/
theorem access_held (hs : s.cur.slot = 15 → homeOf s.cur.core p.ea = .own)
    (hh : MayGo s p.ord (homeOf s.cur.core p.ea) (if p.posted (homeOf s.cur.core p.ea) then 1 else 0) → ¬ Counts s p) :
    s.advance.access p = .error (.wait .access) := by
  rw [access_eq, serviceLocal_ok _ hs]
  by_cases hg : MayGo s p.ord (homeOf s.cur.core p.ea) (if p.posted (homeOf s.cur.core p.ea) then 1 else 0)
  · rw [mayIssue_go _ hg, hold_wait _ (Bool.eq_false_iff.mpr fun e => hh hg ((countsNow_iff s p).mp e))]
  · exact mayIssue_held _ hg

/-- A check that is made of some accesses only. -/
theorem only_ok {P : Prop} [Decidable P] {b : Bool} (h : P → b = true) : (!decide P || b) = true := by
  by_cases hp : P
  · simp [h hp]
  · simp [hp]

theorem only_fails {P : Prop} [Decidable P] {b : Bool} (hp : P) (h : b = false) : (!decide P || b) = false := by simp [hp, h]

theorem homeOf_own {c : Nat} {a : Word} (h : homeOf c a = .own) : isFabric a = true ∧ coreNamed a = c := by
  unfold homeOf at h
  split at h
  · simp at h
  · next hf =>
    split at h
    · next hc => exact ⟨by simpa using hf, hc⟩
    · split at h <;> simp at h

/-- The checks of an access to the own core, its address and alignment judged. -/
theorem accessChecks_own {k r : Try State} (ha : addrOk p.ea = true) (hz : p.ea.toNat % p.size = 0) (ho : homeOf s.cur.core p.ea = .own)
    (h : (let off := offsetOf p.ea
      let ctl := decide (2 ^ 20 ≤ off)
      ensure (!ctl || (p.size == 8 || p.anyByte)) 7 p.ea 0 <|
      ensure (!ctl || ctlAssigned s.cur.core off) 6 p.ea 0 <|
      ensure (!s.myCore.windowHole off) 6 p.ea 0 <|
      ensure (!ctl || (s.me.sup || (if p.writes then userWrites off else userReads off))) 3 p.ea 0 <|
      ensure (!ctl || !p.presence) 6 p.ea 0 <|
      match p.fills.find? fun r => (s.me.reg r.toNat).mode != 0 with
      | some r => .error (.trap 5 0 r.toNat)
      | none =>
        ensure (s.entryOk p.entry) 13 0 ((p.entry.map fun e => e.1.toNat).getD 0) <|
        ensure (!(meetsWindow p.op && (s.myCore.lineAt off).isSome)) 12 p.ea 0 k) = r) : s.accessChecks p k = r := by
  obtain ⟨hf, hc⟩ := homeOf_own ho
  rw [← h, State.accessChecks]
  simp only [ho, beq_self_eq_true, Bool.true_and, Bool.not_true, Bool.false_or, Bool.or_assoc, Bool.not_and]
  exact (ensure_ok _ ha).trans ((ensure_ok _ (beq_iff_eq.mpr hz)).trans ((ensure_ok _ (by rw [hf, Bool.true_or])).trans
    (ensure_ok (b := !isFabric p.ea || _) _ (by simp [hc]))))

theorem fills_normal (h : ∀ r ∈ p.fills, (s.me.reg r.toNat).mode = 0) : (p.fills.find? fun r => (s.me.reg r.toNat).mode != 0) = none :=
  List.find?_eq_none.mpr fun r hr => by simp [h r hr]

theorem claim_accessTraps : Claim.AccessTraps := by
  intro s i m p hi hg h off ctl dev named allowed normal hgo hs hcount
  obtain ⟨body, he, hb⟩ := isAccess_of_accessOf hi
  have traps {c : Nat} {a : Word} {x : Nat} (hc : c ≠ 4) (e : s.accessChecks p (accessEffect s.advance p) = .error (.trap c a x)) : Traps i s c a x :=
    traps_guarded he hg (hb.trans ((access_goes hgo hs hcount).trans e)) (.inr hc)
  refine ⟨fun ha => traps (by decide) (ensure_trap _ ha), fun ha =>
    ⟨fun hz => traps (by decide) ((ensure_ok _ ha).trans (ensure_trap _ (by simpa using hz))), fun hz => ?_⟩⟩
  have aligned {r k : Try State} (e : k = r) : ensure (addrOk p.ea) 6 p.ea 0 (ensure (p.ea.toNat % p.size == 0) 7 p.ea 0 k) = r :=
    (ensure_ok _ ha).trans ((ensure_ok _ (beq_iff_eq.mpr hz)).trans e)
  refine ⟨fun hf hbulk => traps (by decide) (aligned (ensure_trap _ (by simp [hf, hbulk]))), fun hf hd hr => traps (by decide) (aligned
    ((ensure_ok _ (by simp [hf])).trans (ensure_trap _ ?_))), fun hctl h8 hb1 => ?_, fun hctl hn hna => ?_, ?_⟩
  · simp only [hf, Bool.not_true, Bool.false_or, Bool.or_eq_false_iff, beq_eq_false_iff_ne]
    exact ⟨hd, hr⟩
  · exact traps (by decide) (accessChecks_own ha hz hctl.1 (ensure_trap _ (only_fails hctl.2 (by simp [h8, hb1]))))
  · exact traps (by decide) (accessChecks_own ha hz hctl.1 ((ensure_ok _ (only_ok fun _ => by simpa using hn)).trans
      (ensure_trap _ (only_fails hctl.2 hna))))
  · have known {r k : Try State} (ho : h = .own) (hn : named) (e : k = r) :
        ensure (!decide (2 ^ 20 ≤ off) || (p.size == 8 || p.anyByte)) 7 p.ea 0 (ensure (!decide (2 ^ 20 ≤ off) || ctlAssigned s.cur.core off) 6 p.ea 0 k) = r :=
      (ensure_ok _ (only_ok fun hc => by simpa using (hn ⟨ho, hc⟩).1)).trans ((ensure_ok _ (only_ok fun hc => (hn ⟨ho, hc⟩).2)).trans e)
    refine ⟨fun ho hn hw => traps (by decide) (accessChecks_own ha hz ho (known ho hn (ensure_trap _ (by rw [hw]; rfl)))),
      fun hctl hn hw hsup huse => traps (by decide) (accessChecks_own ha hz hctl.1 (known hctl.1 hn ((ensure_ok _ (by rw [hw]; rfl)).trans
        (ensure_trap _ (only_fails hctl.2 (by rw [hsup, huse]; rfl)))))),
      fun hctl hn hw huse hp => traps (by decide) (accessChecks_own ha hz hctl.1 (known hctl.1 hn ((ensure_ok _ (by rw [hw]; rfl)).trans
        ((ensure_ok _ (only_ok fun _ => by simpa using huse)).trans (ensure_trap _ (only_fails hctl.2 (by rw [hp]; rfl))))))),
      fun ho hn hw hal => ?_⟩
    have permitted {r k : Try State} (e : k = r) : ensure (!s.myCore.windowHole off) 6 p.ea 0 (ensure (!decide (2 ^ 20 ≤ off) || (s.me.sup ||
        (if p.writes then userWrites off else userReads off))) 3 p.ea 0 (ensure (!decide (2 ^ 20 ≤ off) || !p.presence) 6 p.ea 0 k)) = r :=
      (ensure_ok _ (by rw [hw]; rfl)).trans ((ensure_ok _ (only_ok fun hc => by simpa using (hal ⟨ho, hc⟩).1)).trans
        ((ensure_ok _ (only_ok fun hc => by simpa using (hal ⟨ho, hc⟩).2)).trans e))
    refine ⟨fun r hr => traps (by decide) (accessChecks_own ha hz ho (known ho hn (permitted ?_))),
      fun v w hnorm hentry hbad => traps (by decide) (accessChecks_own ha hz ho (known ho hn (permitted ?_))),
      fun hnorm hentry hmeet hline => traps (by decide) (accessChecks_own ha hz ho (known ho hn (permitted ?_)))⟩
    · simp only [hr]
    · simp only [fills_normal hnorm]
      rw [ensure_trap _ hbad, hentry]
      rfl
    · simp only [fills_normal hnorm]
      exact (ensure_ok _ hentry).trans (ensure_trap _ (by simp only [off] at hline; simp [hmeet, hline]))

end

theorem claim_accessIsHeld : Claim.AccessIsHeld := by
  intro s i m p hi hg h hs hheld
  obtain ⟨body, he, hb⟩ := isAccess_of_accessOf hi
  have hs' : s.cur.slot = 15 → h = .own := fun e => hs.resolve_left fun ne => ne e
  refine waits_guarded he hg (hb.trans (access_held hs' ?_)) (.inr (by decide))
  rintro ⟨hprior, hbars, hrel, hplain, hrelaxed, hcount, hfree⟩ hcounts
  rcases hheld with ⟨h0, hl⟩ | ⟨h1, hl⟩ | ⟨a, ha, hbar⟩ | ⟨a, ha, haw⟩ | h64 | ⟨hp, hf⟩ | hpr | ⟨d, hd, hp, hc⟩
  · exact hl (hplain h0)
  · rcases hl with h8 | ⟨a, ha, hr⟩
    · exact absurd (hrelaxed h1).1 (Nat.not_lt.mpr h8)
    · exact absurd ((hrelaxed h1).2 a ha) (by simp [hr])
  · exact absurd (hbars a ha) (by simp [h, hbar])
  · exact absurd (hrel a ha) (by simp [haw])
  · exact absurd hcount (Nat.not_lt.mpr h64)
  · exact hf (by simpa [h, hp] using hfree)
  · exact absurd hprior (by simp [hpr])
  · exact absurd (hcounts d hd hp) (by simp [hc])

/-- Settles O26: a form of page 1 is `access` of the plan that it describes; what holds that is the opposite of `MayGo` and of the ordering record's
room, and its checks are made in the order of the statement. -/
theorem accessTrapsAndHolds : Obligations.AccessTrapsAndHolds := ⟨claim_accessTraps, claim_accessIsHeld⟩

end Sys2Proof.Machine
end

section
/-!
PROOFS. What sending a request leaves (spec/06 R110 to R116), and the fence.
-/

open Sys2Proof Sys2Proof.Machine Sys2Proof.Claim

namespace Sys2Proof.Machine

/-! ## Messages -/

/-- A message has left: only the network and the agenda know of it. -/
def Travels (s t : State) : Prop := ∃ hs rs ds ag, t = { s with hubs := hs, routers := rs, delays := ds, agenda := ag }

theorem travels_refl (s : State) : Travels s s := ⟨_, _, _, _, rfl⟩

theorem Travels.trans {s t u : State} (h : Travels s t) (g : Travels t u) : Travels s u := by
  obtain ⟨_, _, _, _, rfl⟩ := h
  obtain ⟨_, _, _, _, rfl⟩ := g
  exact ⟨_, _, _, _, rfl⟩

theorem travels_after (s : State) (d : Nat) (ev : Event) : Travels s (s.after d ev) := ⟨_, _, _, _, rfl⟩
theorem travels_modHub (s : State) (d : Nat) (f : Hub → Hub) : Travels s (s.modHub d f) := ⟨_, _, _, _, rfl⟩

theorem travels_armRouter (s : State) (c : Nat) : Travels s (s.armRouter c) := by
  simp only [State.armRouter]
  split
  · exact travels_refl s
  · exact ⟨_, _, _, _, rfl⟩

theorem travels_inject (s : State) (c : Nat) (f : Flit) : Travels s (s.inject c f) :=
  Travels.trans ⟨s.hubs, _, s.delays, s.agenda, rfl⟩ (travels_armRouter _ c)

theorem travels_arrive (s : State) (ev : Event) : Travels s (s.arrive ev) := by
  simp only [State.arrive, State.delay]
  cases hd : s.delays with
  | nil => exact travels_after s _ ev
  | cons d ds => exact Travels.trans ⟨s.hubs, s.routers, ds, s.agenda, rfl⟩ (travels_after _ _ ev)

theorem travels_sendFlit (s : State) (a b : Nat) (part : Option (Nat × Nat × Nat)) (ev : Event) : Travels s (s.sendFlit a b part ev) := by
  simp only [State.sendFlit]
  split
  · exact travels_inject s a _
  · split
    · exact travels_inject s (hubPort b) _
    · exact travels_arrive s ev

theorem travels_pump (s : State) (d n : Nat) : Travels s (s.pump d n) := by
  simp only [State.pump]
  split
  · exact travels_refl s
  · exact (travels_modHub s d _).trans (travels_after _ _ _)

theorem travels_queueFrames (s : State) (d n : Nat) (fs : List Frame) : Travels s (s.queueFrames d n fs) :=
  (travels_modHub s d _).trans (travels_pump _ d n)

theorem travels_pathTaken (s : State) (d dst : Nat) (ev : Event) (path : Nat) : Travels s (s.pathTaken d dst ev path) := by
  simp only [State.pathTaken]
  split
  · exact travels_refl s
  · exact travels_modHub s d _

theorem travels_launchFar (s : State) (d dst : Nat) (x : Outgoing) : Travels s (s.launchFar d dst x) := by
  have hpath (u : State) (b : Bool) (ev : Event) (p : Nat) : Travels u (if b then u else u.pathTaken d dst ev p) := by
    cases b with
    | true => exact travels_refl u
    | false => exact travels_pathTaken u d dst ev p
  simp only [State.launchFar]
  cases s.wayTo d dst x.ev x.path with
  | none => exact ((travels_modHub s d _).trans (hpath _ _ _ _)).trans (travels_after _ _ _)
  | some w => exact (((travels_modHub s d _).trans (hpath _ _ _ _)).trans (travels_after _ _ _)).trans (travels_queueFrames _ d _ _)

theorem travels_sendFar (s : State) (d dst : Nat) (ev : Event) (token path : Option Nat) (flits : Nat) : Travels s (s.sendFar d dst ev token path flits) := by
  have hsend (u : State) (h : Travels s u) (x : Outgoing) : Travels s (if 256 ≤ ((u.hub d).peer dst).unacked.length then
      u.modHub d fun h => h.setPeer dst { h.peer dst with held := (h.peer dst).held ++ [x] } else u.launchFar d dst x) := by
    split
    · exact h.trans (travels_modHub u d _)
    · exact h.trans (travels_launchFar u d dst x)
  cases path with
  | none => exact hsend s (travels_refl s) _
  | some p => exact hsend _ (travels_pathTaken s d dst ev p) _

theorem travels_send (s : State) (a b : Nat) (ev : Event) : Travels s (s.send a b ev) := by
  simp only [State.send]
  split
  · exact travels_sendFlit s a b none ev
  · exact travels_sendFar s _ _ ev none none 1

/-! ## Requests -/

/-- A request has left, or waits at a bank or at its core: memory and threads are as before. -/
def Queues (s t : State) : Prop := t.mem = s.mem ∧ t.cur = s.cur ∧ ∀ c, ∃ q h, t.core c = { s.core c with bankq := q, heldBack := h }

theorem queues_of_travels {s t : State} (h : Travels s t) : Queues s t := by
  obtain ⟨_, _, _, _, rfl⟩ := h
  exact ⟨rfl, rfl, fun c => ⟨_, _, rfl⟩⟩

theorem queues_modCore (s : State) (c : Nat) (f : Core → Core) (hf : ∀ k, ∃ q h, f k = { k with bankq := q, heldBack := h }) : Queues s (s.modCore c f) := by
  refine ⟨rfl, rfl, fun d => ?_⟩
  by_cases hd : d = c
  · subst hd
    rw [State.core_modCore_same]
    exact hf _
  · exact ⟨_, _, State.core_modCore_other s c d f hd⟩

theorem Queues.trans {s t u : State} (h : Queues s t) (g : Queues t u) : Queues s u := by
  refine ⟨g.1.trans h.1, g.2.1.trans h.2.1, fun c => ?_⟩
  obtain ⟨q, b, e⟩ := h.2.2 c
  obtain ⟨q', b', e'⟩ := g.2.2 c
  exact ⟨q', b', by rw [e', e]⟩

theorem queues_toBank (s : State) (c : Nat) (r : Req) (prio : Nat) : Queues s (s.toBank c r prio) := by
  simp only [State.toBank, State.atBank]
  split
  · exact (queues_modCore s c _ fun k => ⟨_, _, rfl⟩).trans (queues_of_travels ⟨_, _, _, _, rfl⟩)
  · exact queues_modCore s c _ fun k => ⟨_, _, rfl⟩

theorem queues_request (s : State) (r : Req) : Queues s (s.request r) := by
  simp only [State.request]
  cases homeOf r.src.core r.addr with
  | own => exact queues_toBank s _ r 4
  | device => exact queues_of_travels (travels_send s _ _ _)
  | hbm => exact queues_of_travels (travels_after s _ _)
  | other d =>
    cases r.posted with
    | true => exact queues_of_travels (travels_sendFar s _ d _ none (some r.path) 1)
    | false => exact queues_of_travels (travels_sendFar s _ d _ none none 1)

theorem queues_requestOrdered (s : State) (r : Req) (counts : List Nat) : Queues s (s.requestOrdered r counts) := by
  simp only [State.requestOrdered]
  cases homeOf r.src.core r.addr with
  | other d => exact queues_of_travels (travels_sendFar s _ d _ none (some r.path) 2)
  | own => exact queues_request s r
  | device => exact queues_request s r
  | hbm => exact queues_request s r

theorem queues_requestBehind (s : State) (e : HeldReq) : Queues s (s.requestBehind e) := by
  simp only [State.requestBehind, State.sendOut]
  split
  · cases e.counts with
    | none => exact queues_request s e.req
    | some cs => exact queues_requestOrdered s e.req cs
  · exact queues_modCore s _ _ fun k => ⟨_, _, rfl⟩

theorem Queues.slot {s t : State} (h : Queues s t) (c n : Nat) : t.slot c n = s.slot c n := by
  obtain ⟨q, b, e⟩ := h.2.2 c
  rw [State.slot, e]
  rfl

theorem Queues.me {s t : State} (h : Queues s t) : t.me = s.me := by
  rw [State.me, h.2.1, h.slot, State.me]

theorem Queues.jrn {s t : State} (h : Queues s t) (j : Nat) : t.myCore.jrn j = s.myCore.jrn j := by
  obtain ⟨q, b, e⟩ := h.2.2 s.cur.core
  rw [State.myCore, h.2.1, e]
  rfl

/-! ## What a thread's own instruction leaves of memory and the other threads -/

/-- Memory and every other thread are as before. -/
def Beside (s t : State) : Prop :=
  t.cur = s.cur ∧ (∀ a, memByte t.mem a = memByte s.mem a) ∧ ∀ c k, (c ≠ s.cur.core ∨ k ≠ s.cur.slot) → t.slot c k = s.slot c k

theorem Beside.trans {s t u : State} (h : Beside s t) (g : Beside t u) : Beside s u :=
  ⟨g.1.trans h.1, fun a => (g.2.1 a).trans (h.2.1 a), fun c k hck => (g.2.2 c k (by rwa [h.1])).trans (h.2.2 c k hck)⟩

theorem beside_of_queues {s t : State} (h : Queues s t) : Beside s t := ⟨h.2.1, fun a => by rw [h.1], fun c k _ => h.slot c k⟩

theorem beside_of_outside {s t : State} (h : Outside s t) : Beside s t := by
  obtain ⟨hmem, -, -, -, -, -, -, hcur, hcores, -, hslots⟩ := h
  refine ⟨hcur, hmem, fun c k hck => ?_⟩
  by_cases hc : c = s.cur.core
  · subst hc
    exact hslots k (hck.resolve_left (· rfl))
  · rw [State.slot, hcores c hc, State.slot]

theorem beside_modMe (s : State) (f : Slot → Slot) : Beside s (s.modMe f) := beside_of_outside (outside_modMe s f)
theorem beside_addOut (s : State) (a : Acc) : Beside s (s.addOut a) := beside_modMe s _
theorem beside_consume (s : State) (r : List (SReg × Bool)) : Beside s (s.consume r) := beside_of_outside (outside_consume s r)
theorem beside_fresh (s : State) : Beside s s.fresh.2 := ⟨rfl, fun _ => rfl, fun _ _ _ => rfl⟩

theorem beside_modMyCore (s : State) (f : Core → Core) (h : (f s.myCore).slots = s.myCore.slots) : Beside s (s.modMyCore f) :=
  ⟨rfl, fun _ => rfl, fun c k _ => State.slot_modCore_of_slots h c k⟩

theorem beside_takeEntry (s : State) (img : BitVec 256) : Beside s (s.takeEntry img).2 := beside_modMyCore s _ rfl

theorem beside_knowEpoch (s : State) (d epoch : Nat) : Beside s (s.knowEpoch d epoch) := by
  simp only [State.knowEpoch]
  split
  · exact ⟨rfl, fun _ => rfl, fun _ _ _ => rfl⟩
  · exact beside_of_queues (queues_of_travels (travels_modHub s d _))

/-! ## Registers that begin to wait -/

theorem startLoads_cons (s : State) (r : SReg) (rs : List SReg) : (s.startLoads (r :: rs)).2 = ((s.modMe fun t => t.modReg r.toNat XReg.await).startLoads rs).2 := rfl

theorem beside_startLoads (s : State) (rs : List SReg) : Beside s (s.startLoads rs).2 := by
  induction rs generalizing s with
  | nil => exact ⟨rfl, fun _ => rfl, fun _ _ _ => rfl⟩
  | cons r rs ih => exact (beside_modMe s _).trans (ih _)

theorem noRegs_startLoads (s : State) (rs : List SReg) : { (s.startLoads rs).2.me with regs := [] } = { s.me with regs := [] } := by
  induction rs generalizing s with
  | nil => rfl
  | cons r rs ih =>
    rw [startLoads_cons, ih, State.me_modMe]
    rfl

theorem reg_startLoads_other (s : State) (rs : List SReg) (m : SReg) (h : m ∉ rs) : (s.startLoads rs).2.me.reg m.toNat = s.me.reg m.toNat := by
  induction rs generalizing s with
  | nil => rfl
  | cons r rs ih =>
    obtain ⟨hr, hrs⟩ := not_or.mp (mt List.mem_cons.mpr h)
    rw [startLoads_cons, ih _ hrs, State.me_modMe, Slot.reg_modReg_other _ _ _ _ (fun e => hr (BitVec.eq_of_toNat_eq e))]

/-- A register that waits goes on to wait. -/
theorem reg_startLoads_waits (s : State) (rs : List SReg) (m : SReg)
    (h : m ∈ rs ∨ ((s.me.reg m.toNat).full = false ∧ (s.me.reg m.toNat).pend = true)) :
    ((s.startLoads rs).2.me.reg m.toNat).full = false ∧ ((s.startLoads rs).2.me.reg m.toNat).pend = true := by
  induction rs generalizing s with
  | nil => exact h.resolve_left (by simp)
  | cons r rs ih =>
    rw [startLoads_cons]
    refine ih _ ?_
    by_cases hm : m = r
    · subst hm
      rw [State.me_modMe, Slot.reg_modReg_same]
      exact .inr ⟨rfl, rfl⟩
    · rw [State.me_modMe, Slot.reg_modReg_other _ _ _ _ (fun e => hm (BitVec.eq_of_toNat_eq e))]
      exact h.imp_left fun h => (List.mem_cons.mp h).resolve_left hm

/-! ## The access as it is sent -/

/-- The outstanding access of a plan. -/
def planAcc (s : State) (p : Plan) : Acc :=
  { id := s.nextId, addr := p.ea, home := homeOf s.cur.core p.ea, relaxed := p.ord.relaxed, store := p.storing, acq := p.ord.acq, asid := s.me.asid,
    sup := s.me.sup, pc := s.cur.addr, waits := (match p.op with | .loadFull _ | .loadFullClear _ | .storeEmpty _ _ => true | _ => false),
    cells := cellNumbers p.ea p.size }

/-- Its request. -/
def planReq (s : State) (p : Plan) : Req := { src := ⟨s.cur.core, s.cur.slot, s.nextId⟩, asid := s.me.asid, sup := s.me.sup, addr := p.ea, op := p.op }

/-- A load as it is sent: its registers wait, and the request goes or an answer is on its way. -/
def launchLoad (s : State) (p : Plan) : State :=
  let l := (s.fresh.2.consume p.takes).startLoads p.fills
  let t := l.2.addOut { planAcc s p with regs := l.1 }
  if p.fractured then t.after (4 * Config.cycle) (.fill ⟨(planReq s p).src, fillParts l.1 [0]⟩)
  else if homeOf s.cur.core p.ea == .own && decide (2 ^ 20 ≤ offsetOf p.ea) then
    t.after (4 * Config.cycle) (.fill ⟨(planReq s p).src, fillParts l.1 [t.ctlRead s.cur.core (offsetOf p.ea)]⟩)
  else t.requestBehind ⟨planReq s p, [], s.fresh.2.meeting (cellNumbers p.ea p.size), none⟩

theorem launch_eq (s : State) (p : Plan) : s.launch p =
    if p.storing then
      if homeOf s.cur.core p.ea == .own && decide (2 ^ 20 ≤ offsetOf p.ea) then
        (s.fresh.2.consume p.takes).soon [ctlEvent s.cur.core (offsetOf p.ea) (journalData p.op)]
      else if p.posted (homeOf s.cur.core p.ea) then (s.fresh.2.consume p.takes).post p (planAcc s p) (planReq s p)
      else if homeOf s.cur.core p.ea == .own then
        ((s.fresh.2.consume p.takes).addOut (planAcc s p)).requestBehind
          ⟨planReq s p, if p.ord.ordered then s.fresh.2.postedHere else [], s.fresh.2.meeting (cellNumbers p.ea p.size), none⟩
      else (s.fresh.2.holdFor (planAcc s p) p.takes).request (planReq s p)
    else launchLoad s p := rfl

/-! ## A posted store -/

theorem Slot.setOrder_eq (t : Slot) (x : OrdDev) : ∃ os, t.setOrder x = { t with orders := os } := by
  simp only [Slot.setOrder]
  split
  · exact ⟨_, rfl⟩
  · exact ⟨_, rfl⟩

theorem Slot.count_eq (t : Slot) (d path : Nat) (ordered : Bool) : ∃ os, (t.count d path ordered).2.2 = { t with orders := os } := by
  simp only [Slot.count]
  cases ordered
  · exact Slot.setOrder_eq t _
  · exact Slot.setOrder_eq t _

theorem me_knowEpoch (s : State) (d epoch : Nat) : (s.knowEpoch d epoch).me = s.me := by
  simp only [State.knowEpoch]
  split
  · rfl
  · exact (queues_of_travels (travels_modHub s d _)).me

theorem jrn_knowEpoch (s : State) (d epoch j : Nat) : (s.knowEpoch d epoch).myCore.jrn j = s.myCore.jrn j := by
  simp only [State.knowEpoch]
  split
  · rfl
  · exact (queues_of_travels (travels_modHub s d _)).jrn j

theorem jrn_takeEntry (s : State) (img : BitVec 256) : (s.takeEntry img).2.myCore.jrn (s.myCore.freeEntry.getD 0) = img := by
  rw [State.takeEntry, State.myCore_modMyCore]
  exact Table.get_put_same _ _ _ _

theorem jrn_modMe (s : State) (f : Slot → Slot) (j : Nat) : (s.modMe f).myCore.jrn j = s.myCore.jrn j := by
  rw [State.myCore_modMe, Core.setSlot_jrn]

theorem freeEntry_modMe (s : State) (f : Slot → Slot) : (s.modMe f).myCore.freeEntry = s.myCore.freeEntry := by
  simp only [Core.freeEntry, jrn_modMe]

/-- The journal entry of a posted store. -/
def storeImage (s : State) (p : Plan) (epoch path : Nat) : BitVec 256 :=
  journalImage s.cur.slot (sizeCode p.size) (journalKind p.op) p.x.ord.toNat p.x.mask.toNat epoch path ((p.entry.map fun e => e.1.toNat).getD 0)
    s.me.asid p.ea (journalData p.op) 0

/-- The state in which a posted store is about to be outstanding: it has its journal entry, and perhaps a place in the ordering record. -/
def Entered (s : State) (p : Plan) (u : State) : Prop :=
  Beside s u ∧ (∃ os, u.me = { s.me with orders := os }) ∧ ∃ epoch path, u.myCore.jrn (s.myCore.freeEntry.getD 0) = storeImage s p epoch path

theorem post_eq (s : State) (p : Plan) (a : Acc) (r : Req) : s.post p a r =
    match a.home with
    | .other d =>
      let path := ((s.hub (devOf s.cur.core)).choosePath d).getD 0
      let n := s.me.count d path p.ord.ordered
      let e := (s.modMe fun _ => n.2.2).takeEntry (storeImage s p n.1 path)
      ((e.2.knowEpoch d n.1).addOut { a with jrn := some e.1, counts := if p.ord.ordered then n.2.1 else [] }).requestBehind
        ⟨{ r with posted := true, epoch := n.1, path := path }, [], s.meeting a.cells, if p.ord.ordered then some n.2.1 else none⟩
    | _ =>
      let e := s.takeEntry (storeImage s p 0 0)
      (e.2.addOut { a with jrn := some e.1 }).requestBehind
        ⟨{ r with posted := true }, if p.ord.ordered then s.postedHere else [], s.meeting a.cells, none⟩ := rfl

theorem entered_takeEntry (s : State) (p : Plan) : Entered s p (s.takeEntry (storeImage s p 0 0)).2 :=
  ⟨beside_takeEntry s _, ⟨_, State.me_takeEntry s _⟩, _, _, jrn_takeEntry s _⟩

theorem entered_counted (s : State) (p : Plan) (d path epoch : Nat) (t : Slot) (ht : ∃ os, t = { s.me with orders := os }) :
    Entered s p (((s.modMe fun _ => t).takeEntry (storeImage s p epoch path)).2.knowEpoch d epoch) := by
  obtain ⟨os, rfl⟩ := ht
  refine ⟨((beside_modMe s _).trans (beside_takeEntry _ _)).trans (beside_knowEpoch _ d _), ⟨os, ?_⟩, epoch, path, ?_⟩
  · rw [me_knowEpoch, State.me_takeEntry, State.me_modMe]
  · rw [jrn_knowEpoch, ← freeEntry_modMe s fun _ => { s.me with orders := os }]
    exact jrn_takeEntry _ _

/-- A posted store takes its journal entry, is outstanding, and its request goes or waits. -/
theorem post_leaves (s : State) (p : Plan) (a : Acc) (r : Req) : ∃ u x e, s.post p a r = (u.addOut x).requestBehind e ∧ Entered s p u := by
  rw [post_eq]
  cases a.home with
  | other d => exact ⟨_, _, _, rfl, entered_counted s p d _ _ _ (Slot.count_eq s.me d _ _)⟩
  | own => exact ⟨_, _, _, rfl, entered_takeEntry s p⟩
  | device => exact ⟨_, _, _, rfl, entered_takeEntry s p⟩
  | hbm => exact ⟨_, _, _, rfl, entered_takeEntry s p⟩

/-- What a journal entry's image holds (R390). -/
theorem journalImage_fields (slot size kind ord mask epoch path vent asid : Nat) (addr d0 d1 : Word) :
    let x := journalImage slot size kind ord mask epoch path vent asid addr d0 d1
    field x 0 1 = 1 ∧ field x 1 2 = 0 ∧ field x 3 4 = slot % 16 ∧ field x 64 64 = addr.toNat ∧ field x 128 64 = d0.toNat := by
  have ha := addr.isLt
  have h0 := d0.isLt
  have h1 := d1.isLt
  simp only [journalImage, field, bitsOf, BitVec.toNat_ofNat]
  refine ⟨?_, ?_, ?_, ?_, ?_⟩ <;> omega

/-! ## What an access leaves -/

section
variable {s : State} {p : Plan}

theorem launch_control (hs : p.storing = true) (ho : homeOf s.cur.core p.ea = .own) (hc : 2 ^ 20 ≤ offsetOf p.ea) :
    s.launch p = (s.fresh.2.consume p.takes).after 0 (ctlEvent s.cur.core (offsetOf p.ea) (journalData p.op)) := by
  rw [launch_eq, if_pos hs, if_pos (by simpa [ho] using hc)]
  rfl

theorem launch_posted (hp : p.posted (homeOf s.cur.core p.ea) = true) :
    s.launch p = (s.fresh.2.consume p.takes).post p (planAcc s p) (planReq s p) := by
  have h := hp
  simp only [Plan.posted, Bool.and_eq_true, bne_iff_ne, ne_eq] at h
  rw [launch_eq, if_pos h.1.1, if_neg (by simp [h.2]), if_pos hp]

theorem launch_bank (hs : p.storing = true) (ho : homeOf s.cur.core p.ea = .own) (hc : offsetOf p.ea < 2 ^ 20) :
    s.launch p = ((s.fresh.2.consume p.takes).addOut (planAcc s p)).requestBehind
      ⟨planReq s p, if p.ord.ordered then s.fresh.2.postedHere else [], s.fresh.2.meeting (cellNumbers p.ea p.size), none⟩ := by
  rw [launch_eq, if_pos hs, if_neg (by simpa [ho] using hc), if_neg (by simp [Plan.posted, ho]), if_pos (by simp [ho])]

theorem launch_held (hs : p.storing = true) (ho : homeOf s.cur.core p.ea ≠ .own) (hp : p.posted (homeOf s.cur.core p.ea) = false) :
    s.launch p = (s.fresh.2.holdFor (planAcc s p) p.takes).request (planReq s p) := by
  rw [launch_eq, if_pos hs, if_neg (by simp [ho]), if_neg (by simp [hp]), if_neg (by simp [ho])]

theorem launch_load (hs : p.storing = false) : s.launch p = launchLoad s p := by
  rw [launch_eq, if_neg (by simp [hs])]

/-- A load's request, or its answer from the core, is on its way; the thread has the access outstanding. -/
theorem launchLoad_queues (s : State) (p : Plan) : ∃ a, Queues (((s.fresh.2.consume p.takes).startLoads p.fills).2.addOut a) (launchLoad s p) := by
  refine ⟨{ planAcc s p with regs := ((s.fresh.2.consume p.takes).startLoads p.fills).1 }, ?_⟩
  simp only [launchLoad]
  split
  · exact queues_of_travels (travels_after _ _ _)
  · split
    · exact queues_of_travels (travels_after _ _ _)
    · exact queues_requestBehind _ _

/-- A field of the thread that its registers do not hold, when its reads are consumed. -/
theorem me_fresh_consume {α : Type} (s : State) (r : List (SReg × Bool)) (f : Slot → α) (h : ∀ t, f { t with regs := [] } = f t) :
    f (s.fresh.2.consume r).me = f s.me := by
  rw [State.me_consume_field _ r f h, State.me_fresh]

theorem me_addOut (s : State) (a : Acc) : (s.addOut a).me = { s.me with out := s.me.out ++ [a] } := State.me_modMe s _

/-- A field of the thread but for its registers, its accesses and its ordering record, when an access that does not hold it is sent. -/
theorem me_launch {α : Type} (f : Slot → α) (hregs : ∀ t r, f { t with regs := r } = f t) (hout : ∀ t o, f { t with out := o } = f t)
    (hord : ∀ t o, f { t with orders := o } = f t)
    (hgo : p.storing = true → homeOf s.cur.core p.ea = .own ∨ p.posted (homeOf s.cur.core p.ea) = true) : f (s.launch p).me = f s.me := by
  have hcons : f (s.fresh.2.consume p.takes).me = f s.me := me_fresh_consume s p.takes f fun t => hregs t []
  cases hs : p.storing with
  | false =>
    obtain ⟨a, h⟩ := launchLoad_queues s p
    have hl : f ((s.fresh.2.consume p.takes).startLoads p.fills).2.me = f (s.fresh.2.consume p.takes).me := by
      have e := congrArg f (noRegs_startLoads (s.fresh.2.consume p.takes) p.fills)
      exact (hregs _ _).symm.trans (e.trans (hregs _ _))
    rw [launch_load hs, h.me, me_addOut, hout, hl, hcons]
  | true =>
    rcases hgo hs with ho | hp
    · by_cases hc : 2 ^ 20 ≤ offsetOf p.ea
      · rw [launch_control hs ho hc, State.me_after, hcons]
      · rw [launch_bank hs ho (Nat.not_le.mp hc), (queues_requestBehind _ _).me, me_addOut, hout, hcons]
    · obtain ⟨u, x, e, he, -, ⟨os, hu⟩, -⟩ := post_leaves (s.fresh.2.consume p.takes) p (planAcc s p) (planReq s p)
      rw [launch_posted hp, he, (queues_requestBehind _ _).me, me_addOut, hout, hu, hord, hcons]

/-- The thread has one access more outstanding; a control register's own write is none. -/
theorem out_launch (h : p.storing = true → homeOf s.cur.core p.ea = .own → offsetOf p.ea < 2 ^ 20) :
    (s.launch p).me.out.length = s.me.out.length + 1 := by
  have hcons : (s.fresh.2.consume p.takes).me.out = s.me.out := me_fresh_consume s p.takes Slot.out fun _ => rfl
  cases hs : p.storing with
  | false =>
    obtain ⟨a, hq⟩ := launchLoad_queues s p
    have hl : ((s.fresh.2.consume p.takes).startLoads p.fills).2.me.out = (s.fresh.2.consume p.takes).me.out := by
      have e := congrArg Slot.out (noRegs_startLoads (s.fresh.2.consume p.takes) p.fills)
      exact e
    rw [launch_load hs, hq.me, me_addOut, List.length_append, hl, hcons]
    rfl
  | true =>
    by_cases ho : homeOf s.cur.core p.ea = .own
    · rw [launch_bank hs ho (h hs ho), (queues_requestBehind _ _).me, me_addOut, List.length_append, hcons]
      rfl
    · cases hp : p.posted (homeOf s.cur.core p.ea) with
      | true =>
        obtain ⟨u, x, e, he, -, ⟨os, hu⟩, -⟩ := post_leaves (s.fresh.2.consume p.takes) p (planAcc s p) (planReq s p)
        rw [launch_posted hp, he, (queues_requestBehind _ _).me, me_addOut, List.length_append, hu, hcons]
        rfl
      | false =>
        rw [launch_held hs ho hp, (queues_request _ _).me, State.holdFor, State.me_modMe, me_addOut]
        simp

theorem beside_launch (s : State) (p : Plan) : Beside s (s.launch p) := by
  have hcons : Beside s (s.fresh.2.consume p.takes) := (beside_fresh s).trans (beside_consume _ _)
  cases hs : p.storing with
  | false =>
    obtain ⟨a, hq⟩ := launchLoad_queues s p
    rw [launch_load hs]
    exact ((hcons.trans (beside_startLoads _ _)).trans (beside_addOut _ a)).trans (beside_of_queues hq)
  | true =>
    by_cases ho : homeOf s.cur.core p.ea = .own
    · by_cases hc : 2 ^ 20 ≤ offsetOf p.ea
      · rw [launch_control hs ho hc]
        exact hcons.trans (beside_of_queues (queues_of_travels (travels_after _ _ _)))
      · rw [launch_bank hs ho (Nat.not_le.mp hc)]
        exact (hcons.trans (beside_addOut _ _)).trans (beside_of_queues (queues_requestBehind _ _))
    · cases hp : p.posted (homeOf s.cur.core p.ea) with
      | true =>
        obtain ⟨u, x, e, he, hu, -⟩ := post_leaves (s.fresh.2.consume p.takes) p (planAcc s p) (planReq s p)
        rw [launch_posted hp, he]
        exact ((hcons.trans hu).trans (beside_addOut _ _)).trans (beside_of_queues (queues_requestBehind _ _))
      | false =>
        rw [launch_held hs ho hp]
        exact (((beside_fresh s).trans (beside_addOut _ _)).trans (beside_modMe _ _)).trans (beside_of_queues (queues_request _ _))

/-- The thread whose store is not posted is Held, and its registers are as they were (R28, R113). -/
theorem me_launch_held (hs : p.storing = true) (ho : homeOf s.cur.core p.ea ≠ .own) (hp : p.posted (homeOf s.cur.core p.ea) = false) :
    ∃ o, (s.launch p).me = { s.me with out := o, pc := s.cur.addr, st := .held, why := .access } := by
  rw [launch_held hs ho hp, (queues_request _ _).me, State.holdFor, State.me_modMe, me_addOut]
  exact ⟨_, rfl⟩

theorem me_launchLoad (s : State) (p : Plan) (n : Nat) :
    (launchLoad s p).me.reg n = ((s.fresh.2.consume p.takes).startLoads p.fills).2.me.reg n := by
  obtain ⟨a, hq⟩ := launchLoad_queues s p
  rw [hq.me, me_addOut]
  rfl

end

@[simp] theorem State.core_due (s : State) (t c : Nat) (ev : Event) : (s.due t ev).core c = s.core c := rfl

/-- The request joins its bank's queue. -/
theorem bankq_toBank (s : State) (c : Nat) (r : Req) (prio : Nat) :
    ((s.toBank c r prio).core c).bankq.get [] (r.addr.toNat % 2 ^ 20 / 2 ^ 16) =
      (s.core c).bankq.get [] (r.addr.toNat % 2 ^ 20 / 2 ^ 16) ++ [{ req := r, prio := prio, since := s.now }] := by
  have hput (f : Core → Core) (b : Nat) (q : List BankReq) (hf : ∀ k, (f k).bankq = k.bankq.put b q) : ((s.modCore c f).core c).bankq.get [] b = q := by
    rw [State.core_modCore_same, hf]
    exact Table.get_put_same _ _ _ _
  simp only [State.toBank, State.atBank]
  split
  · rw [State.core_due]
    exact hput _ _ _ fun _ => rfl
  · exact hput _ _ _ fun _ => rfl

theorem request_own {s : State} {r : Req} (h : homeOf r.src.core r.addr = .own) : s.request r = s.toBank r.src.core r 4 := by
  simp only [State.request, h]

/-- A part of the issuing core that is no slot, link or stream, when the reads of an access are consumed and it is outstanding. -/
theorem myCore_consume_addOut {α : Type} (s : State) (r : List (SReg × Bool)) (a : Acc) (f : Core → α) (h : ∀ k, f (others k) = f k) :
    f ((s.fresh.2.consume r).addOut a).myCore = f s.myCore := by
  rw [State.addOut, State.myCore_modMe]
  have e := State.myCore_consume_field s.fresh.2 r f h
  exact (h (Core.setSlot _ _ _)).symm.trans ((h (s.fresh.2.consume r).myCore).trans e)

/-- A store to the own tile store asks its bank, or waits behind the thread's accesses to the same granule (R115). -/
theorem bank_launch {s : State} {p : Plan} (hs : p.storing = true) (ho : homeOf s.cur.core p.ea = .own) (hc : offsetOf p.ea < 2 ^ 20)
    (hord : p.ord.ordered = false) :
    let b := p.ea.toNat % 2 ^ 20 / 2 ^ 16
    let before := s.meeting (cellNumbers p.ea p.size)
    (before = [] → (s.launch p).myCore.bankq.get [] b = s.myCore.bankq.get [] b ++ [{ req := planReq s p, prio := 4, since := s.now }]) ∧
      (before ≠ [] → (s.launch p).myCore.heldBack = s.myCore.heldBack ++ [⟨planReq s p, [], before, none⟩]) := by
  intro b before
  let u := (s.fresh.2.consume p.takes).addOut (planAcc s p)
  have hcur : u.cur = s.cur := (State.addOut_cur _ _).trans (State.consume_cur _ _)
  have hnow : u.now = s.now := State.consume_now s.fresh.2 p.takes
  have hl : s.launch p = u.requestBehind ⟨planReq s p, [], before, none⟩ := by
    rw [launch_bank hs ho hc, hord]
    rfl
  refine ⟨fun hb => ?_, fun hb => ?_⟩
  · have hq : s.launch p = u.toBank s.cur.core (planReq s p) 4 := by
      rw [hl, hb]
      exact request_own ho
    rw [hq, State.myCore, (queues_toBank u _ _ _).2.1, hcur]
    refine (bankq_toBank u s.cur.core (planReq s p) 4).trans ?_
    have hbank : (u.core s.cur.core).bankq = s.myCore.bankq := by
      rw [← hcur]
      exact myCore_consume_addOut s p.takes (planAcc s p) Core.bankq fun _ => rfl
    rw [hbank, hnow]
    rfl
  · have hq : s.launch p = u.modMyCore fun k => { k with heldBack := k.heldBack ++ [⟨planReq s p, [], before, none⟩] } := by
      rw [hl, State.requestBehind, if_neg (by simpa using hb)]
    have hheld : u.myCore.heldBack = s.myCore.heldBack := myCore_consume_addOut s p.takes (planAcc s p) Core.heldBack fun _ => rfl
    rw [hq, State.myCore_modMyCore]
    exact congrArg (· ++ _) hheld

/-- A posted store's journal entry, in the lowest free place. -/
theorem jrn_launch {s : State} {p : Plan} (hp : p.posted (homeOf s.cur.core p.ea) = true) {j : Nat} (hj : s.myCore.freeEntry = some j) :
    ∃ epoch path, (s.launch p).myCore.jrn j = storeImage s p epoch path := by
  obtain ⟨u, x, e, he, -, -, epoch, path, hu⟩ := post_leaves (s.fresh.2.consume p.takes) p (planAcc s p) (planReq s p)
  have hfree : (s.fresh.2.consume p.takes).myCore.freeEntry = s.myCore.freeEntry :=
    State.myCore_consume_field s.fresh.2 p.takes Core.freeEntry fun _ => rfl
  rw [hfree, hj, Option.getD_some] at hu
  refine ⟨epoch, path, ?_⟩
  rw [launch_posted hp, he, (queues_requestBehind _ _).jrn, State.addOut, jrn_modMe, hu]
  simp only [storeImage, State.consume_cur, State.asid_consume]
  rfl

theorem claim_accessLeaves : Claim.AccessLeaves := by
  intro s p _ t h
  obtain ⟨-, hmem, hslots⟩ := beside_launch s p
  refine ⟨hmem, hslots, ?_, fun hs => ?_, fun hs ho hoff => ?_, fun hs ho hp => ?_, fun hp => ?_⟩
  · by_cases hgo : p.storing = true → h = .own ∨ p.posted h = true
    · exact me_launch Slot.pred (fun _ _ => rfl) (fun _ _ => rfl) (fun _ _ => rfl) hgo
    · obtain ⟨hs, hno⟩ := Classical.not_imp.mp hgo
      obtain ⟨hno, hnp⟩ := not_or.mp hno
      obtain ⟨o, ho⟩ := me_launch_held hs hno (Bool.eq_false_iff.mpr hnp)
      rw [ho]
  · have hload : p.storing = true → homeOf s.cur.core p.ea = .own ∨ p.posted (homeOf s.cur.core p.ea) = true := by simp [hs]
    refine ⟨me_launch Slot.st (fun _ _ => rfl) (fun _ _ => rfl) (fun _ _ => rfl) hload, me_launch Slot.pc (fun _ _ => rfl) (fun _ _ => rfl) (fun _ _ => rfl) hload,
      out_launch (by simp [hs]), fun r hr => ?_, fun r hr ht => ?_⟩
    · simp only [t]
      rw [launch_load hs, me_launchLoad]
      exact reg_startLoads_waits _ _ r (.inl hr)
    · simp only [t]
      rw [launch_load hs, me_launchLoad, reg_startLoads_other _ _ r hr, State.reg_consume, decide_eq_false ht, XReg.readBy_false, State.me_fresh]
  · refine ⟨me_launch Slot.st (fun _ _ => rfl) (fun _ _ => rfl) (fun _ _ => rfl) fun _ => .inl ho, out_launch fun _ _ => hoff, fun hord => ?_⟩
    exact bank_launch hs ho hoff hord
  · obtain ⟨o, hme⟩ := me_launch_held hs ho hp
    refine ⟨?_, ?_, out_launch fun _ e => absurd e ho, fun n => ?_⟩
    · exact congrArg Slot.st hme
    · exact congrArg Slot.pc hme
    · simp only [t]
      rw [hme]
      rfl
  · have hs : p.storing = true ∧ h ≠ .own := by
      simp only [Plan.posted, Bool.and_eq_true, bne_iff_ne, ne_eq] at hp
      exact ⟨hp.1.1, hp.2⟩
    refine ⟨me_launch Slot.st (fun _ _ => rfl) (fun _ _ => rfl) (fun _ _ => rfl) fun _ => .inr hp, out_launch fun _ e => absurd e hs.2, fun j hj => ?_⟩
    obtain ⟨epoch, path, hj⟩ := jrn_launch hp hj
    obtain ⟨hvalid, hstate, hslot, haddr, hdata⟩ := journalImage_fields s.cur.slot (sizeCode p.size) (journalKind p.op) p.x.ord.toNat p.x.mask.toNat epoch path
      ((p.entry.map fun e => e.1.toNat).getD 0) s.me.asid p.ea (journalData p.op) 0
    simp only [t, hj]
    exact ⟨hvalid, hstate, hslot, haddr, hdata⟩


/-- The mask of a fence (R271). -/
def fenceMask (o : OpFence) : BitVec 5 := match o.mask with | none => maskAll | some k => if k = 0 then maskAll else k

theorem exec_fence_eq (m : Mods) (o : OpFence) (s : State) :
    exec (.fence m o) s = s.guarded m fun s => hold (!(s.me.out.any (Acc.awaited (fenceMask o)))) .access (.ok s) := rfl

theorem fenceMask_eq {o : OpFence} {k : BitVec 5} (h : o.mask = some k ∧ k ≠ 0 ∨ (o.mask.getD 0 = 0 ∧ k = 31)) : fenceMask o = k := by
  rcases h with ⟨hm, h0⟩ | ⟨hm, rfl⟩
  · rw [fenceMask, hm]
    exact if_neg h0
  · rw [fenceMask]
    cases ho : o.mask with
    | none => rfl
    | some j =>
      rw [ho, Option.getD_some] at hm
      exact if_pos hm

theorem claim_fenceForm : Claim.FenceForm := by
  intro s m o k hg hk
  refine ⟨fun h => ends_guarded (exec_fence_eq ..) hg (hold_ok _ ?_), fun h => waits_guarded (exec_fence_eq ..) hg (hold_wait _ ?_) (.inr (by decide))⟩
  · rw [fenceMask_eq hk, State.out_advance, show s.me.out.any (Acc.awaited k) = false from h]
    rfl
  · rw [fenceMask_eq hk, State.out_advance, Bool.eq_true_of_not_eq_false h]
    rfl

/-- Settles O27: every branch of `launch` consumes reads, marks registers, takes an entry or a place among the outstanding accesses, and sends, which
changes no byte and no other thread. -/
theorem accessLeaves : Obligations.AccessLeaves := ⟨claim_accessLeaves, claim_fenceForm⟩

end Sys2Proof.Machine
end

section
/-!
PROOFS. The forms of pages 3 and 4: where each of them stops (spec/13 R286, R301, spec/12 R243), and the lane-mask forms (R307).
-/

open Sys2Proof Sys2Proof.Machine Sys2Proof.Claim

namespace Sys2Proof.Machine

/-! ## The checks that every vector form begins with -/

@[simp] theorem State.place_advance (s : State) (v : Nat) : s.advance.me.place v = s.me.place v := by
  rw [State.me_advance]
  rfl

@[simp] theorem State.banks_advance (s : State) : s.advance.me.banks = s.me.banks := by rw [State.me_advance]

@[simp] theorem State.bank_advance (s : State) (b : Nat) : s.advance.myCore.bank b = s.myCore.bank b := by
  rw [State.myCore_advance]
  rfl

@[simp] theorem banksUp_advance {α : Type} (s : State) (vs : List VNum) (k : Try α) : s.advance.banksUp vs k = s.banksUp vs k := by
  simp only [State.banksUp, State.banksOf, State.place_advance, State.bank_advance]

@[simp] theorem vchecks_advance {α : Type} (s : State) (m : Mods) (vs : List VNum) (ms : List PNum) (k : Try α) :
    s.advance.vchecks m vs ms k = s.vchecks m vs ms k := by
  simp only [State.vchecks, State.holdsAll, banksUp_advance, State.place_advance, State.banks_advance]

@[simp] theorem vwritable_advance {α : Type} (s : State) (a : VNum) (k : Try α) : s.advance.vwritable a k = s.vwritable a k := by
  simp only [State.vwritable, State.vregAt_advance]

section
variable {α : Type} {s : State} {m : Mods} {vs : List VNum} {ms : List PNum}

theorem vchecks_notHeld {v : VNum} (k : Try α) (h : (vs.find? fun v => (s.me.place v.toNat).isNone) = some v) :
    s.vchecks m vs ms k = .error (.trap 4 0 v.toNat) := by
  simp only [State.vchecks, State.holdsAll, h]

/-- Every register named is held. -/
theorem find_held (h : ∀ v ∈ vs, s.me.place v.toNat ≠ none) : (vs.find? fun v => (s.me.place v.toNat).isNone) = none :=
  List.find?_eq_none.mpr fun v hv => by simpa [Option.isNone_iff_eq_none] using h v hv

theorem vchecks_noBank {p : PNum} (k : Try α) (h : ∀ v ∈ vs, s.me.place v.toNat ≠ none) (hp : (ms ++ guardMasks m).head? = some p)
    (hb : s.me.banks = 0) : s.vchecks m vs ms k = .error (.trap 4 0 p.toNat) := by
  obtain ⟨q, hq⟩ := List.head?_eq_some_iff.mp hp
  simp only [State.vchecks, State.holdsAll, find_held h, hq]
  exact ensure_trap _ (by simp [hb])

theorem vchecks_held (k : Try α) (h : ∀ v ∈ vs, s.me.place v.toNat ≠ none) (hm : ms ++ guardMasks m ≠ [] → s.me.banks ≠ 0) :
    s.vchecks m vs ms k = s.banksUp vs k := by
  simp only [State.vchecks, State.holdsAll, find_held h]
  cases hms : ms ++ guardMasks m with
  | nil => rfl
  | cons p q => exact ensure_ok _ (by simpa using hm (by simp [hms]))

/-- The banks of registers that are held. -/
theorem banksOf_held (h : ∀ v ∈ vs, s.me.place v.toNat ≠ none) : s.banksOf vs = vs.map fun v => (s.me.place v.toNat).getD 0 / 8 := by
  induction vs with
  | nil => rfl
  | cons v vs ih =>
    obtain ⟨p, hp⟩ := Option.ne_none_iff_exists'.mp (h v List.mem_cons_self)
    have ih := ih fun w hw => h w (List.mem_cons_of_mem v hw)
    simp only [State.banksOf, List.filterMap_cons, hp, Option.map_some, List.map_cons, Option.getD_some] at ih ⊢
    rw [ih]

theorem held_of_up (h : VecUp s vs) : ∀ v ∈ vs, s.me.place v.toNat ≠ none := fun v hv => by
  obtain ⟨p, hp, -⟩ := h v hv
  simp [hp]

theorem banksUp_ok (k : Try α) (h : VecUp s vs) : s.banksUp vs k = k := by
  refine hold_ok k ?_
  rw [banksOf_held (held_of_up h)]
  have hup : ∀ v ∈ vs, (s.myCore.bank ((s.me.place v.toNat).getD 0 / 8)).power ≠ .retain ∧ (s.myCore.bank ((s.me.place v.toNat).getD 0 / 8)).clears = none :=
    fun v hv => by
      obtain ⟨p, hp, hpow, hcl⟩ := h v hv
      rw [hp]
      exact ⟨hpow, hcl⟩
  simp only [Bool.and_eq_true, List.isEmpty_iff, List.filter_eq_nil_iff, Bool.not_eq_true', List.any_eq_false, List.forall_mem_map]
  exact ⟨fun v hv => by simpa using (hup v hv).1, fun v hv => by simp [(hup v hv).2]⟩

theorem vchecks_up (k : Try α) (h : VecUp s vs) (hm : ms ++ guardMasks m ≠ [] → s.me.banks ≠ 0) : s.vchecks m vs ms k = k := by
  rw [vchecks_held k (held_of_up h) hm, banksUp_ok k h]

end

/-! ## Reads in order -/

/-- What the reads of vector registers, in order, make of a form: the first that gives no value stops it. -/
def Peeks (s : State) : List VNum → Try State → Prop
  | [], _ => True
  | v :: vs, k => (∀ e, s.vpeek v = .error e → k = .error e) ∧ ∀ x, s.vpeek v = .ok x → Peeks s vs k

theorem stop_of_peeks {s : State} {before after : List VNum} {v : VNum} {k : Try State} {e : Stop} (h : Peeks s (before ++ v :: after) k)
    (hb : ∀ w ∈ before, ∃ x, s.vpeek w = .ok x) (hv : s.vpeek v = .error e) : k = .error e := by
  induction before with
  | nil => exact h.1 e hv
  | cons w ws ih =>
    obtain ⟨x, hx⟩ := hb w List.mem_cons_self
    exact ih (h.2 x hx) fun y hy => hb y (List.mem_cons_of_mem w hy)

/-- The scalar operands of a form can be read, and its scalar result taken. -/
def Ready (s : State) (u : VecUse) : Prop := (∀ r ∈ u.scalars, ∃ x, s.peek r = .ok x) ∧ ∀ r, u.into = some r → s.takesWrite r

/-- A form that makes the checks of its use, then that of its destination, then its reads. -/
def Shaped (s : State) (m : Mods) (u : VecUse) (r : Try State) : Prop :=
  ∃ k, r = s.vchecks m u.names u.masks k ∧ (∀ a, u.dest = some a → ¬ VecTakes s a → k = .error (.trap 5 0 (a.toNat + 32))) ∧
    ((∀ a, u.dest = some a → VecTakes s a) → Ready s u → Peeks s u.reads k)

/-- An instruction of such a shape. -/
def IsVector (s : State) (i : Instr) (m : Mods) (u : VecUse) : Prop := ∃ body, exec i s = s.issue m body ∧ Shaped s m u (body s.advance)

theorem vwritable_takes {α : Type} {s : State} {a : VNum} (k : Try α) (h : VecTakes s a) : s.vwritable a k = k :=
  ensure_ok k (by rw [show (s.vregAt a).stream = false from h]; rfl)

theorem vwritable_trap {α : Type} {s : State} {a : VNum} (k : Try α) (h : ¬ VecTakes s a) : s.vwritable a k = .error (.trap 5 0 (a.toNat + 32)) :=
  ensure_trap k (by rw [Bool.eq_true_of_not_eq_false h]; rfl)

/-- Forms with a vector destination. -/
theorem shaped_into {s : State} {m : Mods} {u : VecUse} {a : VNum} {k : Try State} (hd : u.dest = some a)
    (hp : VecTakes s a → Ready s u → Peeks s u.reads k) : Shaped s m u (s.advance.vchecks m u.names u.masks (s.advance.vwritable a k)) := by
  refine ⟨s.vwritable a k, by simp only [vchecks_advance, vwritable_advance], fun b hb hn => ?_, fun ht hr => ?_⟩
  · obtain rfl := Option.some.inj (hd.symm.trans hb)
    exact vwritable_trap k hn
  · rw [vwritable_takes k (ht a hd)]
    exact hp (ht a hd) hr

/-- Forms without. -/
theorem shaped_plain {s : State} {m : Mods} {u : VecUse} {k : Try State} (hd : u.dest = none) (hp : Ready s u → Peeks s u.reads k) :
    Shaped s m u (s.advance.vchecks m u.names u.masks k) :=
  ⟨k, vchecks_advance .., fun a ha => by simp [hd] at ha, fun _ hr => hp hr⟩

theorem shaped_vbinary (s : State) (m : Mods) (w : Nat) (o : OpVBin) (f : Word → BitVec 2048 → BitVec 2048 → BitVec 2048 × Sticky) :
    Shaped s m (binaryUse o false) (s.advance.vbinary m w o f) := by
  obtain ⟨a, b, q, c⟩ := o
  refine shaped_into (u := binaryUse ⟨a, b, q, c⟩ false) rfl fun _ hr => ?_
  cases c with
  | absent =>
    simp only [State.vpeek_advance]
    refine ⟨fun e he => by simp only [he], fun x hx => ⟨fun e he => by simp only [hx, he], fun _ _ => trivial⟩⟩
  | vec c =>
    simp only [State.vpeek_advance]
    refine ⟨fun e he => by simp only [he], fun x hx => ⟨fun e he => by simp only [hx, he], fun _ _ => trivial⟩⟩
  | scal c =>
    obtain ⟨y, hy⟩ := hr.1 c (by simp [binaryUse, thirdScal])
    simp only [State.vpeek_advance, readable_advance, readable_ok _ hy]
    exact ⟨fun e he => by simp only [he], fun _ _ => trivial⟩

theorem shaped_vtyped (s : State) (m : Mods) (d : ElemTy) (x : Option ArithX) (o : OpVBin) (ff : Fmt → FEnv → Nat → Nat → Nat × Sticky)
    (fi : Int → Int → Int) : Shaped s m (binaryUse o false) (s.advance.vtyped m d x o ff fi) := by
  simp only [State.vtyped]
  exact shaped_vbinary s m _ o _

theorem shaped_vgroups (s : State) (m : Mods) (o : OpVBin) (f : Nat → Nat → Nat) : Shaped s m (binaryUse o false) (s.advance.vgroups m o f) := by
  simp only [State.vgroups]
  exact shaped_vbinary s m _ o _

theorem shaped_vunary (s : State) (m : Mods) (o : OpVUn) (f : Word → BitVec 2048 → BitVec 2048 × Sticky) :
    Shaped s m { names := [o.a, o.b], dest := some o.a, reads := [o.b] } (s.advance.vunary m o f) := by
  refine shaped_into (u := { names := [o.a, o.b], dest := some o.a, reads := [o.b] }) rfl fun _ _ => ?_
  simp only [State.vpeek_advance]
  exact ⟨fun e he => by simp only [he], fun _ _ => trivial⟩

theorem shaped_vtyped1 (s : State) (m : Mods) (x : Option ArithX) (o : OpVUn) (ff : Fmt → FEnv → Nat → Nat × Sticky) (fi : Int → Int) :
    Shaped s m { names := [o.a, o.b], dest := some o.a, reads := [o.b] } (s.advance.vtyped1 m x o ff fi) := by
  simp only [State.vtyped1]
  exact shaped_vunary s m o _

theorem shaped_vfused (s : State) (m : Mods) (w : Nat) (o : OpVBin) (f : Nat → Nat → Nat → Nat × Sticky) :
    Shaped s m (binaryUse o true) (s.advance.vfused m w o f) := by
  obtain ⟨a, b, q, c⟩ := o
  refine shaped_into (u := binaryUse ⟨a, b, q, c⟩ true) rfl fun _ hr => ?_
  simp only [State.vpeek_advance]
  refine ⟨fun e he => by simp only [he], fun x hx => ⟨fun e he => by simp only [hx, he], fun z hz => ?_⟩⟩
  cases c with
  | absent => trivial
  | vec c => exact ⟨fun e he => by simp only [hx, hz, he], fun _ _ => trivial⟩
  | scal c => trivial

theorem exec_vsel (m : Mods) (o : OpVSel) (s : State) : exec (.vsel m o) s = execVsel m o s := rfl

/-- vsel (R294) reads b, then c. -/
theorem isVector_vsel (s : State) (m : Mods) (o : OpVSel) : IsVector s (.vsel m o) m
    { names := o.a :: o.b :: thirdVec o.c, masks := [o.m], dest := some o.a, reads := o.b :: thirdVec o.c, scalars := thirdScal o.c } := by
  refine ⟨_, exec_vsel .., ?_⟩
  simp only
  refine shaped_into (u := ⟨_, _, _, _, _, _⟩) rfl fun _ hr => ?_
  obtain ⟨a, b, q, c, p, neg⟩ := o
  simp only [State.vpeek_advance]
  cases c with
  | absent => exact ⟨fun e he => by simp only [he], fun _ _ => trivial⟩
  | vec c => exact ⟨fun e he => by simp only [he], fun x hx => ⟨fun e he => by simp only [hx, he], fun _ _ => trivial⟩⟩
  | scal c =>
    obtain ⟨y, hy⟩ := hr.1 c (by simp [thirdScal])
    simp only [readable_advance, readable_ok _ hy]
    exact ⟨fun e he => by simp only [he], fun _ _ => trivial⟩

theorem shaped_vcompare (s : State) (m : Mods) (x : Option ArithX) (o : OpVCmp) (k : FCond) :
    Shaped s m { names := [o.a, o.b], masks := [o.m], reads := [o.a, o.b] } (s.advance.vcompare m x o k) := by
  refine shaped_plain (u := { names := [o.a, o.b], masks := [o.m], reads := [o.a, o.b] }) rfl fun _ => ?_
  simp only [State.vpeek_advance]
  exact ⟨fun e he => by simp only [he], fun x hx => ⟨fun e he => by simp only [hx, he], fun _ _ => trivial⟩⟩

theorem shaped_vconvert (s : State) (m : Mods) (x : Option ArithX) (o : OpVCvt) (high : Bool) :
    Shaped s m { names := [o.a, o.b], dest := some o.a, reads := [o.b] } (s.advance.vconvert m x o high) := by
  refine shaped_into (u := { names := [o.a, o.b], dest := some o.a, reads := [o.b] }) rfl fun _ _ => ?_
  simp only [State.vpeek_advance]
  exact ⟨fun e he => by simp only [he], fun _ _ => trivial⟩

/-- A scalar destination that takes its result is in a mode to be written. -/
theorem writable_takes {α : Type} {s : State} {a : SReg} (k : Try α) (h : s.takesWrite a) : s.writable a k = k := by
  exact writable_mayTake k (h.imp_right And.left)

theorem shaped_vtoScalar (s : State) (m : Mods) (o : OpSV) (f : Word → BitVec 2048 → Res) :
    Shaped s m { names := [o.b], reads := [o.b], into := some o.a } (s.advance.vtoScalar m o f) := by
  refine shaped_plain (u := { names := [o.b], reads := [o.b], into := some o.a }) rfl fun hr => ?_
  rw [writable_advance, writable_takes _ (hr.2 o.a rfl), State.vpeek_advance]
  exact ⟨fun e he => by simp only [he], fun _ _ => trivial⟩

theorem shaped_vfromScalar (s : State) (m : Mods) (o : OpVS) (f : Word → Word → Word × BitVec 2048) :
    Shaped s m { names := [o.a], dest := some o.a, scalars := [o.b] } (s.advance.vfromScalar m o f) :=
  shaped_into (u := { names := [o.a], dest := some o.a, scalars := [o.b] }) rfl fun _ _ => trivial

theorem shaped_blockForm (s : State) (m : Mods) (o : OpVMem) (load : Bool) (kind : Nat) :
    Shaped s m { names := [o.a], reads := if load then [] else [o.a], scalars := [o.b] } (s.advance.blockForm m o load kind) := by
  refine shaped_plain (u := { names := [o.a], reads := if load then [] else [o.a], scalars := [o.b] }) rfl fun hr => ?_
  obtain ⟨x, hx⟩ := hr.1 o.b (by simp)
  simp only [readable_advance, readable_ok _ hx, State.peek_advance, hx, State.vpeek_advance]
  cases load with
  | true => trivial
  | false => exact ⟨fun e he => by simp only [he]; rfl, fun _ _ => trivial⟩

theorem shaped_groupForm (s : State) (m : Mods) (o : OpVGat) (load : Bool) :
    Shaped s m { names := [o.a, o.c], reads := if load then [o.c] else [o.a, o.c], scalars := [o.b] } (s.advance.groupForm m o load) := by
  refine shaped_plain (u := { names := [o.a, o.c], reads := if load then [o.c] else [o.a, o.c], scalars := [o.b] }) rfl fun hr => ?_
  obtain ⟨x, hx⟩ := hr.1 o.b (by simp)
  simp only [readable_advance, readable_ok _ hx, State.peek_advance, hx, State.vpeek_advance]
  cases load with
  | true => exact ⟨fun e he => by simp only [he]; rfl, fun _ _ => trivial⟩
  | false => exact ⟨fun e he => by simp only [he]; rfl, fun y hy => ⟨fun e he => by simp only [hy, he]; rfl, fun _ _ => trivial⟩⟩

/-- A form that names lane masks only reads no vector register. -/
theorem shaped_masks (s : State) (m : Mods) (u : VecUse) (k : Try State) (hn : u.names = []) (hd : u.dest = none) (hr : u.reads = []) :
    Shaped s m u (s.advance.vchecks m [] u.masks k) := by
  obtain ⟨names, masks, dest, reads, scalars, into⟩ := u
  obtain rfl := hn
  obtain rfl := hr
  exact shaped_plain (u := { names := [], masks := masks, dest := dest, reads := [], scalars := scalars, into := into }) hd fun _ => trivial

/-! ## Every form of pages 3 and 4 -/

theorem exec_vadd (m : Mods) (x : Option ArithX) (o : OpVBin) (s : State) : exec (.vadd m x o) s = execVadd m x o s := rfl
theorem exec_vsub (m : Mods) (x : Option ArithX) (o : OpVBin) (s : State) : exec (.vsub m x o) s = execVsub m x o s := rfl
theorem exec_vmul (m : Mods) (x : Option ArithX) (o : OpVBin) (s : State) : exec (.vmul m x o) s = execVmul m x o s := rfl
theorem exec_vdiv (m : Mods) (x : Option ArithX) (o : OpVBin) (s : State) : exec (.vdiv m x o) s = execVdiv m x o s := rfl
theorem exec_vmin (m : Mods) (x : Option ArithX) (o : OpVBin) (s : State) : exec (.vmin m x o) s = execVmin m x o s := rfl
theorem exec_vmax (m : Mods) (x : Option ArithX) (o : OpVBin) (s : State) : exec (.vmax m x o) s = execVmax m x o s := rfl
theorem exec_vmulh (m : Mods) (x : Option ArithX) (o : OpVBin) (s : State) : exec (.vmulh m x o) s = execVmulh m x o s := rfl
theorem exec_vand (m : Mods) (o : OpVBin) (s : State) : exec (.vand m o) s = execVand m o s := rfl
theorem exec_vor (m : Mods) (o : OpVBin) (s : State) : exec (.vor m o) s = execVor m o s := rfl
theorem exec_vxor (m : Mods) (o : OpVBin) (s : State) : exec (.vxor m o) s = execVxor m o s := rfl
theorem exec_vshl (m : Mods) (o : OpVBin) (s : State) : exec (.vshl m o) s = execVshl m o s := rfl
theorem exec_vshr (m : Mods) (o : OpVBin) (s : State) : exec (.vshr m o) s = execVshr m o s := rfl
theorem exec_vsar (m : Mods) (o : OpVBin) (s : State) : exec (.vsar m o) s = execVsar m o s := rfl
theorem exec_vperm (m : Mods) (o : OpVBin) (s : State) : exec (.vperm m o) s = execVperm m o s := rfl
theorem exec_vrot (m : Mods) (o : OpVBin) (s : State) : exec (.vrot m o) s = execVrot m o s := rfl
theorem exec_vfma (m : Mods) (x : Option ArithX) (o : OpVBin) (s : State) : exec (.vfma m x o) s = execVfma m x o s := rfl
theorem exec_vsqrt (m : Mods) (x : Option ArithX) (o : OpVUn) (s : State) : exec (.vsqrt m x o) s = execVsqrt m x o s := rfl
theorem exec_vabs (m : Mods) (x : Option ArithX) (o : OpVUn) (s : State) : exec (.vabs m x o) s = execVabs m x o s := rfl
theorem exec_vneg (m : Mods) (x : Option ArithX) (o : OpVUn) (s : State) : exec (.vneg m x o) s = execVneg m x o s := rfl
theorem exec_vexp2 (m : Mods) (x : Option ArithX) (o : OpVUn) (s : State) : exec (.vexp2 m x o) s = execVexp2 m x o s := rfl
theorem exec_vrcp (m : Mods) (x : Option ArithX) (o : OpVUn) (s : State) : exec (.vrcp m x o) s = execVrcp m x o s := rfl
theorem exec_vnot (m : Mods) (o : OpVUn) (s : State) : exec (.vnot m o) s = execVnot m o s := rfl
theorem exec_vmov (m : Mods) (o : OpVUn) (s : State) : exec (.vmov m o) s = execVmov m o s := rfl
theorem exec_vcvt (m : Mods) (x : Option ArithX) (o : OpVCvt) (s : State) : exec (.vcvt m x o) s = execVcvt m x o s := rfl
theorem exec_vcvtn (m : Mods) (x : Option ArithX) (o : OpVCvt) (s : State) : exec (.vcvtn m x o) s = execVcvtn m x o s := rfl
theorem exec_vcmpEq (m : Mods) (x : Option ArithX) (o : OpVCmp) (s : State) : exec (.vcmpEq m x o) s = execVcmpEq m x o s := rfl
theorem exec_vcmpLt (m : Mods) (x : Option ArithX) (o : OpVCmp) (s : State) : exec (.vcmpLt m x o) s = execVcmpLt m x o s := rfl
theorem exec_vcmpLe (m : Mods) (x : Option ArithX) (o : OpVCmp) (s : State) : exec (.vcmpLe m x o) s = execVcmpLe m x o s := rfl
theorem exec_vcmpUn (m : Mods) (x : Option ArithX) (o : OpVCmp) (s : State) : exec (.vcmpUn m x o) s = execVcmpUn m x o s := rfl
theorem exec_vredadd (m : Mods) (x : Option ArithX) (o : OpSV) (s : State) : exec (.vredadd m x o) s = execVredadd m x o s := rfl
theorem exec_vredmin (m : Mods) (x : Option ArithX) (o : OpSV) (s : State) : exec (.vredmin m x o) s = execVredmin m x o s := rfl
theorem exec_vredmax (m : Mods) (x : Option ArithX) (o : OpSV) (s : State) : exec (.vredmax m x o) s = execVredmax m x o s := rfl
theorem exec_vext (m : Mods) (o : OpVExt) (s : State) : exec (.vext m o) s = execVext m o s := rfl
theorem exec_vbcast (m : Mods) (o : OpVS) (s : State) : exec (.vbcast m o) s = execVbcast m o s := rfl
theorem exec_vins (m : Mods) (o : OpVIns) (s : State) : exec (.vins m o) s = execVins m o s := rfl
theorem exec_vclr (m : Mods) (o : OpV) (s : State) : exec (.vclr m o) s = execVclr m o s := rfl
theorem exec_mand (m : Mods) (o : OpMBin) (s : State) : exec (.mand m o) s = execMand m o s := rfl
theorem exec_mor (m : Mods) (o : OpMBin) (s : State) : exec (.mor m o) s = execMor m o s := rfl
theorem exec_mxor (m : Mods) (o : OpMBin) (s : State) : exec (.mxor m o) s = execMxor m o s := rfl
theorem exec_mnot (m : Mods) (o : OpMUn) (s : State) : exec (.mnot m o) s = execMnot m o s := rfl
theorem exec_mset (m : Mods) (o : OpMSet) (s : State) : exec (.mset m o) s = execMset m o s := rfl
theorem exec_mget (m : Mods) (o : OpMGet) (s : State) : exec (.mget m o) s = execMget m o s := rfl
theorem exec_mpopc (m : Mods) (o : OpMGet) (s : State) : exec (.mpopc m o) s = execMpopc m o s := rfl
theorem exec_mfirst (m : Mods) (o : OpMGet) (s : State) : exec (.mfirst m o) s = execMfirst m o s := rfl
theorem exec_vld (m : Mods) (o : OpVMem) (s : State) : exec (.vld m o) s = execVld m o s := rfl
theorem exec_vldf (m : Mods) (o : OpVMem) (s : State) : exec (.vldf m o) s = execVldf m o s := rfl
theorem exec_vldfe (m : Mods) (o : OpVMem) (s : State) : exec (.vldfe m o) s = execVldfe m o s := rfl
theorem exec_vst (m : Mods) (o : OpVMem) (s : State) : exec (.vst m o) s = execVst m o s := rfl
theorem exec_vstef (m : Mods) (o : OpVMem) (s : State) : exec (.vstef m o) s = execVstef m o s := rfl
theorem exec_vgath (m : Mods) (o : OpVGat) (s : State) : exec (.vgath m o) s = execVgath m o s := rfl
theorem exec_vscat (m : Mods) (o : OpVGat) (s : State) : exec (.vscat m o) s = execVscat m o s := rfl

theorem isVector_of {s : State} {i : Instr} {m n : Mods} {u w : VecUse} {body : State → Try State} (he : exec i s = s.issue n body)
    (hs : Shaped s n w (body s.advance)) (h : some (n, w) = some (m, u)) : IsVector s i m u := by
  obtain ⟨rfl, rfl⟩ := Prod.mk.inj (Option.some.inj h)
  exact ⟨body, he, hs⟩

theorem isVector_of_use {s : State} {i : Instr} {m : Mods} {u : VecUse} (h : vectorUse i = some (m, u)) : IsVector s i m u := by
  cases i with
  | vadd n x o => exact isVector_of (exec_vadd ..) (shaped_vtyped ..) h
  | vsub n x o => exact isVector_of (exec_vsub ..) (shaped_vtyped ..) h
  | vmul n x o => exact isVector_of (exec_vmul ..) (shaped_vtyped ..) h
  | vdiv n x o => exact isVector_of (exec_vdiv ..) (shaped_vtyped ..) h
  | vmin n x o => exact isVector_of (exec_vmin ..) (shaped_vtyped ..) h
  | vmax n x o => exact isVector_of (exec_vmax ..) (shaped_vtyped ..) h
  | vmulh n x o => exact isVector_of (exec_vmulh ..) (shaped_vbinary ..) h
  | vand n o => exact isVector_of (exec_vand ..) (shaped_vgroups ..) h
  | vor n o => exact isVector_of (exec_vor ..) (shaped_vgroups ..) h
  | vxor n o => exact isVector_of (exec_vxor ..) (shaped_vgroups ..) h
  | vshl n o => exact isVector_of (exec_vshl ..) (shaped_vgroups ..) h
  | vshr n o => exact isVector_of (exec_vshr ..) (shaped_vgroups ..) h
  | vsar n o => exact isVector_of (exec_vsar ..) (shaped_vgroups ..) h
  | vperm n o => exact isVector_of (exec_vperm ..) (shaped_vbinary ..) h
  | vrot n o => exact isVector_of (exec_vrot ..) (shaped_vbinary ..) h
  | vfma n x o => exact isVector_of (exec_vfma ..) (shaped_vfused ..) h
  | vsqrt n x o => exact isVector_of (exec_vsqrt ..) (shaped_vtyped1 ..) h
  | vabs n x o => exact isVector_of (exec_vabs ..) (shaped_vtyped1 ..) h
  | vneg n x o => exact isVector_of (exec_vneg ..) (shaped_vtyped1 ..) h
  | vexp2 n x o => exact isVector_of (exec_vexp2 ..) (shaped_vtyped1 ..) h
  | vrcp n x o => exact isVector_of (exec_vrcp ..) (shaped_vtyped1 ..) h
  | vnot n o => exact isVector_of (exec_vnot ..) (shaped_vunary ..) h
  | vmov n o => exact isVector_of (exec_vmov ..) (shaped_vunary ..) h
  | vcvt n x o => exact isVector_of (exec_vcvt ..) (shaped_vconvert ..) h
  | vcvtn n x o => exact isVector_of (exec_vcvtn ..) (shaped_vconvert ..) h
  | vcmpEq n x o => exact isVector_of (exec_vcmpEq ..) (shaped_vcompare ..) h
  | vcmpLt n x o => exact isVector_of (exec_vcmpLt ..) (shaped_vcompare ..) h
  | vcmpLe n x o => exact isVector_of (exec_vcmpLe ..) (shaped_vcompare ..) h
  | vcmpUn n x o => exact isVector_of (exec_vcmpUn ..) (shaped_vcompare ..) h
  | vsel n o => 
    obtain ⟨rfl, rfl⟩ := Prod.mk.inj (Option.some.inj h)
    exact isVector_vsel s n o
  | vredadd n x o => exact isVector_of (exec_vredadd ..) (shaped_vtoScalar ..) h
  | vredmin n x o => exact isVector_of (exec_vredmin ..) (shaped_vtoScalar ..) h
  | vredmax n x o => exact isVector_of (exec_vredmax ..) (shaped_vtoScalar ..) h
  | vext n o => exact isVector_of (exec_vext ..) (shaped_vtoScalar s n ⟨o.a, o.b, o.q⟩ _) h
  | vbcast n o => exact isVector_of (exec_vbcast ..) (shaped_vfromScalar ..) h
  | vins n o => exact isVector_of (exec_vins ..) (shaped_vfromScalar s n ⟨o.a, o.b, o.q⟩ _) h
  | vclr n o => exact isVector_of (exec_vclr ..) (shaped_into (u := { names := [o.a], dest := some o.a }) rfl fun _ _ => trivial) h
  | mand n o => exact isVector_of (exec_mand ..) (shaped_masks s n { masks := o.a :: o.b :: o.c.toList } _ rfl rfl rfl) h
  | mor n o => exact isVector_of (exec_mor ..) (shaped_masks s n { masks := o.a :: o.b :: o.c.toList } _ rfl rfl rfl) h
  | mxor n o => exact isVector_of (exec_mxor ..) (shaped_masks s n { masks := o.a :: o.b :: o.c.toList } _ rfl rfl rfl) h
  | mnot n o => exact isVector_of (exec_mnot ..) (shaped_masks s n { masks := [o.a, o.b] } _ rfl rfl rfl) h
  | mset n o => exact isVector_of (exec_mset ..) (shaped_masks s n { masks := [o.a], scalars := [o.b] } _ rfl rfl rfl) h
  | mget n o => exact isVector_of (exec_mget ..) (shaped_masks s n { masks := [o.b], into := some o.a } _ rfl rfl rfl) h
  | mpopc n o => exact isVector_of (exec_mpopc ..) (shaped_masks s n { masks := [o.b], into := some o.a } _ rfl rfl rfl) h
  | mfirst n o => exact isVector_of (exec_mfirst ..) (shaped_masks s n { masks := [o.b], into := some o.a } _ rfl rfl rfl) h
  | vld n o => exact isVector_of (exec_vld ..) (shaped_blockForm ..) h
  | vldf n o => exact isVector_of (exec_vldf ..) (shaped_blockForm ..) h
  | vldfe n o => exact isVector_of (exec_vldfe ..) (shaped_blockForm ..) h
  | vst n o => exact isVector_of (exec_vst ..) (shaped_blockForm ..) h
  | vstef n o => exact isVector_of (exec_vstef ..) (shaped_blockForm ..) h
  | vgath n o => exact isVector_of (exec_vgath ..) (shaped_groupForm ..) h
  | vscat n o => exact isVector_of (exec_vscat ..) (shaped_groupForm ..) h
  | _ => exact absurd h (by simp [vectorUse])

theorem vpeek_failed {s : State} {v : VNum} (hs : (s.vregAt v).stream = false) (hf : (s.vregAt v).failed = true) :
    s.vpeek v = .error (.trap 42 0 (v.toNat + 32)) := by
  simp [State.vpeek, hs, hf]

theorem vpeek_empty {s : State} {v : VNum} (hs : (s.vregAt v).stream = false) (hf : (s.vregAt v).failed = false) (he : (s.vregAt v).full = false) :
    s.vpeek v = .error (.wait (.reg v.toNat true)) := by
  simp [State.vpeek, hs, hf, he]

theorem claim_vectorFormsStop : Claim.VectorFormsStop := by
  intro s i m u hu hslot ms place held masked up takes ready
  obtain ⟨body, he, k, hk, hdest, hreads⟩ := isVector_of_use (s := s) hu
  have traps {c : Nat} {a : Word} {x : Nat} (h : body s.advance = .error (.trap c a x)) : Traps i s c a x := he.trans (issue_trap h (.inl hslot))
  have waits {w : Why} (h : body s.advance = .error (.wait w)) : exec i s = .next (s.suspend w) := he.trans (issue_wait h (.inl hslot))
  have goes (h : up) : body s.advance = k := hk.trans (vchecks_up k h.1 h.2)
  refine ⟨fun v hv => traps (hk.trans (vchecks_notHeld k hv)), fun p hheld hp hb => traps (hk.trans (vchecks_noBank k hheld hp hb)),
    fun bs hbs hheld hmask hwait => waits (hk.trans ((vchecks_held k hheld hmask).trans ?_)), fun a hup ha ht => traps ((goes hup).trans (hdest a ha ht)),
    fun before after v hup ht hr hsplit hbefore hstream => ?_⟩
  · have hrise : (s.banksOf u.names).filter (fun b => (s.myCore.bank b).power == .retain) = bs := by
      rw [hbs, banksOf_held hheld]
      exact List.filter_congr fun b _ => Bool.beq_eq_decide_eq ..
    simp only [State.banksUp, hrise]
    refine hold_wait k ?_
    rcases hwait with hne | ⟨v, hv, hcl⟩
    · simp [hne]
    · rw [banksOf_held hheld, Bool.and_eq_false_iff]
      exact .inr (by simpa using ⟨v, hv, hcl⟩)
  · have stops {e : Stop} (h : s.vpeek v = .error e) : body s.advance = .error e :=
      (goes hup).trans (stop_of_peeks (hsplit ▸ hreads ht hr) hbefore h)
    exact ⟨fun hf => traps (stops (vpeek_failed hstream hf)), fun hf hempty => waits (stops (vpeek_empty hstream hf hempty))⟩

/-! ## Lane masks (R307) -/

theorem getLsbD_lanes (s : State) (m : Mods) (j : Nat) (hj : j < 64) : (s.lanes m).getLsbD j = active s m j := by
  unfold State.lanes active
  cases m.guard with
  | none => rw [BitVec.getLsbD_allOnes, decide_eq_true hj]
  | some g =>
    obtain ⟨neg, idx⟩ := g
    cases neg <;> simp [hj]

theorem State.mask_advance (s : State) (p : Nat) : s.advance.me.mask p = s.me.mask p := by
  rw [State.me_advance]
  rfl

theorem lanes_of_mask {s t : State} (m : Mods) (h : ∀ p, t.me.mask p = s.me.mask p) : t.lanes m = s.lanes m := by
  simp only [State.lanes, h]

/-- A mask is written in the active groups. -/
theorem mwrite_masked {s t : State} (m : Mods) (a : PNum) (v : Word) (g : Nat → Bool) (h : ∀ p, t.me.mask p = s.me.mask p)
    (hv : ∀ j, j < 64 → v.getLsbD j = g j) : ∃ r, Masked s m a g r ∧ t.mwrite m a v = Claim.maskTo t a r := by
  refine ⟨(v &&& s.lanes m) ||| (s.me.mask a.toNat &&& ~~~(s.lanes m)), fun j hj => ?_, ?_⟩
  · simp only [BitVec.getLsbD_or, BitVec.getLsbD_and, BitVec.getLsbD_not, getLsbD_lanes s m j hj, hv j hj, hj, decide_true, Bool.true_and]
    cases active s m j <;> simp
  · simp only [State.mwrite, lanes_of_mask m h]
    exact State.modMe_congr (congrArg (fun x => { t.me with masks := t.me.masks.put a.toNat x }) (by rw [h]))

/-- The number of set bits below n. -/
theorem onesBelow_eq (x : Word) (n : Nat) : onesBelow x n = (List.range n).countP fun i => x.getLsbD i := by
  induction n with
  | zero => rfl
  | succ n ih =>
    rw [onesBelow, ih, List.range_succ, List.countP_append]
    cases h : x.getLsbD n <;> simp [h, b2n]

/-- The lowest set bit from i on. -/
theorem trailingZeros_eq (x : Word) (n i : Nat) :
    trailingZeros x i n + i = ((List.range' i n).find? fun j => x.getLsbD j).getD (i + n) := by
  induction n generalizing i with
  | zero => simp [trailingZeros]
  | succ n ih =>
    rw [trailingZeros, List.range'_succ, List.find?_cons]
    cases h : x.getLsbD i with
    | true => simp
    | false =>
      have e := ih (i + 1)
      simp only [Bool.false_eq_true, if_false]
      rw [show i + (n + 1) = i + 1 + n by omega, ← e]
      omega

theorem lowestGroup_eq (x : Word) : lowestGroup x = trailing x := by
  rw [lowestGroup, trailing, List.range_eq_range']
  exact trailingZeros_eq x 64 0

/-- With a bank, the checks of a form that names lane masks only are passed. -/
theorem vchecks_masks {α : Type} {s : State} (m : Mods) (ms : List PNum) (k : Try α) (hb : s.me.banks ≠ 0) : s.advance.vchecks m [] ms k = k := by
  rw [vchecks_advance]
  exact vchecks_up k (fun v hv => absurd hv List.not_mem_nil) fun _ => hb

/-- A form of two masks (R307). -/
theorem mbinary_masked {s : State} {m : Mods} {i : Instr} (o : OpMBin) (f : Word → Word → Word) (g : Nat → Bool) (hb : s.me.banks ≠ 0)
    (he : exec i s = s.issue m fun s => s.mbinary m o f)
    (hg : ∀ j, j < 64 → (f (s.me.mask (match o.c with | none => o.a | some _ => o.b).toNat)
      (s.me.mask (match o.c with | none => o.b | some c => c).toNat)).getLsbD j = g j) :
    ∃ r, Masked s m o.a g r ∧ Ends i m s (Claim.maskTo s.advance o.a r) := by
  obtain ⟨r, hr, hw⟩ := mwrite_masked (t := s.advance) m o.a _ g (State.mask_advance s) hg
  refine ⟨r, hr, he.trans (issue_ok ?_)⟩
  rw [← hw, State.mbinary, vchecks_masks m _ _ hb]
  simp only [State.mask_advance] <;> rfl

/-- A form that gives a scalar of a mask (R307). -/
theorem mtoScalar_ends {s : State} {m : Mods} {i : Instr} {o : OpMGet} (f : Word → Word) (hb : s.me.banks ≠ 0) (ha : s.takesWrite o.a)
    (he : exec i s = s.issue m fun s => s.mtoScalar m o f) : Ends i m s (outDone s o.a (bare (f (s.me.mask o.b.toNat &&& s.lanes m)))) := by
  refine he.trans (issue_ok ?_)
  rw [State.mtoScalar, vchecks_masks m _ _ hb, produce_ok _ ha, State.mask_advance, lanes_of_mask m (State.mask_advance s)]
  rfl

theorem claim_laneMasks : Claim.LaneMasks := by
  intro s m hb
  refine ⟨fun o => ⟨mbinary_masked o _ _ hb (exec_mand ..) fun _ _ => BitVec.getLsbD_and, mbinary_masked o _ _ hb (exec_mor ..) fun _ _ => BitVec.getLsbD_or,
    mbinary_masked o _ _ hb (exec_mxor ..) fun _ _ => BitVec.getLsbD_xor⟩, fun o => ?_, fun o v hv => ?_, fun o ha => ?_⟩
  · obtain ⟨r, hr, hw⟩ := mwrite_masked (t := s.advance) m o.a (~~~(s.me.mask o.b.toNat)) (fun j => !(s.me.mask o.b.toNat).getLsbD j) (State.mask_advance s)
      fun j hj => by simp [hj]
    refine ⟨r, hr, (exec_mnot m o s).trans (issue_ok ?_)⟩
    rw [vchecks_masks m _ _ hb, State.mask_advance, hw]
  · have hmask (p : Nat) : (s.advance.consume [(o.b, o.q)]).me.mask p = s.me.mask p := by
      rw [State.me_consume_field _ _ (Slot.mask · p) fun _ => rfl, State.mask_advance]
    obtain ⟨r, hr, hw⟩ := mwrite_masked m o.a v (fun j => v.getLsbD j) hmask fun j _ => rfl
    refine ⟨r, hr, (exec_mset m o s).trans (issue_ok ?_)⟩
    rw [vchecks_masks m _ _ hb, reading_ok o.q _ hv, hw]
  · refine ⟨s.me.mask o.b.toNat &&& s.lanes m, fun j hj => by rw [BitVec.getLsbD_and, getLsbD_lanes s m j hj],
      mtoScalar_ends (fun x => x) hb ha (exec_mget ..), ?_, ?_⟩
    · rw [← onesBelow_eq]
      exact mtoScalar_ends (fun x => BitVec.ofNat 64 (onesBelow x 64)) hb ha (exec_mpopc ..)
    · rw [← lowestGroup_eq]
      exact mtoScalar_ends (fun x => BitVec.ofNat 64 (lowestGroup x)) hb ha (exec_mfirst ..)

/-- Settles O23: each form of a lane mask is one write in the active groups or one scalar result; each form of pages 3 and 4 is of one shape, `Shaped`,
of checks, destination and reads in order. -/
theorem laneMasksAndVectorStops : Obligations.LaneMasksAndVectorStops := ⟨claim_laneMasks, claim_vectorFormsStop⟩

end Sys2Proof.Machine
end

section
/-!
PROOFS. Streams (spec/10 R166 to R168, R312) and the forms of the matrix unit (spec/13 R314, R315).
-/

open Sys2Proof Sys2Proof.Machine Sys2Proof.Claim

namespace Sys2Proof.Machine

theorem exec_streamScalar (m : Mods) (o : OpStrS) (s : State) : exec (.streamScalar m o) s = execStreamScalar m o s := rfl
theorem exec_streamVector (m : Mods) (o : OpStrV) (s : State) : exec (.streamVector m o) s = execStreamVector m o s := rfl
theorem exec_unstreamScalar (m : Mods) (o : OpA) (s : State) : exec (.unstreamScalar m o) s = execUnstreamScalar m o s := rfl
theorem exec_unstreamVector (m : Mods) (o : OpV) (s : State) : exec (.unstreamVector m o) s = execUnstreamVector m o s := rfl
theorem exec_mxs (m : Mods) (s : State) : exec (.mxs m) s = execMxs m s := rfl
theorem exec_mxr (m : Mods) (o : OpA) (s : State) : exec (.mxr m o) s = execMxr m o s := rfl

/-! ## Streams -/

@[simp] theorem State.shape_advance (s : State) (n : Nat) : s.advance.myCore.shape n = s.myCore.shape n := by
  rw [State.myCore_advance]
  rfl

@[simp] theorem State.streams_advance (s : State) : s.advance.myCore.streams = s.myCore.streams := by
  rw [State.myCore_advance]
  rfl

@[simp] theorem State.copyq_advance (s : State) : s.advance.myCore.copyq = s.myCore.copyq := by
  rw [State.myCore_advance]
  rfl

theorem State.streamAt_advance (s : State) (n r : Nat) (vec : Bool) : s.advance.myCore.streamAt n r vec = s.myCore.streamAt n r vec := by
  simp only [Core.streamAt, State.streams_advance]

theorem pushing_ok {s : State} {p : Push} {i : Instr} {b : Bool} (k : Try State) (h : b = true) : s.pushing p i b k = k := if_pos h

theorem pushing_held {s : State} {p : Push} {i : Instr} {b : Bool} (k : Try State) (h : b = false) :
    s.advance.pushing p i b k = .ok (heldPush s.advance s p i) := if_neg (by simp [h])

/-- The checks of one shape that may be reached. -/
theorem shapeChecks_one {c n : Nat} {k : Shape} {r : Try State} (hr : k.reachOk c = true) (ha : k.base.toNat % k.size = 0)
    (hf : isFabric k.base = true ∨ (isBulk k.base = true ∧ 8 ≤ k.size)) : shapeChecks c [(n, k)] r = r := by
  have h3 : (isFabric k.base || isBulk k.base) = true := by
    rcases hf with h | ⟨h, -⟩ <;> simp [h]
  have h4 : (isFabric k.base || decide (8 ≤ k.size)) = true := by
    rcases hf with h | ⟨-, h⟩ <;> simp [h]
  simp only [shapeChecks, List.find?_cons, List.find?_nil, hr, ha, h3, h4, beq_self_eq_true, Bool.not_true]

/-- A stream that may be set up. -/
theorem streamForm_ok {s : State} (i : Instr) (reg shown : Nat) (vec normal : Bool) (ks : VNum) (h : HNum) (hn : normal = true) (hok : StreamOk s ks h)
    (hesz : vec = false → (s.myCore.shape ks.toNat).esz < 4) (hbytes : vec = true → (s.myCore.shape ks.toNat).bytes % 256 = 0)
    (hp : MayPush s) (hq : s.myCore.copyq.length < 16) :
    s.advance.streamForm i reg shown vec normal ks h = .ok (if vec
      then (streaming s reg vec ks h).modMyCore fun k => k.setVreg reg { k.vreg reg with stream := true, full := false, pend := false, failed := false }
      else (streaming s reg vec ks h).modMe fun t => t.modReg reg fun r => { r with mode := 1, full := false, pend := false, failed := false }) := by
  obtain ⟨hvalid, hreach, halign, hplace, hbuf, hbst, hroom⟩ := hok
  have hcan : (s.mayPush maskE && decide (s.myCore.copyq.length < 16)) = true := by
    rw [show s.mayPush maskE = true from hp, decide_eq_true hq]
    rfl
  simp only [State.streamForm, State.shape_advance, State.handle_advance, State.streams_advance, State.copyq_advance, State.mayPush_advance, State.advance_cur]
  rw [ensure_ok _ hn, ensure_ok _ (by simpa [Shape.valid] using hvalid), shapeChecks_one hreach halign hplace,
    ensure_ok (b := vec || _) _ (by cases vec <;> simp_all), ensure_ok (b := !vec || _) _ (by cases vec <;> simp_all),
    ensure_ok _ (by simp [hbuf, hbst]), ensure_ok _ (by simpa using hroom), pushing_ok _ hcan]
  simp only [State.me_fresh, State.asid_advance, State.sup_advance, State.fresh_cur, State.advance_cur, State.fresh_name, State.advance_nextId]
  cases vec with
  | true => rfl
  | false => rfl

theorem holdsAll_one {α : Type} {s : State} {a : VNum} {p : Nat} (k : Try α) (h : s.me.place a.toNat = some p) : s.advance.holdsAll [a] [] k = k := by
  simp only [State.holdsAll, State.place_advance, List.find?_cons, List.find?_nil, h, Option.isNone_some]

theorem vregAt_place {s : State} {a : VNum} {p : Nat} (h : s.me.place a.toNat = some p) : s.vregAt a = s.myCore.vreg p := by
  rw [State.vregAt, h]
  rfl

theorem guard_advance (s : State) (m : Mods) : guardHolds m s.advance.me = guardHolds m s.me := by
  rw [State.me_advance]
  rfl

theorem claim_streamForms : Claim.StreamForms := by
  intro s m hg
  refine ⟨fun o hmode hok hesz hp hq => ends_guarded (exec_streamScalar ..) hg ?_, fun o p hplace hup hnorm hok hbytes hp hq => ?_,
    fun o x hmode hx => ends_guarded (exec_unstreamScalar ..) hg ?_, fun o p x hplace hstream hx => ?_,
    fun o hmode => traps_guarded (exec_unstreamScalar ..) hg ?_ (.inr (by decide))⟩
  · exact streamForm_ok _ _ _ false _ o.ks o.h (by simp [hmode]) hok (fun _ => hesz) (by simp) hp hq
  · refine (exec_streamVector m o s).trans (issue_ok ?_)
    rw [holdsAll_one _ hplace, if_pos ((guard_advance s m).trans hg), banksUp_advance, banksUp_ok _ hup, State.place_advance, hplace]
    exact streamForm_ok _ _ _ true _ o.ks o.h (by simp [vregAt_place hplace, hnorm]) hok (by simp) (fun _ => hbytes) hp hq
  · rw [if_neg (by simp [hmode]), State.streamAt_advance, State.advance_cur, hx]
    rfl
  · refine (exec_unstreamVector m o s).trans (issue_ok ?_)
    rw [holdsAll_one _ hplace, if_pos ((guard_advance s m).trans hg), if_neg (by simp [vregAt_place hplace, hstream]), State.place_advance, hplace,
      State.streamAt_advance, State.advance_cur, Option.getD_some, hx]
    rfl
  · exact if_pos (by simpa using hmode)

/-! ## The matrix unit -/

@[simp] theorem State.matrix_advance (s : State) : s.advance.myCore.matrix = s.myCore.matrix := by
  rw [State.myCore_advance]
  rfl

theorem State.accHeld_advance (s : State) (b n : Nat) : s.advance.myCore.accHeld b n = s.myCore.accHeld b n := by
  simp only [Core.accHeld, Core.acc, State.matrix_advance]

theorem hasArray_ok {α : Type} {s : State} (k : Try α) (h : isSuper s.cur.core = false) : s.advance.hasArray k = k :=
  ensure_ok k (by rw [State.advance_cur, h]; rfl)

theorem peekAll_cons {s : State} {r : SReg} {rs : List SReg} {v : Word} {vs : List Word} (h : s.peek r = .ok v) (hs : s.peekAll rs = .ok vs) :
    s.peekAll (r :: rs) = .ok (v :: vs) := by
  simp only [State.peekAll, h, hs]

theorem State.peekAll_advance (s : State) (rs : List SReg) : s.advance.peekAll rs = s.peekAll rs := by
  induction rs with
  | nil => rfl
  | cons r rs ih => simp only [State.peekAll, State.peek_advance, ih]

theorem packetRegs_eq : packetRegs = [8, 9, 10, 11, 12, 13, 14, 15] := rfl

/-- The registers of a packet are in normal mode. -/
theorem packet_normal {s : State} (h : ∀ i, 8 ≤ i → i < 16 → (s.me.reg i).mode = 0) :
    (packetRegs.find? fun r => (s.advance.me.reg r.toNat).mode != 0) = none := by
  refine List.find?_eq_none.mpr fun r hr => ?_
  have hb : 8 ≤ r.toNat ∧ r.toNat < 16 := by
    revert r
    decide
  simp [h r.toNat hb.1 hb.2]

/-- The first byte of a packet. -/
theorem packet_byte (w : Word) (ws : List Word) : imageAt ((w :: ws).flatMap fun v => natLe 8 v.toNat) 0 1 = w.toNat % 2 ^ 8 := by
  simp [imageAt, natLe, leNat]

/-- mxs, once its packet has been read (R314, R315). -/
def mxsBody (m : Mods) (pkt : List Byte) (s : State) : Try State :=
  ensure (headerOk pkt) 23 0 (imageAt pkt 0 1) <|
    s.pushing .matrix (.mxs m) (decide (s.myCore.matrix.queue.length < 8) && s.mayPush maskM) <|
    ensure (!namesAcc pkt || !s.myCore.accHeld (pktAcc pkt) s.cur.slot) 24 0 (pktAcc pkt) <|
      let k : MatCmd := { pkt := pkt, slot := s.cur.slot, asid := s.me.asid, sup := s.me.sup }
      let s := s.modMyCore fun x => x.modMatrix fun y => { y with queue := y.queue ++ [⟨k, .waiting⟩] }
      let s := if namesAcc pkt then s.modMyCore fun x => x.setAcc (pktAcc pkt) { x.acc (pktAcc pkt) with holder := some s.cur.slot } else s
      .ok (s.startCommand s.cur.core)

theorem exec_mxs_eq {s : State} {m : Mods} {vs : List Word} (hg : guardHolds m s.me = true) (hc : isSuper s.cur.core = false)
    (hn : ∀ i, 8 ≤ i → i < 16 → (s.me.reg i).mode = 0) (hv : s.peekAll packetRegs = .ok vs) :
    ∃ body, exec (.mxs m) s = s.issue m body ∧ body s.advance = mxsBody m (vs.flatMap fun v => natLe 8 v.toNat) s.advance := by
  refine ⟨_, exec_mxs m s, ?_⟩
  simp only
  rw [hasArray_ok _ hc, if_neg (by rw [guard_advance, hg]; decide)]
  simp only [packet_normal hn, State.peekAll_advance, hv]
  rfl

theorem claim_matrixForms : Claim.MatrixForms := by
  intro s m hg
  refine ⟨fun hc => ?_, fun w8 w9 w10 w11 w12 w13 w14 w15 hc hn h8 h9 h10 h11 h12 h13 h14 h15 => ?_, fun o hc hmode halone => ?_⟩
  · exact (exec_mxs m s).trans (issue_trap (ensure_trap _ (by rw [State.advance_cur, hc]; rfl)) (.inr (by decide)))
  · have hv : s.peekAll packetRegs = .ok [w8, w9, w10, w11, w12, w13, w14, w15] :=
      peekAll_cons h8 (peekAll_cons h9 (peekAll_cons h10 (peekAll_cons h11 (peekAll_cons h12 (peekAll_cons h13 (peekAll_cons h14 (peekAll_cons h15 rfl)))))))
    intro pkt
    obtain ⟨body, he, hbody⟩ := exec_mxs_eq hg hc hn hv
    have room (hq : s.myCore.matrix.queue.length < 8) (hp : s.mayPush 4 = true) :
        (decide (s.advance.myCore.matrix.queue.length < 8) && s.advance.mayPush maskM) = true := by
      rw [State.matrix_advance, decide_eq_true hq, State.mayPush_advance, show s.mayPush maskM = true from hp]
      rfl
    refine ⟨fun hh => he.trans (issue_trap (hbody.trans ?_) (.inr (by decide))), fun hh hq hp => ⟨fun hacc hheld =>
      he.trans (issue_trap (hbody.trans ((ensure_ok _ hh).trans ((pushing_ok _ (room hq hp)).trans (ensure_trap _ ?_)))) (.inr (by decide))),
      fun hfree => he.trans (issue_ok (hbody.trans ((ensure_ok _ hh).trans ((pushing_ok _ (room hq hp)).trans ((ensure_ok _ ?_).trans ?_)))))⟩,
      fun hh hfull => he.trans (issue_ok (hbody.trans ((ensure_ok _ hh).trans (pushing_held _ ?_))))⟩
    · rw [← packet_byte w8 [w9, w10, w11, w12, w13, w14, w15]]
      exact ensure_trap _ hh
    · change (!namesAcc pkt || !s.advance.myCore.accHeld (pktAcc pkt) s.cur.slot) = false
      rw [State.accHeld_advance, hacc, hheld]
      rfl
    · change (!namesAcc pkt || !s.advance.myCore.accHeld (pktAcc pkt) s.cur.slot) = true
      rw [State.accHeld_advance]
      rcases hfree with h | h <;> simp [h]
    · simp only [State.asid_advance, State.sup_advance, State.advance_cur]
      cases hn : namesAcc pkt with
      | true => simp only [queued, hn]; rfl
      | false => simp only [queued, hn]; rfl
    · change (decide (s.advance.myCore.matrix.queue.length < 8) && s.advance.mayPush 4) = false
      rw [State.matrix_advance, State.mayPush_advance]
      rcases hfull with h | h
      · rw [decide_eq_false (Nat.not_lt.mpr h), Bool.false_and]
      · rw [h, Bool.and_false]
  · refine (exec_mxr m o s).trans (issue_ok ?_)
    rw [hasArray_ok _ hc, if_neg (by rw [guard_advance, hg]; decide), fillable_advance, mayIssue_advance,
      mayIssue_go _ (mayGo_of_alone .own halone rfl rfl rfl (freeEntries_zero s))]
    refine (ensure_ok _ (by simp [hmode])).trans ?_
    have hsup : (s.advance.me.modReg o.a.toNat XReg.await).sup = s.me.sup := State.sup_advance s
    simp only [State.startLoad, State.me_fresh, State.reg_advance, State.fresh_name, State.advance_nextId, State.me_modMe, Slot.modReg_asid, State.asid_advance, hsup]
    rfl

/-- Settles O32: a stream's checks are passed one by one and its state is `streaming`; `mxs` is a push of its packet, `mxr` a request of the thread. -/
theorem streamsAndMatrixForms : Obligations.StreamsAndMatrixForms := ⟨claim_streamForms, claim_matrixForms⟩

end Sys2Proof.Machine
end

section
/-!
PROOFS. FILL, ACKNOWLEDGEMENT, REFUSAL and BUSY (spec/02 R28, R30, spec/05 R96, R100, R101, spec/06 R110, spec/19 R391, spec/21 R431).
-/

open Sys2Proof Sys2Proof.Machine Sys2Proof.Claim

namespace Sys2Proof.Machine

theorem exec_fill (s : State) : exec .fill s = execFill s := rfl
theorem exec_acknowledgement (s : State) : exec .acknowledgement s = execAcknowledgement s := rfl
theorem exec_refusal (s : State) : exec .refusal s = execRefusal s := rfl
theorem exec_busy (s : State) : exec .busy s = execBusy s := rfl

/-! ## BUSY -/

section
variable {c : Nat} {a : Word}

theorem homeOf_hbm (h : isFabric a = false) : homeOf c a = .hbm := by simp [homeOf, h]
theorem homeOf_ownCore (h : isFabric a = true) (hc : coreNamed a = c) : homeOf c a = .own := by simp [homeOf, h, hc]

theorem homeOf_device (h : isFabric a = true) (hc : coreNamed a ≠ c) (hd : devOf (coreNamed a) = devOf c) : homeOf c a = .device := by
  simp [homeOf, h, hc, hd]

theorem homeOf_other (h : isFabric a = true) (hd : devOf (coreNamed a) ≠ devOf c) : homeOf c a = .other (devOf (coreNamed a)) := by
  have hc : coreNamed a ≠ c := fun e => hd (by rw [e])
  simp [homeOf, h, hc, hd]

end

theorem requestAgain_here {s : State} {r : Req} (h : ∀ d, homeOf r.src.core r.addr ≠ .other d) (counts : Option (List Nat)) :
    s.requestAgain r counts = s.request r := by
  unfold State.requestAgain
  cases hh : homeOf r.src.core r.addr with
  | other d => exact absurd hh (h d)
  | own => rfl
  | device => rfl
  | hbm => rfl

theorem claim_busyAnswers : Claim.BusyAnswers := by
  intro s
  refine ⟨fun r hf hc => ?_, fun r hf hc hd => ?_, fun r hf hd => ?_, fun r hf => ?_, fun m => ⟨fun h => ?_, fun h => ?_⟩, fun m => ?_,
    fun m => ⟨fun h => ?_, fun h => ?_⟩, fun m h => ?_, fun k a b h => ?_, fun d r counts e h => ?_, fun f => ?_⟩
  · refine occurs_of exec_busy (congrArg some ?_)
    have hh := homeOf_ownCore hf hc
    rw [requestAgain_here (by simp [hh]), request_own hh]
  · refine occurs_of exec_busy (congrArg some ?_)
    have hh := homeOf_device hf hc hd
    rw [requestAgain_here (by simp [hh])]
    simp only [State.request, hh]
  · refine occurs_of exec_busy (congrArg some ?_)
    simp only [State.requestAgain, homeOf_other hf hd]
  · refine occurs_of exec_busy (congrArg some ?_)
    have hh := homeOf_hbm (c := r.src.core) hf
    rw [requestAgain_here (by simp [hh])]
    simp only [State.request, hh]
  · exact occurs_of exec_busy (congrArg some (if_neg h))
  · exact occurs_of exec_busy (congrArg some (if_pos h))
  · exact occurs_of exec_busy rfl
  · exact occurs_of exec_busy (congrArg some (if_neg h))
  · exact occurs_of exec_busy (congrArg some (if_pos h))
  · exact occurs_of exec_busy (congrArg some (if_neg h))
  · exact occurs_of exec_busy (congrArg some (if_neg h))
  · refine occurs_of exec_busy (congrArg some ?_)
    simp only [State.requestAgain, h]
  · exact occurs_of exec_busy rfl

/-! ## What answers find -/

/-- An answer to an access that its core has goes no further. -/
theorem follow_asked {s : State} {a : Asker} {x : Acc} (h : s.accOf a = some x) : s.follow a = a := by
  have hknows : (s.core a.core).knows a = true := by
    have hx : x ∈ (s.slot a.core a.slot).out := List.mem_of_find?_eq_some h
    have hid := List.find?_some h
    simp only [Core.knows, Bool.or_eq_true, List.any_append]
    exact .inl (.inl (.inl (List.any_eq_true.mpr ⟨x, hx, hid⟩)))
  have hfirst (n : Nat) (cs : List Nat) (hc : cs.head? = some a.core) : (s.lineage n cs).head? = some a.core := by
    induction n generalizing cs with
    | zero => exact hc
    | succ n ih =>
      simp only [State.lineage]
      split
      · exact hc
      · exact ih _ (by rw [List.head?_append, hc]; rfl)
  obtain ⟨rest, hr⟩ := List.head?_eq_some_iff.mp (hfirst s.cores.length [a.core] rfl)
  simp only [State.follow, hr, List.find?_cons, hknows]

/-- A core's part of an answer that leaves its records, counters and journal, and of each slot what it holds. -/
def Settles (c : Nat) (s t : State) : Prop :=
  t.mem = s.mem ∧ (∃ sl q h r, t.core c = { s.core c with slots := sl, bankq := q, heldBack := h, running := r }) ∧
    ∀ n, ∃ st why mk, t.slot c n = { s.slot c n with st := st, why := why, marker := mk }

theorem settles_of_queues {s t : State} (c : Nat) (h : Queues s t) : Settles c s t := by
  obtain ⟨q, b, e⟩ := h.2.2 c
  exact ⟨h.1, ⟨_, q, b, _, e⟩, fun n => ⟨_, _, _, h.slot c n⟩⟩

theorem settles_kickAll (s : State) (c : Nat) : Settles c s (s.kickAll c) := by
  obtain ⟨r, hr⟩ := State.core_kickAll_same s c
  refine ⟨State.kickAll_mem s c, ⟨_, _, _, r, hr⟩, fun n => ?_⟩
  rw [State.slot_kickAll_same]
  exact Slot.kick_rest _

theorem Settles.trans {c : Nat} {s t u : State} (h : Settles c s t) (g : Settles c t u) : Settles c s u := by
  obtain ⟨hm, ⟨_, _, _, _, hc⟩, hs⟩ := h
  obtain ⟨gm, ⟨_, _, _, _, gc⟩, gs⟩ := g
  refine ⟨gm.trans hm, ⟨_, _, _, _, by rw [gc, hc]⟩, fun n => ?_⟩
  obtain ⟨_, _, _, e⟩ := hs n
  obtain ⟨st, why, mk, e'⟩ := gs n
  exact ⟨st, why, mk, by rw [e', e]⟩

theorem queues_sendOut (s : State) (r : Req) (counts : Option (List Nat)) : Queues s (s.sendOut r counts) := by
  cases counts with
  | none => exact queues_request s r
  | some cs => exact queues_requestOrdered s r cs

theorem queues_refl (s : State) : Queues s s := queues_of_travels (travels_refl s)

theorem queues_sendAll (s : State) (es : List HeldReq) : Queues s (es.foldl (fun s e => s.sendOut e.req e.counts) s) := by
  induction es generalizing s with
  | nil => exact queues_refl s
  | cons e es ih => exact (queues_sendOut s _ _).trans (ih _)

theorem queues_releaseHeld (s : State) (c id : Nat) (refused : Bool) : Queues s (s.releaseHeld c id refused) :=
  (queues_modCore s c _ fun _ => ⟨_, _, rfl⟩).trans (queues_sendAll _ _)

theorem settles_releaseHeld_kick (s : State) (c id : Nat) (refused : Bool) : Settles c s ((s.releaseHeld c id refused).kickAll c) :=
  (settles_of_queues c (queues_releaseHeld s c id refused)).trans (settles_kickAll _ c)

/-! ## Bit fields of journal entries and records -/

/-- A number with a field of it set, in three parts. -/
theorem setBits_parts (v lo n x : Nat) : setBits v lo n x = v % 2 ^ lo + 2 ^ lo * (x % 2 ^ n + 2 ^ n * (v / 2 ^ (lo + n))) := by
  have h1 := Nat.mod_add_div v (2 ^ lo)
  have h2 := Nat.mod_add_div (v / 2 ^ lo) (2 ^ n)
  rw [Nat.div_div_eq_div_mul, ← Nat.pow_add] at h2
  have h3 : v / 2 ^ lo % 2 ^ n * 2 ^ lo ≤ v := (Nat.mul_le_mul_right _ (Nat.mod_le _ _)).trans (Nat.div_mul_le_self v _)
  rw [setBits, bitsOf]
  have h4 : 2 ^ lo * (v / 2 ^ lo) = 2 ^ lo * (v / 2 ^ lo % 2 ^ n) + 2 ^ lo * (2 ^ n * (v / 2 ^ (lo + n))) := by rw [← Nat.mul_add, h2]
  rw [Nat.mul_add, Nat.mul_comm _ (2 ^ lo), Nat.mul_comm (x % 2 ^ n) (2 ^ lo)]
  omega

theorem bitsOf_mod {l m k : Nat} (v : Nat) (h : l + m ≤ k) : bitsOf (v % 2 ^ k) l m = bitsOf v l m := by
  obtain ⟨d, rfl⟩ := Nat.exists_eq_add_of_le h
  rw [bitsOf, bitsOf, Nat.add_assoc, Nat.pow_add, Nat.mod_mul_right_div_self, Nat.pow_add, Nat.mod_mul_right_mod]

theorem bitsOf_above {l m k : Nat} (v : Nat) (h : k ≤ l) : bitsOf v l m = bitsOf (v / 2 ^ k) (l - k) m := by
  obtain ⟨d, rfl⟩ := Nat.exists_eq_add_of_le h
  rw [bitsOf, bitsOf, Nat.div_div_eq_div_mul, ← Nat.pow_add, Nat.add_sub_cancel_left]

/-- Bits that a field does not meet are as before. -/
theorem field_setField_other (x : BitVec 256) (lo n v l m : Nat) (h : l + m ≤ lo ∨ lo + n ≤ l) (hl : l + m ≤ 256) :
    field (setField x lo n v) l m = field x l m := by
  simp only [field, setField, BitVec.toNat_ofNat]
  rw [bitsOf_mod _ hl, setBits_parts]
  rcases h with h | h
  · rw [← bitsOf_mod _ h, Nat.add_mul_mod_self_left, Nat.mod_mod, bitsOf_mod _ h]
  · have hdiv : (x.toNat % 2 ^ lo + 2 ^ lo * (v % 2 ^ n + 2 ^ n * (x.toNat / 2 ^ (lo + n)))) / 2 ^ (lo + n) = x.toNat / 2 ^ (lo + n) := by
      rw [Nat.pow_add, ← Nat.div_div_eq_div_mul, Nat.add_mul_div_left _ _ (by positivity), Nat.div_eq_of_lt (Nat.mod_lt _ (by positivity)), Nat.zero_add,
        Nat.add_mul_div_left _ _ (by positivity), Nat.div_eq_of_lt (Nat.mod_lt _ (by positivity)), Nat.zero_add]
    rw [bitsOf_above _ h, hdiv, ← bitsOf_above _ h]

theorem field_setField_same (x : BitVec 256) (lo n v : Nat) (hn : lo + n ≤ 256) : field (setField x lo n v) lo n = v % 2 ^ n := by
  simp only [field, setField, BitVec.toNat_ofNat]
  rw [bitsOf_mod _ hn, setBits_parts, bitsOf, Nat.add_mul_div_left _ _ (by positivity), Nat.div_eq_of_lt (Nat.mod_lt _ (by positivity)), Nat.zero_add,
    Nat.add_mul_mod_self_left, Nat.mod_mod]

/-- What a record's image holds (R382). -/
theorem image_fields (r : Rec) (sup : Bool) : field (r.image sup) 0 6 = r.cause % 64 ∧ field (r.image sup) 6 2 = r.cls % 4 ∧ field (r.image sup) 13 1 = b2n sup := by
  have hb (b : Bool) : b2n b ≤ 1 := by cases b <;> decide
  have h1 := hb r.stop
  have h2 := hb sup
  have h3 := hb r.slot.isNone
  simp only [Rec.image, field, bitsOf, BitVec.toNat_ofNat]
  refine ⟨?_, ?_, ?_⟩ <;> omega

/-! ## Journal entries -/

/-- Journal entries that an answer rewrites. -/
def State.setAll (s : State) (c : Nat) (g : BitVec 256 → BitVec 256) (es : List Nat) : State :=
  es.foldl (fun s j => s.modCore c fun k => k.setJrn j (g (k.jrn j))) s

theorem freeEntries_eq (s : State) (c : Nat) (x : Acc) : s.freeEntries c x = s.setAll c (fun _ => 0) x.entries := rfl
theorem setEntries_eq (s : State) (c : Nat) (x : Acc) (st : Nat) : s.setEntries c x st = s.setAll c (fun e => setField e 1 2 st) x.entries := rfl

theorem Core.jrn_setJrn_same (k : Core) (j : Nat) (x : BitVec 256) : (k.setJrn j x).jrn j = x := Table.get_put_same _ _ _ _
theorem Core.jrn_setJrn_other (k : Core) (i j : Nat) (x : BitVec 256) (h : i ≠ j) : (k.setJrn j x).jrn i = k.jrn i := Table.get_put_other _ _ _ _ _ h

section
variable (s : State) (c : Nat) (g : BitVec 256 → BitVec 256) (es : List Nat)

theorem setAll_mem : (s.setAll c g es).mem = s.mem := by
  induction es generalizing s with
  | nil => rfl
  | cons e es ih => exact ih _

theorem setAll_core : ∃ J, (s.setAll c g es).core c = { s.core c with journal := J } := by
  induction es generalizing s with
  | nil => exact ⟨_, rfl⟩
  | cons e es ih =>
    obtain ⟨J, hJ⟩ := ih (s.modCore c fun k => k.setJrn e (g (k.jrn e)))
    rw [State.core_modCore_same] at hJ
    exact ⟨J, hJ⟩

theorem jrn_setAll_other (i : Nat) (h : i ∉ es) : ((s.setAll c g es).core c).jrn i = (s.core c).jrn i := by
  induction es generalizing s with
  | nil => rfl
  | cons e es ih =>
    obtain ⟨he, hes⟩ := not_or.mp (mt List.mem_cons.mpr h)
    exact (ih _ hes).trans (by rw [State.core_modCore_same, Core.jrn_setJrn_other _ _ _ _ he])

/-- What g makes of an entry holds of every entry rewritten. -/
theorem jrn_setAll {P : BitVec 256 → Prop} (hg : ∀ x, P (g x)) (i : Nat) (h : i ∈ es) : P (((s.setAll c g es).core c).jrn i) := by
  induction es generalizing s with
  | nil => simp at h
  | cons e es ih =>
    by_cases hi : i ∈ es
    · exact ih _ hi
    · obtain rfl := (List.mem_cons.mp h).resolve_right hi
      have e := jrn_setAll_other (s.modCore c fun k => k.setJrn i (g (k.jrn i))) c g es i hi
      rw [State.core_modCore_same, Core.jrn_setJrn_same] at e
      exact e ▸ hg _

/-- What g leaves of an entry is as it was. -/
theorem jrn_setAll_keeps {α : Type} (f : BitVec 256 → α) (hf : ∀ x, f (g x) = f x) (i : Nat) :
    f (((s.setAll c g es).core c).jrn i) = f ((s.core c).jrn i) := by
  induction es generalizing s with
  | nil => rfl
  | cons e es ih =>
    refine (ih _).trans ?_
    rw [State.core_modCore_same]
    by_cases hi : i = e
    · subst hi
      rw [Core.jrn_setJrn_same, hf]
    · rw [Core.jrn_setJrn_other _ _ _ _ hi]

theorem slot_setAll (n : Nat) : (s.setAll c g es).slot c n = s.slot c n := by
  obtain ⟨J, hJ⟩ := setAll_core s c g es
  rw [State.slot, hJ]
  rfl

end

/-! ## Completion -/

/-- An access has ended at its core: its thread's list is without it, its journal entries are free, and the thread is y but for that and for what it
waits for. -/
structure Ended (s t : State) (a : Asker) (x : Acc) (y : Slot) : Prop where
  mem : SameMem s t
  slot : ∃ st why mk, t.slot a.core a.slot = { y with out := y.out.filter fun z => z.id != a.id, st := st, why := why, marker := mk }
  freed : ∀ i ∈ x.entries, (t.core a.core).jrn i = 0
  jrn : ∀ i, i ∉ x.entries → (t.core a.core).jrn i = (s.core a.core).jrn i
  errcnt : (t.core a.core).errcnt = (s.core a.core).errcnt
  traps : (t.core a.core).traps = (s.core a.core).traps

/-- The state in which an access has left its thread's list. -/
def leftList (s : State) (a : Asker) (x : Acc) : State :=
  (s.freeEntries a.core x).modSlot a.core a.slot fun y => { y with out := y.out.filter fun z => z.id != a.id }

theorem complete_free {s : State} {a : Asker} {x : Acc} (hx : s.accOf a = some x) (ho : x.owed = 0) (hh : x.hold = none) :
    s.complete a = ((leftList s a x).releaseHeld a.core a.id false).kickAll a.core := by
  simp only [State.complete, hx, ho, hh, if_true]
  rfl

theorem complete_held {s : State} {a : Asker} {x : Acc} {h : Hold} (hx : s.accOf a = some x) (ho : x.owed = 0) (hh : x.hold = some h) :
    s.complete a = (((leftList s a x).endHold a.core a.slot h).releaseHeld a.core a.id false).kickAll a.core := by
  simp only [State.complete, hx, ho, hh, if_true]
  rfl

theorem leftList_slot (s : State) (a : Asker) (x : Acc) : (leftList s a x).slot a.core a.slot =
    { s.slot a.core a.slot with out := (s.slot a.core a.slot).out.filter fun z => z.id != a.id } := by
  rw [leftList, State.slot_modSlot_same, freeEntries_eq, slot_setAll]

theorem leftList_mem (s : State) (a : Asker) (x : Acc) : (leftList s a x).mem = s.mem := setAll_mem s a.core (fun _ => 0) x.entries

/-- Of a core's journal, its counters and its trap queue, what the end of an access leaves. -/
def Freed (a : Asker) (x : Acc) (s u : State) : Prop :=
  (∀ i ∈ x.entries, (u.core a.core).jrn i = 0) ∧ (∀ i, i ∉ x.entries → (u.core a.core).jrn i = (s.core a.core).jrn i) ∧
    (u.core a.core).errcnt = (s.core a.core).errcnt ∧ (u.core a.core).traps = (s.core a.core).traps

theorem freed_leftList (s : State) (a : Asker) (x : Acc) : Freed a x s (leftList s a x) := by
  obtain ⟨J, hJ⟩ := setAll_core s a.core (fun _ => 0) x.entries
  have hcore : (leftList s a x).core a.core = ((s.setAll a.core (fun _ => 0) x.entries).core a.core).setSlot a.slot
      { s.slot a.core a.slot with out := (s.slot a.core a.slot).out.filter fun z => z.id != a.id } := by
    rw [leftList, State.modSlot, State.setSlot, State.core_modCore_same, freeEntries_eq, slot_setAll]
  refine ⟨fun i hi => ?_, fun i hi => ?_, ?_, ?_⟩
  · rw [hcore, Core.setSlot_jrn]
    exact jrn_setAll s a.core (fun _ => 0) x.entries (P := fun e => e = 0) (fun _ => rfl) i hi
  · rw [hcore, Core.setSlot_jrn]
    exact jrn_setAll_other s a.core (fun _ => 0) x.entries i hi
  · rw [hcore, hJ]
    rfl
  · rw [hcore, hJ]
    rfl

/-- What is left to do when an access has left its list: requests held behind it go out, and the slots look again. -/
theorem ended_of {s u : State} {a : Asker} {x : Acc} {y : Slot} (hm : SameMem s u) (hf : Freed a x s u)
    (hs : u.slot a.core a.slot = { y with out := y.out.filter fun z => z.id != a.id }) :
    Ended s ((u.releaseHeld a.core a.id false).kickAll a.core) a x y := by
  obtain ⟨hmem, ⟨_, _, _, _, hcore⟩, hslots⟩ := settles_releaseHeld_kick u a.core a.id false
  obtain ⟨hfree, hother, herr, htraps⟩ := hf
  obtain ⟨st, why, mk, hslot⟩ := hslots a.slot
  refine ⟨fun b => by rw [hmem, hm], ⟨st, why, mk, by rw [hslot, hs]⟩, fun i hi => ?_, fun i hi => ?_, by rw [hcore, herr], by rw [hcore, htraps]⟩
  · rw [hcore]
    exact hfree i hi
  · rw [hcore]
    exact hother i hi

/-- An access that held no thread has ended. -/
theorem ended_free {s : State} {a : Asker} {x : Acc} (hx : s.accOf a = some x) (ho : x.owed = 0) (hh : x.hold = none) :
    Ended s (s.complete a) a x (s.slot a.core a.slot) := by
  rw [complete_free hx ho hh]
  exact ended_of (fun b => by rw [leftList_mem]) (freed_leftList s a x) (leftList_slot s a x)

/-! ### A thread that its access held -/

theorem State.me_consume_eq (s : State) (r : List (SReg × Bool)) : (s.consume r).me = { s.me with regs := (s.consume r).me.regs } := by
  have h := congrArg (fun t : Slot => { t with regs := (s.consume r).me.regs }) (State.noRegs_consume s r)
  exact h

/-- Registers that no instruction names are as they were after reads. -/
theorem State.reg_consume_high (s : State) (reads : List (SReg × Bool)) (j : Nat) (hj : 16 ≤ j) : (s.consume reads).me.reg j = s.me.reg j := by
  have hone (s : State) (n : SReg) (q : Bool) : (s.consume1 n q).me.reg j = s.me.reg j := by
    rw [State.me_consume1]
    split
    · exact Slot.reg_modReg_other _ _ _ _ (by have := n.isLt; omega)
    · rfl
  have hall (seen : List SReg) (s : State) : (s.consumeFrom seen reads).me.reg j = s.me.reg j := by
    induction reads generalizing seen s with
    | nil => rfl
    | cons x xs ih =>
      rw [State.consumeFrom]
      split
      · exact ih _ _
      · exact (ih _ _).trans (hone s _ _)
  exact hall [] s

/-- The registers of a thread after reads of normal registers, named by number. -/
theorem reg_takes (s : State) (takes : List (Nat × Bool)) (h : ∀ e ∈ takes, e.1 < 16 ∧ (s.me.reg e.1).mode = 0) (j : Nat) :
    (s.consume (takes.map fun t => (BitVec.ofNat 4 t.1, t.2))).me.reg j = if (j, true) ∈ takes then { s.me.reg j with full := false } else s.me.reg j := by
  by_cases hj : j < 16
  · have hn : (BitVec.ofNat 4 j : SReg).toNat = j := by simpa using hj
    have hmem : ((BitVec.ofNat 4 j, true) ∈ takes.map fun t => ((BitVec.ofNat 4 t.1 : SReg), t.2)) ↔ (j, true) ∈ takes := by
      simp only [List.mem_map, Prod.mk.injEq, Prod.exists]
      constructor
      · rintro ⟨n, q, hm, he, rfl⟩
        have hlt := (h _ hm).1
        have : n = j := by
          have := congrArg BitVec.toNat he
          simpa [Nat.mod_eq_of_lt hlt, Nat.mod_eq_of_lt hj] using this
        exact this ▸ hm
      · exact fun hm => ⟨j, true, hm, rfl, rfl⟩
    have e := State.reg_consume s (takes.map fun t => (BitVec.ofNat 4 t.1, t.2)) (BitVec.ofNat 4 j)
    rw [hn] at e
    rw [e, decide_eq_decide.mpr hmem]
    by_cases hm : (j, true) ∈ takes
    · rw [if_pos hm, XReg.readBy, if_pos ⟨(h _ hm).2, decide_eq_true hm⟩]
    · rw [if_neg hm, decide_eq_false hm, XReg.readBy_false]
  · rw [State.reg_consume_high _ _ _ (Nat.not_lt.mp hj), if_neg fun hm => hj (h _ hm).1]

/-- What a thread is when it goes on behind the instruction that its access held. -/
structure GoesOn (u : State) (c n : Nat) (h : Hold) (y : Slot) : Prop where
  pc : y.pc = h.next
  pred : y.pred = (u.slot c n).pred
  out : y.out = (u.slot c n).out
  reg : (∀ e ∈ h.takes, e.1 < 16 ∧ ((u.slot c n).reg e.1).mode = 0) →
    ∀ j, y.reg j = if (j, true) ∈ h.takes then { (u.slot c n).reg j with full := false } else (u.slot c n).reg j

/-- The state in which a held thread's reads are consumed. -/
def readsTaken (u : State) (c n : Nat) (h : Hold) : State :=
  ({ u with cur := ⟨c, n, h.addr, h.next⟩ } : State).consume (h.takes.map fun t => (BitVec.ofNat 4 t.1, t.2))

theorem endHold_eq (u : State) (c n : Nat) (h : Hold) :
    u.endHold c n h = ({ readsTaken u c n h with cur := u.cur } : State).modSlot c n fun t => ({ t with pc := h.next } : Slot).kick := rfl

theorem readsTaken_me (u : State) (c n : Nat) (h : Hold) : (readsTaken u c n h).slot c n = (readsTaken u c n h).me := by
  rw [State.me, readsTaken, State.consume_cur]

theorem readsTaken_core {α : Type} (u : State) (c n : Nat) (h : Hold) (f : Core → α) (hf : ∀ k, f (others k) = f k) :
    f ((readsTaken u c n h).core c) = f (u.core c) := by
  have e := State.myCore_consume_field ({ u with cur := ⟨c, n, h.addr, h.next⟩ } : State) (h.takes.map fun t => (BitVec.ofNat 4 t.1, t.2)) f hf
  rw [State.myCore, State.consume_cur] at e
  exact e

/-- A held thread goes on behind its instruction, its reads consumed (R28). -/
theorem endHold_goes (u : State) (c n : Nat) (h : Hold) : GoesOn u c n h ((u.endHold c n h).slot c n) := by
  obtain ⟨st, why, mk, hk⟩ := Slot.kick_rest { (readsTaken u c n h).slot c n with pc := h.next }
  have hs : (u.endHold c n h).slot c n = { (readsTaken u c n h).slot c n with pc := h.next, st := st, why := why, marker := mk } := by
    rw [endHold_eq, State.slot_modSlot_same]
    exact hk
  have hme : (readsTaken u c n h).slot c n = { u.slot c n with regs := (readsTaken u c n h).me.regs } := by
    rw [readsTaken_me]
    exact State.me_consume_eq _ _
  refine ⟨by rw [hs], by rw [hs, hme], by rw [hs, hme], fun hmodes j => ?_⟩
  have hreg : ((u.endHold c n h).slot c n).reg j = (readsTaken u c n h).me.reg j := by
    rw [hs, ← readsTaken_me]
    rfl
  rw [hreg]
  exact reg_takes ({ u with cur := ⟨c, n, h.addr, h.next⟩ } : State) h.takes hmodes j

theorem Slot.eq_with_out {t : Slot} {o : List Acc} (h : t.out = o) : t = { t with out := o } := by
  subst h
  rfl

/-- An access that held its thread has ended. -/
theorem ended_held {s : State} {a : Asker} {x : Acc} {h : Hold} (hx : s.accOf a = some x) (ho : x.owed = 0) (hh : x.hold = some h) :
    ∃ y, Ended s (s.complete a) a x y ∧ GoesOn s a.core a.slot h y := by
  obtain ⟨hfree, hother, herr, htraps⟩ := freed_leftList s a x
  have hgo := endHold_goes (leftList s a x) a.core a.slot h
  have hcore {α : Type} (f : Core → α) (hf : ∀ k, f (others k) = f k) :
      f (((leftList s a x).endHold a.core a.slot h).core a.core) = f ((leftList s a x).core a.core) := by
    have e := readsTaken_core (leftList s a x) a.core a.slot h f hf
    rw [endHold_eq, State.modSlot, State.setSlot, State.core_modCore_same]
    exact ((hf (Core.setSlot _ _ _)).symm.trans (hf ((readsTaken (leftList s a x) a.core a.slot h).core a.core))).trans e
  have hmem : SameMem s ((leftList s a x).endHold a.core a.slot h) := fun b => by
    have e := (outside_consume ({ leftList s a x with cur := ⟨a.core, a.slot, h.addr, h.next⟩ } : State) (h.takes.map fun t => (BitVec.ofNat 4 t.1, t.2))).1 b
    exact e.trans (by rw [← leftList_mem s a x])
  refine ⟨{ ((leftList s a x).endHold a.core a.slot h).slot a.core a.slot with out := (s.slot a.core a.slot).out }, ?_, hgo.pc, ?_, rfl, fun hmodes j => ?_⟩
  · rw [complete_held hx ho hh]
    refine ended_of hmem ⟨fun i hi => ?_, fun i hi => ?_, ?_, ?_⟩ ?_
    · exact (hcore (fun k => k.jrn i) fun _ => rfl).trans (hfree i hi)
    · exact (hcore (fun k => k.jrn i) fun _ => rfl).trans (hother i hi)
    · exact (hcore Core.errcnt fun _ => rfl).trans herr
    · exact (hcore Core.traps fun _ => rfl).trans htraps
    · have e := hgo.out
      rw [leftList_slot] at e
      exact Slot.eq_with_out e
  · have e := hgo.pred
    rwa [leftList_slot] at e
  · have e := hgo.reg
    rw [leftList_slot] at e
    exact e hmodes j

/-! ## Acknowledgements -/

/-- Which drain hears of an answer changes no thread and no record (R87). -/
theorem drainHears_leaves (s : State) (c id : Nat) (refused : Bool) : (s.drainHears c id refused).mem = s.mem ∧
    ∀ d, ∃ m, (s.drainHears c id refused).core d = { s.core d with matrix := m } := by
  unfold State.drainHears
  cases (s.core c).matrix.drains.find? fun d => d.id == id with
  | none => exact ⟨rfl, fun d => ⟨_, rfl⟩⟩
  | some x =>
    have hone (f : Core → Core) (hf : ∀ k, ∃ m, f k = { k with matrix := m }) (d : Nat) : ∃ m, (s.modCore c f).core d = { s.core d with matrix := m } := by
      by_cases hd : d = c
      · subst hd
        rw [State.core_modCore_same]
        exact hf _
      · exact ⟨_, State.core_modCore_other s c d f hd⟩
    simp only
    split
    · exact ⟨rfl, hone _ fun k => ⟨_, rfl⟩⟩
    · exact ⟨rfl, hone _ fun k => ⟨_, rfl⟩⟩

/-- A state that agrees with another in all that an answer looks at. -/
def Alike (c : Nat) (s u : State) : Prop := u.mem = s.mem ∧ ∃ m, u.core c = { s.core c with matrix := m }

theorem Alike.slot {c : Nat} {s u : State} (h : Alike c s u) (n : Nat) : u.slot c n = s.slot c n := by
  obtain ⟨-, m, hm⟩ := h
  rw [State.slot, hm]
  rfl

theorem Alike.jrn {c : Nat} {s u : State} (h : Alike c s u) (i : Nat) : (u.core c).jrn i = (s.core c).jrn i := by
  obtain ⟨-, m, hm⟩ := h
  rw [hm]
  rfl

theorem Alike.accOf {s u : State} {a : Asker} (h : Alike a.core s u) : u.accOf a = s.accOf a := by
  rw [State.accOf, h.slot, State.accOf]

theorem alike_drainHears (s : State) (c id : Nat) (refused : Bool) : Alike c s (s.drainHears c id refused) :=
  ⟨(drainHears_leaves s c id refused).1, (drainHears_leaves s c id refused).2 c⟩

theorem Alike.ended {s u t : State} {a : Asker} {x : Acc} {y : Slot} (h : Alike a.core s u) (e : Ended u t a x y) : Ended s t a x y := by
  obtain ⟨hmem, m, hm⟩ := h
  obtain ⟨emem, eslot, efreed, ejrn, eerr, etraps⟩ := e
  refine ⟨fun b => (emem b).trans (by rw [hmem]), eslot, efreed, fun i hi => (ejrn i hi).trans ?_, eerr.trans ?_, etraps.trans ?_⟩
  · rw [hm]
    rfl
  · rw [hm]
  · rw [hm]

theorem anyAcc_of {s : State} {a : Asker} {x : Acc} (h : s.accOf a = some x) : s.anyAcc a = some x := by
  rw [State.anyAcc, h]
  rfl

/-- What an acknowledgement of a thread's access does. -/
theorem acknowledgement_happens {s : State} {a : Asker} {x : Acc} {p : State → Prop} (ha : Asked s a x)
    (h : p ((s.drainHears a.core a.id false).acknowledged a)) : Happens .acknowledgement s (.acknowledgement a) p := by
  obtain ⟨hx, -, -, htransit, -⟩ := ha
  refine happens_of exec_acknowledgement ?_ h
  simp only [follow_asked hx, htransit]

theorem standsRefused_jrn {s : State} {c : Nat} {x : Acc} {j : Nat} (h : x.jrn = some j) :
    s.standsRefused c x = (field ((s.core c).jrn j) 1 2 == 1) := by
  simp only [State.standsRefused, h, Option.any_some]

theorem acknowledged_completes {s : State} {a : Asker} {x : Acc} (hx : s.accOf a = some x) (hr : s.standsRefused a.core x = false) :
    s.acknowledged a = s.complete a := by
  rw [State.acknowledged, anyAcc_of hx]
  exact if_neg (by simp [hr])

theorem acknowledged_late {s : State} {a : Asker} {x : Acc} (hx : s.accOf a = some x) (hr : s.standsRefused a.core x = true) :
    s.acknowledged a = s := by
  rw [State.acknowledged, anyAcc_of hx]
  exact if_pos (by simpa using hr)

theorem standsRefused_alike {s u : State} {c : Nat} (h : Alike c s u) (x : Acc) : u.standsRefused c x = s.standsRefused c x := by
  simp only [State.standsRefused, h.jrn]

/-- An acknowledged access that held no thread. -/
theorem acknowledged_free {s : State} {a : Asker} {x : Acc} (ha : Asked s a x) (hh : x.hold = none) (hr : s.standsRefused a.core x = false) :
    Ended s ((s.drainHears a.core a.id false).acknowledged a) a x (s.slot a.core a.slot) := by
  obtain ⟨hx, -, -, -, ho⟩ := ha
  have hal := alike_drainHears s a.core a.id false
  have hx' := hal.accOf.trans hx
  rw [acknowledged_completes hx' ((standsRefused_alike hal x).trans hr), ← hal.slot]
  exact hal.ended (ended_free hx' ho hh)

/-- An acknowledged access that held its thread. -/
theorem acknowledged_held {s : State} {a : Asker} {x : Acc} {h : Hold} (ha : Asked s a x) (hh : x.hold = some h) (hr : s.standsRefused a.core x = false) :
    ∃ y, Ended s ((s.drainHears a.core a.id false).acknowledged a) a x y ∧ GoesOn s a.core a.slot h y := by
  obtain ⟨hx, -, -, -, ho⟩ := ha
  have hal := alike_drainHears s a.core a.id false
  have hx' := hal.accOf.trans hx
  obtain ⟨y, he, hpc, hpred, hout, hreg⟩ := ended_held hx' ho hh
  rw [acknowledged_completes hx' ((standsRefused_alike hal x).trans hr)]
  rw [hal.slot] at hpred hout hreg
  exact ⟨y, hal.ended he, hpc, hpred, hout, hreg⟩

/-! ## Fills -/

theorem Slot.release_regs (t : Slot) : t.release.regs = t.regs ∧ t.release.out = t.out := by
  obtain ⟨st, why, mk, h⟩ := Slot.release_rest t
  rw [h]
  exact ⟨rfl, rfl⟩

theorem Slot.endWait_regs (t : Slot) : t.endWait.regs = t.regs ∧ t.endWait.out = t.out := by
  unfold Slot.endWait
  split
  · split
    · exact Slot.release_regs _
    · exact ⟨rfl, rfl⟩
  · exact Slot.release_regs _

theorem Slot.filled_regs (t : Slot) (n : Nat) (vec : Bool) : (t.filled n vec).regs = t.regs ∧ (t.filled n vec).out = t.out := by
  unfold Slot.filled
  split
  · exact Slot.endWait_regs t
  · exact ⟨rfl, rfl⟩

/-- A register after a fill (R30), or with its failed bit (R101). -/
def XReg.filledWith (r : XReg) : Option Word → XReg
  | some v => { r with v := v, full := true, failed := false, pend := false }
  | none => { r with failed := true, pend := false }

/-- What a fill or a failed bit at a register leaves, before its access ends. -/
structure Filled (s u : State) (a : Asker) (r : Nat) (v : XReg) : Prop where
  mem : u.mem = s.mem
  out : (u.slot a.core a.slot).out = (s.slot a.core a.slot).out
  reg : (u.slot a.core a.slot).reg r = v
  regs : ∀ j, j ≠ r → (u.slot a.core a.slot).reg j = (s.slot a.core a.slot).reg j
  core : ∃ sl q, u.core a.core = { s.core a.core with slots := sl, running := q }

theorem filled_setReg (s : State) (a : Asker) (r : Nat) (v : XReg) : Filled s (s.modCore a.core fun k =>
    (k.setSlot a.slot (((s.slot a.core a.slot).setReg r v).filled r false)).ungate) a r v := by
  obtain ⟨hregs, hout⟩ := Slot.filled_regs ((s.slot a.core a.slot).setReg r v) r false
  have hslot : (s.modCore a.core fun k => (k.setSlot a.slot (((s.slot a.core a.slot).setReg r v).filled r false)).ungate).slot a.core a.slot =
      ((s.slot a.core a.slot).setReg r v).filled r false := by
    rw [State.slot, State.core_modCore_same, Core.slot_ungate, Core.slot_setSlot_same]
  have hreg (j : Nat) : (((s.slot a.core a.slot).setReg r v).filled r false).reg j = ((s.slot a.core a.slot).setReg r v).reg j := by
    rw [Slot.reg, hregs, Slot.reg]
  refine ⟨rfl, by rw [hslot, hout]; rfl, ?_, fun j hj => ?_, ?_⟩
  · rw [hslot, hreg, Slot.reg_setReg_same]
  · rw [hslot, hreg, Slot.reg_setReg_other _ _ _ _ hj]
  · obtain ⟨q, hq⟩ := Core.ungate_eq ((s.core a.core).setSlot a.slot (((s.slot a.core a.slot).setReg r v).filled r false))
    exact ⟨_, q, by rw [State.core_modCore_same, hq]; rfl⟩

/-- A fill of a pending sequence, or a failed bit for it. -/
theorem fillScalar_takes {s : State} {a : Asker} {r : Nat} (v : Option Word) (hf : (s.slot a.core a.slot).st ≠ .free)
    (hp : ((s.slot a.core a.slot).reg r).pend = true) :
    Filled s (s.fillScalar a r ((s.slot a.core a.slot).reg r).seq v) a r (((s.slot a.core a.slot).reg r).filledWith v) := by
  unfold State.fillScalar
  rw [if_neg (by simp [hf]), if_pos (by simp [hp])]
  cases v with
  | some v => exact filled_setReg s a r _
  | none => exact filled_setReg s a r _

/-- Any other is dropped and counted. -/
theorem fillScalar_late {s : State} {a : Asker} {r q : Nat} (v : Option Word) (hf : (s.slot a.core a.slot).st ≠ .free)
    (hp : ¬ (((s.slot a.core a.slot).reg r).pend = true ∧ ((s.slot a.core a.slot).reg r).seq = q)) :
    s.fillScalar a r q v = s.modCore a.core fun k => k.count 4 := by
  unfold State.fillScalar
  rw [if_neg (by simp [hf]), if_neg (by simpa using hp)]

theorem fill_happens {s : State} {a : Asker} {x : Acc} {r q : Nat} {v : Word} {p : State → Prop} (ha : Asked s a x)
    (h : p ((s.fillScalar a r q (some v)).complete a)) : Happens .fill s (.fill ⟨a, [.scalar r q v]⟩) p := by
  obtain ⟨hx, hsaved, -, -, -⟩ := ha
  refine happens_of exec_fill ?_ h
  simp only [follow_asked hx, hsaved, State.fillRises, List.findSome?_cons, List.findSome?_nil, List.foldl_cons, List.foldl_nil, State.fillPart]
  rfl

theorem accOf_of_out {s u : State} {a : Asker} (h : (u.slot a.core a.slot).out = (s.slot a.core a.slot).out) : u.accOf a = s.accOf a := by
  rw [State.accOf, h, State.accOf]

/-! ## Records -/

theorem queues_notice (s : State) (d score sslot v : Nat) : Queues s (s.notice d score sslot v) :=
  (queues_of_travels (travels_modHub s d _)).trans (queues_toBank _ _ _ _)

/-- The record as it enters the queue, with its time. -/
def timed (s : State) (c : Nat) (img : BitVec 256) : BitVec 256 := setField img 224 32 (s.timeOf (devOf c))

/-- The core with a record more in its queue. -/
def withRecord (s : State) (c : Nat) (img : BitVec 256) : Core :=
  let q := (s.core c).traps
  { s.core c with traps := { q with ring := q.ring.put ((q.head + q.count) % 32) (timed s c img), count := q.count + 1 } }

theorem enterRecord_eq {s : State} {c : Nat} {img : BitVec 256} (h : field img 6 2 ≠ 3) : s.enterRecord c img =
    if field img 13 1 = 1 then (s.setCore c (withRecord s c img)).coreNotice c (((s.core c).traps.head + (s.core c).traps.count) % 32) (field img 6 2)
    else (s.setCore c (withRecord s c img)).modCore c fun k => (k.setSlot 14 (k.slot 14).woken).ungate := by
  have hcls : field (setField img 224 32 (s.timeOf (devOf c))) 6 2 = field img 6 2 := field_setField_other _ _ _ _ _ _ (.inl (by decide)) (by decide)
  have hsup : field (setField img 224 32 (s.timeOf (devOf c))) 13 1 = field img 13 1 := field_setField_other _ _ _ _ _ _ (.inl (by decide)) (by decide)
  have hfat : (field img 6 2 == 3) = false := by simpa using h
  simp only [State.enterRecord, hcls, hsup, hfat, Bool.false_and, Bool.false_eq_true, if_false, Bool.or_false]
  rfl

/-- What entering a record leaves. -/
structure Raised (s t : State) (c : Nat) : Prop where
  mem : t.mem = s.mem
  jrn : ∀ j, (t.core c).jrn j = (s.core c).jrn j
  errcnt : (t.core c).errcnt = (s.core c).errcnt
  handler : (t.core c).handler = (s.core c).handler
  held : ∀ n, (t.slot c n).regs = (s.slot c n).regs ∧ (t.slot c n).out = (s.slot c n).out
  slot : ∀ n, n ≠ 14 ∨ (s.slot c 14).traph = false → t.slot c n = s.slot c n

theorem Slot.woken_regs (t : Slot) : t.woken.regs = t.regs ∧ t.woken.out = t.out := by
  unfold Slot.woken
  split
  · exact Slot.endWait_regs t
  · exact ⟨rfl, rfl⟩

/-- A part of a core that is no queue at a bank and no held request, when requests leave. -/
theorem Queues.core {α : Type} {s t : State} (h : Queues s t) (c : Nat) (f : Core → α) (hf : ∀ k q b, f { k with bankq := q, heldBack := b } = f k) :
    f (t.core c) = f (s.core c) := by
  obtain ⟨q, b, e⟩ := h.2.2 c
  rw [e, hf]

theorem queues_coreNotice (s : State) (c idx cls : Nat) : Queues s (s.coreNotice c idx cls) := queues_notice s _ _ _ _

theorem Raised.queues {s t u : State} {c : Nat} (h : Raised s t c) (g : Queues t u) : Raised s u c where
  mem := g.1.trans h.mem
  jrn j := (g.core c (Core.jrn · j) fun _ _ _ => rfl).trans (h.jrn j)
  errcnt := (g.core c Core.errcnt fun _ _ _ => rfl).trans h.errcnt
  handler := (g.core c Core.handler fun _ _ _ => rfl).trans h.handler
  held n := by rw [g.slot]; exact h.held n
  slot n hn := (g.slot c n).trans (h.slot n hn)

/-- A core that changes but in its trap queue. -/
theorem raised_setTraps (s : State) (c : Nat) (q : TrapQueue) : Raised s (s.setCore c { s.core c with traps := q }) c := by
  have hcore : (s.setCore c { s.core c with traps := q }).core c = { s.core c with traps := q } := State.core_setCore_same ..
  have hslot (n : Nat) : (s.setCore c { s.core c with traps := q }).slot c n = s.slot c n := by
    rw [State.slot, hcore]
    rfl
  exact ⟨rfl, fun j => by rw [hcore]; rfl, by rw [hcore], by rw [hcore], fun n => by rw [hslot]; exact ⟨rfl, rfl⟩, fun n _ => hslot n⟩

/-- The handler in slot 14 hears of a record. -/
theorem Raised.handlerHears {s t : State} {c : Nat} (h : Raised s t c) (ht : (s.slot c 14).traph = true) :
    Raised s (t.modCore c fun k => (k.setSlot 14 (k.slot 14).woken).ungate) c := by
  obtain ⟨r, hr⟩ := Core.ungate_eq ((t.core c).setSlot 14 ((t.core c).slot 14).woken)
  have hcore : (t.modCore c fun k => (k.setSlot 14 (k.slot 14).woken).ungate).core c = { (t.core c).setSlot 14 ((t.core c).slot 14).woken with running := r } := by
    rw [State.core_modCore_same, hr]
  have hother (n : Nat) (hn : n ≠ 14) : (t.modCore c fun k => (k.setSlot 14 (k.slot 14).woken).ungate).slot c n = t.slot c n := by
    rw [State.slot, hcore]
    exact Core.slot_setSlot_other _ _ _ _ hn
  have hhandler : (t.modCore c fun k => (k.setSlot 14 (k.slot 14).woken).ungate).slot c 14 = (t.slot c 14).woken := by
    rw [State.slot, hcore]
    exact Core.slot_setSlot_same _ _ _
  refine ⟨h.mem, fun j => by rw [hcore]; exact h.jrn j, by rw [hcore]; exact h.errcnt, by rw [hcore]; exact h.handler, fun n => ?_, fun n hn => ?_⟩
  · by_cases h14 : n = 14
    · subst h14
      rw [hhandler, (Slot.woken_regs _).1, (Slot.woken_regs _).2]
      exact h.held 14
    · rw [hother n h14]
      exact h.held n
  · rw [hother n (hn.resolve_right (by simp [ht])), h.slot n hn]

/-- Of the core, a record that enters leaves all but its queue, and slot 14 where the handler there takes it. -/
theorem enterRecord_leaves {s : State} {c : Nat} {img : BitVec 256} (h : field img 6 2 ≠ 3) (hsup : (s.slot c 14).traph = false → field img 13 1 = 1) :
    Raised s (s.enterRecord c img) c ∧ ((s.enterRecord c img).core c).traps = (withRecord s c img).traps := by
  have hset : Raised s (s.setCore c (withRecord s c img)) c := raised_setTraps s c (withRecord s c img).traps
  have htraps : ((s.setCore c (withRecord s c img)).core c).traps = (withRecord s c img).traps := congrArg Core.traps (State.core_setCore_same ..)
  rw [enterRecord_eq h]
  split
  · have hq := queues_coreNotice (s.setCore c (withRecord s c img)) c (((s.core c).traps.head + (s.core c).traps.count) % 32) (field img 6 2)
    exact ⟨hset.queues hq, (hq.core c Core.traps fun _ _ _ => rfl).trans htraps⟩
  · next hno =>
    refine ⟨hset.handlerHears (Bool.eq_true_of_not_eq_false fun ht => hno (hsup ht)), ?_⟩
    obtain ⟨r, hr⟩ := Core.ungate_eq (((s.setCore c (withRecord s c img)).core c).setSlot 14 (((s.setCore c (withRecord s c img)).core c).slot 14).woken)
    rw [State.core_modCore_same, hr]
    exact htraps

/-- A record that is not fatal is raised (R386): it is in the queue, or waits at its source. -/
theorem raise_leaves (s : State) (c : Nat) {r : Rec} (hcls : r.cls < 3) (hc : r.cause < 64) :
    Raised s (s.raise c r) c ∧ Recorded s (s.raise c r) c r.cause r.cls := by
  obtain ⟨fcause, fcls, fsup⟩ := image_fields r (!(s.core c).handlerTakes r)
  have hfcls : field (r.image (!(s.core c).handlerTakes r)) 6 2 ≠ 3 := by rw [fcls]; omega
  have hsup : (s.slot c 14).traph = false → field (r.image (!(s.core c).handlerTakes r)) 13 1 = 1 := fun ht => by
    have : (s.core c).handlerTakes r = false := by
      rw [Core.handlerTakes, show ((s.core c).slot 14).traph = false from ht]
      simp
    rw [fsup, this]
    rfl
  by_cases hroom : (s.core c).traps.count < 31 ∧ (s.core c).traps.waiting = []
  · have he : s.raise c r = s.enterRecord c (r.image (!(s.core c).handlerTakes r)) := by
      simp only [State.raise]
      rw [if_neg (by omega), if_pos (by simpa using hroom)]
    obtain ⟨hraised, htraps⟩ := enterRecord_leaves hfcls hsup
    rw [he]
    have hring : ((s.enterRecord c (r.image (!(s.core c).handlerTakes r))).core c).traps.ring.get 0 (((s.core c).traps.head + (s.core c).traps.count) % 32) =
        timed s c (r.image (!(s.core c).handlerTakes r)) := by
      rw [htraps]
      exact Table.get_put_same _ _ _ _
    refine ⟨hraised, fun _ _ => ⟨by rw [htraps]; rfl, ?_, ?_⟩, fun hn => ?_⟩
    · rw [hring, timed, field_setField_other _ _ _ _ _ _ (.inl (by decide)) (by decide), fcause, Nat.mod_eq_of_lt hc]
    · rw [hring, timed, field_setField_other _ _ _ _ _ _ (.inl (by decide)) (by decide), fcls, Nat.mod_eq_of_lt (by omega)]
    · exact absurd hroom fun e => hn.elim (fun h31 => absurd e.1 (Nat.not_lt.mpr h31)) fun hw => hw e.2
  · have he : s.raise c r = s.setCore c ((s.core c).awaitEntry (r.image (!(s.core c).handlerTakes r))) := by
      simp only [State.raise]
      rw [if_neg (by omega), if_neg (by simpa using hroom)]
      rfl
    rw [he]
    refine ⟨raised_setTraps s c _, fun h31 hw => absurd ⟨h31, hw⟩ hroom, fun _ => ?_⟩
    rw [State.core_setCore_same]
    exact ⟨rfl, by simp [Core.awaitEntry]⟩

theorem recorded_congr {s s' t t' : State} {c cause cls : Nat} (h : Recorded s t c cause cls) (hs : (s'.core c).traps = (s.core c).traps)
    (ht : (t'.core c).traps = (t.core c).traps) : Recorded s' t' c cause cls := by
  simp only [Recorded, hs, ht] at h ⊢
  exact h

/-! ## Refusals -/

theorem refusal_happens {s : State} {a : Asker} {x : Acc} {cause : Nat} {p : State → Prop} (hx : s.accOf a = some x)
    (ht : (s.slot a.core a.slot).transit = none) (h : p (s.refuseAcc a x cause)) : Happens .refusal s (.refusal a cause) p := by
  refine happens_of exec_refusal ?_ h
  simp only [follow_asked hx, ht, State.refused, anyAcc_of hx]

theorem reg_of_regs {t u : Slot} (h : t.regs = u.regs) (j : Nat) : t.reg j = u.reg j := by
  rw [Slot.reg, h, Slot.reg]

/-- A refused load or local store (R101, R449): its register takes its failed bit, a record is raised, and the access has ended. -/
theorem refuseAcc_load {s : State} {a : Asker} {x : Acc} {r : Nat} {cause : Nat} (ha : Asked s a x) (hj : x.jrn = none) (hh : x.hold = none)
    (hr : x.regs = [(r, ((s.slot a.core a.slot).reg r).seq, false, r)]) (hp : ((s.slot a.core a.slot).reg r).pend = true) (hc : cause < 64) :
    Gone s (s.refuseAcc a x cause) a ∧ SameMem s (s.refuseAcc a x cause) ∧ Recorded s (s.refuseAcc a x cause) a.core cause 1 ∧
      ((s.refuseAcc a x cause).slot a.core a.slot).reg r = { (s.slot a.core a.slot).reg r with failed := true, pend := false } ∧
      ∀ j, j ≠ r → ((s.refuseAcc a x cause).slot a.core a.slot).reg j = (s.slot a.core a.slot).reg j := by
  obtain ⟨hx, hsaved, hfree, -, ho⟩ := ha
  have hfill := fillScalar_takes none hfree hp
  obtain ⟨hraised, hrec⟩ := raise_leaves (s.fillScalar a r ((s.slot a.core a.slot).reg r).seq none) a.core
    (r := { cause := cause, cls := 1, slot := some a.slot, asid := x.asid, addr := x.addr, aux := r + 32 * b2n false }) (show 1 < 3 by decide) hc
  have he : s.refuseAcc a x cause = ((s.fillScalar a r ((s.slot a.core a.slot).reg r).seq none).raise a.core
      { cause := cause, cls := 1, slot := some a.slot, asid := x.asid, addr := x.addr, aux := r + 32 * b2n false }).complete a := by
    simp only [State.refuseAcc, hj, hh, hr, State.failRegs, List.foldl_cons, List.foldl_nil]
    rw [if_neg (by simp [hfree])]
    rfl
  obtain ⟨hregs, hout⟩ := hraised.held a.slot
  have hend := ended_free ((accOf_of_out (hout.trans hfill.out)).trans hx) ho hh
  rw [← he] at hend
  obtain ⟨st, why, mk, hslot⟩ := hend.slot
  have hreg (j : Nat) : ((s.refuseAcc a x cause).slot a.core a.slot).reg j =
      ((s.fillScalar a r ((s.slot a.core a.slot).reg r).seq none).slot a.core a.slot).reg j := by
    rw [hslot]
    exact reg_of_regs hregs j
  obtain ⟨_, _, hcore⟩ := hfill.core
  refine ⟨?_, fun b => ?_, recorded_congr hrec (by rw [hcore]) hend.traps, (hreg r).trans hfill.reg, fun j hj => (hreg j).trans (hfill.regs j hj)⟩
  · rw [Gone, hslot]
    exact congrArg (List.filter _) (hout.trans hfill.out)
  · rw [hend.mem b, hraised.mem, hfill.mem]

theorem Slot.kick_of_stopped {t : Slot} (h : t.stopped = true) : t.kick = t := by
  unfold Slot.kick
  split
  · unfold Slot.release
    rw [if_pos (by simp [h])]
  · rfl

theorem core_setSlot_traps (s : State) (c n : Nat) (t : Slot) : ((s.setSlot c n t).core c).traps = (s.core c).traps := by
  rw [State.setSlot, State.core_modCore_same]
  rfl

/-- An exact trap that is not of the job's trap handler (R382, R383). -/
theorem takeTrap_leaves (s : State) {c n pc cause : Nat} (addr : Word) (aux : Nat) (hc : cause < 64) (hn : ¬ (n = 14 ∧ (s.slot c n).traph = true)) :
    (s.takeTrap c n pc cause addr aux).mem = s.mem ∧ Recorded s (s.takeTrap c n pc cause addr aux) c cause 0 ∧
      (s.takeTrap c n pc cause addr aux).slot c n =
        { s.slot c n with st := .held, why := .none, stopped := true, pc := pc, resume := none, marker := false } := by
  let u : State := s.setSlot c n { s.slot c n with st := .held, why := .none, stopped := true, pc := pc, resume := none, marker := false }
  have hu : u.slot c n = { s.slot c n with st := .held, why := .none, stopped := true, pc := pc, resume := none, marker := false } :=
    State.slot_setSlot_same ..
  let r : Rec := ⟨cause, 0, some n, true, (s.slot c n).asid, pc, addr, aux, false⟩
  obtain ⟨hraised, hrec⟩ := raise_leaves u c (r := r) (show 0 < 3 by decide) hc
  have he : s.takeTrap c n pc cause addr aux = u.raise c r := if_neg hn
  have hcore : (u.core c).traps = (s.core c).traps := core_setSlot_traps ..
  rw [he]
  refine ⟨hraised.mem, recorded_congr hrec hcore.symm rfl, (hraised.slot n ?_).trans hu⟩
  by_cases h14 : n = 14
  · subst h14
    refine .inr ?_
    rw [hu]
    exact Bool.eq_false_iff.mpr fun ht => hn ⟨rfl, ht⟩
  · exact .inl h14

/-- A refused access that held its thread (R100): an exact trap at its instruction. -/
theorem refuseAcc_held {s : State} {a : Asker} {x : Acc} {h : Hold} {cause : Nat} (hj : x.jrn = none) (hh : x.hold = some h) (hold : h.old = none)
    (hc : cause < 64) (hn : ¬ (a.slot = 14 ∧ (s.slot a.core a.slot).traph = true)) : Gone s (s.refuseAcc a x cause) a ∧ SameMem s (s.refuseAcc a x cause) ∧
      ((s.refuseAcc a x cause).slot a.core a.slot).stopped = true ∧ ((s.refuseAcc a x cause).slot a.core a.slot).st = .held ∧
      ((s.refuseAcc a x cause).slot a.core a.slot).pc = h.addr ∧
      (∀ j, ((s.refuseAcc a x cause).slot a.core a.slot).reg j = (s.slot a.core a.slot).reg j) ∧ Recorded s (s.refuseAcc a x cause) a.core cause 0 := by
  let u := s.modSlot a.core a.slot fun y => { y with out := y.out.filter fun z => z.id != a.id }
  have hu : u.slot a.core a.slot = { s.slot a.core a.slot with out := (s.slot a.core a.slot).out.filter fun z => z.id != a.id } :=
    State.slot_modSlot_same ..
  obtain ⟨aux, he⟩ : ∃ aux, s.refuseAcc a x cause = (u.takeTrap a.core a.slot h.addr cause x.addr aux).kickAll a.core := by
    simp only [State.refuseAcc, hj, hh, hold]
    exact ⟨_, rfl⟩
  obtain ⟨hmem, hrec, hslot⟩ := takeTrap_leaves u (pc := h.addr) x.addr aux hc (by rwa [hu])
  have hkick := State.slot_kickAll_same (u.takeTrap a.core a.slot h.addr cause x.addr aux) a.core a.slot
  rw [hslot, Slot.kick_of_stopped rfl, ← he] at hkick
  obtain ⟨r, hcore⟩ := State.core_kickAll_same (u.takeTrap a.core a.slot h.addr cause x.addr aux) a.core
  rw [← he] at hcore
  have hutraps : (u.core a.core).traps = (s.core a.core).traps := core_setSlot_traps s a.core a.slot _
  refine ⟨by rw [Gone, hkick, hu], fun b => ?_, by rw [hkick], by rw [hkick], by rw [hkick], fun j => ?_, recorded_congr hrec hutraps.symm (by rw [hcore])⟩
  · rw [he, State.kickAll_mem, hmem]
    rfl
  · rw [hkick, Slot.reg, hu]
    rfl

/-- A refused posted access (R391): its journal entries are marked, and a record is raised. -/
theorem refuseAcc_posted {s : State} {a : Asker} {x : Acc} {j cause : Nat} (hj : x.jrn = some j) (hr : field ((s.core a.core).jrn j) 1 2 ≠ 1)
    (hc : cause < 64) : Recorded s (s.refuseAcc a x cause) a.core 32 1 ∧ field (((s.refuseAcc a x cause).core a.core).jrn j) 1 2 = 1 ∧
      field (((s.refuseAcc a x cause).core a.core).jrn j) 46 6 = cause ∧
      field (((s.refuseAcc a x cause).core a.core).jrn j) 64 192 = field ((s.core a.core).jrn j) 64 192 ∧
      ((s.refuseAcc a x cause).slot a.core a.slot).out = (s.slot a.core a.slot).out ∧
      ∀ i, x.jrn2 = some i → field (((s.refuseAcc a x cause).core a.core).jrn i) 1 2 = 1 := by
  let u := s.setAll a.core (fun e => setField e 1 2 1) x.entries
  let w := u.modCore a.core fun k => k.setJrn j (setField (k.jrn j) 46 6 cause)
  let r : Rec := { cause := 32, cls := 1, slot := some a.slot, asid := x.asid, addr := x.addr, aux := j + cause * 2 ^ 8 }
  have he : s.refuseAcc a x cause = (w.raise a.core r).releaseHeld a.core a.id true := by
    simp only [State.refuseAcc, hj, standsRefused_jrn hj]
    rw [if_neg (by simpa using hr)]
    rfl
  obtain ⟨hraised, hrec⟩ := raise_leaves w a.core (r := r) (show 1 < 3 by decide) (show 32 < 64 by decide)
  have hq := queues_releaseHeld (w.raise a.core r) a.core a.id true
  have hjrn (i : Nat) : ((s.refuseAcc a x cause).core a.core).jrn i = (w.core a.core).jrn i := by
    rw [he, hq.core a.core (Core.jrn · i) fun _ _ _ => rfl, hraised.jrn]
  have hwj : (w.core a.core).jrn j = setField ((u.core a.core).jrn j) 46 6 cause := by
    rw [State.core_modCore_same, Core.jrn_setJrn_same]
  have hwi (i : Nat) (hi : i ≠ j) : (w.core a.core).jrn i = (u.core a.core).jrn i := by
    rw [State.core_modCore_same, Core.jrn_setJrn_other _ _ _ _ hi]
  have hmark (i : Nat) (hi : i ∈ x.entries) : field ((u.core a.core).jrn i) 1 2 = 1 :=
    jrn_setAll s a.core _ x.entries (P := fun e => field e 1 2 = 1) (fun e => field_setField_same e 1 2 1 (by decide)) i hi
  have hmarkj : field ((w.core a.core).jrn j) 1 2 = 1 := by
    rw [hwj, field_setField_other _ _ _ _ _ _ (.inl (by decide)) (by decide)]
    exact hmark j (by simp [Acc.entries, hj])
  obtain ⟨J, hJ⟩ := setAll_core s a.core (fun e => setField e 1 2 1) x.entries
  have hwslot : w.slot a.core a.slot = s.slot a.core a.slot := by
    rw [State.slot, State.core_modCore_same]
    exact slot_setAll s a.core _ x.entries a.slot
  have hwtraps : (w.core a.core).traps = (s.core a.core).traps := by
    have e : (u.core a.core).traps = (s.core a.core).traps := by rw [hJ]
    rw [State.core_modCore_same]
    exact e
  refine ⟨recorded_congr hrec hwtraps.symm (by rw [he, hq.core a.core Core.traps fun _ _ _ => rfl]), by rw [hjrn, hmarkj], ?_, ?_, ?_, fun i hi => ?_⟩
  · rw [hjrn, hwj, field_setField_same _ _ _ _ (by decide)]
    exact Nat.mod_eq_of_lt hc
  · rw [hjrn, hwj, field_setField_other _ _ _ _ _ _ (.inr (by decide)) (by decide)]
    exact jrn_setAll_keeps s a.core _ x.entries (field · 64 192) (fun e => field_setField_other e 1 2 1 64 192 (.inr (by decide)) (by decide)) j
  · rw [he, hq.slot, (hraised.held a.slot).2, hwslot]
  · rw [hjrn]
    by_cases hij : i = j
    · exact hij ▸ hmarkj
    · rw [hwi i hij]
      exact hmark i (by simp [Acc.entries, hi])

/-! ## The statement -/

theorem Ended.gone {s t : State} {a : Asker} {x : Acc} {y : Slot} (h : Ended s t a x y) (ho : y.out = (s.slot a.core a.slot).out) : Gone s t a := by
  obtain ⟨st, why, mk, hs⟩ := h.slot
  rw [Gone, hs, ho]

theorem Ended.reg {s t : State} {a : Asker} {x : Acc} {y : Slot} (h : Ended s t a x y) (j : Nat) : (t.slot a.core a.slot).reg j = y.reg j := by
  obtain ⟨st, why, mk, hs⟩ := h.slot
  rw [hs]
  rfl

/-- A pending fill (R30). -/
theorem fill_pending {s : State} {a : Asker} {x : Acc} {r : Nat} {v : Word} (ha : Asked s a x) (hh : x.hold = none)
    (hp : ((s.slot a.core a.slot).reg r).pend = true) : Happens .fill s (.fill ⟨a, [.scalar r ((s.slot a.core a.slot).reg r).seq v]⟩) fun t =>
      Gone s t a ∧ SameMem s t ∧
        (t.slot a.core a.slot).reg r = { (s.slot a.core a.slot).reg r with v := v, full := true, failed := false, pend := false } ∧
        ∀ j, j ≠ r → (t.slot a.core a.slot).reg j = (s.slot a.core a.slot).reg j := by
  obtain ⟨hx, -, hfree, -, ho⟩ := id ha
  have hfill := fillScalar_takes (some v) hfree hp
  have hend := ended_free ((accOf_of_out hfill.out).trans hx) ho hh
  exact fill_happens ha ⟨(hend.gone rfl).trans (by rw [hfill.out]), fun b => (hend.mem b).trans (by rw [hfill.mem]), (hend.reg r).trans hfill.reg,
    fun j hj => (hend.reg j).trans (hfill.regs j hj)⟩

/-- A fill that no register waits for (R30). -/
theorem fill_dropped {s : State} {a : Asker} {x : Acc} {r q : Nat} {v : Word} (ha : Asked s a x) (hh : x.hold = none)
    (hp : ¬ (((s.slot a.core a.slot).reg r).pend = true ∧ ((s.slot a.core a.slot).reg r).seq = q)) :
    Happens .fill s (.fill ⟨a, [.scalar r q v]⟩) fun t => Gone s t a ∧ SameMem s t ∧
      (∀ j, (t.slot a.core a.slot).reg j = (s.slot a.core a.slot).reg j) ∧
      (t.core a.core).errcnt.get 0 4 = min ((s.core a.core).errcnt.get 0 4 + 1) (2 ^ 32 - 1) := by
  obtain ⟨hx, -, hfree, -, ho⟩ := id ha
  have hslot : (s.modCore a.core fun k => k.count 4).slot a.core a.slot = s.slot a.core a.slot := by
    rw [State.slot, State.core_modCore_same]
    rfl
  have hend := ended_free ((accOf_of_out (congrArg Slot.out hslot)).trans hx) ho hh
  refine fill_happens ha ?_
  rw [fillScalar_late (some v) hfree hp]
  refine ⟨(hend.gone rfl).trans (by rw [hslot]), hend.mem, fun j => (hend.reg j).trans (by rw [hslot]), ?_⟩
  rw [hend.errcnt, State.core_modCore_same]
  exact Table.get_put_same _ _ _ _

/-- An acknowledgement of a posted access frees its entries, and no other (R391). -/
theorem acknowledgement_posted {s : State} {a : Asker} {x : Acc} {j : Nat} (ha : Asked s a x) (hj : x.jrn = some j) (hh : x.hold = none)
    (hr : field ((s.core a.core).jrn j) 1 2 ≠ 1) : Happens .acknowledgement s (.acknowledgement a) fun t => Gone s t a ∧
      (t.core a.core).jrn j = 0 ∧ (∀ i, x.jrn2 = some i → (t.core a.core).jrn i = 0) ∧
      ∀ i, i ≠ j → x.jrn2 ≠ some i → (t.core a.core).jrn i = (s.core a.core).jrn i := by
  have hend := acknowledged_free ha hh ((standsRefused_jrn hj).trans (by simpa using hr))
  exact acknowledgement_happens ha ⟨hend.gone rfl, hend.freed j (by simp [Acc.entries, hj]), fun i hi => hend.freed i (by simp [Acc.entries, hi]),
    fun i hij hi => hend.jrn i (by simpa [Acc.entries, hj, hi] using hij)⟩

theorem claim_answers : Claim.Answers := by
  intro s a x ha
  have hstands (h : x.jrn = none) : s.standsRefused a.core x = false := by simp [State.standsRefused, h]
  obtain ⟨hx, -, -, htransit, -⟩ := id ha
  refine ⟨fun hj hh => ⟨fun r v hp => fill_pending ha hh hp, fun r q v hp => fill_dropped ha hh hp, ?_, fun r cause hr hp hc => ?_⟩,
    fun h hj hh => ⟨fun hmodes => ?_, fun cause hold hc hn => ?_⟩, fun j hj hh hr => acknowledgement_posted ha hj hh hr, fun j hj hr => ?_,
    fun j cause hj hr hc => refusal_happens hx htransit (refuseAcc_posted hj hr hc)⟩
  · have hend := acknowledged_free ha hh (hstands hj)
    exact acknowledgement_happens ha ⟨hend.gone rfl, hend.mem, hend.reg⟩
  · exact refusal_happens hx htransit (refuseAcc_load ha hj hh hr hp hc)
  · obtain ⟨y, hend, hgo⟩ := acknowledged_held ha hh (hstands hj)
    obtain ⟨st, why, mk, hs⟩ := hend.slot
    exact acknowledgement_happens ha ⟨hend.gone hgo.out, hend.mem, (congrArg Slot.pc hs).trans hgo.pc, (congrArg Slot.pred hs).trans hgo.pred,
      fun j => (hend.reg j).trans (hgo.reg hmodes j)⟩
  · exact refusal_happens hx htransit (refuseAcc_held hj hh hold hc hn)
  · have hal := alike_drainHears s a.core a.id false
    refine acknowledgement_happens ha ?_
    rw [acknowledged_late (hal.accOf.trans hx) ((standsRefused_alike hal x).trans ((standsRefused_jrn hj).trans (by simpa using hr)))]
    exact ⟨congrArg Slot.out (hal.slot a.slot), hal.jrn⟩

/-- Settles O41, each answer taken from what it finds: the register it fills, the instruction it held or the journal entry. -/
theorem answersOfAccesses : Obligations.AnswersOfAccesses := ⟨claim_answers, claim_busyAnswers⟩

end Sys2Proof.Machine
end

section
/-!
PROOFS. Spawn requests, active messages and the service handler, context images and arrivals at the gang record (spec/02 R41, R43, spec/10 R191, R193,
R204, R208 to R210).
-/

open Sys2Proof Sys2Proof.Machine Sys2Proof.Claim

namespace Sys2Proof.Machine

theorem exec_spawnRequest (s : State) : exec .spawnRequest s = execSpawnRequest s := rfl
theorem exec_activeMessage (s : State) : exec .activeMessage s = execActiveMessage s := rfl
theorem exec_serviceHandlerStart (s : State) : exec .serviceHandlerStart s = execServiceHandlerStart s := rfl
theorem exec_serviceHandlerLimit (s : State) : exec .serviceHandlerLimit s = execServiceHandlerLimit s := rfl
theorem exec_contextImage (s : State) : exec .contextImage s = execContextImage s := rfl
theorem exec_migrationResend (s : State) : exec .migrationResend s = execMigrationResend s := rfl
theorem exec_barrierArrival (s : State) : exec .barrierArrival s = execBarrierArrival s := rfl

theorem happens_of_occurs {i : Instr} {s t : State} {e : Event} {p : State → Prop} (h : Occurs i s e t) (hp : p t) : Happens i s e p :=
  fun hn => ⟨t, h hn, hp⟩

theorem State.tell_self (s : State) (c : Nat) (ev : Event) : s.tell c c ev = s.after 0 ev := if_pos rfl

/-! ## The gate and a slot that is entered -/

/-- A core passes what comes from itself, unless it forwards the ASID (R214). -/
theorem gateFrom_own {s : State} {c asid : Nat} (sup : Bool) (h : Keeps s c asid) : (s.core c).gateFrom c c asid sup = .pass := by
  have hnone : ((List.range 16).find? fun i => ((s.core c).fwds.get 0 i).getLsbD 14 && field ((s.core c).fwds.get 0 i) 0 14 == asid) = none := by
    rw [List.find?_eq_none]
    intro i hi
    simpa using h i (List.mem_range.mp hi)
  cases hp : (asid == 0 && sup || (s.core c).lists asid) with
  | true => simp only [Core.gateFrom, Core.gate, hp, if_true]
  | false => simp only [Core.gateFrom, Core.gate, hp, hnone, Bool.false_eq_true, if_false, if_true]

theorem Core.giveBanks_rest (k : Core) (n t : Nat) (bs : List Nat) : ∃ x v, k.giveBanks n t bs = { k with banks := x, vregs := v } := by
  induction bs generalizing k with
  | nil => exact ⟨_, _, rfl⟩
  | cons b bs ih =>
    obtain ⟨x, v, h⟩ := ih (k.giveBank n t b)
    exact ⟨x, v, h⟩

/-- A thread that enters a slot is ready, with its banks and with the slot's ordering counts. -/
theorem enterSlot_slot (s : State) (c n : Nat) (t : Slot) :
    ∃ b o, (s.enterSlot c n t).slot c n = { t with st := .ready, banks := b, orders := o } := by
  unfold State.enterSlot
  simp only
  split
  · exact ⟨_, _, (congrArg (Core.slot · n) (State.core_setCore_same ..)).trans ((Core.slot_ungate _ _).trans (Core.slot_setSlot_same ..))⟩
  · exact ⟨_, _, (congrArg (Core.slot · n) (State.core_setCore_same ..)).trans ((Core.slot_ungate _ _).trans (Core.slot_setSlot_same ..))⟩

theorem enterSlot_mem (s : State) (c n : Nat) (t : Slot) : (s.enterSlot c n t).mem = s.mem := by
  unfold State.enterSlot
  simp only
  split <;> rfl

theorem enterSlot_now (s : State) (c n : Nat) (t : Slot) : (s.enterSlot c n t).now = s.now := by
  unfold State.enterSlot
  simp only
  split <;> rfl

/-! ## Spawn requests -/

theorem reg_argRegs (args : List Word) (i : Nat) (h : i < 4) : Table.get ({} : XReg) (argRegs args) (4 + i) = { v := args.getD i 0 } := by
  interval_cases i <;> rfl

theorem reg_argRegs_other (args : List Word) (i : Nat) (h : i < 4 ∨ 8 ≤ i) : Table.get ({} : XReg) (argRegs args) i = {} := by
  have hne : ∀ j, j < 4 → 4 + j ≠ i := fun j hj => by omega
  have h0 := hne 0 (by decide)
  have h1 := hne 1 (by decide)
  have h2 := hne 2 (by decide)
  have h3 := hne 3 (by decide)
  simp [argRegs, List.range_succ, Table.get, h0, h1, h2, h3]

/-- The bits of a thread's STATUS. -/
theorem statusOf_bits (flush sup task gang traph : Bool) (nbank : Nat) : (statusOf flush sup task gang nbank traph).getLsbD 0 = flush ∧
    (statusOf flush sup task gang nbank traph).getLsbD 1 = sup ∧ (statusOf flush sup task gang nbank traph).getLsbD 6 = traph := by
  have hn : nbank % 4 < 4 := Nat.mod_lt _ (by decide)
  unfold statusOf
  generalize nbank % 4 = b at hn ⊢
  interval_cases b <;> cases flush <;> cases sup <;> cases task <;> cases gang <;> cases traph <;> decide

/-- A spawned thread has begun in the slot that it enters (R41). -/
theorem began_enterSlot (s : State) (n : Nat) (m : SpawnMsg) :
    Began (s.enterSlot m.core n (SpawnMsg_slot m)) m.core n m.pc m.asid m.flush (m.sup || m.handler) m.args ∧
      ((s.enterSlot m.core n (SpawnMsg_slot m)).slot m.core n).traph = m.handler := by
  obtain ⟨b, o, h⟩ := enterSlot_slot s m.core n (SpawnMsg_slot m)
  obtain ⟨hflush, hsup, htraph⟩ := statusOf_bits m.flush (m.sup || m.handler) false false m.handler m.nbank
  rw [Began, h]
  exact ⟨⟨rfl, rfl, rfl, hflush, hsup, reg_argRegs m.args, reg_argRegs_other m.args⟩, htraph⟩

theorem Began.after {t : State} {c n pc asid : Nat} {flush sup : Bool} {args : List Word} (h : Began t c n pc asid flush sup args) (d : Nat) (ev : Event) :
    Began (t.after d ev) c n pc asid flush sup args := h

section
variable {s : State} {m : SpawnMsg}

/-- The core with a spawn more in its queue. -/
def Core.queueSpawn (m : SpawnMsg) (k : Core) : Core :=
  k.modSched fun q => { q with spawns := q.spawns ++ [⟨m.pc, m.nbank, m.asid, m.flush, m.sup, m.args⟩] }

/-- What becomes of a spawn request that its core takes from itself (R191). -/
def State.spawned (s : State) (m : SpawnMsg) : State :=
  let k := s.core m.core
  let ack (t : State) : State := t.after 0 (.acknowledgement m.src)
  let busy : State := s.after 0 (.busy (.spawn m))
  if k.frozen then busy
  else if m.handler then if (k.slot 14).isOpen && k.banksFor m.nbank then ack (s.enterSlot m.core 14 (SpawnMsg_slot m)) else busy
  else
    match (if k.banksFor m.nbank && !k.halted then k.openSlot else none) with
    | some n => ack (s.enterSlot m.core n (SpawnMsg_slot m))
    | none =>
      if 64 ≤ k.sched.spawns.length then busy
      else ack (s.modCore m.core (Core.queueSpawn m))

/-- No request of the cycle goes before one that none of a lower core, or of a lower slot of the same core, is there with. -/
theorem spawnAhead_none (hc : m.src.core = m.core) (h : ∀ a x, ⟨a, .spawnRequest x⟩ ∈ s.agenda → x.core = m.core → a / Config.cycle = s.now / Config.cycle →
    idOf m.core < idOf x.src.core ∨ (idOf m.core = idOf x.src.core ∧ m.src.slot ≤ x.src.slot)) : s.spawnAhead m = none := by
  rw [State.spawnAhead, List.findSome?_eq_none_iff]
  rintro ⟨a, ev⟩ he
  cases ev with
  | spawnRequest x =>
    refine if_neg fun ⟨hcore, hcycle, hlower⟩ => ?_
    have := h a x he hcore hcycle
    rw [hc] at hlower
    omega
  | _ => rfl

theorem spawnAhead_head {x : SpawnMsg} {a : Nat} {rest : List Due} (h : s.agenda = ⟨a, .spawnRequest x⟩ :: rest) (hc : x.core = m.core)
    (hs : x.src.core = m.src.core) (hlt : x.src.slot < m.src.slot) (ha : a / Config.cycle = s.now / Config.cycle) : s.spawnAhead m = some a := by
  have hp : x.core = m.core ∧ a / Config.cycle = s.now / Config.cycle ∧
      (idOf x.src.core < idOf m.src.core ∨ (idOf x.src.core = idOf m.src.core ∧ x.src.slot < m.src.slot)) := ⟨hc, ha, .inr ⟨by rw [hs], hlt⟩⟩
  simp only [State.spawnAhead, h, List.findSome?_cons, if_pos hp]

theorem spawn_early (h : s.now < s.cycleEnd) : Occurs .spawnRequest s (.spawnRequest m) (s.due s.cycleEnd (.spawnRequest m)) :=
  occurs_of exec_spawnRequest (if_pos h)

theorem spawn_behind {a : Nat} (h : s.now = s.cycleEnd) (ha : s.spawnAhead m = some a) :
    Occurs .spawnRequest s (.spawnRequest m) (s.due a (.spawnRequest m)) := by
  refine occurs_of exec_spawnRequest ?_
  simp only [ha]
  rw [if_neg (Nat.not_lt.mpr (Nat.le_of_eq h.symm))]
  rfl

theorem spawn_taken (h : s.now = s.cycleEnd) (hc : m.src.core = m.core) (hk : Keeps s m.core m.asid) (ha : s.spawnAhead m = none) :
    Occurs .spawnRequest s (.spawnRequest m) (s.spawned m) := by
  refine occurs_of exec_spawnRequest ?_
  simp only [ha, hc, gateFrom_own m.sup hk, State.tell_self, State.spawned]
  rw [if_neg (Nat.not_lt.mpr (Nat.le_of_eq h.symm)), if_neg (by simp)]
  cases hn : (if (s.core m.core).banksFor m.nbank && !(s.core m.core).halted then (s.core m.core).openSlot else none) with
  | none =>
    simp only [apply_ite some]
    rfl
  | some n => simp only [apply_ite some]

theorem spawned_frozen (h : (s.core m.core).frozen = true) : s.spawned m = s.after 0 (.busy (.spawn m)) := if_pos h

theorem spawned_handler (hf : (s.core m.core).frozen = false) (hh : m.handler = true) (ho : ((s.core m.core).slot 14).isOpen = true)
    (hb : (s.core m.core).banksFor m.nbank = true) : s.spawned m = (s.enterSlot m.core 14 (SpawnMsg_slot m)).after 0 (.acknowledgement m.src) := by
  simp [State.spawned, hf, hh, ho, hb]

theorem spawned_starts {n : Nat} (hf : (s.core m.core).frozen = false) (hh : m.handler = false) (ho : (s.core m.core).openSlot = some n)
    (hb : (s.core m.core).banksFor m.nbank = true) (hl : (s.core m.core).halted = false) :
    s.spawned m = (s.enterSlot m.core n (SpawnMsg_slot m)).after 0 (.acknowledgement m.src) := by
  simp [State.spawned, hf, hh, ho, hb, hl]

theorem spawned_waits (hf : (s.core m.core).frozen = false) (hh : m.handler = false)
    (h : (s.core m.core).openSlot = none ∨ (s.core m.core).banksFor m.nbank = false ∨ (s.core m.core).halted = true) :
    s.spawned m = if 64 ≤ (s.core m.core).sched.spawns.length then s.after 0 (.busy (.spawn m))
      else (s.modCore m.core (Core.queueSpawn m)).after 0 (.acknowledgement m.src) := by
  have hnone : (if (s.core m.core).banksFor m.nbank && !(s.core m.core).halted then (s.core m.core).openSlot else none) = none := by
    rcases h with h | h | h <;> simp [h]
  simp only [State.spawned, hf, hh, hnone, Bool.false_eq_true, if_false]

end

/-! ## Active messages and the handler -/

/-- What becomes of a message that its core takes from itself (R208, R209). -/
theorem message_taken {s : State} {m : ActiveMsg} (hc : m.src.core = m.core) (hk : Keeps s m.core m.asid) : Occurs .activeMessage s (.activeMessage m)
    (if (s.core m.core).frozen || decide (64 ≤ (s.core m.core).service.length) then s.after 0 (.busy (.amsg m))
     else (s.modCore m.core fun k => ({ k with service := k.service ++ [Service.message m] }).ungate).after 0 (.acknowledgement m.src)) := by
  refine occurs_of exec_activeMessage ?_
  simp only [hc, gateFrom_own m.sup hk, State.tell_self]
  split <;> rfl

/-- The service queue's first message starts the handler in slot 15 (R209). -/
def State.handlerStarted (s : State) (c : Nat) (m : ActiveMsg) (rest : List Service) : State :=
  s.modCore c fun k => { k with service := rest, handler := some (m, 0), slots := k.slots.put 15 { handlerSlot m with orders := (k.slot 15).orders } }

theorem handler_starts {s : State} {c : Nat} {m : ActiveMsg} {rest : List Service} (h : (s.core c).service = .message m :: rest) :
    Occurs .serviceHandlerStart s (.serviceHandlerStart c) (s.handlerStarted c m rest) := by
  refine occurs_of exec_serviceHandlerStart ?_
  simp only [h]
  rfl

theorem handlerStarted_slot (s : State) (c n : Nat) (m : ActiveMsg) (rest : List Service) :
    (s.handlerStarted c m rest).slot c n = if n = 15 then { handlerSlot m with orders := (s.slot c 15).orders } else s.slot c n := by
  rw [State.slot, State.handlerStarted, State.core_modCore_same]
  split
  · next h => exact h ▸ Table.get_put_same _ _ _ _
  · next h => exact Table.get_put_other _ _ _ _ _ h

theorem handlerSlot_arg (m : ActiveMsg) (i : Nat) (h : i < 4) : ((handlerSlot m).reg (4 + i)).v = m.args.getD i 0 := by
  interval_cases i <;> rfl

/-- A handler that has spent its instructions is abandoned, and goes on record (R210). -/
theorem abandon_leaves {s : State} {c : Nat} {m : ActiveMsg} {n : Nat} (h : (s.core c).handler = some (m, n)) :
    (s.abandon c).mem = s.mem ∧ ((s.abandon c).core c).handler = none ∧ (s.abandon c).slot c 15 = { orders := (s.slot c 15).orders } ∧
      Recorded s (s.abandon c) c 27 0 := by
  let u := s.modCore c Core.endHandler
  let r : Rec := ⟨27, 0, some 15, false, m.asid, s.cur.addr, fabricAddr m.src.core 0, m.off, false⟩
  have hu : u.core c = (s.core c).endHandler := State.core_modCore_same ..
  obtain ⟨hraised, hrec⟩ := raise_leaves u c (r := r) (show 0 < 3 by decide) (show 27 < 64 by decide)
  have hend : ∃ q, (s.abandon c).mem = (u.raise c r).mem ∧ (s.abandon c).core c = { (u.raise c r).core c with running := q } := by
    have he : s.abandon c = if ((u.raise c r).core c).service.isEmpty then u.raise c r else (u.raise c r).modCore c Core.ungate := by
      simp only [State.abandon, h]
      rfl
    rw [he]
    split
    · exact ⟨_, rfl, rfl⟩
    · obtain ⟨q, hq⟩ := Core.ungate_eq ((u.raise c r).core c)
      exact ⟨q, rfl, by rw [State.core_modCore_same, hq]⟩
  obtain ⟨q, hmem, hcore⟩ := hend
  have hslot : (u.raise c r).slot c 15 = { orders := (s.slot c 15).orders } := by
    rw [hraised.slot 15 (.inl (by decide)), State.slot, hu]
    exact Table.get_put_same _ _ _ _
  refine ⟨hmem.trans hraised.mem, ?_, ?_, recorded_congr hrec (by rw [hu]; rfl) (by rw [hcore])⟩
  · rw [hcore]
    exact hraised.handler.trans (by rw [hu]; rfl)
  · rw [State.slot, hcore]
    exact hslot

theorem abandon_idle {s : State} {c : Nat} (h : (s.core c).handler = none) : s.abandon c = s := by
  simp only [State.abandon, h]

/-! ## Context images -/

section
variable {s : State} {m : ImageMsg}

theorem image_malformed (h : imageOk m.img = false) : Occurs .contextImage s (.contextImage m) (s.send m.core m.src.core (.refusal m.src 2)) :=
  occurs_of exec_contextImage (if_pos (by simp [h]))

theorem image_refused (h : imageOk m.img = true) (hg : (s.core m.core).gate m.core (({} : Slot).load m.img).asid (({} : Slot).load m.img).sup = .refused) :
    Occurs .contextImage s (.contextImage m) (s.send m.core m.src.core (.refusal m.src 1)) := by
  refine occurs_of exec_contextImage ((if_neg (by simp [h])).trans ?_)
  have hg' : (s.core m.core).gate m.core ({ ({} : Slot).load m.img with faultAtQuit := m.fault, succs := m.succs } : Slot).asid
      ({ ({} : Slot).load m.img with faultAtQuit := m.fault, succs := m.succs } : Slot).sup = .refused := hg
  simp only [hg']

/-- What becomes of an image that its core passes (R43). -/
def State.imagePlaced (s : State) (m : ImageMsg) : State :=
  let t := ({} : Slot).load m.img
  let back (s : State) (ev : Event) : State := s.send m.core m.src.core ev
  if (s.core m.core).frozen then back s (.busy (.image m))
  else
    match (s.core m.core).openSlot with
    | some n =>
      back (s.enterSlot m.core n { t with
        faultAtQuit := m.fault, succs := m.succs
        hb := if m.gang then (s.value (tileKey (coreNamed t.work) (offsetOf t.work + 2)) 1).toNat else 0 }) (.acknowledgement m.src)
    | none => back s (if m.gang then .refusal m.src 3 else .busy (.image m))

theorem image_passed (h : imageOk m.img = true) (hg : (s.core m.core).gate m.core (({} : Slot).load m.img).asid (({} : Slot).load m.img).sup = .pass) :
    Occurs .contextImage s (.contextImage m) (s.imagePlaced m) := by
  refine occurs_of exec_contextImage ((if_neg (by simp [h])).trans ?_)
  have hg' : (s.core m.core).gate m.core ({ ({} : Slot).load m.img with faultAtQuit := m.fault, succs := m.succs } : Slot).asid
      ({ ({} : Slot).load m.img with faultAtQuit := m.fault, succs := m.succs } : Slot).sup = .pass := hg
  simp only [hg', State.imagePlaced]
  cases (s.core m.core).openSlot with
  | none => simp only [apply_ite some]
  | some n => simp only [apply_ite some]

theorem imagePlaced_frozen (h : (s.core m.core).frozen = true) : s.imagePlaced m = s.send m.core m.src.core (.busy (.image m)) := if_pos h

theorem imagePlaced_full (h : (s.core m.core).frozen = false) (ho : (s.core m.core).openSlot = none) :
    s.imagePlaced m = s.send m.core m.src.core (if m.gang then .refusal m.src 3 else .busy (.image m)) := by
  simp only [State.imagePlaced, h, ho, Bool.false_eq_true, if_false]

/-- An image that enters a slot is the context there, ready (R43). -/
theorem imagePlaced_enters {n : Nat} (h : (s.core m.core).frozen = false) (ho : (s.core m.core).openSlot = some n) :
    (s.imagePlaced m).mem = s.mem ∧ ∃ hb b o, (s.imagePlaced m).slot m.core n =
      { ({} : Slot).load m.img with faultAtQuit := m.fault, succs := m.succs, hb := hb, st := .ready, banks := b, orders := o } := by
  obtain ⟨hb, he⟩ : ∃ hb, s.imagePlaced m = (s.enterSlot m.core n { ({} : Slot).load m.img with faultAtQuit := m.fault, succs := m.succs, hb := hb }).send
      m.core m.src.core (.acknowledgement m.src) := by
    simp only [State.imagePlaced, h, ho, Bool.false_eq_true, if_false]
    exact ⟨_, rfl⟩
  have hq := queues_of_travels (travels_send (s.enterSlot m.core n { ({} : Slot).load m.img with faultAtQuit := m.fault, succs := m.succs, hb := hb })
    m.core m.src.core (.acknowledgement m.src))
  obtain ⟨b, o, hs⟩ := enterSlot_slot s m.core n { ({} : Slot).load m.img with faultAtQuit := m.fault, succs := m.succs, hb := hb }
  rw [he]
  exact ⟨hq.1.trans (enterSlot_mem ..), hb, b, o, (hq.slot m.core n).trans hs⟩

theorem resend_departing (h : (s.slot m.src.core m.src.slot).transit.map (·.1) = some m) :
    Occurs .migrationResend s (.migrationResend m) (s.sendBig m.src.core m.core 10 (.contextImage m)) :=
  occurs_of exec_migrationResend (if_pos (by simp [h]))

theorem resend_settled (h : (s.slot m.src.core m.src.slot).transit.map (·.1) ≠ some m) : Occurs .migrationResend s (.migrationResend m) s :=
  occurs_of exec_migrationResend (if_neg (by simpa using h))

end

/-! ## Bytes of memory -/

theorem leNat_lt (bs : List Byte) : leNat bs < 256 ^ bs.length := by
  induction bs with
  | nil => decide
  | cons x xs ih =>
    have := x.isLt
    rw [leNat, List.length_cons, Nat.pow_succ]
    omega

theorem bytes_length (s : State) (a n : Nat) : (s.bytes a n).length = n := memRead_length _ _ _

/-- A value of at most eight bytes is the number that its bytes say. -/
theorem value_toNat (s : State) {a n : Nat} (h : n ≤ 8) : (s.value a n).toNat = leNat (s.bytes a n) := by
  have h1 := leNat_lt (s.bytes a n)
  rw [bytes_length] at h1
  have h2 : 256 ^ n ≤ 256 ^ 8 := Nat.pow_le_pow_right (by decide) h
  rw [State.value, BitVec.toNat_ofNat, Nat.mod_eq_of_lt (by omega)]

theorem leNat_natLe_two (v : Nat) : leNat (natLe 2 v) = v % 65536 := by
  simp only [natLe, leNat, BitVec.toNat_ofNat]
  omega

theorem memRead_congr {m m' : List Host.Cell} {a n : Nat} (h : ∀ b, a ≤ b → b < a + n → memByte m b = memByte m' b) : memRead m a n = memRead m' a n := by
  induction n generalizing a with
  | zero => rfl
  | succ n ih =>
    rw [memRead, memRead, h a (Nat.le_refl a) (by omega), ih fun b h1 h2 => h b (by omega) (by omega)]

/-! ## Writes of the core's own -/

theorem core_markDirty (s : State) (a c : Nat) : ∃ d, (s.markDirty a).core c = { s.core c with dirty := d } := by
  unfold State.markDirty
  split
  · by_cases h : c = a / 2 ^ 20
    · subst h
      exact ⟨_, State.core_modCore_same ..⟩
    · exact ⟨_, State.core_modCore_other _ _ _ _ h⟩
  · exact ⟨_, rfl⟩

theorem markDirty_mem (s : State) (a : Nat) : (s.markDirty a).mem = s.mem := by
  unfold State.markDirty
  split <;> rfl

/-- The cells of a write: their presence and their poison. -/
theorem cells_leave (s : State) (a n : Nat) (ks : List Nat) :
    (ks.foldl (fun s k => let s := s.setPresent k true; if a ≤ k ∧ k + cellSize a ≤ a + n then s.cleanse k else s) s).mem = s.mem ∧
      (ks.foldl (fun s k => let s := s.setPresent k true; if a ≤ k ∧ k + cellSize a ≤ a + n then s.cleanse k else s) s).cores = s.cores := by
  induction ks generalizing s with
  | nil => exact ⟨rfl, rfl⟩
  | cons k ks ih =>
    obtain ⟨hm, hc⟩ := ih (let s := s.setPresent k true; if a ≤ k ∧ k + cellSize a ≤ a + n then s.cleanse k else s)
    refine ⟨hm.trans ?_, hc.trans ?_⟩
    · simp only
      split <;> rfl
    · simp only
      split <;> rfl

/-- A write sets its bytes, and of the cores the dirty bits only. -/
theorem writeAt_leaves (s : State) (a : Nat) (bs : List Byte) :
    (s.writeAt a bs).mem = memWrite s.mem a bs ∧ ∀ c, ∃ d, (s.writeAt a bs).core c = { s.core c with dirty := d } := by
  unfold State.writeAt
  simp only
  split
  · next h =>
    obtain rfl := List.length_eq_zero_iff.mp h
    exact ⟨rfl, fun c => ⟨_, rfl⟩⟩
  · obtain ⟨hm, hc⟩ := cells_leave (s.setBytes a bs) a bs.length (cellsOf a bs.length)
    refine ⟨(markDirty_mem _ _).trans ((markDirty_mem _ _).trans hm), fun c => ?_⟩
    obtain ⟨d, hd⟩ := core_markDirty ((cellsOf a bs.length).foldl
      (fun s k => let s := s.setPresent k true; if a ≤ k ∧ k + cellSize a ≤ a + bs.length then s.cleanse k else s) (s.setBytes a bs)) a c
    obtain ⟨d', hd'⟩ := core_markDirty (((cellsOf a bs.length).foldl
      (fun s k => let s := s.setPresent k true; if a ≤ k ∧ k + cellSize a ≤ a + bs.length then s.cleanse k else s) (s.setBytes a bs)).markDirty a)
      (a + bs.length - 1) c
    refine ⟨d', hd'.trans ?_⟩
    rw [hd, State.core, hc]
    rfl

/-- Where nothing waits at the core's banks and no snapshot is under way, a write of the core's own is the write alone. -/
theorem writeTcb_calm {s : State} {c : Nat} (h : Calm s c) (off at_ : Nat) (bs : List Byte) : s.writeTcb c off at_ bs = s.writeAt (tileKey c (off + at_)) bs := by
  obtain ⟨-, hwait, hsnap⟩ := h
  have htile : s.writeTile c (off + at_) bs = s.writeAt (tileKey c (off + at_)) bs := by
    simp only [State.writeTile, State.beforeWrite, State.pendingIn, hsnap, List.foldl_nil]
  obtain ⟨d, hd⟩ := (writeAt_leaves s (tileKey c (off + at_)) bs).2 c
  rw [State.writeTcb, htile, State.recheckAll, hd]
  simp only [hwait, List.length_nil, State.recheck]

theorem tileKey_add (c off n : Nat) : tileKey c (off + n) = tileKey c off + n := (Nat.add_assoc ..).symm

theorem sameBut_of_mem {s t : State} {a n : Nat} {bs : List Byte} (h : MemOk s) (hn : bs.length = n) (ht : t.mem = memWrite s.mem a bs) : SameBut s t a n :=
  fun b hb => by rw [ht, memByte_memWrite_other a b bs h (by omega)]

theorem bytes_of_mem {s t : State} {a n : Nat} {bs : List Byte} (h : MemOk s) (hn : bs.length = n) (ht : t.mem = memWrite s.mem a bs) : t.bytes a n = bs := by
  subst hn
  rw [State.bytes, ht, memRead_memWrite_same a bs h]

/-! ## Arrivals at the gang record -/

/-- The core that an entry of the gang record names (R204). -/
def State.memberCore (s : State) (key i : Nat) : Nat :=
  coreOf (bitsOf (s.value (key + 64 + 48 * i) 4).toNat 12 6) (bitsOf (s.value (key + 64 + 48 * i) 4).toNat 0 12)

/-- An entry of the record lies behind its count of arrivals. -/
theorem le_of_entry {key i b : Nat} (h : key + 64 + 48 * i ≤ b) : key + 24 + (natLe 2 0).length ≤ b := by
  rw [show (natLe 2 0).length = 2 from rfl]
  omega

/-- The arrival at one member's handle. -/
def State.memberArrives (src : Asker) (asid c key hb : Nat) (s : State) (i : Nat) : State :=
  if s.memberCore key i = c then s.changeHandle c { h := hb, rank := 1, change := .arrive, slot := none, asid := asid, reply := none }
  else s.send c (s.memberCore key i)
    (.remoteHandleArrival { src := ⟨c, src.slot, 0⟩, core := s.memberCore key i, h := hb, change := .arrive, asid := asid, sup := false })

theorem core_changeHandle (s : State) (c : Nat) (p : HPending) :
    (s.changeHandle c p).mem = s.mem ∧ ((s.changeHandle c p).core c).hpending = (s.core c).hpending ++ [p] := by
  have hcore : ((s.modCore c fun k => { k with hpending := k.hpending ++ [p] }).core c).hpending = (s.core c).hpending ++ [p] :=
    congrArg Core.hpending (State.core_modCore_same ..)
  unfold State.changeHandle State.evalHandle
  split
  · exact ⟨rfl, hcore⟩
  · exact ⟨rfl, hcore⟩

section
variable (src : Asker) (asid c key hb : Nat)

/-- An arrival at a member leaves memory, and what has arrived at the core's own handles. -/
theorem memberArrives_leaves (s : State) (i : Nat) : (s.memberArrives src asid c key hb i).mem = s.mem ∧
    (∀ p ∈ (s.core c).hpending, p ∈ ((s.memberArrives src asid c key hb i).core c).hpending) ∧
    (s.memberCore key i = c → ∃ p ∈ ((s.memberArrives src asid c key hb i).core c).hpending, p.h = hb ∧ p.change = .arrive) := by
  unfold State.memberArrives
  split
  · obtain ⟨hm, hp⟩ := core_changeHandle s c { h := hb, rank := 1, change := .arrive, slot := none, asid := asid, reply := none }
    rw [hp]
    exact ⟨hm, fun p h => List.mem_append_left _ h, fun _ => ⟨_, List.mem_append_right _ (List.mem_singleton_self _), rfl, rfl⟩⟩
  · next hne =>
    have hq := queues_of_travels (travels_send s c (s.memberCore key i)
      (.remoteHandleArrival { src := ⟨c, src.slot, 0⟩, core := s.memberCore key i, h := hb, change := .arrive, asid := asid, sup := false }))
    refine ⟨hq.1, fun p h => ?_, fun h => absurd h hne⟩
    rw [hq.core c Core.hpending fun _ _ _ => rfl]
    exact h

theorem memberCore_congr {s t : State} (h : t.mem = s.mem) (i : Nat) : t.memberCore key i = s.memberCore key i := by
  rw [State.memberCore, State.value, State.bytes, h]
  rfl

/-- The last arrival arrives at the handle of every member (R204). -/
theorem membersArrive (is : List Nat) (s : State) : (is.foldl (State.memberArrives src asid c key hb) s).mem = s.mem ∧
    (∀ p ∈ (s.core c).hpending, p ∈ ((is.foldl (State.memberArrives src asid c key hb) s).core c).hpending) ∧
    ∀ i ∈ is, s.memberCore key i = c →
      ∃ p ∈ ((is.foldl (State.memberArrives src asid c key hb) s).core c).hpending, p.h = hb ∧ p.change = .arrive := by
  induction is generalizing s with
  | nil => exact ⟨rfl, fun p h => h, fun i hi => absurd hi (List.not_mem_nil)⟩
  | cons j js ih =>
    obtain ⟨hm, hkeep, hadd⟩ := memberArrives_leaves src asid c key hb s j
    obtain ⟨ihm, ihkeep, ihadd⟩ := ih (s.memberArrives src asid c key hb j)
    refine ⟨ihm.trans hm, fun p h => ihkeep p (hkeep p h), fun i hi hc => ?_⟩
    rcases List.mem_cons.mp hi with rfl | hi
    · obtain ⟨p, hp, hh⟩ := hadd hc
      exact ⟨p, ihkeep p hp, hh⟩
    · exact ihadd i hi ((memberCore_congr key hm i).trans hc)

end

section
variable {s : State} {src : Asker} {w : Word} {asid : Nat}

theorem barrier_frozen (hc : src.core = coreNamed w) (hk : Keeps s (coreNamed w) asid) (hf : (s.core (coreNamed w)).frozen = true) :
    Occurs .barrierArrival s (.barrierArrival src w asid) (s.after busyTime (.barrierArrival src w asid)) := by
  refine occurs_of exec_barrierArrival ?_
  simp only [hc, gateFrom_own false hk]
  exact if_pos hf

/-- An arrival before the last one (R204). -/
theorem barrier_counts (hc : src.core = coreNamed w) (hk : Keeps s (coreNamed w) asid) (hf : (s.core (coreNamed w)).frozen = false)
    (hr : s.readCause (coreNamed w) (offsetOf w) 64 = none)
    (hn : (s.value (tileKey (coreNamed w) (offsetOf w) + 24) 2).toNat + 1 < (s.value (tileKey (coreNamed w) (offsetOf w)) 2).toNat) :
    Occurs .barrierArrival s (.barrierArrival src w asid)
      (s.writeTcb (coreNamed w) (offsetOf w) 24 (natLe 2 ((s.value (tileKey (coreNamed w) (offsetOf w) + 24) 2).toNat + 1))) := by
  refine occurs_of exec_barrierArrival ?_
  simp only [hc, gateFrom_own false hk, hr]
  rw [if_neg (by simp [hf]), if_neg (by simp), if_neg fun h => Nat.not_le.mpr hn h.1, if_pos hn]

/-- The last arrival (R204). -/
theorem barrier_last (hc : src.core = coreNamed w) (hk : Keeps s (coreNamed w) asid) (hf : (s.core (coreNamed w)).frozen = false)
    (hr : s.readCause (coreNamed w) (offsetOf w) 64 = none)
    (hn : (s.value (tileKey (coreNamed w) (offsetOf w)) 2).toNat ≤ (s.value (tileKey (coreNamed w) (offsetOf w) + 24) 2).toNat + 1)
    (hp : s.anyPoison (tileKey (coreNamed w) (offsetOf w) + 64) (48 * (s.value (tileKey (coreNamed w) (offsetOf w)) 2).toNat) = false) :
    Occurs .barrierArrival s (.barrierArrival src w asid) ((List.range (s.value (tileKey (coreNamed w) (offsetOf w)) 2).toNat).foldl
      (State.memberArrives src asid (coreNamed w) (tileKey (coreNamed w) (offsetOf w)) ((s.value (tileKey (coreNamed w) (offsetOf w) + 2) 1).toNat % 64))
      (s.writeTcb (coreNamed w) (offsetOf w) 24 (natLe 2 0))) := by
  refine occurs_of exec_barrierArrival ?_
  simp only [hc, gateFrom_own false hk, hr]
  rw [if_neg (by simp [hf]), if_neg (by simp), if_neg (by simp [hp]), if_neg (Nat.not_lt.mpr hn)]
  rfl

end

/-! ## The statements -/

theorem claim_spawnsAndMessages : Claim.SpawnsAndMessages := by
  intro s c k
  refine ⟨fun m h => spawn_early h, ?_, ?_, fun n => ?_, ?_, fun m rest h => ?_, fun h => ?_, fun m n h => ?_⟩
  · intro m x a rest hnow hmc hms hxc hxs hlt hag ha
    exact spawn_behind hnow (spawnAhead_head hag (hxc.trans hmc.symm) (hxs.trans hms.symm) hlt ha)
  · intro m hnow hmc hms hk hfirst
    subst hmc
    have htaken := spawn_taken hnow hms hk (spawnAhead_none hms hfirst)
    refine ⟨fun hf => ?_, fun hf hh n ho hb hl => ?_, fun hf hh hn hlt => ?_, fun hf hh hn hle => ?_, fun hf hh ho hb => ?_⟩
    · rwa [spawned_frozen hf] at htaken
    · rw [spawned_starts hf hh ho hb hl] at htaken
      obtain ⟨hbegan, -⟩ := began_enterSlot s n m
      rw [hh, Bool.or_false] at hbegan
      exact happens_of_occurs htaken ⟨fun b => congrArg (memByte · b) (enterSlot_mem ..), hbegan, now_after _ _ _ (enterSlot_now ..)⟩
    · rw [spawned_waits hf hh hn, if_neg (Nat.not_le.mpr hlt)] at htaken
      have hcore : ((s.modCore m.core (Core.queueSpawn m)).after 0 (.acknowledgement m.src)).core m.core = (s.core m.core).queueSpawn m :=
        State.core_modCore_same ..
      exact happens_of_occurs htaken ⟨fun b => rfl, by rw [hcore]; rfl, now_after _ _ _ rfl, by rw [hcore]; rfl⟩
    · rwa [spawned_waits hf hh hn, if_pos hle] at htaken
    · rw [spawned_handler hf hh ho hb] at htaken
      obtain ⟨hbegan, htraph⟩ := began_enterSlot s 14 m
      rw [hh, Bool.or_true] at hbegan
      exact happens_of_occurs htaken ⟨fun b => congrArg (memByte · b) (enterSlot_mem ..), hbegan, htraph.trans hh, now_after _ _ _ (enterSlot_now ..)⟩
  · refine happens_of exec_throttleExpiry rfl ⟨fun a => rfl, ?_, fun h => ?_, fun i hi => ?_⟩
    · rw [slot_throttleExpiry, if_pos rfl, Slot.kick_throttled]
    · rw [slot_throttleExpiry, if_pos rfl]
      exact Slot.kick_of_not_held h
    · rw [slot_throttleExpiry, if_neg hi]
      rfl
  · intro m hmc hms hk
    subst hmc
    refine ⟨fun hf hlt => ?_, fun h => ?_⟩
    · have htaken := message_taken hms hk
      rwa [if_neg (by simp [show (s.core m.core).frozen = false from hf, show (s.core m.core).service.length < 64 from hlt])] at htaken
    · have htaken := message_taken hms hk
      rwa [if_pos (by simpa using h)] at htaken
  · have hcore : (s.handlerStarted c m rest).core c = { k with service := rest, handler := some (m, 0), slots := k.slots.put 15 { handlerSlot m with
        orders := (k.slot 15).orders } } := State.core_modCore_same ..
    have hslot := handlerStarted_slot s c 15 m rest
    rw [if_pos rfl] at hslot
    refine happens_of_occurs (handler_starts h) ⟨fun a => rfl, by rw [hcore], by rw [hcore], by rw [hslot]; rfl, by rw [hslot]; rfl, by rw [hslot]; rfl,
      by rw [hslot]; rfl, by rw [hslot]; rfl, fun i hi => ?_, fun i hi => ?_⟩
    · rw [hslot]
      exact handlerSlot_arg m i hi
    · rw [handlerStarted_slot, if_neg (by omega)]
      rfl
  · exact occurs_of exec_serviceHandlerLimit (congrArg (fun u : State => some { u with cur := s.cur }) (abandon_idle (by exact h)))
  · obtain ⟨hmem, hhandler, hslot, hrec⟩ := abandon_leaves (s := { s with cur := ⟨c, 15, (s.slot c 15).pc, 0⟩ }) h
    exact happens_of exec_serviceHandlerLimit rfl ⟨fun a => congrArg (memByte · a) hmem, hhandler, hslot, hrec⟩

theorem claim_imagesAndArrivals : Claim.ImagesAndArrivals := by
  intro s
  refine ⟨fun m => ⟨fun h => image_malformed h, fun h hg => image_refused h hg, fun h hg hf => ?_, fun h hg hf ho => ?_, fun n h hg hf ho => ?_⟩,
    fun m => ⟨resend_departing, resend_settled⟩, ?_⟩
  · have e := image_passed h hg
    rwa [imagePlaced_frozen hf] at e
  · have e := image_passed h hg
    rwa [imagePlaced_full hf ho] at e
  · obtain ⟨hmem, hb, b, o, hslot⟩ := imagePlaced_enters hf ho
    refine happens_of_occurs (image_passed h hg) ⟨fun a => congrArg (memByte · a) hmem, ?_⟩
    rw [hslot]
    exact ⟨rfl, rfl, rfl, rfl, rfl, rfl, rfl, rfl, rfl⟩
  · intro src w asid c key count n hc hk
    have hcount : (s.value key 2).toNat = count := value_toNat s (by decide)
    have harrived : (s.value (key + 24) 2).toNat + 1 = n := congrArg (· + 1) (value_toNat s (by decide))
    refine ⟨fun hf => barrier_frozen hc hk hf, fun hf hr hcalm => ?_⟩
    obtain ⟨hok, -⟩ := id hcalm
    have hwrite (v : Nat) : s.writeTcb c (offsetOf w) 24 (natLe 2 v) = s.writeAt (key + 24) (natLe 2 v) := by
      rw [writeTcb_calm hcalm, tileKey_add]
    refine ⟨fun hn => ?_, fun hn hp => ?_⟩
    · have e := barrier_counts hc hk hf hr (by rwa [hcount, harrived])
      rw [harrived, hwrite] at e
      obtain ⟨hm, hcores⟩ := writeAt_leaves s (key + 24) (natLe 2 n)
      obtain ⟨d, hd⟩ := hcores c
      have hlt : count < 65536 := by
        have := leNat_lt (s.bytes key 2)
        rwa [bytes_length] at this
      refine happens_of_occurs e ⟨sameBut_of_mem hok rfl hm, ?_, by rw [hd]⟩
      rw [bytes_of_mem (n := 2) hok rfl hm, leNat_natLe_two, Nat.mod_eq_of_lt (hn.trans hlt)]
    · have e := barrier_last hc hk hf hr (by rwa [hcount, harrived]) (by rwa [hcount])
      rw [hcount, hwrite] at e
      obtain ⟨hm, -⟩ := writeAt_leaves s (key + 24) (natLe 2 0)
      obtain ⟨hall, -, hadd⟩ := membersArrive src asid c key ((s.value (key + 2) 1).toNat % 64) (List.range count) (s.writeAt (key + 24) (natLe 2 0))
      refine happens_of_occurs e ⟨sameBut_of_mem hok rfl (hall.trans hm), ?_, ?_⟩
      · rw [bytes_of_mem (n := 2) hok rfl (hall.trans hm)]
        rfl
      · intro i hi r hr
        have hentry : (s.writeAt (key + 24) (natLe 2 0)).bytes (key + 64 + 48 * i) 4 = s.bytes (key + 64 + 48 * i) 4 := by
          rw [State.bytes, hm]
          exact memRead_congr fun b h1 _ => memByte_memWrite_other _ _ _ hok (.inr (le_of_entry h1))
        have hmember : (s.writeAt (key + 24) (natLe 2 0)).memberCore key i = c := by
          rw [State.memberCore, value_toNat _ (by decide), hentry]
          exact hr
        obtain ⟨p, hp, hh, ha⟩ := hadd i (List.mem_range.mpr hi) hmember
        exact ⟨p, hp, hh.trans (congrArg (· % 64) (value_toNat s (by decide))), ha⟩

/-- Settles O49, each event by what its core finds: the slots and queues, the gate of the ASID, and the gang record's count. -/
theorem spawnsMessagesAndMigration : Obligations.SpawnsMessagesAndMigration := ⟨claim_spawnsAndMessages, claim_imagesAndArrivals⟩

end Sys2Proof.Machine
end

section
/-!
PROOFS. Rounding into a format (spec/03 R57, R58): the numbers that a format holds, and where a number that lies between two of them goes. A
significand with a sticky bit below it stands for the exact number of a quotient or a root.
-/

open Sys2Proof Sys2Proof.Machine Sys2Proof.Claim

namespace Sys2Proof.Machine

/-! ## The numbers of a format, in units of its smallest subnormal -/

/-- The number of the k-th code from zero up, in units of the smallest subnormal, without an end above (R47). -/
def Fmt.grid (f : Fmt) (k : Nat) : Nat := if k < 2 ^ f.mb then k else (2 ^ f.mb + k % 2 ^ f.mb) * 2 ^ (k / 2 ^ f.mb - 1)

/-- The exponent of the smallest subnormal. -/
def Fmt.least (f : Fmt) : Int := f.emin - f.mb

theorem units_eq (f : Fmt) (c : Nat) : units f c = f.grid (magnitude f c) := rfl

theorem units_eq_grid {f : Fmt} {k : Nat} (h : k < 2 ^ (f.eb + f.mb)) : units f k = f.grid k := by
  rw [units_eq, magnitude, Nat.mod_eq_of_lt h]

/-- The n-th multiple of the spacing 2^t, up to the end of its binade, is the number of a code. -/
theorem Fmt.grid_place (f : Fmt) {t n : Nat} (hn : n ≤ 2 ^ (f.mb + 1)) (ht : t = 0 ∨ 2 ^ f.mb ≤ n) : f.grid (t * 2 ^ f.mb + n) = n * 2 ^ t := by
  have hp := Nat.two_pow_pos f.mb
  rw [Nat.pow_succ] at hn
  by_cases hs : n < 2 ^ f.mb
  · obtain rfl : t = 0 := ht.resolve_right (by omega)
    simp [Fmt.grid, hs]
  by_cases he : n = 2 * 2 ^ f.mb
  · have h1 : t * 2 ^ f.mb + n = (t + 2) * 2 ^ f.mb := by rw [he]; ring
    have h2 : ¬ (t + 2) * 2 ^ f.mb < 2 ^ f.mb := by nlinarith
    rw [Fmt.grid, h1, if_neg h2, Nat.mul_mod_left, Nat.mul_div_cancel _ hp, he, show t + 2 - 1 = t + 1 by omega]
    ring
  · obtain ⟨r, rfl⟩ := Nat.exists_eq_add_of_le (Nat.le_of_not_lt hs)
    have hr : r < 2 ^ f.mb := by omega
    have h1 : t * 2 ^ f.mb + (2 ^ f.mb + r) = r + (t + 1) * 2 ^ f.mb := by ring
    have h2 : ¬ r + (t + 1) * 2 ^ f.mb < 2 ^ f.mb := by nlinarith
    rw [Fmt.grid, h1, if_neg h2, Nat.add_mul_mod_self_right, Nat.mod_eq_of_lt hr, Nat.add_mul_div_right _ _ hp, Nat.div_eq_of_lt hr,
      show 0 + (t + 1) - 1 = t by omega]

/-- Every code has its place in a binade. -/
theorem Fmt.exists_place (f : Fmt) (k : Nat) :
    ∃ t n, k = t * 2 ^ f.mb + n ∧ n < 2 ^ (f.mb + 1) ∧ (t = 0 ∨ 2 ^ f.mb ≤ n) := by
  have hp := Nat.two_pow_pos f.mb
  by_cases hk : k < 2 ^ f.mb
  · exact ⟨0, k, by omega, by rw [Nat.pow_succ]; omega, .inl rfl⟩
  · have hq : 1 ≤ k / 2 ^ f.mb := (Nat.one_le_div_iff hp).2 (by omega)
    obtain ⟨t, ht⟩ := Nat.exists_eq_add_of_le hq
    have hr := Nat.mod_lt k hp
    refine ⟨t, 2 ^ f.mb + k % 2 ^ f.mb, ?_, by rw [Nat.pow_succ]; omega, .inr (by omega)⟩
    have := Nat.div_add_mod' k (2 ^ f.mb)
    rw [ht] at this
    linarith

theorem Fmt.grid_strictMono (f : Fmt) : StrictMono f.grid := by
  refine strictMono_nat_of_lt_succ fun k => ?_
  obtain ⟨t, n, rfl, hn, ht⟩ := f.exists_place k
  rw [f.grid_place hn.le ht, Nat.add_assoc, f.grid_place hn (ht.imp_right Nat.le_succ_of_le)]
  exact Nat.mul_lt_mul_of_pos_right n.lt_succ_self (Nat.two_pow_pos t)

@[simp] theorem Fmt.grid_zero (f : Fmt) : f.grid 0 = 0 := by simp [Fmt.grid]

/-! ## What rounding does with the number that it is given -/

/-- m × 2^e stands for x units: it is that number, or it is odd with at least two bits more than the format keeps, and x lies strictly between
its even neighbours. -/
def StandsFor (f : Fmt) (m : Nat) (e : Int) (x : ℝ) : Prop :=
  x = m * 2 ^ (e - f.least) ∨ m % 2 = 1 ∧ 2 ^ (f.mb + 2) ≤ m ∧ (m - 1) * 2 ^ (e - f.least) < x ∧ x < (m + 1) * 2 ^ (e - f.least)

/-- Whether a number x from lo up to hi, the next number of the format, becomes hi (R57). -/
def Rises (rnd : Rnd) (neg odd : Bool) (lo hi x : ℝ) : Prop :=
  match rnd with
  | .rne => lo + hi < 2 * x ∨ 2 * x = lo + hi ∧ odd = true
  | .rz => False
  | .ru => x ≠ lo ∧ neg = false
  | .rd => x ≠ lo ∧ neg = true

/-- The largest multiple of 2^sh below m, in units of 2^sh. -/
def floorAt (m : Nat) (sh : Int) : Nat := if sh ≤ 0 then m * 2 ^ (-sh).toNat else m / 2 ^ sh.toNat

theorem floorAt_lt {m k : Nat} {sh : Int} (h : (Nat.log2 m : Int) - k ≤ sh) : floorAt m sh < 2 ^ (k + 1) := by
  have hm := Nat.lt_log2_self (n := m)
  unfold floorAt
  split
  next hs =>
    have : Nat.log2 m + 1 + (-sh).toNat ≤ k + 1 := by omega
    calc m * 2 ^ (-sh).toNat < 2 ^ (Nat.log2 m + 1) * 2 ^ (-sh).toNat := Nat.mul_lt_mul_of_pos_right hm (Nat.two_pow_pos _)
      _ = 2 ^ (Nat.log2 m + 1 + (-sh).toNat) := (Nat.pow_add ..).symm
      _ ≤ 2 ^ (k + 1) := Nat.pow_le_pow_right (by decide) this
  next hs =>
    have : Nat.log2 m + 1 ≤ k + 1 + sh.toNat := by omega
    rw [Nat.div_lt_iff_lt_mul (Nat.two_pow_pos _), ← Nat.pow_add]
    exact hm.trans_le (Nat.pow_le_pow_right (by decide) this)

theorem le_floorAt {m k : Nat} {sh : Int} (hm : m ≠ 0) (h : sh = (Nat.log2 m : Int) - k) : 2 ^ k ≤ floorAt m sh := by
  have hl := Nat.log2_self_le hm
  unfold floorAt
  split
  next hs =>
    rw [show k = Nat.log2 m + (-sh).toNat by omega, Nat.pow_add]
    exact Nat.mul_le_mul_right _ hl
  next hs =>
    rw [Nat.le_div_iff_mul_le (Nat.two_pow_pos _), ← Nat.pow_add, show k + sh.toNat = Nat.log2 m by omega]
    exact hl

/-- Against the even multiples of its last bit, and against all of them where it is exact, a stand-in compares as its number does. -/
theorem StandsFor.compares {f : Fmt} {m : Nat} {e : Int} {x : ℝ} (h : StandsFor f m e x) {k : Nat}
    (hk : k % 2 = 0 ∨ m < 2 ^ (f.mb + 2)) :
    ((k : ℝ) * 2 ^ (e - f.least) < x ↔ k < m) ∧ (x < k * 2 ^ (e - f.least) ↔ m < k) := by
  have hp : (0 : ℝ) < 2 ^ (e - f.least) := zpow_pos two_pos _
  rcases h with rfl | ⟨hodd, hbig, hlo, hhi⟩
  · simp only [mul_lt_mul_iff_left₀ hp, Nat.cast_lt, and_self]
  · have hk : k % 2 = 0 := hk.resolve_right (by omega)
    rcases Nat.lt_or_gt_of_ne (show k ≠ m by omega) with hlt | hgt
    · have : (k : ℝ) ≤ m - 1 := by
        have : k + 1 ≤ m := hlt
        have : ((k + 1 : Nat) : ℝ) ≤ m := Nat.cast_le.2 this
        push_cast at this; linarith
      have := (mul_le_mul_of_nonneg_right this hp.le).trans_lt hlo
      exact ⟨iff_of_true this hlt, iff_of_false this.not_gt hlt.not_gt⟩
    · have : (m : ℝ) + 1 ≤ k := by exact_mod_cast hgt
      have := hhi.trans_le (mul_le_mul_of_nonneg_right this hp.le)
      exact ⟨iff_of_false this.not_gt hgt.not_gt, iff_of_true this hgt⟩

/-- Where bits are cut off, the rest against half a step tells whether the number takes the next multiple (R57). -/
theorem roundMag_rises {rnd : Rnd} {neg : Bool} {m j : Nat} {lo hi x : ℝ} (hne : x ≠ lo ↔ m % 2 ^ (j + 1) ≠ 0)
    (habove : lo + hi < 2 * x ↔ 2 ^ j < m % 2 ^ (j + 1)) (htie : 2 * x = lo + hi ↔ m % 2 ^ (j + 1) = 2 ^ j) :
    ∃ up inexact : Bool, roundMag rnd neg m (j + 1) = (m / 2 ^ (j + 1) + b2n up, inexact) ∧ (inexact = true ↔ x ≠ lo) ∧
      (up = true ↔ Rises rnd neg (m / 2 ^ (j + 1) % 2 == 1) lo hi x) := by
  have hs : ¬ (j : Int) + 1 ≤ 0 := by omega
  have hto : ((j : Int) + 1).toNat = j + 1 := by omega
  have hd : 2 ^ (j + 1) = 2 * 2 ^ j := by rw [Nat.pow_succ, Nat.mul_comm]
  have hhalf : 2 ^ (j + 1) < 2 * (m % 2 ^ (j + 1)) ↔ 2 ^ j < m % 2 ^ (j + 1) := by omega
  have heq : 2 * (m % 2 ^ (j + 1)) = 2 ^ (j + 1) ↔ m % 2 ^ (j + 1) = 2 ^ j := by omega
  simp only [roundMag, if_neg hs, hto]
  refine ⟨_, _, rfl, by simp [hne], ?_⟩
  cases rnd
  case rne => simp only [Rises, habove, htie, Bool.or_eq_true, decide_eq_true_eq, Bool.and_eq_true, beq_iff_eq, hhalf, heq]
  case rz => simp [Rises]
  case ru => simp [Rises, hne]
  case rd => simp [Rises, hne]

/-- Rounding m at the shift sh takes the multiple lo of the step below x, or the next multiple hi where x rises to it (R57, R58). -/
def StepsTo (f : Fmt) (rnd : Rnd) (neg : Bool) (m : Nat) (e sh : Int) (x : ℝ) : Prop :=
  let lo : ℝ := floorAt m sh * 2 ^ (sh + e - f.least)
  let hi : ℝ := (floorAt m sh + 1) * 2 ^ (sh + e - f.least)
  lo ≤ x ∧ x < hi ∧ ∃ up inexact : Bool, roundMag rnd neg m sh = (floorAt m sh + b2n up, inexact) ∧ (inexact = true ↔ x ≠ lo) ∧
    (up = true ↔ Rises rnd neg (floorAt m sh % 2 == 1) lo hi x)

/-- The half steps around m: that below it, the middle above that, and the next step. -/
theorem halfSteps (m j : Nat) : 2 * (m / 2 ^ (j + 1)) * 2 ^ j = m - m % 2 ^ (j + 1) ∧
    (2 * (m / 2 ^ (j + 1)) + 1) * 2 ^ j = m - m % 2 ^ (j + 1) + 2 ^ j ∧ (2 * (m / 2 ^ (j + 1)) + 2) * 2 ^ j = m - m % 2 ^ (j + 1) + 2 ^ (j + 1) := by
  have hd : 2 ^ (j + 1) = 2 * 2 ^ j := by rw [Nat.pow_succ, Nat.mul_comm]
  have h0 : 2 * (m / 2 ^ (j + 1)) * 2 ^ j = m - m % 2 ^ (j + 1) := by rw [Nat.mul_right_comm, ← hd, ← Nat.mul_div_self_eq_mod_sub_self]
  refine ⟨h0, ?_, ?_⟩
  · rw [Nat.add_mul, h0, Nat.one_mul]
  · rw [Nat.add_mul, h0, hd]

section
variable {f : Fmt} (rnd : Rnd) (neg : Bool) {m : Nat} {e sh : Int} {x : ℝ} (h : StandsFor f m e x) (hsh : (Nat.log2 m : Int) - f.mb ≤ sh) (hm : m ≠ 0)
include h hsh hm

/-- Where nothing is cut off, the number is exact. -/
theorem stepsTo_of_nonpos (hs : sh ≤ 0) : StepsTo f rnd neg m e sh x := by
  unfold StepsTo
  intro lo hi
  have hx : x = m * 2 ^ (e - f.least) := h.resolve_right fun ⟨_, hbig, _⟩ => by
    have := (Nat.le_log2 hm).2 hbig
    omega
  have hlo : lo = x := by
    simp only [lo, floorAt, if_pos hs, hx, Nat.cast_mul, mul_assoc, Nat.cast_pow, Nat.cast_ofNat]
    rw [← zpow_natCast, ← zpow_add₀ two_ne_zero]
    congr 2; omega
  have hlt : x < hi := by
    rw [← hlo]; exact mul_lt_mul_of_pos_right (lt_add_one _) (zpow_pos two_pos _)
  refine ⟨hlo.le, hlt, false, false, by simp [roundMag, floorAt, hs, b2n], by simp [hlo], ?_⟩
  simp only [Bool.false_eq_true, false_iff, hlo]
  rintro hr
  cases rnd <;> simp only [Rises, ne_eq, not_true_eq_false, false_and] at hr
  rcases hr with hr | ⟨hr, -⟩ <;> linarith

/-- Where bits are cut off, half a step is a whole number of last bits, so that comparisons with multiples of it are exact. -/
theorem stepsTo_of_pos (hs : ¬ sh ≤ 0) : StepsTo f rnd neg m e sh x := by
  unfold StepsTo
  intro lo hi
  obtain ⟨j, rfl⟩ : ∃ j : Nat, sh = j + 1 := ⟨(sh - 1).toNat, by omega⟩
  have hcmp (i : Nat) := h.compares (k := i * 2 ^ j) <| by
    by_cases hj : j = 0
    · refine .inr ((Nat.log2_lt hm).1 ?_); omega
    · obtain ⟨i', rfl⟩ := Nat.exists_eq_succ_of_ne_zero hj
      exact .inl (by rw [Nat.pow_succ, ← Nat.mul_assoc, Nat.mul_mod_left])
  have hn : floorAt m (j + 1) = m / 2 ^ (j + 1) := if_neg hs
  have hto : (2 : ℝ) ^ ((j : Int) + 1 + e - f.least) = 2 * 2 ^ j * 2 ^ (e - f.least) := by
    rw [← zpow_natCast, ← zpow_one_add₀ two_ne_zero, ← zpow_add₀ two_ne_zero]; congr 1; ring
  have hlo : lo = (2 * (m / 2 ^ (j + 1)) * 2 ^ j : Nat) * 2 ^ (e - f.least) := by simp only [lo, hto, hn]; push_cast; ring
  have hhi : hi = ((2 * (m / 2 ^ (j + 1)) + 2) * 2 ^ j : Nat) * 2 ^ (e - f.least) := by simp only [hi, hto, hn]; push_cast; ring
  have hmid : lo + hi = 2 * (((2 * (m / 2 ^ (j + 1)) + 1) * 2 ^ j : Nat) * 2 ^ (e - f.least)) := by
    simp only [lo, hi, hto, hn]; push_cast; ring
  have hr := Nat.mod_lt m (Nat.two_pow_pos (j + 1))
  obtain ⟨e0, e1, e2⟩ := halfSteps m j
  have hle := Nat.mod_le m (2 ^ (j + 1))
  have clo := hcmp (2 * (m / 2 ^ (j + 1)))
  have cmid := hcmp (2 * (m / 2 ^ (j + 1)) + 1)
  have chi := hcmp (2 * (m / 2 ^ (j + 1)) + 2)
  rw [← hlo, e0] at clo
  rw [← hhi, e2] at chi
  rw [e1] at cmid hmid
  refine ⟨not_lt.1 fun hlt => by have := clo.2.1 hlt; omega, chi.2.2 (by omega), ?_⟩
  rw [hn]
  refine roundMag_rises ?_ ?_ ?_
  · rw [ne_comm, ne_iff_lt_or_gt, clo.1, clo.2]; omega
  · rw [hmid, mul_lt_mul_iff_right₀ two_pos, cmid.1]; omega
  · rw [hmid, mul_right_inj' two_ne_zero, le_antisymm_iff, ← not_lt, ← not_lt, cmid.1, cmid.2]; omega

/-- Rounding at a shift that keeps the format's bits. -/
theorem roundMag_stepsTo : StepsTo f rnd neg m e sh x :=
  (em (sh ≤ 0)).elim (stepsTo_of_nonpos rnd neg h hsh hm) (stepsTo_of_pos rnd neg h hsh hm)

end

/-! ## Rounding into a format -/

/-- What steps 5 to 7 of R58 make of a rounded code. -/
def Fmt.finish (f : Fmt) (v : FEnv) (neg : Bool) (k : Nat) (inexact : Bool) : Nat × Sticky :=
  if f.maxCode < k then (f.overflow v neg, { fo := true, fx := true })
  else if f.flushes && v.flush && decide (k < 2 ^ f.mb) && k != 0 then (f.signed neg 0, { fx := true })
  else (f.signed neg k, { fx := inexact })

/-- Rounding x units takes the code k below x or the next one, as the mode says, and is inexact unless x is the number of k (R57, R58). -/
def Lands (f : Fmt) (v : FEnv) (neg : Bool) (x : ℝ) (k : Nat) (r : Nat × Sticky) : Prop :=
  ∃ up inexact : Bool, r = f.finish v neg (k + b2n up) inexact ∧ (inexact = true ↔ x ≠ f.grid k) ∧
    (up = true ↔ Rises v.rnd neg (k % 2 == 1) (f.grid k) (f.grid (k + 1)) x)

theorem round_lands_somewhere {f : Fmt} (hmb : 1 ≤ f.mb) {m : Nat} {e : Int} {x : ℝ} (h : StandsFor f m e x) (v : FEnv) (neg : Bool) :
    ∃ k, (f.grid k : ℝ) ≤ x ∧ x < f.grid (k + 1) ∧ Lands f v neg x k (f.round v neg m e) := by
  by_cases hm : m = 0
  · subst hm
    have hx : x = 0 := by simpa [StandsFor] using h
    have h1 := f.grid_strictMono Nat.zero_lt_one
    rw [f.grid_zero] at h1
    refine ⟨0, by simp [hx], by simpa [hx] using h1, false, false, by simp [Fmt.round, Fmt.finish, b2n], by simp [hx], ?_⟩
    cases v with | mk rnd sat flush => cases rnd <;> simp [Rises, hx]
  · generalize htop : max ((Nat.log2 m : Int) + e) f.emin = top
    obtain ⟨t, ht⟩ : ∃ t : Nat, top - f.emin = t := ⟨(top - f.emin).toNat, by omega⟩
    obtain ⟨hlo, hhi, up, inexact, hr, hin, hup⟩ := roundMag_stepsTo v.rnd neg h (sh := top - f.mb - e) (by omega) hm
    have hn := floorAt_lt (m := m) (k := f.mb) (sh := top - f.mb - e) (by omega)
    have hplace : t = 0 ∨ 2 ^ f.mb ≤ floorAt m (top - f.mb - e) :=
      (Nat.eq_zero_or_pos t).imp_right fun _ => le_floorAt hm (by omega)
    generalize floorAt m (top - f.mb - e) = n at *
    have hexp : top - f.mb - e + e - f.least = t := by simp only [Fmt.least]; omega
    have hg : (f.grid (t * 2 ^ f.mb + n) : ℝ) = n * 2 ^ (top - f.mb - e + e - f.least) := by
      rw [f.grid_place hn.le hplace, hexp]; simp
    have hg1 : (f.grid (t * 2 ^ f.mb + n + 1) : ℝ) = (n + 1) * 2 ^ (top - f.mb - e + e - f.least) := by
      rw [Nat.add_assoc, f.grid_place hn (hplace.imp_right Nat.le_succ_of_le), hexp]; simp
    have hodd : (t * 2 ^ f.mb + n) % 2 = n % 2 := by
      obtain ⟨b, hb⟩ := Nat.exists_eq_add_of_le' hmb
      rw [hb, Nat.pow_succ, ← Nat.mul_assoc]; omega
    refine ⟨t * 2 ^ f.mb + n, hg ▸ hlo, hg1 ▸ hhi, up, inexact, ?_, hg ▸ hin, by rw [hg, hg1, hodd]; exact hup⟩
    simp only [Fmt.round, if_neg hm, htop, hr, ht, Int.toNat_natCast, Fmt.finish, Nat.add_assoc]

/-- A number lies between one pair of neighbours only. -/
theorem Fmt.grid_unique {f : Fmt} {j k : Nat} {x : ℝ} (h1 : (f.grid j : ℝ) ≤ x) (h2 : x < f.grid (j + 1)) (h3 : (f.grid k : ℝ) ≤ x)
    (h4 : x < f.grid (k + 1)) : j = k := by
  have hjk : f.grid j < f.grid (k + 1) := by exact_mod_cast h1.trans_lt h4
  have hkj : f.grid k < f.grid (j + 1) := by exact_mod_cast h3.trans_lt h2
  have := f.grid_strictMono.lt_iff_lt.1 hjk
  have := f.grid_strictMono.lt_iff_lt.1 hkj
  omega

theorem round_lands {f : Fmt} (hmb : 1 ≤ f.mb) {m : Nat} {e : Int} {x : ℝ} (h : StandsFor f m e x) (v : FEnv) (neg : Bool) {k : Nat}
    (hlo : (f.grid k : ℝ) ≤ x) (hhi : x < f.grid (k + 1)) : Lands f v neg x k (f.round v neg m e) := by
  obtain ⟨j, h1, h2, hl⟩ := round_lands_somewhere hmb h v neg
  rwa [Fmt.grid_unique h1 h2 hlo hhi] at hl

/-- What a number lands on depends on the number only. -/
theorem Lands.unique {f : Fmt} {v : FEnv} {neg : Bool} {x : ℝ} {k : Nat} {r r' : Nat × Sticky} (h : Lands f v neg x k r)
    (h' : Lands f v neg x k r') : r = r' := by
  obtain ⟨up, inexact, rfl, hin, hup⟩ := h
  obtain ⟨up', inexact', rfl, hin', hup'⟩ := h'
  rw [Bool.eq_iff_iff.2 (hin.trans hin'.symm), Bool.eq_iff_iff.2 (hup.trans hup'.symm)]

/-- Two stand-ins for one number round alike. -/
theorem round_congr {f : Fmt} (hmb : 1 ≤ f.mb) {m m' : Nat} {e e' : Int} {x : ℝ} (h : StandsFor f m e x)
    (h' : StandsFor f m' e' x) (v : FEnv) (neg : Bool) :
    f.round v neg m e = f.round v neg m' e' := by
  obtain ⟨k, h1, h2, hl⟩ := round_lands_somewhere hmb h v neg
  exact hl.unique (round_lands hmb h' v neg h1 h2)

/-- The number of a code rounds to that code (R58). -/
theorem round_exact {f : Fmt} (hmb : 1 ≤ f.mb) {m : Nat} {e : Int} {k : Nat} (h : StandsFor f m e (f.grid k)) (v : FEnv) (neg : Bool) :
    f.round v neg m e = f.finish v neg k false := by
  have hlt : (f.grid k : ℝ) < f.grid (k + 1) := Nat.cast_lt.2 (f.grid_strictMono k.lt_succ_self)
  obtain ⟨up, inexact, hr, hin, hup⟩ := round_lands hmb h v neg le_rfl hlt
  have hup : up = false := by
    rw [← Bool.not_eq_true, hup]
    cases v with | mk rnd sat flush =>
    cases rnd <;> simp only [Rises, ne_eq, not_true_eq_false, false_and, not_false_eq_true]
    rintro (hx | ⟨hx, -⟩) <;> linarith
  have hin : inexact = false := by rw [← Bool.not_eq_true, hin]; simp
  rw [hr, hup, hin]; rfl

/-- A number between two codes rounds to one of them: down or up as directed, or as the middle between them says (R57, R58). -/
theorem round_between {f : Fmt} (hmb : 1 ≤ f.mb) {m : Nat} {e : Int} {k : Nat} {x : ℝ} (h : StandsFor f m e x) (v : FEnv) (neg : Bool)
    (hlo : (f.grid k : ℝ) < x) (hhi : x < f.grid (k + 1)) :
    ∃ up : Bool, f.round v neg m e = f.finish v neg (k + b2n up) true ∧
      (up = true ↔ Rises v.rnd neg (k % 2 == 1) (f.grid k) (f.grid (k + 1)) x) := by
  obtain ⟨up, inexact, hr, hin, hup⟩ := round_lands hmb h v neg hlo.le hhi
  exact ⟨up, by rw [hr, hin.2 hlo.ne'], hup⟩

end Sys2Proof.Machine
end

section
/-!
PROOFS. The number that a code stands for (spec/03 R47, R48), and that rounding keeps it (R57, R58).
-/

open Sys2Proof Sys2Proof.Machine Sys2Proof.Claim

namespace Sys2Proof.Machine

/-! ## What a code stands for (R47) -/

theorem bitAt_eq_testBit (v i : Nat) : bitAt v i = v.testBit i := by
  rw [bitAt, Nat.testBit_eq_decide_div_mod_eq]; rfl

theorem bitsOf_exponent (f : Fmt) (c : Nat) : bitsOf c f.mb f.eb = magnitude f c / 2 ^ f.mb := by
  rw [bitsOf, magnitude, Nat.add_comm, Nat.pow_add, Nat.mod_mul_right_div_self]

theorem bitsOf_mantissa (f : Fmt) (c : Nat) : bitsOf c 0 f.mb = magnitude f c % 2 ^ f.mb := by
  rw [bitsOf, magnitude, Nat.add_comm, Nat.pow_add, Nat.mod_mul_right_mod, pow_zero, Nat.div_one]

theorem magnitude_lt (f : Fmt) (c : Nat) : magnitude f c < 2 ^ (f.eb + f.mb) := Nat.mod_lt _ (Nat.two_pow_pos _)

theorem magnitude_of_lt {f : Fmt} {k : Nat} (h : k < 2 ^ (f.eb + f.mb)) : magnitude f k = k := Nat.mod_eq_of_lt h

theorem minus_of_lt {f : Fmt} {k : Nat} (h : k < 2 ^ (f.eb + f.mb)) : minus f k = false := Nat.testBit_lt_two_pow h

theorem signed_eq (f : Fmt) (neg : Bool) (k : Nat) : f.signed neg k = signed f neg k := by
  cases neg <;> simp [Fmt.signed, signed, b2n, Nat.add_comm]

theorem magnitude_signed {f : Fmt} {k : Nat} (neg : Bool) (h : k < 2 ^ (f.eb + f.mb)) : magnitude f (signed f neg k) = k := by
  cases neg <;> simp [signed, magnitude, Nat.mod_eq_of_lt h]

theorem minus_signed {f : Fmt} {k : Nat} (neg : Bool) (h : k < 2 ^ (f.eb + f.mb)) : minus f (signed f neg k) = neg := by
  cases neg
  · exact Nat.testBit_lt_two_pow h
  · simp [signed, minus, Nat.add_comm k, Nat.testBit_two_pow_add_eq, Nat.testBit_lt_two_pow h]

theorem signed_lt {f : Fmt} {k : Nat} (neg : Bool) (h : k < 2 ^ (f.eb + f.mb)) : signed f neg k < 2 ^ f.width := by
  have : 2 ^ f.width = 2 ^ (f.eb + f.mb) + 2 ^ (f.eb + f.mb) := by rw [Fmt.width, show 1 + f.eb + f.mb = f.eb + f.mb + 1 by omega]; omega
  cases neg <;> simp only [signed, if_true, Bool.false_eq_true, if_false] <;> omega

/-- A code is its sign over its magnitude. -/
theorem signed_minus_magnitude {f : Fmt} {c : Nat} (h : c < 2 ^ f.width) : signed f (minus f c) (magnitude f c) = c := by
  have hw : 2 ^ f.width = 2 ^ (f.eb + f.mb) + 2 ^ (f.eb + f.mb) := by rw [Fmt.width, show 1 + f.eb + f.mb = f.eb + f.mb + 1 by omega]; omega
  by_cases hc : c < 2 ^ (f.eb + f.mb)
  · rw [minus_of_lt hc, magnitude_of_lt hc]; rfl
  · obtain ⟨k, rfl⟩ := Nat.exists_eq_add_of_le' (Nat.le_of_not_lt hc)
    have hk : k < 2 ^ (f.eb + f.mb) := by omega
    rw [show k + 2 ^ (f.eb + f.mb) = signed f true k from rfl, minus_signed true hk, magnitude_signed true hk]

/-- The value of a code, by its magnitude. -/
theorem dec_eq (f : Fmt) (flush : Bool) (c : Nat) : f.dec flush c =
    let ex := magnitude f c / 2 ^ f.mb
    let man := magnitude f c % 2 ^ f.mb
    if f.kind = .ieee ∧ ex = 2 ^ f.eb - 1 then (if man = 0 then .inf (minus f c) else .nan (minus f c) man)
    else if f.kind = .e4m3 ∧ ex = 2 ^ f.eb - 1 ∧ man = 2 ^ f.mb - 1 then .nan (minus f c) man
    else if ex = 0 then .num (minus f c) (if flush && f.flushes then 0 else man) f.least
    else .num (minus f c) (man + 2 ^ f.mb) (ex - f.bias - f.mb) := by
  simp only [Fmt.dec, bitAt_eq_testBit, bitsOf_exponent, bitsOf_mantissa, Fmt.least]
  rfl

/-- A code that is a number is none of those above the largest finite one (R47, R48). -/
theorem le_maxCode_of_dec {f : Fmt} {flush : Bool} {c n : Nat} {neg : Bool} {e : Int} (h : f.dec flush c = .num neg n e) :
    magnitude f c ≤ f.maxCode := by
  have hp := Nat.two_pow_pos f.mb
  have hlt := magnitude_lt f c
  have hdm := Nat.div_add_mod' (magnitude f c) (2 ^ f.mb)
  have hmod := Nat.mod_lt (magnitude f c) hp
  rw [dec_eq] at h
  rw [Nat.pow_add] at hlt
  generalize magnitude f c = k at *
  have hex : k / 2 ^ f.mb < 2 ^ f.eb := (Nat.div_lt_iff_lt_mul hp).2 hlt
  unfold Fmt.maxCode
  split
  next hk =>
    have hne : k / 2 ^ f.mb ≠ 2 ^ f.eb - 1 := by
      rintro he
      simp only [hk, he, and_self, if_true] at h
      split at h <;> cases h
    have : k < (2 ^ f.eb - 1) * 2 ^ f.mb := (Nat.div_lt_iff_lt_mul hp).1 (by omega)
    exact Nat.le_sub_one_of_lt this
  next hk =>
    have hne : k ≠ 2 ^ f.eb * 2 ^ f.mb - 1 := by
      rintro hl
      obtain ⟨a, ha⟩ := Nat.exists_eq_add_of_lt (Nat.two_pow_pos f.eb)
      have hl' : k = (2 ^ f.mb - 1) + a * 2 ^ f.mb := by rw [hl, ha, Nat.add_mul, Nat.add_mul]; omega
      have h1 : k / 2 ^ f.mb = 2 ^ f.eb - 1 := by rw [hl', Nat.add_mul_div_right _ _ hp, Nat.div_eq_of_lt (by omega)]; omega
      have h2 : k % 2 ^ f.mb = 2 ^ f.mb - 1 := by rw [hl', Nat.add_mul_mod_self_right, Nat.mod_eq_of_lt (by omega)]
      simp [hk, h1, h2] at h
    rw [Nat.pow_add]; omega
  next hk => rw [Nat.pow_add]; omega

/-- A code that is a number has its sign, and its place in a binade. -/
theorem dec_num {f : Fmt} {c n : Nat} {neg : Bool} {e : Int} (h : f.dec false c = .num neg n e) :
    neg = minus f c ∧ ∃ t : Nat, e = f.least + t ∧ magnitude f c = t * 2 ^ f.mb + n ∧ n < 2 ^ (f.mb + 1) ∧ (t = 0 ∨ 2 ^ f.mb ≤ n) := by
  have hdm := Nat.div_add_mod' (magnitude f c) (2 ^ f.mb)
  have hmod := Nat.mod_lt (magnitude f c) (Nat.two_pow_pos f.mb)
  rw [dec_eq] at h
  generalize magnitude f c = k at *
  rw [Nat.pow_succ]
  dsimp only at h
  split at h
  · split at h <;> cases h
  split at h
  · cases h
  split at h
  next h0 =>
    injection h with h1 h2 h3
    rw [h0] at hdm
    exact ⟨h1.symm, 0, by omega, by simp at h2; omega, by simp at h2; omega, .inl rfl⟩
  next h0 =>
    injection h with h1 h2 h3
    obtain ⟨t, ht⟩ := Nat.exists_eq_succ_of_ne_zero h0
    rw [ht, Nat.succ_mul] at hdm
    exact ⟨h1.symm, t, by simp only [Fmt.least, Fmt.emin]; omega, by omega, by omega, .inr (by omega)⟩

theorem grid_magnitude_of_dec {f : Fmt} {c n : Nat} {neg : Bool} {e : Int} (h : f.dec false c = .num neg n e) :
    (f.grid (magnitude f c) : ℝ) = n * 2 ^ (e - f.least) ∧ (f.grid (magnitude f c + 1) : ℝ) = (n + 1) * 2 ^ (e - f.least) := by
  obtain ⟨-, t, rfl, hk, hn, ht⟩ := dec_num h
  rw [hk, Nat.add_assoc, f.grid_place hn.le ht, f.grid_place hn (ht.imp_right Nat.le_succ_of_le), show f.least + t - f.least = t by omega]
  simp

/-! ## The statements on rounding -/

theorem finish_kept {f : Fmt} {v : FEnv} (neg : Bool) {k : Nat} (inexact : Bool) (hf : v.flush = false) (hk : k ≤ f.maxCode) :
    f.finish v neg k inexact = (signed f neg k, { fx := inexact }) := by
  rw [Fmt.finish, if_neg (Nat.not_lt.2 hk), hf]; simp [signed_eq]

/-- The eight formats of R47. -/
def allFormats : List Fmt := [fp32, fp16, Sys2Proof.Machine.bf16, e5m2, e4m3, e3m2, e2m3, e2m1]

theorem formats_mb : ∀ f ∈ allFormats, 1 ≤ f.mb := by decide
theorem formats_maxCode : ∀ f ∈ allFormats, f.maxCode < 2 ^ (f.eb + f.mb) := by decide

theorem claim_formatNumbersAreKept : Claim.FormatNumbersAreKept := by
  intro f hf v c neg n e hc hv h
  obtain ⟨hneg, -⟩ := dec_num h
  rw [round_exact (k := magnitude f c) (formats_mb f hf) (.inl (grid_magnitude_of_dec h).1), finish_kept neg false hv (le_maxCode_of_dec h), hneg,
    signed_minus_magnitude hc]

theorem claim_directedRounding : Claim.DirectedRounding := by
  intro f hf c n k j e hc h hj hjk
  have hmb := formats_mb f hf
  have hm : magnitude f c = c := magnitude_of_lt (hc.trans (formats_maxCode f hf))
  obtain ⟨h0, h1⟩ := grid_magnitude_of_dec h
  rw [hm] at h0 h1
  have hunit : (0 : ℝ) < 2 ^ (e - k - f.least) := zpow_pos two_pos _
  have hpow : (2 : ℝ) ^ (e - f.least) = (2 ^ k : Nat) * 2 ^ (e - k - f.least) := by
    rw [Nat.cast_pow, Nat.cast_ofNat, ← zpow_natCast, ← zpow_add₀ two_ne_zero]; congr 1; ring
  have e0 : (f.grid c : ℝ) = (n * 2 ^ k : Nat) * 2 ^ (e - k - f.least) := by rw [h0, hpow]; push_cast; ring
  have e1 : (f.grid (c + 1) : ℝ) = (n * 2 ^ k + 2 ^ k : Nat) * 2 ^ (e - k - f.least) := by rw [h1, hpow]; push_cast; ring
  have key (rnd : Rnd) := round_between hmb (.inl rfl : StandsFor f (n * 2 ^ k + j) (e - k) _) { rnd := rnd } false (k := c)
    (by rw [e0, mul_lt_mul_iff_left₀ hunit, Nat.cast_lt]; omega) (by rw [e1, mul_lt_mul_iff_left₀ hunit, Nat.cast_lt]; omega)
  have value (rnd : Rnd) (up b : Bool) (hup : up = b)
      (hr : f.round { rnd := rnd } false (n * 2 ^ k + j) (e - k) = f.finish { rnd := rnd } false (c + b2n up) true) :
      f.round { rnd := rnd } false (n * 2 ^ k + j) (e - k) = (if b then c + 1 else c, { fx := true }) := by
    rw [hr, hup, finish_kept false true rfl (by unfold b2n; split <;> omega)]
    cases b <;> rfl
  have hne : ((n * 2 ^ k + j : Nat) : ℝ) * 2 ^ (e - k - f.least) ≠ f.grid c := by
    rw [e0, Ne, mul_left_inj' hunit.ne', Nat.cast_inj]; omega
  refine ⟨?_, ?_, ?_, ?_⟩
  · obtain ⟨up, hr, hup⟩ := key .rz
    exact value .rz up false (by simpa [Rises] using hup) hr
  · obtain ⟨up, hr, hup⟩ := key .rd
    exact value .rd up false (by simpa [Rises] using hup) hr
  · obtain ⟨up, hr, hup⟩ := key .ru
    exact value .ru up true (hup.2 ⟨hne, rfl⟩) hr
  · obtain ⟨up, hr, hup⟩ := key .rne
    have hmid : (f.grid c : ℝ) + f.grid (c + 1) = (2 * (n * 2 ^ k) + 2 ^ k : Nat) * 2 ^ (e - k - f.least) := by rw [e0, e1]; push_cast; ring
    have htwice : 2 * (((n * 2 ^ k + j : Nat) : ℝ) * 2 ^ (e - k - f.least)) = (2 * (n * 2 ^ k + j) : Nat) * 2 ^ (e - k - f.least) := by
      push_cast; ring
    simp only [Rises, hmid, htwice, mul_lt_mul_iff_left₀ hunit, mul_left_inj' hunit.ne', Nat.cast_lt, Nat.cast_inj, beq_iff_eq] at hup
    have hb : up = !decide (2 * j < 2 ^ k ∨ 2 * j = 2 ^ k ∧ c % 2 = 0) := by
      rw [Bool.eq_iff_iff, hup, Bool.not_eq_true', decide_eq_false_iff_not]; omega
    rw [value .rne up _ hb hr]
    by_cases hc : 2 * j < 2 ^ k ∨ 2 * j = 2 ^ k ∧ c % 2 = 0 <;> simp [hc]

/-- Settles O19: rounding a number takes the code below it or the one above, and the number of a code takes that code. -/
theorem rounding : Obligations.Rounding := ⟨claim_formatNumbersAreKept, claim_directedRounding⟩

end Sys2Proof.Machine
end

section
/-!
PROOFS. A rounded stand-in for a number is the result that R57 to R59 give for that number, in the formats of the scalar unit (R273); and the stand-ins
that sums, products, quotients and roots are rounded from (R274).
-/
open Sys2Proof Sys2Proof.Machine Sys2Proof.Claim

namespace Sys2Proof.Machine

/-! ## The formats of page 2 -/

def scalarFormats : List Fmt := [fp32, fp16, Sys2Proof.Machine.bf16]

theorem format_mem (x : Option ArithX) : format x ∈ scalarFormats := by
  rcases x with _ | ⟨ty, sat, rnd⟩
  · decide
  · cases ty <;> simp [format, scalarFormats]

theorem scalar_kind : ∀ f ∈ scalarFormats, f.kind = .ieee := by decide
theorem scalar_mb : ∀ f ∈ scalarFormats, 3 ≤ f.mb := by decide
theorem scalar_infCode : ∀ f ∈ scalarFormats, 2 ^ f.mb < f.infCode ∧ f.infCode < 2 ^ (f.eb + f.mb) := by decide
theorem scalar_bias : ∀ f ∈ scalarFormats, 1 ≤ f.bias := by decide

section
variable {f : Fmt} (hf : f ∈ scalarFormats)
include hf

theorem scalar_mb_pos : 1 ≤ f.mb := by have := scalar_mb f hf; omega

theorem maxCode_eq : f.maxCode = f.infCode - 1 := by simp [Fmt.maxCode, scalar_kind f hf]

theorem canon_eq : f.canon = f.infCode + 2 ^ (f.mb - 1) := by
  have := scalar_mb f hf
  simp only [Fmt.canon, scalar_kind f hf]
  exact if_neg (by omega)

theorem one_eq_zpow : (one f : ℝ) = 2 ^ (-f.least) := by
  have := scalar_bias f hf
  rw [one, Nat.cast_pow, Nat.cast_ofNat, ← zpow_natCast]
  congr 1
  simp only [Fmt.least, Fmt.emin]
  omega

/-! ## The result of R57 to R59 -/

theorem overflow_eq (v : FEnv) (neg : Bool) : f.overflow v neg = overflow f v neg := by
  obtain ⟨rnd, sat, flush⟩ := v
  simp only [Fmt.overflow, overflow, signed_eq, maxCode_eq hf, scalar_kind f hf]
  cases rnd <;> cases sat <;> cases neg <;> rfl

end

/-- `against n` tells how twice x compares with n, for a number x of units. -/
def Tells (against : Nat → Ordering) (x : ℝ) : Prop :=
  ∀ n : Nat, (against n = .lt ↔ 2 * x < n) ∧ (against n = .eq ↔ 2 * x = n) ∧ (against n = .gt ↔ (n : ℝ) < 2 * x)

theorem tells_ratio (p : Nat) {q : Nat} (hq : 0 < q) : Tells (ratio p q) (p / q) := by
  intro n
  have hq' : (0 : ℝ) < q := Nat.cast_pos.2 hq
  have e : 2 * ((p : ℝ) / q) = (2 * p : Nat) / q := by push_cast; ring
  rw [e, ratio, Nat.compare_eq_lt, Nat.compare_eq_eq, Nat.compare_eq_gt, div_lt_iff₀ hq', div_eq_iff hq'.ne', lt_div_iff₀ hq', ← Nat.cast_mul]
  simp only [Nat.cast_lt, Nat.cast_inj, and_self]

/-- What rounding leaves of a code up to that of infinity is what the statements call the result. -/
theorem finish_eq {f : Fmt} (hf : f ∈ scalarFormats) (v : FEnv) (neg : Bool) {k : Nat} (inexact : Bool) (hk : k ≤ f.infCode) :
    f.finish v neg k inexact =
      if k = f.infCode then (overflow f v neg, { fo := true, fx := true })
      else if v.flush && f.eb == 8 && decide (0 < k ∧ k < 2 ^ f.mb) then (signed f neg 0, { fx := true })
      else (signed f neg k, { fx := inexact }) := by
  have hi := (scalar_infCode f hf).1
  have hsmall : (f.flushes && v.flush && decide (k < 2 ^ f.mb) && k != 0) = (v.flush && f.eb == 8 && decide (0 < k ∧ k < 2 ^ f.mb)) := by
    rw [Bool.eq_iff_iff]
    simp only [Fmt.flushes, Bool.and_eq_true, decide_eq_true_eq, bne_iff_ne, beq_iff_eq, Nat.pos_iff_ne_zero]
    tauto
  have htop : f.infCode - 1 < k ↔ k = f.infCode := by have := Nat.two_pow_pos f.mb; omega
  simp only [Fmt.finish, maxCode_eq hf, overflow_eq hf, signed_eq, hsmall, htop]

/-- Whether an inexact number rises to the next code, by how it compares with the middle (R57). -/
def risesFrom (rnd : Rnd) (neg odd : Bool) (middle : Ordering) : Bool :=
  match rnd with
  | .rne => middle == .gt || (middle == .eq && odd)
  | .rz => false
  | .ru => !neg
  | .rd => neg

theorem rises_iff {rnd : Rnd} {neg odd : Bool} {lo hi x : ℝ} {middle : Ordering} (hlo : lo < x) (heq : middle = .eq ↔ 2 * x = lo + hi)
    (hgt : middle = .gt ↔ lo + hi < 2 * x) : Rises rnd neg odd lo hi x ↔ risesFrom rnd neg odd middle = true := by
  cases rnd
  case rne => simp [Rises, risesFrom, heq, hgt]
  case rz => simp [Rises, risesFrom]
  case ru => simp [Rises, risesFrom, hlo.ne']
  case rd => simp [Rises, risesFrom, hlo.ne']

theorem round_rounded {f : Fmt} (hf : f ∈ scalarFormats) {m : Nat} {e : Int} {x : ℝ} {against : Nat → Ordering} (h : StandsFor f m e x)
    (ht : Tells against x) (v : FEnv) (neg : Bool) : Rounded f v neg against (f.round v neg m e) := by
  obtain ⟨hi1, hi2⟩ := scalar_infCode f hf
  have hmb := scalar_mb_pos hf
  have twice {k : Nat} (hk : k ≤ f.infCode) : ((2 * units f k : Nat) : ℝ) = 2 * f.grid k := by
    rw [units_eq_grid (hk.trans_lt hi2)]; push_cast; ring
  refine ⟨fun d hd hex => ?_, fun d hd hgt hlt => ?_, fun hge => ?_⟩
  · have hx : x = f.grid d := by
      have := (ht _).2.1.1 hex
      rw [twice hd.le] at this
      linarith
    rw [round_exact hmb (hx ▸ h), finish_eq hf v neg false hd.le]
  · have hlo : (f.grid d : ℝ) < x := by
      have := (ht _).2.2.1 hgt
      rw [twice hd.le] at this
      linarith
    have hhi : x < f.grid (d + 1) := by
      have := (ht _).1.1 hlt
      rw [twice hd] at this
      linarith
    obtain ⟨up, hr, hup⟩ := round_between hmb h v neg hlo hhi
    have hmid : ((units f d + units f (d + 1) : Nat) : ℝ) = f.grid d + f.grid (d + 1) := by
      rw [units_eq_grid (hd.trans hi2), units_eq_grid ((Nat.succ_le_of_lt hd).trans_lt hi2)]; push_cast; rfl
    obtain ⟨-, hmeq, hmgt⟩ := ht (units f d + units f (d + 1))
    rw [hmid] at hmeq hmgt
    have hle : d + b2n up ≤ f.infCode := by unfold b2n; split <;> omega
    rw [hr, finish_eq hf v neg true hle]
    have hwhich : up = risesFrom v.rnd neg (d % 2 == 1) (against (units f d + units f (d + 1))) :=
      Bool.eq_iff_iff.2 (hup.trans (rises_iff hlo hmeq hmgt))
    have hcode : d + b2n up = if risesFrom v.rnd neg (d % 2 == 1) (against (units f d + units f (d + 1))) then d + 1 else d := by
      rw [← hwhich]; cases up <;> rfl
    rw [hcode]
    rfl
  · obtain ⟨k, -, hhi, up, inexact, hr, -, -⟩ := round_lands_somewhere hmb h v neg
    have hlo : (f.grid f.infCode : ℝ) ≤ x := by
      have := mt (ht _).1.2 hge
      rw [twice le_rfl] at this
      linarith
    have hk : f.infCode < k + 1 := f.grid_strictMono.lt_iff_lt.1 (by exact_mod_cast hlo.trans_lt hhi)
    have hover : f.maxCode < k + b2n up := by rw [maxCode_eq hf]; have := Nat.two_pow_pos f.mb; omega
    rw [hr, Fmt.finish, if_pos hover, overflow_eq hf]

/-! ## Values in units, and the stand-ins that operations are rounded from -/

/-- The value (−1)^neg × m × 2^e in units. -/
noncomputable def inUnits (f : Fmt) (neg : Bool) (m : Nat) (e : Int) : ℝ := (if neg then -1 else 1) * (m * 2 ^ (e - f.least))

theorem cast_scaled (f : Fmt) (neg : Bool) (m : Nat) {e e0 : Int} (h : e0 ≤ e) :
    (scaled neg m e e0 : ℝ) * 2 ^ (e0 - f.least) = inUnits f neg m e := by
  have hp : (2 : ℝ) ^ (e - f.least) = 2 ^ (e - e0).toNat * 2 ^ (e0 - f.least) := by
    rw [← zpow_natCast, ← zpow_add₀ two_ne_zero]; congr 1; omega
  rw [inUnits, hp]
  cases neg <;> simp [scaled] <;> ring

/-- The exact sum of two values is rounded once; an exact zero takes the sign of R60. -/
theorem sum_spec (f : Fmt) (v : FEnv) (n1 : Bool) (m1 : Nat) (e1 : Int) (n2 : Bool) (m2 : Nat) (e2 : Int) {N : Int} {K : Nat} (hK : 0 < K)
    (hN : (inUnits f n1 m1 e1 + inUnits f n2 m2 e2) * K = N) :
    ∃ m e, f.sum v n1 m1 e1 n2 m2 e2 = f.round v (if N = 0 then (if n1 = n2 then n1 else v.rnd == .rd) else decide (N < 0)) m e ∧
      StandsFor f m e (N.natAbs / K) := by
  have hK' : (0 : ℝ) < K := Nat.cast_pos.2 hK
  have hp : (0 : ℝ) < 2 ^ (min e1 e2 - f.least) := zpow_pos two_pos _
  rw [← cast_scaled f n1 m1 (min_le_left e1 e2), ← cast_scaled f n2 m2 (min_le_right e1 e2), ← add_mul, ← Int.cast_add] at hN
  refine ⟨(scaled n1 m1 e1 (min e1 e2) + scaled n2 m2 e2 (min e1 e2)).natAbs, min e1 e2, ?_, .inl ?_⟩
  · simp only [Fmt.sum]
    generalize scaled n1 m1 e1 (min e1 e2) + scaled n2 m2 e2 (min e1 e2) = t at *
    have hpos : (0 : ℝ) < 2 ^ (min e1 e2 - f.least) * K := mul_pos hp hK'
    rw [mul_assoc] at hN
    have h0 : t = 0 ↔ N = 0 := by
      rw [← Int.cast_eq_zero (α := ℝ), ← Int.cast_eq_zero (α := ℝ) (n := N), ← hN, mul_eq_zero, or_iff_left hpos.ne']
    have hneg : t < 0 ↔ N < 0 := by
      rw [← Int.cast_lt_zero (R := ℝ), ← Int.cast_lt_zero (R := ℝ) (n := N), ← hN, mul_neg_iff]; simp [hpos, hpos.not_gt]
    by_cases ht : t = 0
    · simp [ht, h0.1 ht, Fmt.round]
    · simp [ht, mt h0.2 ht, hneg]
  · rw [eq_comm, eq_div_iff hK'.ne', Nat.cast_natAbs, Int.cast_abs, Nat.cast_natAbs, Int.cast_abs, ← hN, abs_mul, abs_mul,
       abs_of_pos hp, abs_of_pos hK']

theorem product_standsFor (f : Fmt) (m n : Nat) (e d : Int) :
    StandsFor f (m * n) (e + d) (m * 2 ^ (e - f.least) * (n * 2 ^ (d - f.least)) / 2 ^ (-f.least)) := by
  left
  rw [div_eq_mul_inv, ← zpow_neg, mul_mul_mul_comm, ← zpow_add₀ two_ne_zero, mul_assoc, ← zpow_add₀ two_ne_zero, Nat.cast_mul]
  congr 2; ring

/-- A truncated number with a sticky bit stands for the number. -/
theorem sticky_standsFor {f : Fmt} {q : Nat} {rest : Bool} {e : Int} {x : ℝ} (hexact : rest = false → x = (2 * q) * 2 ^ (e - f.least))
    (hrest : rest = true → 2 ^ (f.mb + 1) ≤ q ∧ (2 * q) * 2 ^ (e - f.least) < x ∧ x < (2 * q + 2) * 2 ^ (e - f.least)) :
    StandsFor f (2 * q + b2n rest) e x := by
  cases rest
  · exact .inl (by rw [hexact rfl]; simp [b2n])
  · obtain ⟨hq, hlo, hhi⟩ := hrest rfl
    refine .inr ⟨by simp [b2n, Nat.add_mod], by simp only [b2n, if_true, Nat.pow_succ] at hq ⊢; omega, ?_, ?_⟩
    · simpa [b2n] using hlo
    · simpa [b2n, add_assoc, one_add_one_eq_two] using hhi

/-- The quotient that division is rounded from, to more bits than the format keeps (R60). -/
theorem quotient_standsFor (f : Fmt) (m : Nat) {n : Nat} (hn : n ≠ 0) (e d : Int) :
    let k := f.mb + 4 + Nat.log2 n
    StandsFor f (2 * (m * 2 ^ k / n) + b2n (m * 2 ^ k % n != 0)) (e - d - k - 1)
      (m * 2 ^ (e - f.least) * 2 ^ (-f.least) / (n * 2 ^ (d - f.least))) := by
  intro k
  by_cases hm : m = 0
  · left; simp [hm, b2n]
  have hn0 : 0 < n := Nat.pos_of_ne_zero hn
  have hn' : (0 : ℝ) < n := Nat.cast_pos.2 hn0
  have hu : (0 : ℝ) < 2 ^ (e - d - k - 1 - f.least) := zpow_pos two_pos _
  have hx : (m : ℝ) * 2 ^ (e - f.least) * 2 ^ (-f.least) / (n * 2 ^ (d - f.least)) =
      2 * ((m * 2 ^ k : Nat) / n) * 2 ^ (e - d - k - 1 - f.least) := by
    have h1 : (2 : ℝ) ^ (e - f.least) * 2 ^ (-f.least) = 2 ^ (e - d - k - 1 - f.least) * 2 ^ (d - f.least) * 2 ^ k * 2 := by
      rw [← zpow_natCast, ← zpow_add₀ two_ne_zero, ← zpow_add₀ two_ne_zero, ← zpow_add₀ two_ne_zero, ← zpow_add_one₀ two_ne_zero]
      congr 1; ring
    have h2 : (2 : ℝ) ^ (d - f.least) ≠ 0 := (zpow_pos two_pos _).ne'
    rw [mul_assoc, h1]
    push_cast
    field_simp
  have hdm := Nat.div_add_mod (m * 2 ^ k) n
  have hmod := Nat.mod_lt (m * 2 ^ k) hn0
  rw [hx]
  refine sticky_standsFor (fun h => ?_) fun h => ⟨?_, ?_, ?_⟩
  · have h : m * 2 ^ k % n = 0 := by simpa using h
    rw [Nat.cast_div (Nat.dvd_of_mod_eq_zero h) hn'.ne']
  · have hlog : n < 2 ^ (Nat.log2 n + 1) := Nat.lt_log2_self
    rw [Nat.le_div_iff_mul_le hn0]
    calc 2 ^ (f.mb + 1) * n ≤ 2 ^ (f.mb + 1) * 2 ^ (Nat.log2 n + 1) := Nat.mul_le_mul_left _ hlog.le
      _ = 2 ^ (f.mb + 1 + (Nat.log2 n + 1)) := (Nat.pow_add ..).symm
      _ ≤ 2 ^ k := Nat.pow_le_pow_right (by decide) (by omega)
      _ ≤ m * 2 ^ k := Nat.le_mul_of_pos_left _ (Nat.pos_of_ne_zero hm)
  · have h : m * 2 ^ k % n ≠ 0 := by simpa using h
    have hlt : n * (m * 2 ^ k / n) < m * 2 ^ k := by omega
    rw [mul_lt_mul_iff_left₀ hu, mul_lt_mul_iff_right₀ two_pos, lt_div_iff₀ hn', mul_comm]
    exact_mod_cast hlt
  · have hlt : m * 2 ^ k < n * (m * 2 ^ k / n + 1) := by rw [Nat.mul_add]; omega
    rw [mul_lt_mul_iff_left₀ hu, ← mul_add_one, mul_lt_mul_iff_right₀ two_pos, div_lt_iff₀ hn', mul_comm _ (n : ℝ)]
    exact_mod_cast hlt

theorem isqrt_eq_sqrt {n : Nat} (k r : Nat) (hlo : r * r ≤ n) (hhi : n < (r + 2 ^ k) * (r + 2 ^ k)) : isqrt n k r = Nat.sqrt n := by
  induction k generalizing r with
  | zero => exact Nat.eq_sqrt.2 ⟨hlo, hhi⟩
  | succ k ih =>
    rw [Nat.pow_succ] at hhi
    simp only [isqrt]
    split
    next ht => exact ih _ ht (by rwa [Nat.add_assoc, ← Nat.mul_two])
    next ht => exact ih _ hlo (Nat.lt_of_not_le ht)

theorem isqrt_from_zero (n : Nat) : isqrt n (Nat.log2 n / 2 + 1) 0 = Nat.sqrt n := by
  refine isqrt_eq_sqrt _ _ (Nat.zero_le n) ?_
  rw [Nat.zero_add, ← Nat.pow_add]
  exact Nat.lt_log2_self.trans_le (Nat.pow_le_pow_right (by decide) (by omega))

/-- The root that fsqrt is rounded from, to more bits than the format keeps (R60); h is half the exponent. -/
theorem root_standsFor (f : Fmt) {m : Nat} (hm : m ≠ 0) (h : Int) :
    let k := f.mb + 3
    let r := Nat.sqrt (m * 2 ^ (2 * k))
    StandsFor f (2 * r + b2n (r * r != m * 2 ^ (2 * k))) (h - k - 1) (√(m * 2 ^ (2 * h - f.least) * 2 ^ (-f.least))) := by
  intro k r
  have hu : (0 : ℝ) < 2 ^ (h - k - 1 - f.least) := zpow_pos two_pos _
  have hx : √((m : ℝ) * 2 ^ (2 * h - f.least) * 2 ^ (-f.least)) = 2 * √(m * 2 ^ (2 * k) : Nat) * 2 ^ (h - k - 1 - f.least) := by
    have hsq : (m : ℝ) * 2 ^ (2 * h - f.least) * 2 ^ (-f.least) = (m * 2 ^ (2 * k) : Nat) * (2 * 2 ^ (h - k - 1 - f.least)) ^ 2 := by
      rw [Nat.cast_mul, Nat.cast_pow, Nat.cast_ofNat, mul_assoc, mul_assoc, ← zpow_one_add₀ two_ne_zero, ← zpow_natCast,
        ← zpow_natCast (_ ^ _), ← zpow_mul, ← zpow_add₀ two_ne_zero, ← zpow_add₀ two_ne_zero]
      congr 2; push_cast; ring
    rw [hsq, Real.sqrt_mul (Nat.cast_nonneg _), Real.sqrt_sq (by positivity)]
    ring
  have hle : r * r ≤ m * 2 ^ (2 * k) := Nat.sqrt_le _
  have hlt : m * 2 ^ (2 * k) < (r + 1) * (r + 1) := Nat.lt_succ_sqrt _
  rw [hx]
  refine sticky_standsFor (fun hex => ?_) fun hrest => ⟨?_, ?_, ?_⟩
  · have hex : r * r = m * 2 ^ (2 * k) := by simpa using hex
    rw [← hex, Nat.cast_mul, Real.sqrt_mul_self (Nat.cast_nonneg _)]
  · rw [Nat.le_sqrt, ← Nat.pow_add]
    exact (Nat.pow_le_pow_right (by decide) (by omega)).trans (Nat.le_mul_of_pos_left _ (Nat.pos_of_ne_zero hm))
  · have hne : r * r ≠ m * 2 ^ (2 * k) := by simpa using hrest
    rw [mul_lt_mul_iff_left₀ hu, mul_lt_mul_iff_right₀ two_pos, Real.lt_sqrt (Nat.cast_nonneg _), sq]
    exact_mod_cast lt_of_le_of_ne hle hne
  · rw [mul_lt_mul_iff_left₀ hu, ← mul_add_one, mul_lt_mul_iff_right₀ two_pos, Real.sqrt_lt' (by positivity), sq]
    exact_mod_cast hlt

theorem tells_root (a b : Nat) : Tells (fun n => compare (4 * a * b) (n * n)) (√(a * b)) := by
  intro n
  have hsq : (2 * √((a : ℝ) * b)) ^ 2 = (4 * a * b : Nat) := by rw [mul_pow, Real.sq_sqrt (by positivity)]; push_cast; ring
  have h0 : 0 ≤ 2 * √((a : ℝ) * b) := by positivity
  have hn : (0 : ℝ) ≤ n := Nat.cast_nonneg n
  have hnn : (n : ℝ) ^ 2 = (n * n : Nat) := by push_cast; ring
  rw [Nat.compare_eq_lt, Nat.compare_eq_eq, Nat.compare_eq_gt, ← pow_lt_pow_iff_left₀ h0 hn two_ne_zero, ← pow_left_inj₀ h0 hn two_ne_zero,
    ← pow_lt_pow_iff_left₀ hn h0 two_ne_zero, hsq, hnn]
  simp only [Nat.cast_lt, Nat.cast_inj, and_self]

end Sys2Proof.Machine
end

section
/-!
PROOFS. What the scalar unit reads from a code (spec/03 R47, R48, R66): its class, its sign, and its number.
-/
open Sys2Proof Sys2Proof.Machine Sys2Proof.Claim

namespace Sys2Proof.Machine

theorem infCode_le_iff {f : Fmt} {k : Nat} (h : k < 2 ^ (f.eb + f.mb)) : k / 2 ^ f.mb = 2 ^ f.eb - 1 ↔ f.infCode ≤ k := by
  have hp := Nat.two_pow_pos f.mb
  rw [Nat.pow_add] at h
  have : k / 2 ^ f.mb < 2 ^ f.eb := (Nat.div_lt_iff_lt_mul hp).2 h
  rw [Fmt.infCode, ← Nat.le_div_iff_mul_le hp]
  omega

section
variable {f : Fmt} (hf : f ∈ scalarFormats)
include hf

theorem dec_nan {c : Nat} (h : IsNan f c) (flush : Bool) : f.dec flush c = .nan (minus f c) (magnitude f c % 2 ^ f.mb) := by
  have hex := (infCode_le_iff (magnitude_lt f c)).2 (le_of_lt h)
  have hman : magnitude f c % 2 ^ f.mb ≠ 0 := by
    intro h0
    have hdm := Nat.div_add_mod' (magnitude f c) (2 ^ f.mb)
    rw [hex, h0] at hdm
    exact absurd hdm (ne_of_lt h)
  simp only [dec_eq, scalar_kind f hf, hex, and_self, if_true, if_neg hman]

theorem dec_inf {c : Nat} (h : magnitude f c = f.infCode) (flush : Bool) : f.dec flush c = .inf (minus f c) := by
  have hex := (infCode_le_iff (magnitude_lt f c)).2 h.ge
  have hman : magnitude f c % 2 ^ f.mb = 0 := by rw [h, Fmt.infCode, Nat.mul_mod_left]
  simp only [dec_eq, scalar_kind f hf, hex, and_self, if_true, hman]

theorem dec_finite_eq {c : Nat} (h : IsFinite f c) (flush : Bool) : f.dec flush c =
    if magnitude f c < 2 ^ f.mb then .num (minus f c) (if flush && f.flushes then 0 else magnitude f c) f.least
    else .num (minus f c) (magnitude f c % 2 ^ f.mb + 2 ^ f.mb) ((magnitude f c / 2 ^ f.mb : Nat) - f.bias - f.mb) := by
  have hex : ¬ magnitude f c / 2 ^ f.mb = 2 ^ f.eb - 1 := fun he => Nat.not_le.2 h ((infCode_le_iff (magnitude_lt f c)).1 he)
  simp only [dec_eq, scalar_kind f hf, hex, and_false, if_false, reduceCtorEq, false_and, Nat.div_eq_zero_iff_lt (Nat.two_pow_pos f.mb)]
  split
  next hs => rw [Nat.mod_eq_of_lt hs]
  next hs => rfl

/-! ## Operands under FLUSH (R66) -/

omit hf in
theorem magnitude_asRead_le (flush : Bool) (c : Nat) : magnitude f (asRead f flush c) ≤ magnitude f c := by
  unfold asRead
  split
  · rw [magnitude_signed _ (Nat.two_pow_pos _)]; exact Nat.zero_le _
  · exact le_rfl

omit hf in
@[simp] theorem minus_asRead (flush : Bool) (c : Nat) : minus f (asRead f flush c) = minus f c := by
  unfold asRead
  split
  · exact minus_signed _ (Nat.two_pow_pos _)
  · rfl

omit hf in
theorem asRead_lt (flush : Bool) {c : Nat} (h : c < 2 ^ f.width) : asRead f flush c < 2 ^ f.width := by
  unfold asRead
  split
  · exact signed_lt _ (Nat.two_pow_pos _)
  · exact h

omit hf in
@[simp] theorem asRead_false (c : Nat) : asRead f false c = c := if_neg fun h => Bool.false_ne_true h.1

/-- A subnormal of a format that FLUSH acts on is read as the code of zero. -/
theorem dec_asRead {c : Nat} (h : IsFinite f c) (flush : Bool) : f.dec flush c = f.dec false (asRead f flush c) := by
  have h' : IsFinite f (asRead f flush c) := (magnitude_asRead_le flush c).trans_lt h
  rw [dec_finite_eq hf h, dec_finite_eq hf h', minus_asRead]
  by_cases hz : flush = true ∧ f.eb = 8 ∧ magnitude f c < 2 ^ f.mb
  · have hm : magnitude f (asRead f flush c) = 0 := by rw [asRead, if_pos hz, magnitude_signed _ (Nat.two_pow_pos _)]
    rw [hm]
    simp [hz.1, hz.2.1, hz.2.2, Fmt.flushes]
  · rw [asRead, if_neg hz]
    split
    next hs => simp only [hs, and_true] at hz; simp [Fmt.flushes]; tauto
    next => rfl

/-- A finite operand is read as its sign and its number. -/
theorem dec_finite {c : Nat} (h : IsFinite f c) (flush : Bool) :
    ∃ m t, f.dec flush c = .num (minus f c) m (f.least + (t : Nat)) ∧ units f (asRead f flush c) = m * 2 ^ t ∧ m < 2 ^ (f.mb + 1) := by
  have h' : IsFinite f (asRead f flush c) := (magnitude_asRead_le flush c).trans_lt h
  obtain ⟨m, e, hd⟩ : ∃ m e, f.dec false (asRead f flush c) = .num (minus f (asRead f flush c)) m e := by
    rw [dec_finite_eq hf h']; split <;> exact ⟨_, _, rfl⟩
  obtain ⟨-, t, rfl, hk, hn, ht⟩ := dec_num hd
  refine ⟨m, t, by rw [dec_asRead hf h, hd, minus_asRead], ?_, hn⟩
  rw [units_eq, hk, f.grid_place hn.le ht]

/-- The same, with the number as a value in units. -/
theorem dec_number {c : Nat} (h : IsFinite f c) (flush : Bool) :
    ∃ m e, f.dec flush c = .num (minus f c) m e ∧ (m : ℝ) * 2 ^ (e - f.least) = (number f (asRead f flush c)).natAbs ∧
      inUnits f (minus f c) m e = number f (asRead f flush c) := by
  obtain ⟨m, t, hd, hu, -⟩ := dec_finite hf h flush
  have hv : (m : ℝ) * 2 ^ (f.least + (t : Int) - f.least) = units f (asRead f flush c) := by rw [hu, add_sub_cancel_left]; simp
  refine ⟨m, _, hd, ?_, ?_⟩
  · rw [hv, number]; split <;> simp
  · rw [inUnits, hv, number, minus_asRead]; split <;> simp

end

end Sys2Proof.Machine
end

section
/-!
PROOFS. The forms of page 2 complete with the code of their operation (spec/12 R273 to R278), and those that move bits only (R275, R277).
-/
open Sys2Proof Sys2Proof.Machine Sys2Proof.Claim

namespace Sys2Proof.Machine

theorem fmtOf_eq_format (x : Option ArithX) : fmtOf x = format x := by
  rcases x with _ | ⟨ty, sat, rnd⟩
  · rfl
  · cases ty <;> rfl

@[simp] theorem fenv_advance (s : State) (x : Option ArithX) : s.advance.fenv x = env s x := by
  cases x <;> simp [State.fenv, env, Slot.flush]

/-! ## Ends of the operand forms -/

theorem exec_fma (m : Mods) (x : Option ArithX) (o : OpABC) (s : State) : exec (.fma m x o) s = execFma m x o s := rfl
theorem exec_fcvt (m : Mods) (x : Option ArithX) (o : OpCvt) (s : State) : exec (.fcvt m x o) s = execFcvt m x o s := rfl
theorem exec_fbit (m : Mods) (o : OpBin) (s : State) : exec (.fbit m o) s = execFbit m o s := rfl
theorem exec_fclass (m : Mods) (o : OpAB) (s : State) : exec (.fclass m o) s = execFclass m o s := rfl

theorem ends_fbinary {i : Instr} {s : State} {m : Mods} {o : OpBin} {u w : Word} {x : Option ArithX} (g : Fmt → FEnv → Nat → Nat → Nat × Sticky)
    (he : exec i s = s.guarded m fun s => s.fbinary x o g) (h : Bin s m o u w) :
    Ends i m s (binDone s o (fl (g (format x) (env s x) (code x u) (code x w)))) := by
  obtain ⟨hg, ha, hx, hy⟩ := h
  refine ends_guarded he hg ?_
  rw [State.fbinary, binary_ok _ ha hx hy, fenv_advance, fmtOf_eq_format]
  rfl

theorem ends_funary {i : Instr} {s : State} {m : Mods} {o : OpAB} {u : Word} {x : Option ArithX} (g : Fmt → FEnv → Nat → Nat × Sticky)
    (he : exec i s = s.guarded m fun s => s.funary x o g) (h : Un s m o u) :
    Ends i m s (unDone s o (fl (g (format x) (env s x) (code x u)))) := by
  obtain ⟨hg, ha, hx⟩ := h
  refine ends_guarded he hg ?_
  rw [State.funary, unary_ok _ ha hx, fenv_advance, fmtOf_eq_format]
  rfl

theorem ends_fcompare {i : Instr} {s : State} {m : Mods} {o : OpCmp} {u w : Word} {x : Option ArithX} {k : FCond}
    (he : exec i s = s.guarded m fun s => s.fcompare x o k) (hg : guardHolds m s.me = true) (hx : s.peek o.a = .ok u) (hy : s.peek o.b = .ok w) :
    Ends i m s (fcmpDone s o ((format x).cmp s.me.flush k (code x u) (code x w))) := by
  refine ends_guarded he hg ?_
  rw [State.fcompare, readable_advance, readable_ok _ hx, readable_advance, readable_ok _ hy, State.peek2_advance, peek2_ok hx hy, fmtOf_eq_format]
  simp
  rfl

/-! ## frcp is fdiv with dividend 1.0 -/

theorem dec_one : ∀ f ∈ scalarFormats, ∀ flush, f.dec flush (f.bias * 2 ^ f.mb) = .num false (2 ^ f.mb) (-f.mb) := by decide

theorem divVal_one {f : Fmt} (hf : f ∈ scalarFormats) (v : FEnv) (y : FVal) :
    f.divVal v (.num false (2 ^ f.mb) (-f.mb)) y = f.divVal v (.num false 1 0) y := by
  cases y with
  | nan => rfl
  | inf => rfl
  | num b n d =>
    by_cases hn : n = 0
    · simp [Fmt.divVal, hn]
    · simp only [Fmt.divVal, if_neg hn]
      have h1 := quotient_standsFor f (2 ^ f.mb) hn (-f.mb) d
      have h2 := quotient_standsFor f 1 hn 0 d
      have e : ((2 ^ f.mb : Nat) : ℝ) * 2 ^ (-(f.mb : Int) - f.least) = (1 : Nat) * 2 ^ (0 - f.least) := by
        rw [Nat.cast_pow, Nat.cast_ofNat, ← zpow_natCast, ← zpow_add₀ two_ne_zero, Nat.cast_one, one_mul]; congr 1; ring
      rw [e] at h1
      exact round_congr (scalar_mb_pos hf) h1 h2 v _

theorem rcp_eq_div {f : Fmt} (hf : f ∈ scalarFormats) (v : FEnv) (c : Nat) : f.rcp v c = f.div v (f.bias * 2 ^ f.mb) c := by
  simp only [Fmt.rcp, Fmt.op1, Fmt.div, Fmt.op2, dec_one f hf]
  cases f.dec v.flush c with
  | nan => rfl
  | inf => rfl
  | num b n d => exact (divVal_one hf v _).symm

theorem claim_floatArithmetic : Claim.FloatArithmetic := by
  intro s m x
  refine ⟨fun o u w h => ⟨ends_fbinary _ rfl h, ends_fbinary _ rfl h, ends_fbinary _ rfl h, ends_fbinary _ rfl h,
      ends_fbinary (fun f v => f.minMax v true) rfl h, ends_fbinary (fun f v => f.minMax v false) rfl h⟩, fun o u v w h => ?_,
    fun o u h => ⟨ends_funary _ rfl h, ?_, ends_funary _ rfl h, ends_funary (fun f v => f.fixed v f32sin) rfl h,
      ends_funary (fun f v => f.fixed v f32cos) rfl h, ends_funary (fun f v => f.fixed v f32exp2) rfl h, ends_funary (fun f v => f.fixed v f32log2) rfl h⟩⟩
  · obtain ⟨hg, ha, hx, hy, hz⟩ := h
    refine ends_guarded (exec_fma m x o s) hg ?_
    rw [ternary_ok _ ha hx hy hz, fenv_advance, fmtOf_eq_format]
    rfl
  · rw [← rcp_eq_div (format_mem x)]
    exact ends_funary _ rfl h

theorem claim_floatComparisonsAndConversions : Claim.FloatComparisonsAndConversions := by
  refine fun s m x => ⟨fun o u w hg hx hy => ?_, fun o u _ h => ?_⟩
  · exact ⟨ends_fcompare rfl hg hx hy, ends_fcompare rfl hg hx hy, ends_fcompare rfl hg hx hy, ends_fcompare rfl hg hx hy⟩
  obtain ⟨hg, ha, hx⟩ := h
  refine ends_guarded (exec_fcvt m x o s) hg ?_
  rw [unary_ok _ ha hx, fenv_advance]
  rfl

/-! ## Sign bits and classes -/

theorem code_lt (x : Option ArithX) (u : Word) : code x u < 2 ^ (format x).width := Nat.mod_lt _ (Nat.two_pow_pos _)

theorem absCode_eq (f : Fmt) (c : Nat) : f.absCode c = c % 2 ^ (f.width - 1) := by rw [Fmt.absCode, bitsOf, pow_zero, Nat.div_one]

theorem xor_two_pow_of_lt {k w : Nat} (h : k < 2 ^ w) : k ^^^ 2 ^ w = k + 2 ^ w := by
  rw [Nat.add_comm, show 2 ^ w + k = 2 ^ w * 1 + k by rw [Nat.mul_one], Nat.two_pow_add_eq_or_of_lt h, Nat.mul_one]
  refine Nat.eq_of_testBit_eq fun i => ?_
  rw [Nat.testBit_xor, Nat.testBit_or, Nat.testBit_two_pow]
  by_cases hi : w = i
  · subst hi; simp [Nat.testBit_lt_two_pow h]
  · simp [hi]

theorem negCode_eq {f : Fmt} {c : Nat} (h : c < 2 ^ f.width) : f.negCode c = c ^^^ 2 ^ (f.width - 1) := by
  have hw : f.width - 1 = f.eb + f.mb := by rw [Fmt.width]; omega
  have hx := xor_two_pow_of_lt (magnitude_lt f c)
  rw [Fmt.negCode, absCode_eq, bitAt_eq_testBit, signed_eq, hw]
  change signed f (!minus f c) (magnitude f c) = _
  conv_rhs => rw [← signed_minus_magnitude h]
  cases minus f c
  · exact hx.symm
  · rw [show signed f true (magnitude f c) = magnitude f c + 2 ^ (f.eb + f.mb) from rfl, ← hx, Nat.xor_xor_cancel_right]
    rfl

/-- The fields of a 32-bit code, as the statement reads them. -/
theorem classOf_eq (b : BitVec 32) : classOf b =
    if bitsOf b.toNat 23 8 = 255 then
      (if bitsOf b.toNat 0 23 = 0 then (if bitAt b.toNat 31 then 0 else 7) else if bitAt (bitsOf b.toNat 0 23) 22 then 9 else 8)
    else if bitsOf b.toNat 23 8 = 0 then (if bitsOf b.toNat 0 23 = 0 then (if bitAt b.toNat 31 then 3 else 4) else if bitAt b.toNat 31 then 2 else 5)
    else if bitAt b.toNat 31 then 1 else 6 := by
  have hbit (i : Nat) : b.getLsbD i = bitAt b.toNat i := (bitAt_eq_testBit _ _).symm
  have hq : bitAt (bitsOf b.toNat 0 23) 22 = bitAt b.toNat 22 := by
    rw [bitAt_eq_testBit, bitAt_eq_testBit, bitsOf, pow_zero, Nat.div_one, Nat.testBit_mod_two_pow]; simp
  simp only [classOf, BitVec.extractLsb'_toNat, Nat.shiftRight_eq_div_pow, BitVec.msb_eq_getLsbD_last, hbit, hq]
  rfl

theorem fclassMask_eq (b : BitVec 32) : fclassMask b.toNat = 2 ^ classOf b := by
  have hman : bitsOf b.toNat 0 23 < 8388608 := Nat.mod_lt _ (by decide)
  have hdec : fp32.dec false b.toNat =
      if bitsOf b.toNat 23 8 = 255 then (if bitsOf b.toNat 0 23 = 0 then .inf (bitAt b.toNat 31) else .nan (bitAt b.toNat 31) (bitsOf b.toNat 0 23))
      else if bitsOf b.toNat 23 8 = 0 then .num (bitAt b.toNat 31) (bitsOf b.toNat 0 23) (-149)
      else .num (bitAt b.toNat 31) (bitsOf b.toNat 0 23 + 2 ^ 23) (bitsOf b.toNat 23 8 - 127 - 23) := by
    by_cases h255 : bitsOf b.toNat 23 8 = 255
    · by_cases hm : bitsOf b.toNat 0 23 = 0 <;> simp [Fmt.dec, fp32, h255, hm]
    · by_cases h0 : bitsOf b.toNat 23 8 = 0 <;> simp [Fmt.dec, fp32, Fmt.emin, h255, h0]
  have hsig (man : Nat) : fp32.signalling man = !bitAt man 22 := rfl
  rw [classOf_eq, fclassMask, hdec]
  generalize bitsOf b.toNat 23 8 = ex
  generalize bitsOf b.toNat 0 23 = man at *
  generalize bitAt b.toNat 31 = neg
  by_cases h255 : ex = 255
  · by_cases hm : man = 0
    · cases neg <;> simp [h255, hm]
    · cases hq : bitAt man 22 <;> simp [h255, hm, hsig, hq]
  by_cases h0 : ex = 0
  · by_cases hm : man = 0
    · cases neg <;> simp [h0, hm]
    · cases neg <;> simp [h0, hm, hman]
  · cases neg <;> simp [h255, h0]

theorem claim_floatBits : Claim.FloatBits := by
  intro s m
  refine ⟨fun x o u h => ?_, fun o u w h => ?_, fun o u h => ?_⟩
  · rw [← absCode_eq, ← negCode_eq (code_lt x u)]
    exact ⟨ends_funary (fun f _ c => (f.absCode c, {})) rfl h, ends_funary (fun f _ c => (f.negCode c, {})) rfl h⟩
  · obtain ⟨hg, ha, hx, hy⟩ := h
    refine ends_guarded (exec_fbit m o s) hg ?_
    have hbit : fp32.signed (w.getLsbD 31) (fp32.absCode (fp32.code u)) = u.toNat % 2 ^ 31 + w.toNat / 2 ^ 31 % 2 * 2 ^ 31 := by
      rw [absCode_eq, Fmt.code, Fmt.signed, Nat.add_comm, show w.getLsbD 31 = bitAt w.toNat 31 from (bitAt_eq_testBit _ _).symm]
      have hb : b2n (bitAt w.toNat 31) = w.toNat / 2 ^ 31 % 2 := by unfold b2n bitAt; split <;> simp_all
      have hu : u.toNat % 2 ^ fp32.width % 2 ^ (fp32.width - 1) = u.toNat % 2 ^ 31 := Nat.mod_mod_of_dvd _ (by decide)
      rw [hb, hu]
      rfl
    rw [binary_ok _ ha hx hy, hbit]
    rfl
  · obtain ⟨hg, ha, hx⟩ := h
    refine ends_guarded (exec_fclass m o s) hg ?_
    have hcode : fp32.code u = (u.setWidth 32).toNat := (BitVec.toNat_setWidth ..).symm
    have hmask : BitVec.ofNat 64 (2 ^ classOf (u.setWidth 32)) = (1 : Word) <<< classOf (u.setWidth 32) := by
      refine BitVec.eq_of_toNat_eq ?_
      rw [BitVec.toNat_ofNat, BitVec.toNat_shiftLeft, Nat.shiftLeft_eq]; simp
    rw [unary_ok _ ha hx, hcode, fclassMask_eq, hmask]
    rfl

end Sys2Proof.Machine
end

section
/-!
PROOFS. On finite operands the arithmetic forms round the exact result once (spec/03 R57 to R60, spec/12 R274).
-/
open Sys2Proof Sys2Proof.Machine Sys2Proof.Claim

namespace Sys2Proof.Machine

theorem op2_num {f : Fmt} {v : FEnv} {g : FVal → FVal → Nat × Sticky} {x y m n : Nat} {a b : Bool} {e d : Int} (hx : f.dec v.flush x = .num a m e)
    (hy : f.dec v.flush y = .num b n d) : f.op2 v g x y = g (.num a m e) (.num b n d) := by
  simp only [Fmt.op2, hx, hy, nansOf]

theorem op1_num {f : Fmt} {v : FEnv} {g : FVal → Nat × Sticky} {x m : Nat} {a : Bool} {e : Int} (hx : f.dec v.flush x = .num a m e) :
    f.op1 v g x = g (.num a m e) := by
  simp only [Fmt.op1, hx]

theorem inUnits_not (f : Fmt) (a : Bool) (m : Nat) (e : Int) : inUnits f (!a) m e = -inUnits f a m e := by
  cases a <;> simp [inUnits]

theorem inUnits_mul (f : Fmt) (a b : Bool) (m n : Nat) (e d : Int) :
    inUnits f (a != b) (m * n) (e + d) * 2 ^ (-f.least) = inUnits f a m e * inUnits f b n d := by
  have hp : (2 : ℝ) ^ (e + d - f.least) * 2 ^ (-f.least) = 2 ^ (e - f.least) * 2 ^ (d - f.least) := by
    rw [← zpow_add₀ two_ne_zero, ← zpow_add₀ two_ne_zero]; congr 1; ring
  have hs : (if (a != b) = true then (-1 : ℝ) else 1) = (if a = true then -1 else 1) * (if b = true then -1 else 1) := by cases a <;> cases b <;> simp
  rw [inUnits, inUnits, inUnits, hs]
  push_cast
  linear_combination (if a = true then (-1 : ℝ) else 1) * (if b = true then -1 else 1) * m * n * hp

theorem one_units_pos (f : Fmt) : 0 < one f := Nat.two_pow_pos _

theorem significand_eq_zero_iff {f : Fmt} {m : Nat} {e : Int} {n : Int} (h : (m : ℝ) * 2 ^ (e - f.least) = n.natAbs) : m = 0 ↔ n = 0 := by
  have hp : (2 : ℝ) ^ (e - f.least) ≠ 0 := (zpow_pos two_pos _).ne'
  rw [← Int.natAbs_eq_zero, ← Nat.cast_eq_zero (R := ℝ) (n := n.natAbs), ← h, mul_eq_zero, or_iff_left hp, Nat.cast_eq_zero]

/-- The root is taken of a significand at an even exponent (R60). -/
theorem sqrtVal_num (f : Fmt) (v : FEnv) {m : Nat} (hm : m ≠ 0) (e : Int) :
    ∃ m' e', f.sqrtVal v (.num false m e) = f.round v false m' e' ∧ StandsFor f m' e' (√(m * 2 ^ (e - f.least) * 2 ^ (-f.least))) := by
  simp only [Fmt.sqrtVal, if_neg hm, isqrt_from_zero, Bool.false_eq_true, if_false]
  rcases Int.even_or_odd' e with ⟨h, rfl | rfl⟩
  · have he : (2 * h % 2 == 1) = false := by rw [Int.mul_emod_right]; rfl
    have hh : 2 * h / 2 = h := by omega
    simp only [he, Bool.false_eq_true, if_false, hh]
    exact ⟨_, _, rfl, root_standsFor f hm h⟩
  · have he : ((2 * h + 1) % 2 == 1) = true := by rw [Int.mul_add_emod_self_left]; rfl
    have hh : (2 * h + 1 - 1) / 2 = h := by omega
    simp only [he, if_true, hh]
    have hx : (m : ℝ) * 2 ^ (2 * h + 1 - f.least) = (2 * m : Nat) * 2 ^ (2 * h - f.least) := by
      rw [show 2 * h + 1 - f.least = 2 * h - f.least + 1 by ring, zpow_add_one₀ two_ne_zero]; push_cast; ring
    rw [hx]
    exact ⟨_, _, rfl, root_standsFor f (Nat.mul_ne_zero two_ne_zero hm) h⟩

section
variable {f : Fmt} (hf : f ∈ scalarFormats) (v : FEnv)
include hf


/-- The sign of an exact sum, with that of an exact zero (R60). -/
def sumSign (v : FEnv) (a b : Bool) (n : Int) : Bool := if n = 0 then (if a = b then a else v.rnd == .rd) else decide (n < 0)

theorem sum_rounded {n1 n2 : Bool} {m1 m2 : Nat} {e1 e2 : Int} {N : Int} {K : Nat} (hK : 0 < K) (hN : (inUnits f n1 m1 e1 + inUnits f n2 m2 e2) * K = N) :
    Rounded f v (sumSign v n1 n2 N) (ratio N.natAbs K) (f.sum v n1 m1 e1 n2 m2 e2) := by
  obtain ⟨m, e, hr, hs⟩ := sum_spec f v n1 m1 e1 n2 m2 e2 hK hN
  rw [hr]
  exact round_rounded hf hs (tells_ratio _ hK) v _

variable {x y z : Nat} (hx : IsFinite f x) (hy : IsFinite f y)
include hx

include hy

theorem add_rounded : let N := number f (asRead f v.flush x) + number f (asRead f v.flush y)
    Rounded f v (sumSign v (minus f x) (minus f y) N) (ratio N.natAbs 1) (f.add v x y) := by
  obtain ⟨m, e, hd, -, hu⟩ := dec_number hf hx v.flush
  obtain ⟨n, d, hd', -, hu'⟩ := dec_number hf hy v.flush
  rw [Fmt.add, op2_num hd hd']
  exact sum_rounded hf v Nat.one_pos (by rw [hu, hu']; push_cast; ring)

theorem sub_rounded : let N := number f (asRead f v.flush x) - number f (asRead f v.flush y)
    Rounded f v (sumSign v (minus f x) (!minus f y) N) (ratio N.natAbs 1) (f.sub v x y) := by
  obtain ⟨m, e, hd, -, hu⟩ := dec_number hf hx v.flush
  obtain ⟨n, d, hd', -, hu'⟩ := dec_number hf hy v.flush
  rw [Fmt.sub, op2_num hd hd']
  exact sum_rounded hf v Nat.one_pos (by rw [inUnits_not, hu, hu']; push_cast; ring)

theorem mul_rounded : Rounded f v (minus f x != minus f y)
    (ratio (number f (asRead f v.flush x) * number f (asRead f v.flush y)).natAbs (one f)) (f.mul v x y) := by
  obtain ⟨m, e, hd, hu, -⟩ := dec_number hf hx v.flush
  obtain ⟨n, d, hd', hu', -⟩ := dec_number hf hy v.flush
  have hs := product_standsFor f m n e d
  rw [hu, hu', ← one_eq_zpow hf, ← Nat.cast_mul, ← Int.natAbs_mul] at hs
  rw [Fmt.mul, op2_num hd hd']
  exact round_rounded hf hs (tells_ratio _ (one_units_pos f)) v _

theorem div_rounded (h0 : number f (asRead f v.flush y) ≠ 0) : Rounded f v (minus f x != minus f y)
    (ratio ((number f (asRead f v.flush x)).natAbs * one f) (number f (asRead f v.flush y)).natAbs) (f.div v x y) := by
  obtain ⟨m, e, hd, hu, -⟩ := dec_number hf hx v.flush
  obtain ⟨n, d, hd', hu', -⟩ := dec_number hf hy v.flush
  have hn : n ≠ 0 := mt (significand_eq_zero_iff hu').1 h0
  have hs := quotient_standsFor f m hn e d
  rw [hu, hu', ← one_eq_zpow hf, ← Nat.cast_mul] at hs
  rw [Fmt.div, op2_num hd hd', Fmt.divVal, if_neg hn]
  exact round_rounded hf hs (tells_ratio _ (Int.natAbs_pos.2 h0)) v _

theorem div_by_zero (h0 : number f (asRead f v.flush y) = 0) (h : number f (asRead f v.flush x) ≠ 0) :
    f.div v x y = (signed f (minus f x != minus f y) f.infCode, { fz := true }) := by
  obtain ⟨m, e, hd, hu, -⟩ := dec_number hf hx v.flush
  obtain ⟨n, d, hd', hu', -⟩ := dec_number hf hy v.flush
  rw [Fmt.div, op2_num hd hd', Fmt.divVal, if_pos ((significand_eq_zero_iff hu').2 h0), if_neg (mt (significand_eq_zero_iff hu).1 h), signed_eq]

theorem div_zero_by_zero (h0 : number f (asRead f v.flush y) = 0) (h : number f (asRead f v.flush x) = 0) :
    f.div v x y = (f.infCode + 2 ^ (f.mb - 1), { fi := true }) := by
  obtain ⟨m, e, hd, hu, -⟩ := dec_number hf hx v.flush
  obtain ⟨n, d, hd', hu', -⟩ := dec_number hf hy v.flush
  rw [Fmt.div, op2_num hd hd', Fmt.divVal, if_pos ((significand_eq_zero_iff hu').2 h0), if_pos ((significand_eq_zero_iff hu).2 h), Fmt.invalid,
    canon_eq hf]

theorem fma_rounded (hz : IsFinite f z) :
    let N := number f (asRead f v.flush x) * one f + number f (asRead f v.flush y) * number f (asRead f v.flush z)
    Rounded f v (sumSign v (minus f x) (minus f y != minus f z) N) (ratio N.natAbs (one f)) (f.fma v x y z) := by
  obtain ⟨m, e, hd, -, hu⟩ := dec_number hf hx v.flush
  obtain ⟨n, d, hd', -, hu'⟩ := dec_number hf hy v.flush
  obtain ⟨l, c, hd'', -, hu''⟩ := dec_number hf hz v.flush
  have hm := inUnits_mul f (minus f y) (minus f z) n l d c
  rw [← one_eq_zpow hf, hu', hu''] at hm
  have hr : f.fma v x y z = f.sum v (minus f x) m e (minus f y != minus f z) (n * l) (d + c) := by
    simp only [Fmt.fma, hd, hd', hd'', nansOf, Fmt.fmaVal, Fmt.addVal]
  rw [hr]
  exact sum_rounded hf v (one_units_pos f) (by rw [add_mul, hm, hu]; push_cast; ring)

omit hy

theorem rcp_rounded (h0 : number f (asRead f v.flush x) ≠ 0) :
    Rounded f v (minus f x) (ratio (one f * one f) (number f (asRead f v.flush x)).natAbs) (f.rcp v x) := by
  obtain ⟨m, e, hd, hu, -⟩ := dec_number hf hx v.flush
  have hm : m ≠ 0 := mt (significand_eq_zero_iff hu).1 h0
  have hs := quotient_standsFor f 1 hm 0 e
  rw [hu, zero_sub (f.least), ← one_eq_zpow hf, Nat.cast_one, one_mul] at hs
  have ht := tells_ratio (one f * one f) (Int.natAbs_pos.2 h0)
  rw [Nat.cast_mul] at ht
  rw [Fmt.rcp, op1_num hd, Fmt.divVal, if_neg hm, Bool.false_bne]
  exact round_rounded hf hs ht v _

theorem rcp_zero (h0 : number f (asRead f v.flush x) = 0) : f.rcp v x = (signed f (minus f x) f.infCode, { fz := true }) := by
  obtain ⟨m, e, hd, hu, -⟩ := dec_number hf hx v.flush
  rw [Fmt.rcp, op1_num hd, Fmt.divVal, if_pos ((significand_eq_zero_iff hu).2 h0), if_neg one_ne_zero, Bool.false_bne, signed_eq]

theorem sqrt_rounded (h0 : 0 ≤ number f (asRead f v.flush x)) :
    Rounded f v (minus f x) (fun n => compare (4 * (number f (asRead f v.flush x)).natAbs * one f) (n * n)) (f.sqrt v x) := by
  obtain ⟨m, e, hd, hu, hv⟩ := dec_number hf hx v.flush
  have ht := tells_root (number f (asRead f v.flush x)).natAbs (one f)
  rw [Fmt.sqrt, op1_num hd]
  by_cases hm : m = 0
  · have hr : f.sqrtVal v (.num (minus f x) m e) = f.round v (minus f x) 0 0 := by simp [Fmt.sqrtVal, Fmt.round, hm]
    rw [hr]
    exact round_rounded hf (.inl (by simp [(significand_eq_zero_iff hu).1 hm])) ht v _
  · have hneg : minus f x = false := by
      rw [← Bool.not_eq_true]
      intro hb
      have hlt : (0 : ℝ) < m * 2 ^ (e - f.least) := mul_pos (Nat.cast_pos.2 (Nat.pos_of_ne_zero hm)) (zpow_pos two_pos _)
      have h0' : (0 : ℝ) ≤ number f (asRead f v.flush x) := Int.cast_nonneg h0
      rw [← hv, inUnits, hb, if_pos rfl] at h0'
      linarith
    obtain ⟨m', e', hr, hs⟩ := sqrtVal_num f v hm e
    rw [hu, ← one_eq_zpow hf] at hs
    rw [hneg, hr]
    exact round_rounded hf hs ht v _

theorem sqrt_negative (h0 : number f (asRead f v.flush x) < 0) : f.sqrt v x = (f.infCode + 2 ^ (f.mb - 1), { fi := true }) := by
  obtain ⟨m, e, hd, hu, hv⟩ := dec_number hf hx v.flush
  have hm : m ≠ 0 := mt (significand_eq_zero_iff hu).1 h0.ne
  have hneg : minus f x = true := by
    rw [← minus_asRead v.flush]
    by_contra hb
    rw [number, if_neg hb] at h0
    omega
  rw [Fmt.sqrt, op1_num hd, Fmt.sqrtVal, if_neg hm, if_pos hneg, Fmt.invalid, canon_eq hf]

end

end Sys2Proof.Machine
end

section
/-!
PROOFS. Rounding to integers and the conversions (spec/03 R57, R63, spec/12 R277, R278).
-/
open Sys2Proof Sys2Proof.Machine Sys2Proof.Claim

namespace Sys2Proof.Machine

/-! ## Rounding to an integer -/

theorem natAbs_number (f : Fmt) (c : Nat) : (number f c).natAbs = units f c := by
  unfold number
  split <;> simp

/-- One is a power of two of units. -/
theorem exists_one_eq {f : Fmt} (hf : f ∈ scalarFormats) : ∃ K : Nat, f.least = -K ∧ one f = 2 ^ K := by
  have := scalar_bias f hf
  exact ⟨f.mb + f.bias - 1, by simp only [Fmt.least, Fmt.emin]; omega, rfl⟩

/-- Whether the quotient n of a division by d, which leaves the rest r, becomes the next integer (R57). -/
def takesNext (rnd : Rnd) (neg : Bool) (d n r : Nat) : Bool :=
  match rnd with
  | .rne => decide (d < 2 * r) || (2 * r == d && n % 2 == 1)
  | .rz => false
  | .ru => r != 0 && !neg
  | .rd => r != 0 && neg

theorem roundMag_of_pos {sh : Int} (h : ¬ sh ≤ 0) (rnd : Rnd) (neg : Bool) (m : Nat) : roundMag rnd neg m sh =
    (m / 2 ^ sh.toNat + b2n (takesNext rnd neg (2 ^ sh.toNat) (m / 2 ^ sh.toNat) (m % 2 ^ sh.toNat)), m % 2 ^ sh.toNat != 0) := if_neg h

theorem integer_eq (rnd : Rnd) (f : Fmt) (neg : Bool) (x : Nat) :
    integer rnd f neg x = x / one f + b2n (takesNext rnd neg (one f) (x / one f) (x % one f)) := by
  change (if takesNext rnd neg (one f) (x / one f) (x % one f) = true then x / one f + 1 else x / one f) = _
  unfold b2n
  split <;> rfl

theorem takesNext_zero (rnd : Rnd) (neg : Bool) {d : Nat} (n : Nat) (hd : 0 < d) : takesNext rnd neg d n 0 = false := by
  cases rnd <;> simp [takesNext, hd.ne]

theorem takesNext_scale (rnd : Rnd) (neg : Bool) (d n r : Nat) {c : Nat} (hc : 0 < c) :
    takesNext rnd neg (d * c) n (r * c) = takesNext rnd neg d n r := by
  rw [Bool.eq_iff_iff]
  cases rnd <;> simp [takesNext, ← Nat.mul_assoc, hc, hc.ne']

/-- An integer of units has itself as the integer that a mode chooses. -/
theorem integer_mul_one (rnd : Rnd) (f : Fmt) (neg : Bool) (n : Nat) : integer rnd f neg (n * one f) = n := by
  rw [integer_eq, Nat.mul_div_cancel _ (one_units_pos f), Nat.mul_mod_left, takesNext_zero rnd neg n (one_units_pos f)]
  rfl

theorem roundMag_integer {f : Fmt} (hf : f ∈ scalarFormats) (rnd : Rnd) (neg : Bool) (m t : Nat) :
    roundMag rnd neg m (-(f.least + t)) = (integer rnd f neg (m * 2 ^ t), decide (m * 2 ^ t % one f ≠ 0)) := by
  obtain ⟨K, hl, ho⟩ := exists_one_eq hf
  by_cases h : K ≤ t
  · obtain ⟨j, rfl⟩ := Nat.exists_eq_add_of_le h
    have hsh : -(f.least + (K + j : Nat)) ≤ 0 := by omega
    have hj : (- -(f.least + (K + j : Nat))).toNat = j := by omega
    have hx : m * 2 ^ (K + j) = m * 2 ^ j * one f := by rw [ho, Nat.pow_add]; ring
    rw [roundMag, if_pos hsh, hj, hx, integer_mul_one, Nat.mul_mod_left]
    rfl
  · obtain ⟨j, rfl⟩ := Nat.exists_eq_add_of_le (Nat.le_of_not_le h)
    have hp := Nat.two_pow_pos t
    have hsh : ¬ -(f.least + t) ≤ 0 := by omega
    have ht : (-(f.least + t)).toNat = j := by omega
    have hx : one f = 2 ^ j * 2 ^ t := by rw [ho, Nat.pow_add, Nat.mul_comm]
    rw [roundMag_of_pos hsh, ht, integer_eq, hx, Nat.mul_div_mul_right _ _ hp, Nat.mul_mod_mul_right, takesNext_scale _ _ _ _ _ hp]
    rw [Prod.mk.injEq, Bool.eq_iff_iff]
    simp

theorem integer_le (rnd : Rnd) (f : Fmt) (neg : Bool) {x n : Nat} (h : x < n * one f) : integer rnd f neg x ≤ n := by
  have : x / one f < n := (Nat.div_lt_iff_lt_mul (one_units_pos f)).2 h
  rw [integer_eq]
  unfold b2n
  split <;> omega

/-- A number of no more bits than the format keeps is that of a code. -/
theorem Fmt.exists_grid_eq (f : Fmt) (t : Nat) {n : Nat} (hn : n ≤ 2 ^ (f.mb + 1)) : ∃ k, f.grid k = n * 2 ^ t := by
  induction t generalizing n with
  | zero => exact ⟨0 * 2 ^ f.mb + n, f.grid_place hn (.inl rfl)⟩
  | succ t ih =>
    by_cases h : 2 ^ f.mb ≤ n
    · exact ⟨_, f.grid_place hn (.inr h)⟩
    · obtain ⟨k, hk⟩ := ih (n := 2 * n) (by rw [Nat.pow_succ]; omega)
      exact ⟨k, by rw [hk, Nat.pow_succ]; ring⟩

theorem scalar_integers_fit : ∀ f ∈ scalarFormats, 2 ^ (f.mb + 1) * one f < f.grid f.infCode := by decide

/-- An integer of no more bits than the format keeps rounds to its code. -/
theorem round_integer {f : Fmt} (hf : f ∈ scalarFormats) (neg : Bool) {n : Nat} (hn : n ≤ 2 ^ (f.mb + 1)) :
    ∃ k, k < f.infCode ∧ f.grid k = n * one f ∧ f.round {} neg n 0 = (signed f neg k, {}) := by
  obtain ⟨K, hl, ho⟩ := exists_one_eq hf
  obtain ⟨k, hk⟩ := f.exists_grid_eq K hn
  rw [← ho] at hk
  have hlt : k < f.infCode := f.grid_strictMono.lt_iff_lt.1 <| by
    rw [hk]; exact (Nat.mul_le_mul_right _ hn).trans_lt (scalar_integers_fit f hf)
  have hs : StandsFor f n 0 (f.grid k) := .inl (by rw [hk, zero_sub, ← one_eq_zpow hf, Nat.cast_mul])
  exact ⟨k, hlt, hk, by rw [round_exact (scalar_mb_pos hf) hs, finish_kept neg false rfl (by rw [maxCode_eq hf]; omega)]⟩

/-- An operand that is not zero as read is read as it stands. -/
theorem asRead_of_ne_zero {f : Fmt} {flush : Bool} {c : Nat} (h : units f (asRead f flush c) ≠ 0) : asRead f flush c = c := by
  unfold asRead at *
  split
  next hz => rw [if_pos hz, units_eq, magnitude_signed _ (Nat.two_pow_pos _), f.grid_zero] at h; exact absurd rfl h
  next => rfl

theorem integral_eq {f : Fmt} (hf : f ∈ scalarFormats) (v : FEnv) {x : Nat} (hx : IsFinite f x) (hw : x < 2 ^ f.width) :
    ∃ r, f.integral v x = (r, {}) ∧ r < 2 ^ f.width ∧ minus f r = minus f x ∧
      units f r = integer v.rnd f (minus f x) (units f (asRead f v.flush x)) * one f := by
  obtain ⟨m, t, hd, hu, hm⟩ := dec_finite hf hx v.flush
  obtain ⟨K, hl, ho⟩ := exists_one_eq hf
  have hinf := (scalar_infCode f hf).2
  simp only [Fmt.integral, hd]
  by_cases h0 : m = 0
  · have hint := integer_mul_one v.rnd f (minus f x) 0
    rw [Nat.zero_mul] at hint
    refine ⟨signed f (minus f x) 0, by rw [if_pos h0, signed_eq], signed_lt _ (Nat.two_pow_pos _), minus_signed _ (Nat.two_pow_pos _), ?_⟩
    rw [units_eq, magnitude_signed _ (Nat.two_pow_pos _), f.grid_zero, hu, h0, Nat.zero_mul, hint, Nat.zero_mul]
  by_cases he : 0 ≤ f.least + (t : Int)
  · have hread : asRead f v.flush x = x := asRead_of_ne_zero (by rw [hu]; exact Nat.mul_ne_zero h0 (Nat.two_pow_pos t).ne')
    obtain ⟨j, rfl⟩ := Nat.exists_eq_add_of_le (show K ≤ t by omega)
    have hone : m * 2 ^ (K + j) = m * 2 ^ j * one f := by rw [ho, Nat.pow_add]; ring
    refine ⟨x, by rw [if_neg h0, if_pos he], hw, rfl, ?_⟩
    rw [hread] at hu ⊢
    rw [hu, hone, integer_mul_one]
  · have hlt : m * 2 ^ t < 2 ^ (f.mb + 1) * one f := by
      calc m * 2 ^ t < 2 ^ (f.mb + 1) * 2 ^ t := Nat.mul_lt_mul_of_pos_right hm (Nat.two_pow_pos t)
        _ ≤ 2 ^ (f.mb + 1) * one f := Nat.mul_le_mul_left _ (by rw [ho]; exact Nat.pow_le_pow_right (by decide) (by omega))
    obtain ⟨k, hk, hg, hr⟩ := round_integer hf (minus f x) (integer_le v.rnd f (minus f x) hlt)
    refine ⟨signed f (minus f x) k, ?_, signed_lt _ (hk.trans hinf), minus_signed _ (hk.trans hinf), ?_⟩
    · rw [if_neg h0, if_neg he, roundMag_integer hf, hr]
    · rw [units_eq, magnitude_signed _ (hk.trans hinf), hg, hu]

/-! ## Conversions -/

theorem convert_rounded {g f : Fmt} (hg : g ∈ scalarFormats) (hf : f ∈ scalarFormats) (v : FEnv) {c : Nat} (hc : IsFinite g c) :
    Rounded f v (minus g c) (ratio (units g (asRead g v.flush c) * one f) (one g)) (g.convert f v c) := by
  obtain ⟨m, e, hd, hu, -⟩ := dec_number hg hc v.flush
  rw [natAbs_number] at hu
  have hs : StandsFor f m e ((units g (asRead g v.flush c) * one f : Nat) / one g) := by
    left
    rw [Nat.cast_mul, ← hu, one_eq_zpow hf, one_eq_zpow hg, div_eq_mul_inv, ← zpow_neg, mul_assoc, mul_assoc,
      ← zpow_add₀ two_ne_zero, ← zpow_add₀ two_ne_zero]
    congr 2; ring
  rw [Fmt.convert, hd, Fmt.ofVal]
  exact round_rounded hf hs (tells_ratio _ (one_units_pos g)) v _

theorem ofInt_rounded {f : Fmt} (hf : f ∈ scalarFormats) (v : FEnv) (n : Int) :
    Rounded f v (decide (n < 0)) (ratio (n.natAbs * one f) 1) (f.ofInt v n) := by
  have hs : StandsFor f n.natAbs 0 ((n.natAbs * one f : Nat) / (1 : Nat)) := .inl (by rw [zero_sub, ← one_eq_zpow hf]; simp)
  exact round_rounded hf hs (tells_ratio _ Nat.one_pos) v _

theorem toInt_eq {g : Fmt} (hg : g ∈ scalarFormats) (v : FEnv) (t : IntTy) {c : Nat} (hc : IsFinite g c) :
    let x := units g (asRead g v.flush c)
    let n : Int := if minus g c then -(integer v.rnd g (minus g c) x : Int) else integer v.rnd g (minus g c) x
    g.toInt v t c = if n < t.minVal then (t.minVal, { fi := true }) else if t.maxVal < n then (t.maxVal, { fi := true })
      else (n, { fx := decide (x % one g ≠ 0) }) := by
  obtain ⟨m, k, hd, hu, -⟩ := dec_finite hg hc v.flush
  simp only [Fmt.toInt, hd, roundMag_integer hg, hu]

theorem IntTy.write_of_range {t : IntTy} (hw : 1 ≤ t.w) {n : Int} (hmin : t.minVal ≤ n) (hmax : n ≤ t.maxVal) :
    t.write false n = BitVec.ofInt 64 n := by
  obtain ⟨w, sgn⟩ := t
  obtain ⟨k, rfl⟩ := Nat.exists_eq_add_of_le' hw
  have hp : (2 ^ (k + 1) : Nat) = 2 * 2 ^ k := by rw [Nat.pow_succ, Nat.mul_comm]
  have hpos := Nat.two_pow_pos k
  simp only [IntTy.minVal, IntTy.maxVal, IntTy.write, Bool.false_eq_true, if_false, Nat.add_sub_cancel, hp] at hmin hmax ⊢
  cases sgn
  · simp only [Bool.false_eq_true, if_false] at hmin hmax ⊢
    rw [Int.emod_eq_of_lt hmin (by omega)]
    obtain ⟨j, rfl⟩ := Int.eq_ofNat_of_zero_le hmin
    rfl
  · simp only [if_true] at hmin hmax ⊢
    congr 1
    rcases lt_or_ge n 0 with h | h
    · rw [← Int.add_emod_right, Int.emod_eq_of_lt (by omega) (by omega), sval, hp, Nat.add_sub_cancel, Nat.mod_eq_of_lt (by omega), if_neg (by omega)]
      omega
    · rw [Int.emod_eq_of_lt h (by omega), sval, hp, Nat.add_sub_cancel, Nat.mod_eq_of_lt (by omega), if_pos (by omega)]
      omega

end Sys2Proof.Machine
end

section
/-!
PROOFS. Comparisons and extremes follow the order of the numbers (spec/12 R274, R276).
-/
open Sys2Proof Sys2Proof.Machine Sys2Proof.Claim

namespace Sys2Proof.Machine

theorem num_lt_num (f : Fmt) (a b : Bool) (m n : Nat) (e d : Int) : (FVal.num a m e).lt (.num b n d) = decide (inUnits f a m e < inUnits f b n d) := by
  have hp : (0 : ℝ) < 2 ^ (min e d - f.least) := zpow_pos two_pos _
  rw [← cast_scaled f a m (min_le_left e d), ← cast_scaled f b n (min_le_right e d)]
  simp only [FVal.lt, mul_lt_mul_iff_left₀ hp, Int.cast_lt]

theorem isFinite_or {f : Fmt} {c : Nat} (h : ¬ IsNan f c) : IsFinite f c ∨ magnitude f c = f.infCode :=
  lt_or_eq_of_le (Nat.le_of_not_lt h)

theorem nansOf_nan {f : Fmt} (hf : f ∈ scalarFormats) (flush : Bool) {c : Nat} (h : IsNan f c) (rest : List FVal) :
    nansOf (f.dec flush c :: rest) = (minus f c, magnitude f c % 2 ^ f.mb) :: nansOf rest := by
  rw [dec_nan hf h, nansOf]

theorem nansOf_not_nan {f : Fmt} (hf : f ∈ scalarFormats) (flush : Bool) {c : Nat} (h : ¬ IsNan f c) (rest : List FVal) :
    nansOf (f.dec flush c :: rest) = nansOf rest := by
  rcases isFinite_or h with h | h
  · obtain ⟨m, e, hd, -⟩ := dec_number hf h flush
    rw [hd, nansOf]; simp
  · rw [dec_inf hf h, nansOf]; simp

/-- Equal numbers of one sign have equal codes. -/
theorem eq_of_units_eq {f : Fmt} {a b : Nat} (ha : a < 2 ^ f.width) (hb : b < 2 ^ f.width) (hs : minus f a = minus f b) (hu : units f a = units f b) :
    a = b := by
  rw [← signed_minus_magnitude ha, ← signed_minus_magnitude hb, hs, f.grid_strictMono.injective hu]

theorem dec_neg (f : Fmt) (flush : Bool) (c : Nat) : (f.dec flush c).neg = minus f c := by
  rw [dec_eq]
  dsimp only
  split
  · split <;> rfl
  split
  · rfl
  split <;> rfl

section
variable {f : Fmt} (hf : f ∈ scalarFormats) (flush : Bool)
include hf

theorem asRead_infinite {c : Nat} (h : magnitude f c = f.infCode) : asRead f flush c = c := by
  have := (scalar_infCode f hf).1
  exact if_neg fun hz => by omega

variable {x y : Nat} (hx : ¬ IsNan f x) (hy : ¬ IsNan f y)
include hx hy

theorem dec_lt : (f.dec flush x).lt (f.dec flush y) = decide (number f (asRead f flush x) < number f (asRead f flush y)) := by
  have fin {c : Nat} (h : IsFinite f c) : (number f (asRead f flush c)).natAbs < f.grid f.infCode := by
    rw [natAbs_number, units_eq]; exact f.grid_strictMono ((magnitude_asRead_le flush c).trans_lt h)
  have inf {c : Nat} (h : magnitude f c = f.infCode) : number f (asRead f flush c) =
      if minus f c then -(f.grid f.infCode : Int) else f.grid f.infCode := by
    rw [asRead_infinite hf flush h, number, units_eq, h]
  have hpos : 0 < f.grid f.infCode := by
    have := f.grid_strictMono ((Nat.two_pow_pos f.mb).trans (scalar_infCode f hf).1)
    omega
  rcases isFinite_or hx with h | h <;> rcases isFinite_or hy with h' | h'
  · obtain ⟨m, e, hd, -, hu⟩ := dec_number hf h flush
    obtain ⟨n, d, hd', -, hu'⟩ := dec_number hf h' flush
    rw [hd, hd', num_lt_num f, hu, hu']
    simp
  · obtain ⟨m, e, hd, -, -⟩ := dec_number hf h flush
    have := fin h
    rw [hd, dec_inf hf h', inf h']
    cases hs : minus f y <;> simp [FVal.lt] <;> omega
  · obtain ⟨n, d, hd', -, -⟩ := dec_number hf h' flush
    have := fin h'
    rw [hd', dec_inf hf h, inf h]
    cases hs : minus f x <;> simp [FVal.lt] <;> omega
  · rw [dec_inf hf h, dec_inf hf h', inf h, inf h']
    cases hs : minus f x <;> cases hs' : minus f y <;> simp [FVal.lt, hpos]

theorem nansOf_ordered : nansOf [f.dec flush x, f.dec flush y] = [] := by
  rw [nansOf_not_nan hf flush hx, nansOf_not_nan hf flush hy, nansOf]

theorem dec_eq_number : (f.dec flush x).eq (f.dec flush y) = decide (number f (asRead f flush x) = number f (asRead f flush y)) := by
  have not_nan {c : Nat} (h : ¬ IsNan f c) : (f.dec flush c).isNan = false := by
    rcases isFinite_or h with h | h
    · obtain ⟨m, e, hd, -⟩ := dec_number hf h flush
      rw [hd]; rfl
    · rw [dec_inf hf h]; rfl
  rw [FVal.eq, not_nan hx, not_nan hy, dec_lt hf flush hx hy, dec_lt hf flush hy hx, Bool.eq_iff_iff]
  simp
  omega

theorem cmp_ordered (k : FCond) : f.cmp flush k x y =
    (match k with
      | .eq => decide (number f (asRead f flush x) = number f (asRead f flush y))
      | .lt => decide (number f (asRead f flush x) < number f (asRead f flush y))
      | .le => decide (number f (asRead f flush x) ≤ number f (asRead f flush y))
      | .un => false, {}) := by
  simp only [Fmt.cmp, nansOf_ordered hf flush hx hy]
  cases k
  case eq => rw [dec_eq_number hf flush hx hy]; rfl
  case lt => rw [dec_lt hf flush hx hy]; rfl
  case le => rw [dec_lt hf flush hy hx, ← decide_not]; simp only [not_lt]; rfl
  case un => rfl

/-! ## Extremes -/

omit hy in
theorem asRead_eq (hw : x < 2 ^ f.width) : f.asRead flush x = asRead f flush x := by
  rcases isFinite_or hx with h | h
  · obtain ⟨m, t, hd, hu, -⟩ := dec_finite hf h flush
    cases m with
    | zero =>
      have hz : f.asRead flush x = signed f (minus f x) 0 := by simp only [Fmt.asRead, hd, signed_eq]
      rw [hz]
      refine eq_of_units_eq (signed_lt _ (Nat.two_pow_pos _)) (asRead_lt flush hw) ?_ ?_
      · rw [minus_signed _ (Nat.two_pow_pos _), minus_asRead]
      · rw [hu, Nat.zero_mul, units_eq, magnitude_signed _ (Nat.two_pow_pos _), f.grid_zero]
    | succ m =>
      have hread := asRead_of_ne_zero (flush := flush) (by rw [hu]; exact Nat.mul_ne_zero m.succ_ne_zero (Nat.two_pow_pos t).ne')
      rw [hread]
      simp only [Fmt.asRead, hd]
  · simp only [Fmt.asRead, dec_inf hf h, asRead_infinite hf flush h]

/-- Whether x comes before y in the order in which −0 stands below +0. -/
def FVal.before (a b : FVal) : Bool := a.lt b || (!b.lt a && a.neg && !b.neg)

theorem before_iff : (f.dec flush x).before (f.dec flush y) = decide (rank f (asRead f flush x) < rank f (asRead f flush y)) := by
  rw [FVal.before, dec_lt hf flush hx hy, dec_lt hf flush hy hx, dec_neg, dec_neg, rank, rank, number, number, minus_asRead, minus_asRead, Bool.eq_iff_iff]
  cases minus f x <;> cases minus f y <;> simp <;> omega

omit hf hx hy in
theorem eq_of_rank_eq (hw : x < 2 ^ f.width) (hw' : y < 2 ^ f.width) (h : rank f x = rank f y) : x = y := by
  unfold rank at h
  refine eq_of_units_eq hw hw' ?_ ?_ <;> cases hx : minus f x <;> cases hy : minus f y <;> simp [hx, hy] at h ⊢ <;> omega

theorem minMax_ordered (v : FEnv) (hv : v.flush = flush) (hw : x < 2 ^ f.width) (hw' : y < 2 ^ f.width) :
    let a := asRead f flush x
    let b := asRead f flush y
    f.minMax v true x y = (if rank f a ≤ rank f b then a else b, {}) ∧ f.minMax v false x y = (if rank f a ≤ rank f b then b else a, {}) := by
  intro a b
  have hr (isMin : Bool) : f.minMax v isMin x y = (if (decide (rank f a < rank f b) == isMin) then a else b, {}) := by
    have hb := before_iff hf flush hx hy
    rw [FVal.before] at hb
    simp only [Fmt.minMax, hv, nansOf_ordered hf flush hx hy, hb, a, b, ← asRead_eq hf flush hx hw, ← asRead_eq hf flush hy hw']
    split <;> rfl
  rw [hr, hr]
  rcases lt_trichotomy (rank f a) (rank f b) with h | h | h
  · simp [h, h.le]
  · have hab : a = b := eq_of_rank_eq (asRead_lt flush hw) (asRead_lt flush hw') h
    simp [hab]
  · simp [h.not_gt, h.not_ge]

end

/-! ## Comparisons with a NaN -/

/-- A code that is a signalling NaN, as the statements say it. -/
def signals (f : Fmt) (c : Nat) : Bool := decide (f.infCode < magnitude f c) && !c.testBit (f.mb - 1)

theorem signalling_eq {f : Fmt} (hf : f ∈ scalarFormats) {c : Nat} (h : IsNan f c) : f.signalling (magnitude f c % 2 ^ f.mb) = signals f c := by
  have hmb := scalar_mb_pos hf
  have hbit : bitAt (magnitude f c % 2 ^ f.mb) (f.mb - 1) = c.testBit (f.mb - 1) := by
    rw [bitAt_eq_testBit, magnitude, Nat.testBit_mod_two_pow, Nat.testBit_mod_two_pow, decide_eq_true (by omega), decide_eq_true (by omega)]
    simp
  have h' : f.infCode < magnitude f c := h
  simp [Fmt.signalling, signals, scalar_kind f hf, hbit, h']

theorem any_signalling {f : Fmt} (hf : f ∈ scalarFormats) (flush : Bool) (c : Nat) (rest : List FVal) :
    ((nansOf (f.dec flush c :: rest)).any fun n => f.signalling n.2) = (signals f c || (nansOf rest).any fun n => f.signalling n.2) := by
  by_cases h : IsNan f c
  · rw [nansOf_nan hf flush h, List.any_cons, signalling_eq hf h]
  · have hs : signals f c = false := by simp only [signals, show ¬ f.infCode < magnitude f c from h]; simp
    rw [nansOf_not_nan hf flush h, hs, Bool.false_or]

theorem cmp_nan {f : Fmt} (hf : f ∈ scalarFormats) (flush : Bool) {x y : Nat} (h : IsNan f x ∨ IsNan f y) (k : FCond) : f.cmp flush k x y =
    (match k with | .un => true | _ => false, { fi := match k with | .lt => true | .le => true | _ => signals f x || signals f y }) := by
  have hsig : ((nansOf [f.dec flush x, f.dec flush y]).any fun n => f.signalling n.2) = (signals f x || signals f y) := by
    rw [any_signalling hf, any_signalling hf, nansOf]; simp
  have hun : (nansOf [f.dec flush x, f.dec flush y]).isEmpty = false := by
    by_cases hx : IsNan f x
    · rw [nansOf_nan hf flush hx]; rfl
    · rw [nansOf_not_nan hf flush hx, nansOf_nan hf flush (h.resolve_left hx)]; rfl
  have heq : (f.dec flush x).eq (f.dec flush y) = false := by
    rcases h with h | h <;> simp [FVal.eq, dec_nan hf h, FVal.isNan]
  simp only [Fmt.cmp, hsig, hun]
  cases k
  case eq => rw [heq]
  all_goals rfl

end Sys2Proof.Machine
end

section
/-!
PROOFS. The statement on exact results of page 2 (spec/12 R273 to R277).
-/
open Sys2Proof Sys2Proof.Machine Sys2Proof.Claim

namespace Sys2Proof.Machine

theorem ends_fma {s : State} {m : Mods} {x : Option ArithX} {o : OpABC} {u v w : Word} (h : Tern s m o u v w) :
    Ends (.fma m x o) m s (ternDone s o (fl ((format x).fma (env s x) (code x u) (code x v) (code x w)))) :=
  (claim_floatArithmetic s m x).2.1 o u v w h

theorem claim_floatExact : Claim.FloatExact := by
  intro s m x f v num neg fin sign
  have hf : f ∈ scalarFormats := format_mem x
  refine ⟨fun o u w h hu hw => ⟨?_, ?_, ?_, fun h0 => ?_, fun h0 h1 => ?_, fun h0 h1 => ?_⟩, fun o u b c h hu hb hc => ?_,
    fun o u h hu => ⟨fun h0 => ?_, fun h0 => ?_, fun h0 => ?_, fun h0 => ?_, ?_⟩,
    fun o u w h hu hw => ?_, fun o u w hg hx hy => ⟨fun hu hw => ?_, fun hn => ?_⟩⟩
  · exact ⟨_, ends_fbinary Fmt.add rfl h, add_rounded hf v hu hw⟩
  · exact ⟨_, ends_fbinary Fmt.sub rfl h, sub_rounded hf v hu hw⟩
  · exact ⟨_, ends_fbinary Fmt.mul rfl h, mul_rounded hf v hu hw⟩
  · exact ⟨_, ends_fbinary Fmt.div rfl h, div_rounded hf v hu hw h0⟩
  · have he := ends_fbinary (i := .fdiv m x o) Fmt.div rfl h
    rwa [div_by_zero hf v hu hw h0 h1] at he
  · have he := ends_fbinary (i := .fdiv m x o) Fmt.div rfl h
    rwa [div_zero_by_zero hf v hu hw h0 h1] at he
  · exact ⟨_, ends_fma h, fma_rounded hf v hu hb hc⟩
  · exact ⟨_, ends_funary Fmt.rcp rfl h, rcp_rounded hf v hu h0⟩
  · have he := ends_funary (i := .frcp m x o) Fmt.rcp rfl h
    rwa [rcp_zero hf v hu h0] at he
  · exact ⟨_, ends_funary Fmt.sqrt rfl h, sqrt_rounded hf v hu h0⟩
  · have he := ends_funary (i := .fsqrt m x o) Fmt.sqrt rfl h
    rwa [sqrt_negative hf v hu h0] at he
  · obtain ⟨r, hr, hw, hs, hi⟩ := integral_eq hf v hu (code_lt x u)
    have he := ends_funary (i := .fround m x o) Fmt.integral rfl h
    rw [hr] at he
    exact ⟨r, he, hw, hs, by rw [hi, ← natAbs_number]⟩
  · have he := ends_fbinary (i := .fmin m x o) (fun f v => f.minMax v true) rfl h
    have he' := ends_fbinary (i := .fmax m x o) (fun f v => f.minMax v false) rfl h
    obtain ⟨hmin, hmax⟩ := minMax_ordered hf v.flush hu hw v rfl (code_lt x u) (code_lt x w)
    exact ⟨hmin ▸ he, hmax ▸ he'⟩
  · have key (k : FCond) := cmp_ordered hf s.me.flush hu hw k
    exact ⟨key .eq ▸ ends_fcompare rfl hg hx hy, key .lt ▸ ends_fcompare rfl hg hx hy,
      key .le ▸ ends_fcompare rfl hg hx hy, key .un ▸ ends_fcompare rfl hg hx hy⟩
  · have key (k : FCond) := cmp_nan hf s.me.flush hn k
    exact ⟨key .eq ▸ ends_fcompare rfl hg hx hy, key .lt ▸ ends_fcompare rfl hg hx hy,
      key .le ▸ ends_fcompare rfl hg hx hy, key .un ▸ ends_fcompare rfl hg hx hy⟩

end Sys2Proof.Machine
end

section
/-!
PROOFS. fcvt on finite numbers and integers (spec/12 R278), and the fixed sequences on the inputs whose results the rules state (R280 to R282).
-/
open Sys2Proof Sys2Proof.Machine Sys2Proof.Claim

namespace Sys2Proof.Machine

/-! ## fcvt -/

theorem cvtFmt_mem {c : Nat} {g : Fmt} (hc : c ≤ 8) (h : cvtFmt c = some g) : g ∈ scalarFormats := by
  unfold cvtFmt at h
  split at h
  · cases h; decide
  · cases h; decide
  · cases h; decide
  · omega
  · omega
  · cases h

theorem cvtInt_width (c : Nat) : 1 ≤ (cvtInt c).w := by
  unfold cvtInt
  split <;> decide

theorem minVal_le_maxVal (t : IntTy) : t.minVal ≤ t.maxVal := by
  have h1 := Nat.two_pow_pos (t.w - 1)
  have h2 := Nat.two_pow_pos t.w
  unfold IntTy.minVal IntTy.maxVal
  split <;> omega

/-- What fcvt writes. -/
def cvtRes (v : FEnv) (tgt src : Nat) (u : Word) : Res := { v := (cvtElem v tgt src u).1, sticky := (cvtElem v tgt src u).2 }

theorem cvtRes_float (v : FEnv) {tgt src : Nat} {g f : Fmt} (hg : cvtFmt src = some g) (hf : cvtFmt tgt = some f) (u : Word) :
    cvtRes v tgt src u = fl (g.convert f v (u.toNat % 2 ^ g.width)) := by
  simp only [cvtRes, cvtElem, hg, hf]
  rfl

theorem cvtRes_ofInt (v : FEnv) {tgt src : Nat} {f : Fmt} (hg : cvtFmt src = none) (hf : cvtFmt tgt = some f) (u : Word) :
    cvtRes v tgt src u = fl (f.ofInt v ((cvtInt src).read u)) := by
  simp only [cvtRes, cvtElem, hg, hf]
  rfl

theorem cvtRes_toInt (v : FEnv) {tgt src : Nat} {g : Fmt} (hg : cvtFmt src = some g) (hf : cvtFmt tgt = none) (hs : g ∈ scalarFormats) {u : Word}
    (hc : IsFinite g (u.toNat % 2 ^ g.width)) :
    let a := asRead g v.flush (u.toNat % 2 ^ g.width)
    let n : Int := integer v.rnd g (minus g a) (units g a)
    let n := if minus g a then -n else n
    let t := cvtInt tgt
    cvtRes v tgt src u =
      if n < t.minVal then { v := BitVec.ofInt 64 t.minVal, sticky := { fi := true } }
      else if t.maxVal < n then { v := BitVec.ofInt 64 t.maxVal, sticky := { fi := true } }
      else { v := BitVec.ofInt 64 n, sticky := { fx := decide (units g a % one g ≠ 0) } } := by
  intro a n₀ n t
  have hi := toInt_eq hs v t hc
  rw [← minus_asRead v.flush] at hi
  change g.toInt v t _ = if n < t.minVal then _ else if t.maxVal < n then _ else (n, _) at hi
  have hw := cvtInt_width tgt
  simp only [cvtRes, cvtElem, hg, hf]
  change ({ v := t.write false (g.toInt v t _).1, sticky := (g.toInt v t _).2 } : Res) = _
  rw [show g.code u = u.toNat % 2 ^ g.width from rfl, hi]
  by_cases hmin : n < t.minVal
  · rw [if_pos hmin, if_pos hmin, IntTy.write_of_range hw le_rfl (minVal_le_maxVal t)]
  by_cases hmax : t.maxVal < n
  · rw [if_neg hmin, if_pos hmax, if_neg hmin, if_pos hmax, IntTy.write_of_range hw (minVal_le_maxVal t) le_rfl]
  · rw [if_neg hmin, if_neg hmax, if_neg hmin, if_neg hmax, IntTy.write_of_range hw (not_lt.1 hmin) (not_lt.1 hmax)]

theorem ends_fcvt {s : State} {m : Mods} (x : Option ArithX) {o : OpCvt} {u : Word} (hwf : o.wf = true) (h : Un s m ⟨o.a, o.b, o.q⟩ u) :
    Ends (.fcvt m x o) m s (unDone s ⟨o.a, o.b, o.q⟩ (cvtRes (env s x) o.tgt.toNat o.src.toNat u)) :=
  (claim_floatComparisonsAndConversions s m x).2 o u hwf h

theorem codes_le_of_wf {o : OpCvt} (h : o.wf = true) : o.tgt.toNat ≤ 8 ∧ o.src.toNat ≤ 8 := by
  simp only [OpCvt.wf, Bool.and_eq_true, decide_eq_true_eq] at h
  exact h.1.1

/-! ## The fixed sequences -/

theorem rounded_exact {f : Fmt} {v : FEnv} {neg : Bool} {against : Nat → Ordering} {r : Nat × Sticky}
    (h : Rounded f v neg against r) (hv : v.flush = false) {d : Nat} (hd : d < f.infCode)
    (he : against (2 * units f d) = .eq) : r = (signed f neg d, {}) := by
  rw [h.1 d hd he]
  simp [hv, hd.ne]

theorem ofVal_same {v : FEnv} (hsat : v.sat = false) (hfl : v.flush = false) {c : Nat} (hc : c < 2 ^ fp32.width) (hn : ¬ IsNan fp32 c) :
    fp32.ofVal fp32 v (fp32.dec false c) = (c, {}) := by
  have hf : fp32 ∈ scalarFormats := by decide
  rcases isFinite_or hn with h | h
  · obtain ⟨m, e, hd, -⟩ := dec_number hf h false
    rw [hd]
    exact claim_formatNumbersAreKept fp32 (by decide) v c _ m e hc hfl hd
  · have hr : fp32.ofVal fp32 v (.inf (minus fp32 c)) = (signed fp32 (minus fp32 c) fp32.infCode, {}) := by
      simp only [Fmt.ofVal, Fmt.infinity, hsat, signed_eq, scalar_kind fp32 hf]
      rfl
    rw [dec_inf hf h, hr, ← h, signed_minus_magnitude hc]

/-- A code that the last rounding of a fixed sequence leaves as it is: a number, an infinity or the canonical NaN. -/
def Settled (c : Nat) : Prop := c < 2 ^ fp32.width ∧ ¬ IsNan fp32 c ∨ c = 0x7FC00000

theorem fixed_eq {v : FEnv} (hsat : v.sat = false) (hfl : v.flush = false) {c : Nat} (hc : c < 2 ^ fp32.width) (hn : ¬ IsNan fp32 c)
    {g : Nat → Nat × Sticky} {r : Nat × Sticky} (hg : g c = r) (hr : Settled r.1) : fp32.fixed v g c = r := by
  have hin : fp32.convert fp32 { flush := v.flush } c = (c, {}) := by
    rw [Fmt.convert, hfl]; exact ofVal_same rfl rfl hc hn
  have hout : fp32.ofVal fp32 { v with rnd := .rne } (fp32.dec false r.1) = (r.1, {}) := by
    rcases hr with ⟨h1, h2⟩ | h
    · exact ofVal_same (v := { v with rnd := .rne }) hsat hfl h1 h2
    · rw [h]; rfl
  simp only [Fmt.fixed, hin, hg, hout, Sticky.or]
  simp

theorem fp32_mem : fp32 ∈ scalarFormats := by decide

theorem dec_zero_code {c : Nat} (h : magnitude fp32 c = 0) : fp32.dec false c = .num (minus fp32 c) 0 fp32.least := by
  have hfin : IsFinite fp32 c := by rw [IsFinite, h]; decide
  rw [dec_finite_eq fp32_mem hfin, if_pos (by rw [h]; decide), h]
  rfl

section
variable {c : Nat} (hc : c < 2 ^ fp32.width)

theorem zero_results (h : magnitude fp32 c = 0) :
    f32sin c = (signed fp32 (minus fp32 c) 0, {}) ∧ f32cos c = (0x3F800000, {}) ∧ f32log2 c = (0xFF800000, { fz := true }) := by
  simp only [f32sin, f32cos, f32log2, dec_zero_code h, signed_eq, if_true, and_self]

include hc in
theorem infinite_results (h : magnitude fp32 c = fp32.infCode) :
    f32sin c = fp32.invalid ∧ f32cos c = fp32.invalid ∧ f32exp2 c = (if minus fp32 c then 0 else c, {}) ∧
      f32log2 c = if minus fp32 c then fp32.invalid else (c, {}) := by
  have hself := signed_minus_magnitude hc
  rw [h] at hself
  simp only [f32sin, f32cos, f32exp2, f32log2, dec_inf fp32_mem h, true_and]
  cases hs : minus fp32 c
  · rw [hs] at hself
    rw [← hself]
    exact ⟨rfl, rfl⟩
  · exact ⟨rfl, rfl⟩

theorem log2_negative (hfin : IsFinite fp32 c) (h : number fp32 c < 0) : f32log2 c = fp32.invalid := by
  obtain ⟨m, e, hd, hu, hv⟩ := dec_number fp32_mem hfin false
  rw [asRead_false] at hu hv
  have hm : m ≠ 0 := mt (significand_eq_zero_iff hu).1 h.ne
  have hneg : minus fp32 c = true := by
    by_contra hb
    rw [number, if_neg hb] at h
    omega
  simp only [f32log2, hd, if_neg hm, hneg, if_true]

/-- An integer as a value in units of FP32. -/
theorem inUnits_integer (neg : Bool) (n : Nat) : inUnits fp32 neg n 0 = ((if neg then -(n * one fp32 : Nat) else (n * one fp32 : Nat) : Int) : ℝ) := by
  rw [inUnits, zero_sub, ← one_eq_zpow fp32_mem]
  cases neg <;> simp

theorem exp2_above (hfin : IsFinite fp32 c) (h : 128 * one fp32 < number fp32 c) : f32exp2 c = (0x7F800000, { fo := true, fx := true }) := by
  obtain ⟨m, e, hd, hu, hv⟩ := dec_number fp32_mem hfin false
  rw [asRead_false] at hu hv
  have hlt : (FVal.num false 128 0).lt (.num (minus fp32 c) m e) = true := by
    rw [num_lt_num fp32, hv, inUnits_integer, decide_eq_true_eq, Int.cast_lt]
    exact_mod_cast h
  simp only [f32exp2, hd, hlt, if_true]

theorem exp2_below (hfin : IsFinite fp32 c) (h : number fp32 c < -(150 * one fp32 : Int)) : f32exp2 c = (0, { fx := true }) := by
  obtain ⟨m, e, hd, hu, hv⟩ := dec_number fp32_mem hfin false
  rw [asRead_false] at hu hv
  have hnot : (FVal.num false 128 0).lt (.num (minus fp32 c) m e) = false := by
    rw [num_lt_num fp32, hv, inUnits_integer, decide_eq_false_iff_not, Int.cast_lt, if_neg (by decide)]
    exact fun hlt => by have := one_units_pos fp32; push_cast at hlt; omega
  have hlt : (FVal.num (minus fp32 c) m e).lt (.num true 150 0) = true := by
    rw [num_lt_num fp32, hv, inUnits_integer, decide_eq_true_eq, Int.cast_lt]
    exact_mod_cast h
  simp only [f32exp2, hd, hnot, hlt, if_true, Bool.false_eq_true, if_false]

end

/-! ## Integral arguments of fexp2 -/

/-- The code of 2^k, with its place: the first of its binade. -/
theorem grid_power (t : Nat) : fp32.grid ((t + 1) * 2 ^ 23) = 2 ^ 23 * 2 ^ t := by
  rw [show (t + 1) * 2 ^ 23 = t * 2 ^ fp32.mb + 2 ^ 23 by rw [Nat.succ_mul]; rfl]
  exact fp32.grid_place (by decide) (.inr le_rfl)

theorem f32sub_same {c : Nat} (hfin : IsFinite fp32 c) : f32sub c c = 0 := by
  have h := sub_rounded fp32_mem {} hfin hfin
  simp only [asRead_false, sub_self] at h
  rw [f32sub, rounded_exact h rfl (d := 0) (by decide) rfl]
  simp [signed, sumSign]

/-- A small integer is no infinity and no NaN. -/
theorem isFinite_of_integer {c : Nat} {k : Int} (hk : number fp32 c = k * one fp32) (hsmall : k.natAbs ≤ 2 ^ (fp32.mb + 1)) : IsFinite fp32 c := by
  have hu : fp32.grid (magnitude fp32 c) = k.natAbs * one fp32 := by rw [← units_eq, ← natAbs_number, hk, Int.natAbs_mul, Int.natAbs_natCast]
  refine fp32.grid_strictMono.lt_iff_lt.1 ?_
  rw [hu]
  exact (Nat.mul_le_mul_right _ hsmall).trans_lt (scalar_integers_fit fp32 fp32_mem)

/-- An integral number is its own integer, and `f32int` reads it. -/
theorem integral_of_integer {c : Nat} (hc : c < 2 ^ fp32.width) (hfin : IsFinite fp32 c) {k : Int} (hk : number fp32 c = k * one fp32) :
    (fp32.integral {} c).1 = c := by
  have hu : units fp32 c = k.natAbs * one fp32 := by rw [← natAbs_number, hk, Int.natAbs_mul, Int.natAbs_natCast]
  obtain ⟨r, hr, hw, hs, hi⟩ := integral_eq fp32_mem {} hfin hc
  rw [asRead_false, hu, integer_mul_one, ← hu] at hi
  rw [hr, eq_of_units_eq hw hc hs hi]

theorem f32int_of_integer {c : Nat} (hfin : IsFinite fp32 c) {k : Int} (hk : number fp32 c = k * one fp32) (hlo : -126 ≤ k) (hhi : k ≤ 127) :
    f32int c = k := by
  have hu : units fp32 c = k.natAbs * one fp32 := by rw [← natAbs_number, hk, Int.natAbs_mul, Int.natAbs_natCast]
  have hone := one_units_pos fp32
  have hn : (if minus fp32 c then -(k.natAbs : Int) else k.natAbs) = k := by
    have hsign : (if minus fp32 c then -((k.natAbs : Int) * one fp32) else (k.natAbs : Int) * one fp32) = k * one fp32 := by
      rw [← hk, number, hu]; push_cast; rfl
    have hone' : (one fp32 : Int) ≠ 0 := by omega
    refine mul_right_cancel₀ hone' ?_
    rw [← hsign]
    split <;> ring
  have h := toInt_eq fp32_mem {} ⟨400, true⟩ hfin
  simp only [asRead_false, hu, integer_mul_one, hn] at h
  have hwide (w : Nat) (hw : 8 ≤ w) : 2 ^ 7 ≤ 2 ^ (w - 1) := Nat.pow_le_pow_right (by decide) (by omega)
  have hbig := hwide 400 (by decide)
  simp only [IntTy.minVal, IntTy.maxVal, if_true] at h
  generalize 2 ^ (400 - 1) = p at *
  rw [f32int, h, if_neg (by omega), if_neg (by omega)]

/-- The polynomial of fexp2 gives 1 at 0. -/
theorem exp2_polynomial_zero : f32fma 0 (f32fma 0 (f32fma 0 (f32fma 0 (f32fma 0 (f32fma 0 0x39218489 0x3AAEC3FF) 0x3C1D955B) 0x3D635847) 0x3E75FDF0)
    0x3F317218) 0x3F800000 = 0x3F800000 := by decide +kernel

theorem dec_f32_one : fp32.dec false 0x3F800000 = .num false (2 ^ 23) (-23) := by decide

/-- 2^k, scaled from 1, rounds to its code. -/
theorem round_power {k : Int} (hlo : -126 ≤ k) (hhi : k ≤ 127) : fp32.round {} false (2 ^ 23) (-23 + k) = ((k + 127).toNat * 2 ^ 23, {}) := by
  obtain ⟨t, rfl⟩ : ∃ t : Nat, k = t - 126 := ⟨(k + 126).toNat, by omega⟩
  have ht : ((t : Int) - 126 + 127).toNat = t + 1 := by omega
  have hs : StandsFor fp32 (2 ^ 23) (-23 + (t - 126)) (fp32.grid ((t + 1) * 2 ^ 23)) := by
    have he : -23 + ((t : Int) - 126) - fp32.least = t := by rw [show fp32.least = -149 from rfl]; omega
    left
    rw [grid_power, he, zpow_natCast]
    push_cast
    rfl
  have hmax : fp32.maxCode = 255 * 2 ^ 23 - 1 := by decide
  rw [round_exact (by decide) hs, ht, finish_kept false false rfl (by omega)]
  rfl

theorem exp2_integer {c : Nat} (hc : c < 2 ^ fp32.width) (hfin : IsFinite fp32 c) {k : Int} (hlo : -126 ≤ k) (hhi : k ≤ 127)
    (hk : number fp32 c = k * one fp32) : f32exp2 c = ((k + 127).toNat * 2 ^ 23, {}) := by
  obtain ⟨m, e, hd, hu, hv⟩ := dec_number fp32_mem hfin false
  rw [asRead_false] at hu hv
  have hone := one_units_pos fp32
  have habove : (FVal.num false 128 0).lt (.num (minus fp32 c) m e) = false := by
    rw [num_lt_num fp32, hv, inUnits_integer, decide_eq_false_iff_not, Int.cast_lt, if_neg (by decide), hk]
    push_cast; nlinarith
  have hbelow : (FVal.num (minus fp32 c) m e).lt (.num true 150 0) = false := by
    rw [num_lt_num fp32, hv, inUnits_integer, decide_eq_false_iff_not, Int.cast_lt, if_pos rfl, hk]
    push_cast; nlinarith
  have hi := integral_of_integer hc hfin hk
  have hn := f32int_of_integer hfin hk hlo hhi
  simp only [f32exp2, hd, habove, hbelow, hi, f32sub_same hfin, hn, exp2_polynomial_zero, dec_f32_one, round_power hlo hhi]
  rfl

/-! ## flog2 of a power of two -/

theorem dec_power {k : Nat} (h1 : 1 ≤ k) (h2 : k ≤ 254) : fp32.dec false (k * 2 ^ 23) = .num false (2 ^ 23) (k - 127 - 23) := by
  have hlt : k * 2 ^ 23 < 2 ^ (fp32.eb + fp32.mb) := by rw [show fp32.eb + fp32.mb = 31 from rfl]; omega
  have hm := magnitude_of_lt hlt
  have hfin : IsFinite fp32 (k * 2 ^ 23) := by rw [IsFinite, hm, show fp32.infCode = 255 * 2 ^ 23 from rfl]; omega
  rw [dec_finite_eq fp32_mem hfin, minus_of_lt hlt, hm, show fp32.mb = 23 from rfl, if_neg (by omega), Nat.mul_mod_left,
    Nat.mul_div_cancel _ (by decide)]
  rfl

/-- What flog2 adds to the exponent for the significand g (R282). -/
def log2Fraction (g : Nat) : Nat :=
  let f := f32div (f32sub g 0x3F800000) (f32add g 0x3F800000)
  let s := f32mul f f
  f32mul f (f32fma s (f32fma s (f32fma s (f32fma s 0x3EA4258A 0x3ED30BB1) 0x3F13BB63) 0x3F76384F) 0x4038AA3B)

theorem log2_positive {x m : Nat} {ex : Int} (hd : fp32.dec false x = .num false m ex) (hm : m ≠ 0) : f32log2 x =
    let e := (Nat.log2 m : Int) + ex + b2n (decide (3 * 2 ^ Nat.log2 m ≤ 2 * m))
    (f32add (fp32.ofInt {} e).1 (log2Fraction (fp32.round {} false m (ex - e)).1), { fx := m != 2 ^ Nat.log2 m }) := by
  simp only [f32log2, hd, if_neg hm, Bool.false_eq_true, if_false, log2Fraction]

theorem round_one : fp32.round {} false (2 ^ 23) (-23) = (0x3F800000, {}) := by decide
theorem log2Fraction_one : log2Fraction 0x3F800000 = 0 := by decide +kernel

theorem number_zero (f : Fmt) : number f 0 = 0 := by simp [number, units, magnitude]

/-- The sign of a number that is not −0. -/
theorem minus_eq_of_ne_negative_zero {c : Nat} (hc : c < 2 ^ fp32.width) (hz : c ≠ 2 ^ 31) : minus fp32 c = decide (number fp32 c < 0) := by
  rw [number]
  cases hs : minus fp32 c
  · simp
  · have hu : units fp32 c ≠ 0 := by
      intro h0
      have hm : magnitude fp32 c = 0 := fp32.grid_strictMono.injective (h0.trans fp32.grid_zero.symm)
      have := signed_minus_magnitude hc
      rw [hs, hm] at this
      exact hz this.symm
    simp [Nat.pos_of_ne_zero hu]

theorem add_zero_code {c : Nat} (hc : c < 2 ^ fp32.width) (hfin : IsFinite fp32 c) (hz : c ≠ 2 ^ 31) : f32add c 0 = c := by
  have h := add_rounded fp32_mem {} hfin (y := 0) (by rw [IsFinite]; decide)
  simp only [asRead_false, number_zero, add_zero, natAbs_number] at h
  have hfin' : magnitude fp32 c < fp32.infCode := hfin
  have heq : ratio (units fp32 c) 1 (2 * units fp32 (magnitude fp32 c)) = .eq := by
    rw [ratio, Nat.compare_eq_eq, Nat.mul_one, units_eq, units_eq, magnitude_of_lt (magnitude_lt fp32 c)]
  have hsign : sumSign {} (minus fp32 c) (minus fp32 0) (number fp32 c) = minus fp32 c := by
    rw [sumSign, show minus fp32 0 = false from rfl, minus_eq_of_ne_negative_zero hc hz]
    split
    next h0 => simp [h0]
    next => rfl
  rw [hsign] at h
  rw [f32add, rounded_exact h rfl hfin' heq, signed_minus_magnitude hc]

/-- An integer that FP32 holds is converted to its code. -/
theorem ofInt_code {j : Nat} {n : Int} (hj : j < 2 ^ fp32.width) (hz : j ≠ 2 ^ 31) (hn : n.natAbs ≤ 2 ^ (fp32.mb + 1))
    (h : number fp32 j = n * one fp32) : (fp32.ofInt {} n).1 = j ∧ IsFinite fp32 j := by
  obtain ⟨k, hk, hg, hr⟩ := round_integer fp32_mem (decide (n < 0)) hn
  have hk' := hk.trans (scalar_infCode fp32 fp32_mem).2
  have hu : units fp32 j = fp32.grid k := by rw [hg, ← natAbs_number, h, Int.natAbs_mul, Int.natAbs_natCast]
  have hm : magnitude fp32 j = k := fp32.grid_strictMono.injective hu
  have hone := one_units_pos fp32
  have hs : minus fp32 j = decide (n < 0) := by
    rw [minus_eq_of_ne_negative_zero hj hz, h, Bool.eq_iff_iff, decide_eq_true_eq, decide_eq_true_eq, mul_neg_iff]
    omega
  refine ⟨?_, by rw [IsFinite, hm]; exact hk⟩
  rw [Fmt.ofInt, hr, ← hs, ← hm, signed_minus_magnitude hj]

theorem log2_power {k j : Nat} (h1 : 1 ≤ k) (h2 : k ≤ 254) (hj : j < 2 ^ fp32.width) (hz : j ≠ 2 ^ 31)
    (h : number fp32 j = ((k : Int) - 127) * one fp32) : f32log2 (k * 2 ^ 23) = (j, {}) := by
  obtain ⟨hint, hfin⟩ := ofInt_code hj hz (by rw [show fp32.mb = 23 from rfl]; omega) h
  have he : (Nat.log2 (2 ^ 23) : Int) + ((k : Int) - 127 - 23) + b2n (decide (3 * 2 ^ Nat.log2 (2 ^ 23) ≤ 2 * 2 ^ 23)) = k - 127 := by
    rw [Nat.log2_two_pow]; simp [b2n]
  have hg : (k : Int) - 127 - 23 - (k - 127) = -23 := by omega
  rw [log2_positive (dec_power h1 h2) (Nat.two_pow_pos 23).ne']
  simp only [he, hg]
  rw [round_one, log2Fraction_one, hint, add_zero_code hj hfin hz, Nat.log2_two_pow, bne_self_eq_false]

end Sys2Proof.Machine
end

section
/-!
PROOFS. The statement on the scalar floating-point forms (spec/12 R273 to R282), assembled.
-/
open Sys2Proof Sys2Proof.Machine Sys2Proof.Claim

namespace Sys2Proof.Machine

theorem ends_fixed {i : Instr} {s : State} {m : Mods} {o : OpAB} {u : Word} {x : Option ArithX} {g : Nat → Nat × Sticky} {r : Nat × Sticky}
    (he : exec i s = s.guarded m fun s => s.funary x o fun f v => f.fixed v g) (h : Un s m o u) (hfmt : format x = fp32) (hfl : (env s x).flush = false)
    (hsat : (env s x).sat = false) (hn : ¬ IsNan fp32 (code x u)) (hg : g (code x u) = r) (hr : Settled r.1) : Ends i m s (unDone s o (fl r)) := by
  have hc := code_lt x u
  have hends := ends_funary (fun f v => f.fixed v g) he h
  rw [hfmt] at hc hends
  rwa [fixed_eq hsat hfl hc hn hg hr] at hends

theorem settled_canon : Settled fp32.invalid.1 := .inr rfl
theorem settled_of_le {c : Nat} (h : c ≤ fp32.infCode) : Settled c := by
  have hi := (scalar_infCode fp32 fp32_mem).2
  have hc : c < 2 ^ (fp32.eb + fp32.mb) := h.trans_lt hi
  exact .inl ⟨signed_lt false hc, by rw [IsNan, magnitude_of_lt hc]; exact Nat.not_lt.2 h⟩

theorem claim_floatConversionsAndSpecialInputs : Claim.FloatConversionsAndSpecialInputs := by
  intro s m x v
  refine ⟨fun o u hwf h => ?_, fun hfmt hfl hsat o u h => ?_⟩
  · have he := ends_fcvt x hwf h
    obtain ⟨ht, hs⟩ := codes_le_of_wf hwf
    refine ⟨fun g f hg hf hc => ?_, fun g hg hf hc => ?_, fun f hg hf => ?_⟩
    · rw [cvtRes_float _ hg hf] at he
      have hr := convert_rounded (cvtFmt_mem hs hg) (cvtFmt_mem ht hf) v hc
      rw [← minus_asRead v.flush] at hr
      exact ⟨_, he, hr⟩
    · rwa [cvtRes_toInt _ hg hf (cvtFmt_mem hs hg) hc] at he
    · rw [cvtRes_ofInt _ hg hf] at he
      exact ⟨_, he, ofInt_rounded (cvtFmt_mem ht hf) v _⟩
  · have hc := code_lt x u
    rw [hfmt] at hc
    intro c
    have finite_not_nan (hfin : IsFinite fp32 c) : ¬ IsNan fp32 c := Nat.not_lt.2 (le_of_lt hfin)
    have settle_self (hn : ¬ IsNan fp32 c) : Settled c := .inl ⟨hc, hn⟩
    refine ⟨fun h0 => ?_, fun hi => ?_, fun hfin hneg => ?_, fun hfin habove => ?_, fun hfin hbelow => ?_,
      fun k hlo hhi hk => ?_, fun k j h1 h2 hk hj hn hz => ?_⟩
    · have hn : ¬ IsNan fp32 c := by rw [IsNan, h0]; exact Nat.not_lt_zero _
      obtain ⟨hsin, hcos, hlog⟩ := zero_results h0
      have hself : signed fp32 (minus fp32 c) 0 = c := by rw [← h0]; exact signed_minus_magnitude hc
      rw [hself] at hsin
      exact ⟨ends_fixed rfl h hfmt hfl hsat hn hsin (settle_self hn), ends_fixed rfl h hfmt hfl hsat hn hcos (settled_of_le (by decide)),
        ends_fixed rfl h hfmt hfl hsat hn hlog (.inl ⟨by decide, by rw [IsNan]; decide⟩)⟩
    · have hn : ¬ IsNan fp32 c := by rw [IsNan, hi]; exact Nat.lt_irrefl _
      obtain ⟨hsin, hcos, hexp, hlog⟩ := infinite_results hc hi
      refine ⟨ends_fixed rfl h hfmt hfl hsat hn hsin settled_canon, ends_fixed rfl h hfmt hfl hsat hn hcos settled_canon,
        ends_fixed rfl h hfmt hfl hsat hn hexp ?_, ends_fixed rfl h hfmt hfl hsat hn hlog ?_⟩
      · cases minus fp32 c
        · exact settle_self hn
        · exact settled_of_le (Nat.zero_le _)
      · cases minus fp32 c
        · exact settle_self hn
        · exact settled_canon
    · exact ends_fixed rfl h hfmt hfl hsat (finite_not_nan hfin) (log2_negative hfin hneg) settled_canon
    · exact ends_fixed rfl h hfmt hfl hsat (finite_not_nan hfin) (exp2_above hfin habove) (settled_of_le (by decide))
    · exact ends_fixed rfl h hfmt hfl hsat (finite_not_nan hfin) (exp2_below hfin hbelow) (settled_of_le (by decide))
    · have hfin : IsFinite fp32 c := isFinite_of_integer hk (by rw [show fp32.mb = 23 from rfl]; omega)
      exact ends_fixed rfl h hfmt hfl hsat (finite_not_nan hfin) (exp2_integer hc hfin hlo hhi hk)
        (settled_of_le (by rw [show fp32.infCode = 255 * 2 ^ 23 from rfl]; omega))
    · have hlog : f32log2 c = (j, {}) := hk ▸ log2_power h1 h2 hj hz hn
      have hjn := (ofInt_code hj hz (by rw [show fp32.mb = 23 from rfl]; omega) hn).2
      have hfin : IsFinite fp32 c := by
        rw [IsFinite, hk, magnitude_of_lt (by rw [show fp32.eb + fp32.mb = 31 from rfl]; omega), show fp32.infCode = 255 * 2 ^ 23 from rfl]; omega
      exact ends_fixed rfl h hfmt hfl hsat (finite_not_nan hfin) hlog (.inl ⟨hj, Nat.not_lt.2 (le_of_lt hjn)⟩)

/-- Settles O18: each form completes with its operation's code, and on finite operands a stand-in for the exact result is rounded once. -/
theorem scalarFloat : Obligations.ScalarFloat :=
  ⟨claim_floatArithmetic, claim_floatExact, claim_floatConversionsAndSpecialInputs, claim_floatBits, claim_floatComparisonsAndConversions⟩

end Sys2Proof.Machine
end

section
/-!
PROOFS. Clauses that fail at concrete states: a hub request's flit type (spec/15 R339), a vacated core (spec/10 R214), and a page at rest (spec/05 R109).
-/

open Sys2Proof Sys2Proof.Machine Sys2Proof.Claim

namespace Sys2Proof.Machine

/-! ## A hub request (R339) -/

/-- A compute core asks its hub for a population's status. -/
def asksHub : State := { State.reset with cur := ⟨0, 0, 0, 0⟩ }

theorem asksHub_type : ((asksHub.askHub 0 0 (.popq 0) (some 0) []).router 0).inject.map Flit.type = [12] := by decide +kernel

/-- Refutes O39: the flit of a hub request has type 12 (R339), and the clause of a request to the hub gives it the type 1. -/
theorem not_privilegedRequests : ¬ Obligations.PrivilegedRequests := by
  rintro ⟨-, -, h, -⟩
  obtain ⟨-, -, -, -, -, -, -, -, -, hflit, -⟩ := h asksHub 0 (.popq 0) 0 [] (by decide)
  have htype := congrArg (List.map Flit.type) hflit
  exact absurd (asksHub_type.symm.trans htype) (by decide +kernel)

/-! ## A wake at a vacated core (R214) -/

/-- Core 0 was vacated: its forwarding entry sends ASID 1 to core 1. -/
def vacated : State := { State.reset with cores := [(0, { fwds := [(0, 0x14001)] })] }

/-- A wake of core 0 to a Free slot of its own, for the ASID that moved. -/
def wakeOfVacated : WakeMsg := { src := ⟨0, 0, 0⟩, core := 0, slot := 1, asid := 1, sup := false, posted := false }

/-- The wake goes on to core 1: nothing is dropped or counted at core 0. -/
theorem vacated_wake : ∃ t, exec .wakeMessage { vacated with event := some (.wakeMessage wakeOfVacated) } = .next t ∧ (t.core 0).errcnt = [] :=
  ⟨_, rfl, by decide +kernel⟩

theorem vacated_wakeSlot : ((vacated.wakeSlot wakeOfVacated).core 0).errcnt = [(7, 1)] := by decide +kernel

/-- Refutes O44: a wake of a core to itself follows the core's forwarding entry of its ASID (R214), where the clause of the wake has it arrive at the
vacated core. -/
theorem not_controlRegistersRecordsAndLinks : ¬ Obligations.ControlRegistersRecordsAndLinks := by
  rintro ⟨-, h⟩
  obtain ⟨-, -, -, -, -, -, -, hwake⟩ := h vacated 0
  have harrives := hwake wakeOfVacated rfl rfl (by decide) (by decide +kernel) (by decide)
  obtain ⟨t, hleaves, hcount⟩ := vacated_wake
  have hsame : t = vacated.wakeSlot wakeOfVacated := (Host.Outcome.next.inj (hleaves.symm.trans harrives)).trans (if_neg (by decide))
  rw [hsame, vacated_wakeSlot] at hcount
  exact absurd hcount (by decide)

/-! ## A lineage record whose page rests compressed (R109, R187) -/

/-- The page of hub 0's first lineage record rests compressed, and the hub's station has its leaf. -/
def ringCompressed : State :=
  { State.reset with hubs := [(0, { xltRoot := 1, compressed := [0], tlb := [⟨64, 0, 0, false, 8, 0⟩] })] }

/-- The append starts the page's expansion, though no child waits for it. -/
theorem ringCompressed_append : ∃ t, exec .popLineageAppend { ringCompressed with event := some (.popLineageAppend 0 0 0) } = .next t ∧
    (t.hub 0).expanding.length = 1 :=
  ⟨_, rfl, by decide +kernel⟩

/-- Refutes O51: an append of no child still waits for the page of the ring while that rests compressed (R109), where its clause has it change nothing. -/
theorem not_populationEvents : ¬ Obligations.PopulationEvents := by
  intro h
  obtain ⟨-, -, -, -, -, hnone, -⟩ := h ringCompressed 0 0
  have hleaves := (hnone 0 (by decide)).2 (by decide)
  obtain ⟨t, hstalls, hlength⟩ := ringCompressed_append
  obtain rfl : t = ringCompressed := by injection hstalls.symm.trans hleaves
  exact absurd hlength (by decide)

/-! ## The record of an empty pool (R109, R214) -/

/-- Hub 0 has no frame for the compressed page 0, for which an access of ASID 1 at core 0 waits; core 0 was vacated, and ASID 1 moved to core 1. -/
def noFrame : State :=
  { State.reset with
    mem := [(hbmKey 0 0, 8)]
    cores := [(0, { fwds := [(0, 0x14001)] })]
    hubs := [(0, { compressed := [0], expanding := [⟨0, 0, 0, 0, 1, 0, none, []⟩] })] }

/-- No record enters the queue of core 0. -/
theorem noFrame_expansion : ∃ t, exec .capacityExpansion { noFrame with event := some (.capacityExpansion 0 0 false) } = .next t ∧
    (t.core 0).traps.count = 0 :=
  ⟨_, rfl, by decide +kernel⟩

/-- Refutes O58: the record of an empty pool goes to the core where the waiting ASID stands now (R214), where its clause has it at the core that asked. -/
theorem not_memoryFabricEvents : ¬ Obligations.MemoryFabricEvents := by
  rintro ⟨-, h, -⟩
  obtain ⟨-, -, hexpand⟩ := h noFrame
  obtain ⟨-, -, -, hstarve⟩ := hexpand 0 0 false
  obtain ⟨u, hnext, -, ⟨hrecord, -⟩, -, -⟩ := hstarve ⟨0, 0, 0, 0, 1, 0, none, []⟩ (by decide) (by decide +kernel) (by decide) (by decide)
  obtain ⟨t, hstalls, hcount⟩ := noFrame_expansion
  obtain rfl : t = u := by injection hstalls.symm.trans hnext
  exact absurd (hcount.symm.trans (hrecord (by decide) (by decide)).1) (by decide)

end Sys2Proof.Machine
end

section
/-!
PROOFS. Bytes of memory as numbers, and what a write of bytes leaves (spec/00 R5, spec/05 R95).
-/

open Sys2Proof Sys2Proof.Machine Sys2Proof.Claim

namespace Sys2Proof.Machine

/-! ## Bytes and the fields that they hold -/

theorem leNat_append (xs ys : List Byte) : leNat (xs ++ ys) = leNat xs + 256 ^ xs.length * leNat ys := by
  induction xs with
  | nil => simp [leNat]
  | cons x xs ih =>
    rw [List.cons_append, leNat, leNat, ih, List.length_cons, Nat.pow_succ]
    ring

theorem memRead_add (m : List Host.Cell) (a i j : Nat) : memRead m a (i + j) = memRead m a i ++ memRead m (a + i) j := by
  induction i generalizing a with
  | zero => simp [memRead]
  | succ i ih => rw [Nat.succ_add, memRead, memRead, ih (a + 1), show a + 1 + i = a + (i + 1) by omega, List.cons_append]

theorem State.bytes_add (s : State) (a i j : Nat) : s.bytes a (i + j) = s.bytes a i ++ s.bytes (a + i) j := memRead_add ..

/-- The bits of whole bytes of a number are the number that these bytes say. -/
theorem bitsOf_bytes (s : State) (a i n j : Nat) : bitsOf (leNat (s.bytes a (i + n + j))) (8 * i) (8 * n) = leNat (s.bytes (a + i) n) := by
  have hi := leNat_lt (s.bytes a i)
  have hn := leNat_lt (s.bytes (a + i) n)
  rw [bytes_length] at hi hn
  have hbyte (k : Nat) : 2 ^ (8 * k) = 256 ^ k := by rw [Nat.pow_mul]
  rw [Nat.add_assoc, State.bytes_add, leNat_append, State.bytes_add s (a + i), leNat_append, bytes_length, bytes_length, bitsOf, hbyte, hbyte,
    Nat.add_mul_div_left _ _ (by positivity), Nat.div_eq_of_lt hi, Nat.zero_add, Nat.add_mul_mod_self_left, Nat.mod_eq_of_lt hn]

theorem tcbCnt_tcb (s : State) (c off : Nat) : tcbCnt (s.tcb c off) = leNat (s.bytes (tileKey c off) 2) := by
  simpa [tcbCnt, State.tcb] using bitsOf_bytes s (tileKey c off) 0 2 14

theorem tcbState_tcb (s : State) (c off : Nat) : tcbState (s.tcb c off) = leNat (s.bytes (tileKey c off + 2) 1) := by
  simpa [tcbState, State.tcb] using bitsOf_bytes s (tileKey c off) 2 1 13

theorem tcbFault_tcb (s : State) (c off : Nat) : bitsOf (s.tcb c off) 24 8 = leNat (s.bytes (tileKey c off + 3) 1) := by
  simpa [State.tcb] using bitsOf_bytes s (tileKey c off) 3 1 12

/-! ## Bytes that have not changed -/

section
variable {s t u : State} {a n b m : Nat}

theorem sameBut_wider (h : SameBut s t a n) (hb : b ≤ a) (hm : a + n ≤ b + m) : SameBut s t b m := fun x hx => h x (by omega)

theorem sameBut_trans (h : SameBut s t a n) (g : SameBut t u a n) : SameBut s u a n := fun x hx => (g x hx).trans (h x hx)

theorem bytes_of_sameBut (h : SameBut s t a n) (hb : b + m ≤ a ∨ a + n ≤ b) : t.bytes b m = s.bytes b m := memRead_congr fun x _ _ => h x (by omega)

end

/-! ## What a write leaves -/

/-- What a write of n bytes at a leaves: the other bytes, the cores but for dirty bits, the clock and the agenda. -/
structure Writes (s t : State) (a n : Nat) : Prop where
  same : SameBut s t a n
  ok : MemOk t
  core : ∀ c, ∃ d, t.core c = { s.core c with dirty := d }
  now : t.now = s.now
  agenda : t.agenda = s.agenda

theorem markDirty_rest (s : State) (a : Nat) : (s.markDirty a).now = s.now ∧ (s.markDirty a).agenda = s.agenda := by
  unfold State.markDirty
  split
  · exact ⟨rfl, rfl⟩
  · exact ⟨rfl, rfl⟩

theorem cells_rest (s : State) (a n : Nat) (ks : List Nat) :
    (ks.foldl (fun s k => let s := s.setPresent k true; if a ≤ k ∧ k + cellSize a ≤ a + n then s.cleanse k else s) s).now = s.now ∧
      (ks.foldl (fun s k => let s := s.setPresent k true; if a ≤ k ∧ k + cellSize a ≤ a + n then s.cleanse k else s) s).agenda = s.agenda := by
  induction ks generalizing s with
  | nil => exact ⟨rfl, rfl⟩
  | cons k ks ih =>
    obtain ⟨hn, ha⟩ := ih (let s := s.setPresent k true; if a ≤ k ∧ k + cellSize a ≤ a + n then s.cleanse k else s)
    refine ⟨hn.trans ?_, ha.trans ?_⟩
    · simp only
      split <;> rfl
    · simp only
      split <;> rfl

theorem writeAt_rest (s : State) (a : Nat) (bs : List Byte) : (s.writeAt a bs).now = s.now ∧ (s.writeAt a bs).agenda = s.agenda := by
  unfold State.writeAt
  simp only
  split
  · exact ⟨rfl, rfl⟩
  · obtain ⟨hn, ha⟩ := cells_rest (s.setBytes a bs) a bs.length (cellsOf a bs.length)
    exact ⟨(markDirty_rest ..).1.trans ((markDirty_rest ..).1.trans hn), (markDirty_rest ..).2.trans ((markDirty_rest ..).2.trans ha)⟩

theorem writes_writeAt {s : State} (a : Nat) (bs : List Byte) (h : MemOk s) : Writes s (s.writeAt a bs) a bs.length := by
  obtain ⟨hm, hc⟩ := writeAt_leaves s a bs
  obtain ⟨hn, ha⟩ := writeAt_rest s a bs
  exact ⟨sameBut_of_mem h rfl hm, show Memory.wf _ = true from hm ▸ memWrite_wf a bs h, hc, hn, ha⟩

theorem bytes_writeAt {s : State} (a : Nat) (bs : List Byte) (h : MemOk s) : (s.writeAt a bs).bytes a bs.length = bs :=
  bytes_of_mem h rfl (writeAt_leaves s a bs).1

section
variable {s t : State} {a n : Nat}

theorem Writes.refl (h : MemOk s) : Writes s s a n := ⟨fun _ _ => rfl, h, fun _ => ⟨_, rfl⟩, rfl, rfl⟩

/-- A part of a core that its dirty bits have no share in. -/
theorem Writes.part {α : Type} (h : Writes s t a n) (c : Nat) (f : Core → α) (hf : ∀ k d, f { k with dirty := d } = f k) : f (t.core c) = f (s.core c) := by
  obtain ⟨d, hd⟩ := h.core c
  rw [hd, hf]

theorem Writes.calm {c : Nat} (h : Writes s t a n) (hc : Calm s c) : Calm t c :=
  ⟨h.ok, (h.part c Core.waiting fun _ _ => rfl).trans hc.2.1, (h.part c Core.snapshot fun _ _ => rfl).trans hc.2.2⟩

end

end Sys2Proof.Machine
end

section
/-!
PROOFS. Dispatch, decrements and the arming of a task (spec/10 R190 to R199).
-/

open Sys2Proof Sys2Proof.Machine Sys2Proof.Claim

namespace Sys2Proof.Machine

/-! ## Task control blocks -/

theorem exec_dispatch (s : State) : exec .dispatch s = execDispatch s := rfl
theorem exec_decrement (s : State) : exec .decrement s = execDecrement s := rfl
theorem exec_taskArmRequest (s : State) : exec .taskArmRequest s = execTaskArmRequest s := rfl

section
variable {s : State} {c : Nat}

theorem writes_writeTcb (h : Calm s c) (off at_ : Nat) (bs : List Byte) : Writes s (s.writeTcb c off at_ bs) (tileKey c off + at_) bs.length := by
  rw [writeTcb_calm h, tileKey_add]
  exact writes_writeAt _ _ h.1

theorem bytes_writeTcb (h : Calm s c) (off at_ : Nat) (bs : List Byte) :
    (s.writeTcb c off at_ bs).bytes (tileKey c off + at_) bs.length = bs := by
  rw [writeTcb_calm h, tileKey_add]
  exact bytes_writeAt _ _ h.1

theorem setTcb_none (off st : Nat) : s.setTcb c off st none = s.writeTcb c off 2 (natLe 1 st) := congrArg (s.writeTcb c off 2) (List.append_nil _)

theorem leNat_natLe_one (v : Nat) : leNat (natLe 1 v) = v % 256 := by simp [natLe, leNat]

/-- STATE written without a fault. -/
theorem setTcb_leaves (h : Calm s c) (off st : Nat) : Writes s (s.setTcb c off st none) (tileKey c off + 2) 1 ∧
    tcbState ((s.setTcb c off st none).tcb c off) = st % 256 := by
  have hb : (s.writeTcb c off 2 (natLe 1 st)).bytes (tileKey c off + 2) 1 = natLe 1 st := bytes_writeTcb h off 2 (natLe 1 st)
  rw [setTcb_none, tcbState_tcb, hb, leNat_natLe_one]
  exact ⟨writes_writeTcb h off 2 (natLe 1 st), rfl⟩

/-- STATE written with a fault. -/
theorem setTcb_faults (h : Calm s c) (off st f : Nat) : Writes s (s.setTcb c off st (some f)) (tileKey c off + 2) 2 ∧
    tcbState ((s.setTcb c off st (some f)).tcb c off) = st % 256 ∧ bitsOf ((s.setTcb c off st (some f)).tcb c off) 24 8 = f % 256 := by
  have hb : (s.setTcb c off st (some f)).bytes (tileKey c off + 2) (1 + 1) = natLe 1 st ++ natLe 1 f := bytes_writeTcb h off 2 (natLe 1 st ++ natLe 1 f)
  rw [State.bytes_add, Nat.add_assoc] at hb
  obtain ⟨hst, hf⟩ := List.append_inj hb (bytes_length ..)
  rw [tcbState_tcb, hst, tcbFault_tcb, hf, leNat_natLe_one, leNat_natLe_one]
  exact ⟨writes_writeTcb h off 2 (natLe 1 st ++ natLe 1 f), rfl, rfl⟩

/-- An empty ready queue has no links. -/
theorem relink_nil (h : (s.core c).sched.ready = []) : s.relink c = s := by simp [State.relink, h]

/-- The only TCB of a ready queue gets its own links (R194). -/
theorem relink_single {off x y : Nat} (h : Calm s c) (hq : (s.core c).sched.ready = [(off, x, y)]) : Writes s (s.relink c) (tileKey c off + 8) 4 := by
  simp only [State.relink, hq, List.length_singleton, List.range_one, List.foldl_cons, List.foldl_nil, List.getElem?_cons_zero, Option.map_some,
    Option.getD_some]
  split
  · exact .refl h.1
  · exact writes_writeTcb h off 8 _

/-! ## The ready queue -/

/-- A TCB that joins an empty ready queue. -/
theorem enqueue_leaves {off src : Nat} (h : Calm s c) (hq : (s.core c).sched.ready = []) :
    SameBut s (s.enqueue c off src) (tileKey c off + 8) 4 ∧ ((s.enqueue c off src).core c).sched.ready = [(off, s.now, src)] ∧
      (s.enqueue c off src).now = s.now ∧ Now s (s.enqueue c off src) (.dispatch c) := by
  let u := s.modCore c fun k => k.modSched fun q => { q with ready := insertReady (off, s.now, src) q.ready }
  have hcore : u.core c = (s.core c).modSched fun q => { q with ready := insertReady (off, s.now, src) q.ready } := State.core_modCore_same ..
  have hready : (u.core c).sched.ready = [(off, s.now, src)] := by
    rw [hcore]
    exact congrArg (insertReady (off, s.now, src)) hq
  have hcalm : Calm u c := ⟨h.1, by rw [hcore]; exact h.2.1, by rw [hcore]; exact h.2.2⟩
  have hw := relink_single hcalm hready
  refine ⟨hw.same, (hw.part c (·.sched.ready) fun _ _ => rfl).trans hready, hw.now, now_after _ _ _ hw.now⟩

end

/-! ## Dispatch -/

theorem raise_sched (s : State) (c : Nat) {r : Rec} (hcls : r.cls < 3) : ((s.raise c r).core c).sched = (s.core c).sched := by
  obtain ⟨-, fcls, -⟩ := image_fields r (!(s.core c).handlerTakes r)
  simp only [State.raise]
  rw [if_neg (by omega)]
  split
  · rw [enterRecord_eq (by rw [fcls]; omega)]
    split
    · rw [(queues_coreNotice ..).core c Core.sched fun _ _ _ => rfl, State.core_setCore_same]
      rfl
    · obtain ⟨q, hq⟩ := Core.ungate_eq (((s.setCore c (withRecord s c (r.image (!(s.core c).handlerTakes r)))).core c).setSlot 14
        (((s.setCore c (withRecord s c (r.image (!(s.core c).handlerTakes r)))).core c).slot 14).woken)
      rw [State.core_modCore_same, hq, State.core_setCore_same]
      rfl
  · rw [State.core_modCore_same]
    rfl

theorem giveBanks_sched (k : Core) (n t : Nat) (bs : List Nat) : (k.giveBanks n t bs).sched = k.sched := by
  obtain ⟨x, v, h⟩ := Core.giveBanks_rest k n t bs
  rw [h]

theorem enterSlot_sched (s : State) (c n : Nat) (t : Slot) : ((s.enterSlot c n t).core c).sched = (s.core c).sched := by
  have hgiven (t : Slot) (b : Nat) (bs : List Nat) :
      ((s.setCore c (((s.core c).giveBanks n b bs).setSlot n t).ungate).core c).sched = (s.core c).sched := by
    obtain ⟨r, hr⟩ := Core.ungate_eq (((s.core c).giveBanks n b bs).setSlot n t)
    rw [State.core_setCore_same, hr]
    exact giveBanks_sched ..
  unfold State.enterSlot
  simp only
  split
  · exact hgiven ..
  · exact hgiven ..

@[simp] theorem selected_single {α : Type} (b : Bool) (x : α) : selected b [x] = some x := by cases b <;> rfl
@[simp] theorem selected_nil {α : Type} (b : Bool) : selected b ([] : List α) = none := by cases b <;> rfl
@[simp] theorem unselected_single {α : Type} (b : Bool) (x : α) : unselected b [x] = [] := by cases b <;> rfl

theorem statusOf_task (flush sup task gang traph : Bool) (nbank : Nat) : (statusOf flush sup task gang nbank traph).getLsbD 2 = task := by
  have hn : nbank % 4 < 4 := Nat.mod_lt _ (by decide)
  unfold statusOf
  generalize nbank % 4 = b at hn ⊢
  interval_cases b <;> cases flush <;> cases sup <;> cases task <;> cases gang <;> cases traph <;> decide

/-- A new thread that has taken its slot has begun there (R41), and says whether it is a task. -/
theorem began_of_slot {t : State} {c n pc asid nbank : Nat} {flush sup task : Bool} {args : List Word} {work : Word}
    (h : ∃ b o x, t.slot c n = { newThread pc asid (statusOf flush sup task false nbank false) args work with
      st := .ready, banks := b, orders := o, succs := x }) :
    Began t c n pc asid flush sup args ∧ (t.slot c n).work = work ∧ (t.slot c n).task = task := by
  obtain ⟨b, o, x, h⟩ := h
  obtain ⟨hflush, hsup, -⟩ := statusOf_bits flush sup task false false nbank
  rw [Began, h]
  exact ⟨⟨rfl, rfl, rfl, hflush, hsup, reg_argRegs args, reg_argRegs_other args⟩, rfl, statusOf_task ..⟩

section
variable {s : State} {c : Nat}

theorem dispatchOne_none (h : (s.core c).openSlot = none ∨ (s.core c).halted = true ∨ (s.core c).frozen = true ∨
    ((s.core c).sched.spawns = [] ∧ (s.core c).sched.ready = [])) : s.dispatchOne c = none := by
  unfold State.dispatchOne
  simp only
  split
  · rfl
  · next n hn =>
    split
    · rfl
    · next hrun =>
      obtain ⟨hs, hr⟩ := h.resolve_left (by simp [hn]) |>.resolve_left (by simp_all) |>.resolve_left (by simp_all)
      simp only [hs, hr, selected_nil]

theorem dispatchAll_none (h : s.dispatchOne c = none) (n : Nat) : s.dispatchAll c n = s := by
  cases n with
  | zero => rfl
  | succ n => simp only [State.dispatchAll, h]

/-- One dispatch that leaves both queues empty is the last. -/
theorem dispatch_once {t : State} (h : s.dispatchOne c = some t) (hs : (t.core c).sched.spawns = []) (hr : (t.core c).sched.ready = []) :
    Occurs .dispatch s (.dispatch c) t := by
  refine occurs_of exec_dispatch (congrArg some ?_)
  rw [show 16 + (s.core c).sched.ready.length = 15 + (s.core c).sched.ready.length + 1 by omega, State.dispatchAll, h]
  exact dispatchAll_none (dispatchOne_none (.inr (.inr (.inr ⟨hs, hr⟩)))) _

theorem dispatchOne_spawn {n : Nat} {x : Queued} (ho : (s.core c).openSlot = some n) (hl : (s.core c).halted = false) (hf : (s.core c).frozen = false)
    (hs : (s.core c).sched.spawns = [x]) (hr : (s.core c).sched.ready = []) (hb : (s.core c).banksFor x.nbank = true) :
    s.dispatchOne c = some (s.dispatchSpawn c n false) := by
  simp [State.dispatchOne, ho, hl, hf, hs, hr, hb]

theorem dispatchOne_task {n off : Nat} {e : Nat × Nat} (ho : (s.core c).openSlot = some n) (hl : (s.core c).halted = false)
    (hf : (s.core c).frozen = false) (hs : (s.core c).sched.spawns = []) (hr : (s.core c).sched.ready = [(off, e)]) (hu : s.unfit c off = false)
    (hb : (s.core c).banksFor (tcbNbank (s.tcb c off)) = true) : s.dispatchOne c = some (s.dispatchTask c n off false) := by
  simp [State.dispatchOne, ho, hl, hf, hs, hr, hu, hb]

theorem dispatchOne_fault {n off : Nat} {e : Nat × Nat} (ho : (s.core c).openSlot = some n) (hl : (s.core c).halted = false)
    (hf : (s.core c).frozen = false) (hs : (s.core c).sched.spawns = []) (hr : (s.core c).sched.ready = [(off, e)]) (hu : s.unfit c off = true) :
    s.dispatchOne c = some (s.faultTcb c off) := by
  simp [State.dispatchOne, ho, hl, hf, hs, hr, hu]

/-- The spawn of a queue of one begins in the slot (R190). -/
theorem dispatchSpawn_leaves {n : Nat} {x : Queued} (hs : (s.core c).sched.spawns = [x]) (hr : (s.core c).sched.ready = []) :
    let t := s.dispatchSpawn c n false
    SameMem s t ∧ Began t c n x.pc x.asid x.flush x.sup x.args ∧ (t.core c).sched.spawns = [] ∧ (t.core c).sched.ready = [] ∧ (t.slot c n).work = 0 ∧
      (t.slot c n).task = false := by
  let u := s.modCore c fun k => k.modSched fun q =>
    { q with spawns := unselected q.spawnOldest q.spawns, spawnRun := if q.spawnOldest then 0 else q.spawnRun + 1, lastReady := false }
  let th := newThread x.pc x.asid (statusOf x.flush x.sup false false x.nbank false) x.args 0
  have ht : s.dispatchSpawn c n false = (u.enterSlot c n th).kickAll c := by
    simp only [State.dispatchSpawn, hs, selected_single]
    rfl
  have hu : (u.core c).sched.spawns = [] ∧ (u.core c).sched.ready = [] := by
    rw [show u.core c = _ from State.core_modCore_same ..]
    simp [Core.modSched, Sched.settle, hs, hr]
  obtain ⟨r, hk⟩ := State.core_kickAll_same (u.enterSlot c n th) c
  have hsched : (((u.enterSlot c n th).kickAll c).core c).sched = (u.core c).sched := by
    rw [hk]
    exact enterSlot_sched ..
  obtain ⟨b, o, hslot⟩ := enterSlot_slot u c n th
  have hready : ((u.enterSlot c n th).slot c n).st ≠ .held := by simp [hslot]
  obtain ⟨hbegan, hwork, htask⟩ := began_of_slot (t := (u.enterSlot c n th).kickAll c) (pc := x.pc) (asid := x.asid) (nbank := x.nbank)
    (flush := x.flush) (sup := x.sup) (task := false) (args := x.args) (work := 0) ⟨b, o, none, (State.slot_kickAll_same ..).trans ((Slot.kick_of_not_held hready).trans hslot)⟩
  simp only [ht, hsched]
  exact ⟨fun a => congrArg (memByte · a) ((State.kickAll_mem ..).trans (enterSlot_mem ..)), hbegan, hu.1, hu.2, hwork, htask⟩

end

section
variable {s : State} {c off : Nat}

/-- A queue's only TCB leaves it. -/
theorem unqueued_single {x y : Nat} {f : Sched → Sched} (hs : (s.core c).sched.spawns = []) (hr : (s.core c).sched.ready = [(off, x, y)])
    (hf : ∀ q, (f q).spawns = q.spawns ∧ (f q).ready = q.ready.filter fun e => e.1 != off) :
    let u := s.modCore c fun k => k.modSched f
    (Calm s c → Calm u c) ∧ (u.core c).sched.spawns = [] ∧ (u.core c).sched.ready = [] ∧ u.relink c = u := by
  intro u
  have hcore : u.core c = (s.core c).modSched f := State.core_modCore_same ..
  have hready : (u.core c).sched.ready = [] := by
    rw [hcore]
    exact (hf _).2.trans (by simp [hr])
  refine ⟨fun h => ⟨h.1, by rw [hcore]; exact h.2.1, by rw [hcore]; exact h.2.2⟩, ?_, hready, relink_nil hready⟩
  rw [hcore]
  exact (hf _).1.trans hs

/-- The task of a queue of one begins in the slot, Running (R190, R198). -/
theorem dispatchTask_leaves {n x y : Nat} (h : Calm s c) (hs : (s.core c).sched.spawns = []) (hr : (s.core c).sched.ready = [(off, x, y)]) :
    let t := s.dispatchTask c n off false
    SameBut s t (tileKey c (off + 2)) 1 ∧ (t.core c).sched.spawns = [] ∧ (t.core c).sched.ready = [] ∧ tcbState (t.tcb c off) = 3 ∧
      Began t c n (tcbPc (s.tcb c off)) (tcbAsid (s.tcb c off)) (tcbFlush (s.tcb c off)) false
        ((List.range 4).map fun i => s.value (tileKey c (off + 32 + 8 * i)) 8) ∧
      (t.slot c n).work = fabricAddr c off ∧ (t.slot c n).task = true ∧ (t.slot c n).succs = some (tcbNsucc (s.tcb c off)) := by
  let args := (List.range 4).map fun i => s.value (tileKey c (off + 32 + 8 * i)) 8
  let f (q : Sched) : Sched :=
    { q with ready := q.ready.filter fun e => e.1 != off, readyRun := if q.readyOldest then 0 else q.readyRun + 1, lastReady := true }
  let u := s.modCore c fun k => k.modSched f
  let v := u.setTcb c off 3 none
  let th : Slot := { newThread (tcbPc (s.tcb c off)) (tcbAsid (s.tcb c off)) (statusOf (tcbFlush (s.tcb c off)) false true false (tcbNbank (s.tcb c off)) false)
    args (fabricAddr c off) with succs := some (tcbNsucc (s.tcb c off)) }
  obtain ⟨hcalm, hspawns, hready, hlinks⟩ := unqueued_single (f := f) hs hr fun _ => ⟨rfl, rfl⟩
  have ht : s.dispatchTask c n off false = v.enterSlot c n th := by
    simp only [State.dispatchTask]
    exact congrArg (fun w : State => (w.setTcb c off 3 none).enterSlot c n th) hlinks
  obtain ⟨hw, hst⟩ := setTcb_leaves (hcalm h) off 3
  have hsched : ((v.enterSlot c n th).core c).sched = (u.core c).sched := (enterSlot_sched ..).trans (hw.part c Core.sched fun _ _ => rfl)
  have hmem := enterSlot_mem v c n th
  obtain ⟨b, o, hslot⟩ := enterSlot_slot v c n th
  obtain ⟨hbegan, hwork, htask⟩ := began_of_slot (t := v.enterSlot c n th) (pc := tcbPc (s.tcb c off)) (asid := tcbAsid (s.tcb c off))
    (nbank := tcbNbank (s.tcb c off)) (flush := tcbFlush (s.tcb c off)) (sup := false) (task := true) (args := args) (work := fabricAddr c off)
    ⟨b, o, some (tcbNsucc (s.tcb c off)), hslot⟩
  simp only [ht, hsched]
  refine ⟨fun a ha => (congrArg (memByte · a) hmem).trans (hw.same a (by rwa [tileKey_add] at ha)), hspawns, hready, ?_, hbegan, hwork, htask,
    congrArg Slot.succs hslot⟩
  rw [State.tcb, State.bytes, hmem]
  exact hst

/-- The malformed TCB of a queue of one becomes Faulted and goes on record (R198). -/
theorem faultTcb_leaves {x y : Nat} (h : Calm s c) (hs : (s.core c).sched.spawns = []) (hr : (s.core c).sched.ready = [(off, x, y)]) :
    let t := s.faultTcb c off
    SameBut s t (tileKey c (off + 2)) 2 ∧ (t.core c).sched.spawns = [] ∧ (t.core c).sched.ready = [] ∧ tcbState (t.tcb c off) = 5 ∧
      bitsOf (t.tcb c off) 24 8 = 1 ∧ Recorded s t c 39 2 := by
  let f (q : Sched) : Sched := { q with ready := q.ready.filter fun e => e.1 != off }
  let u := s.modCore c fun k => k.modSched f
  let v := u.setTcb c off 5 (some 1)
  let r : Rec := { cause := 39, cls := 2, slot := none, asid := tcbAsid (s.tcb c off), addr := fabricAddr c off, aux := 0, toSup := true }
  obtain ⟨hcalm, hspawns, hready, hlinks⟩ := unqueued_single (f := f) hs hr fun _ => ⟨rfl, rfl⟩
  have ht : s.faultTcb c off = v.raise c r := by
    simp only [State.faultTcb]
    exact congrArg (fun w : State => (w.setTcb c off 5 (some 1)).raise c r) hlinks
  obtain ⟨hw, hst, hfault⟩ := setTcb_faults (hcalm h) off 5 1
  obtain ⟨hraised, hrec⟩ := raise_leaves v c (r := r) (show 2 < 3 by decide) (show 39 < 64 by decide)
  have hsched : ((v.raise c r).core c).sched = (u.core c).sched :=
    (raise_sched v c (r := r) (show 2 < 3 by decide)).trans (hw.part c Core.sched fun _ _ => rfl)
  have htcb : (v.raise c r).tcb c off = v.tcb c off := by rw [State.tcb, State.bytes, hraised.mem, State.tcb, State.bytes]
  have hcore : u.core c = (s.core c).modSched f := State.core_modCore_same ..
  simp only [ht, hsched, htcb]
  refine ⟨fun a ha => (congrArg (memByte · a) hraised.mem).trans (hw.same a (by rwa [tileKey_add] at ha)), hspawns, hready, hst, hfault,
    recorded_congr hrec ?_ rfl⟩
  rw [hw.part c Core.traps fun _ _ => rfl, hcore]
  rfl

theorem unfit_false (hhome : tcbHome (s.tcb c off) = idOf c % 4096) (hsucc : tcbNsucc (s.tcb c off) ≤ 4) (hzero : tcbZero (s.tcb c off) = 0)
    (hstate : tcbState (s.tcb c off) < 7) : s.unfit c off = false := by
  simp [State.unfit, tcbBad, hhome, hsucc, hzero, hstate]

theorem unfit_true (h : tcbHome (s.tcb c off) ≠ idOf c % 4096 ∨ 4 < tcbNsucc (s.tcb c off) ∨ tcbZero (s.tcb c off) ≠ 0 ∨ 7 ≤ tcbState (s.tcb c off)) :
    s.unfit c off = true := by
  rcases h with h | h | h | h <;> simp [State.unfit, tcbBad, h]

end

theorem claim_dispatching : Claim.Dispatching := by
  intro s c k
  refine ⟨fun h => occurs_of exec_dispatch (congrArg some (dispatchAll_none (dispatchOne_none h) _)), ?_, ?_⟩
  · intro n x ho hl hf hs hr hb
    obtain ⟨hmem, hbegan, hspawns, hready, hwork, htask⟩ := dispatchSpawn_leaves (n := n) hs hr
    exact happens_of_occurs (dispatch_once (dispatchOne_spawn ho hl hf hs hr hb) hspawns hready) ⟨hmem, hbegan, hspawns, hwork, htask⟩
  · intro n off e b ho hl hf hs hr hcalm
    refine ⟨fun hhome hsucc hzero hstate hb => ?_, fun hbad => ?_⟩
    · obtain ⟨hmem, hspawns, hready, hst, hbegan⟩ := dispatchTask_leaves (n := n) hcalm hs hr
      have hu : s.unfit c off = false := unfit_false hhome hsucc hzero hstate
      exact happens_of_occurs (dispatch_once (dispatchOne_task ho hl hf hs hr hu hb) hspawns hready) ⟨hmem, hready, hst, hbegan⟩
    · obtain ⟨hmem, hspawns, hready, hst, hfault, hrec⟩ := faultTcb_leaves hcalm hs hr
      have hu : s.unfit c off = true := unfit_true hbad
      exact happens_of_occurs (dispatch_once (dispatchOne_fault ho hl hf hs hr hu) hspawns hready) ⟨hmem, hready, hst, hfault, hrec⟩

/-! ## Decrements and the arming of a task -/

theorem readCause_hole {s : State} {c off n cause : Nat} (h : (s.core c).windowCause off n = some cause) : s.readCause c off n = some cause := by
  simp only [State.readCause, h]

theorem readCause_poison {s : State} {c off n : Nat} (h : (s.core c).windowCause off n = none) (hp : s.anyPoison (tileKey c off) n = true) :
    s.readCause c off n = some 29 := by
  simp only [State.readCause, h, hp, if_true]

theorem readCause_none {s : State} {c off n : Nat} (h : (s.core c).windowCause off n = none) (hp : s.anyPoison (tileKey c off) n = false) :
    s.readCause c off n = none := by
  simp only [State.readCause, h, hp, Bool.false_eq_true, if_false]

/-- A decrement of an own thread hears of its performance where its kind asks for that (R196). -/
def State.heard (s : State) (m : Decr) : State := if m.kind = .tdep ∨ m.kind = .drain then s.after 0 (.acknowledgement m.src) else s

theorem heard_leaves (s : State) (m : Decr) : (s.heard m).mem = s.mem ∧ (∀ c, (s.heard m).core c = s.core c) ∧ (∀ x ∈ s.agenda, x ∈ (s.heard m).agenda) ∧
    (m.kind = .tdep → ⟨s.now, .acknowledgement m.src⟩ ∈ (s.heard m).agenda) := by
  unfold State.heard
  split
  · exact ⟨rfl, fun _ => rfl, fun x hx => State.mem_agenda_after 0 _ hx, fun _ => (mem_agendaAdd _ _ _).mpr (.inl rfl)⟩
  · next h => exact ⟨rfl, fun _ => rfl, fun _ => id, fun ht => absurd (.inl ht) h⟩

section
variable {s : State} {m : Decr} {c off : Nat}

/-- What becomes of a decrement that its core passes and finds in bounds (R196). -/
def State.decremented (s : State) (m : Decr) (c off : Nat) : State :=
  match s.decrement c off (min (idOf c) 4096) with
  | none => if m.kind = .tdep then s.after 0 (.refusal m.src 21)
    else (s.raise c { cause := 34, cls := 1, slot := none, asid := m.asid, addr := m.tcb, aux := min (idOf c) 4096, toSup := true }).heard m
  | some t => t.heard m

theorem decrement_frozen (hc : coreNamed m.tcb = c) (hs : m.src.core = c) (hk : Keeps s c m.asid) (hf : (s.core c).frozen = true) :
    Occurs .decrement s (.decrement m) (s.after (16 * Config.cycle) (.decrement m)) := by
  refine occurs_of exec_decrement ?_
  simp only [hc, hs, gateFrom_own m.sup hk]
  exact if_pos hf

theorem decrement_outside (hc : coreNamed m.tcb = c) (ho : offsetOf m.tcb = off) (hs : m.src.core = c) (hk : Keeps s c m.asid)
    (hf : (s.core c).frozen = false) (hoff : 2 ^ 20 < off + 64) (hkind : m.kind = .tdep) :
    Occurs .decrement s (.decrement m) (s.after 0 (.refusal m.src 6)) := by
  refine occurs_of exec_decrement ?_
  simp only [hc, hs, ho, gateFrom_own m.sup hk, State.tell_self]
  rw [if_neg (by simp [hf]), if_pos hoff, if_pos hkind]

theorem decrement_unreadable {cause : Nat} (hc : coreNamed m.tcb = c) (ho : offsetOf m.tcb = off) (hs : m.src.core = c) (hk : Keeps s c m.asid)
    (hf : (s.core c).frozen = false) (hoff : off + 64 ≤ 2 ^ 20) (hr : s.readCause c off 16 = some cause) (hkind : m.kind = .tdep) :
    Occurs .decrement s (.decrement m) (s.after 0 (.refusal m.src cause)) := by
  refine occurs_of exec_decrement ?_
  simp only [hc, hs, ho, gateFrom_own m.sup hk, State.tell_self, hr]
  rw [if_neg (by simp [hf]), if_neg (Nat.not_lt.mpr hoff), if_pos (show (some cause).isSome = true from rfl), if_pos hkind]
  rfl

theorem decrement_passed (hc : coreNamed m.tcb = c) (ho : offsetOf m.tcb = off) (hs : m.src.core = c) (hk : Keeps s c m.asid)
    (hf : (s.core c).frozen = false) (hoff : off + 64 ≤ 2 ^ 20) (hr : s.readCause c off 16 = none) :
    Occurs .decrement s (.decrement m) (s.decremented m c off) := by
  refine occurs_of exec_decrement ?_
  simp only [hc, hs, ho, gateFrom_own m.sup hk, State.tell_self, hr, State.decremented, decrSource]
  rw [if_neg (by simp [hf]), if_neg (Nat.not_lt.mpr hoff), if_neg (by simp)]
  cases s.decrement c off (min (idOf c) 4096) <;> rfl

theorem decrement_none (h : 1 < tcbState (s.tcb c off) ∨ tcbCnt (s.tcb c off) = 0) (src : Nat) : s.decrement c off src = none := if_pos h

/-- A decrement that is not the last one of an Armed TCB. -/
theorem decrement_counts (hst : tcbState (s.tcb c off) ≤ 1)
    (hcnt : 1 < tcbCnt (s.tcb c off) ∨ (tcbCnt (s.tcb c off) = 1 ∧ tcbState (s.tcb c off) = 0)) (src : Nat) :
    s.decrement c off src = some (s.writeTcb c off 0 (natLe 2 (tcbCnt (s.tcb c off) - 1))) := by
  simp only [State.decrement]
  rw [if_neg (by omega), if_neg (by omega)]

/-- The last decrement of an Armed TCB. -/
theorem decrement_readies (hst : tcbState (s.tcb c off) = 1) (hcnt : tcbCnt (s.tcb c off) = 1) (src : Nat) :
    s.decrement c off src = some (((s.writeTcb c off 0 (natLe 2 0)).setTcb c off 2 none).enqueue c off src) := by
  simp only [State.decrement, hst, hcnt]
  rfl

/-- The dependence count written. -/
theorem writeCnt_leaves (h : Calm s c) (v : Nat) : Writes s (s.writeTcb c off 0 (natLe 2 v)) (tileKey c off) 2 ∧
    (s.writeTcb c off 0 (natLe 2 v)).bytes (tileKey c off) 2 = natLe 2 v := by
  have hw := writes_writeTcb h off 0 (natLe 2 v)
  have hb := bytes_writeTcb h off 0 (natLe 2 v)
  rw [Nat.add_zero] at hw hb
  exact ⟨hw, hb⟩

/-- A TCB that becomes Ready and is the first of the queue (R196, R199). -/
theorem readied_leaves {src : Nat} (h : Calm s c) (hq : (s.core c).sched.ready = []) :
    SameBut s ((s.setTcb c off 2 none).enqueue c off src) (tileKey c off + 2) 10 ∧ tcbState (((s.setTcb c off 2 none).enqueue c off src).tcb c off) = 2 ∧
      (((s.setTcb c off 2 none).enqueue c off src).core c).sched.ready = [(off, s.now, src)] ∧
      ((s.setTcb c off 2 none).enqueue c off src).now = s.now ∧ Now s ((s.setTcb c off 2 none).enqueue c off src) (.dispatch c) := by
  obtain ⟨hw, hst⟩ := setTcb_leaves h off 2
  have hready : ((s.setTcb c off 2 none).core c).sched.ready = [] := (hw.part c (·.sched.ready) fun _ _ => rfl).trans hq
  obtain ⟨hsame, hjoined, hnow, hdispatch⟩ := enqueue_leaves (off := off) (src := src) (hw.calm h) hready
  rw [hw.now] at hjoined hnow
  rw [Now, hw.now] at hdispatch
  have hbytes := bytes_of_sameBut (b := tileKey c off + 2) (m := 1) hsame (.inl (by omega))
  rw [tcbState_tcb] at hst
  refine ⟨sameBut_trans (sameBut_wider hw.same (by omega) (by omega)) (sameBut_wider hsame (by omega) (by omega)), ?_, hjoined, hnow, hdispatch⟩
  rw [tcbState_tcb, hbytes, hst]

end

section
variable {s : State} {m : TaskArm} {c off : Nat}

/-- What becomes of a request to arm a TCB that its core passes and may read (R199). -/
def State.armed (s : State) (m : TaskArm) (c off : Nat) : State :=
  let answer (t : State) (st : Nat) : State := t.after 0 (.fill ⟨m.src, [.scalar m.reg m.seq (BitVec.ofNat 64 st)]⟩)
  let b := s.tcb c off
  if tcbState b ≠ 0 then answer s 2
  else if tcbBad c b ∨ 2 ^ 20 ≤ tcbPc b ∨ (tcbAsid b ≠ m.asid ∧ !m.sup) then answer s 3
  else if tcbCnt b ≠ 0 then answer (s.setTcb c off 1 none) 0
  else answer ((s.setTcb c off 2 none).enqueue c off (idOf c)) 1

theorem arm_frozen (hc : coreNamed m.tcb = c) (hs : m.src.core = c) (hk : Keeps s c m.asid) (hf : (s.core c).frozen = true) :
    Occurs .taskArmRequest s (.taskArmRequest m) (s.after (16 * Config.cycle) (.taskArmRequest m)) := by
  refine occurs_of exec_taskArmRequest ?_
  simp only [hc, hs, gateFrom_own m.sup hk]
  exact if_pos hf

theorem arm_outside (hc : coreNamed m.tcb = c) (ho : offsetOf m.tcb = off) (hs : m.src.core = c) (hk : Keeps s c m.asid)
    (hf : (s.core c).frozen = false) (hoff : 2 ^ 20 < off + 64) : Occurs .taskArmRequest s (.taskArmRequest m) (s.after 0 (.refusal m.src 6)) := by
  refine occurs_of exec_taskArmRequest ?_
  simp only [hc, hs, ho, gateFrom_own m.sup hk, State.tell_self]
  rw [if_neg (by simp [hf]), if_pos hoff]

theorem arm_unreadable {cause : Nat} (hc : coreNamed m.tcb = c) (ho : offsetOf m.tcb = off) (hs : m.src.core = c) (hk : Keeps s c m.asid)
    (hf : (s.core c).frozen = false) (hoff : off + 64 ≤ 2 ^ 20) (hr : s.readCause c off 16 = some cause) :
    Occurs .taskArmRequest s (.taskArmRequest m) (s.after 0 (.refusal m.src cause)) := by
  refine occurs_of exec_taskArmRequest ?_
  simp only [hc, hs, ho, gateFrom_own m.sup hk, State.tell_self, hr]
  rw [if_neg (by simp [hf]), if_neg (Nat.not_lt.mpr hoff), if_pos (show (some cause).isSome = true from rfl)]
  rfl

theorem arm_passed (hc : coreNamed m.tcb = c) (ho : offsetOf m.tcb = off) (hs : m.src.core = c) (hk : Keeps s c m.asid)
    (hf : (s.core c).frozen = false) (hoff : off + 64 ≤ 2 ^ 20) (hr : s.readCause c off 16 = none) :
    Occurs .taskArmRequest s (.taskArmRequest m) (s.armed m c off) := by
  refine occurs_of exec_taskArmRequest ?_
  simp only [hc, hs, ho, gateFrom_own m.sup hk, State.tell_self, hr, State.armed]
  rw [if_neg (by simp [hf]), if_neg (Nat.not_lt.mpr hoff), if_neg (by simp)]
  simp only [apply_ite some]

/-- What makes a TCB malformed or foreign (R199). -/
theorem tcb_unfit_iff : (tcbBad c (s.tcb c off) ∨ 2 ^ 20 ≤ tcbPc (s.tcb c off) ∨ (tcbAsid (s.tcb c off) ≠ m.asid ∧ !m.sup)) ↔
    (tcbHome (s.tcb c off) ≠ idOf c % 4096 ∨ 4 < tcbNsucc (s.tcb c off) ∨ tcbZero (s.tcb c off) ≠ 0 ∨ 2 ^ 20 ≤ tcbPc (s.tcb c off) ∨
      (tcbAsid (s.tcb c off) ≠ m.asid ∧ m.sup = false)) := by
  simp only [tcbBad, Bool.or_eq_true, bne_iff_ne, decide_eq_true_eq, Bool.not_eq_true', or_assoc]

theorem armed_full (h : tcbState (s.tcb c off) ≠ 0) :
    s.armed m c off = s.after 0 (.fill ⟨m.src, [.scalar m.reg m.seq (BitVec.ofNat 64 2)]⟩) := if_pos h

theorem armed_bad (h : tcbState (s.tcb c off) = 0)
    (hbad : tcbBad c (s.tcb c off) ∨ 2 ^ 20 ≤ tcbPc (s.tcb c off) ∨ (tcbAsid (s.tcb c off) ≠ m.asid ∧ !m.sup)) :
    s.armed m c off = s.after 0 (.fill ⟨m.src, [.scalar m.reg m.seq (BitVec.ofNat 64 3)]⟩) := (if_neg (not_not.mpr h)).trans (if_pos hbad)

theorem armed_waits (h : tcbState (s.tcb c off) = 0)
    (hok : ¬ (tcbBad c (s.tcb c off) ∨ 2 ^ 20 ≤ tcbPc (s.tcb c off) ∨ (tcbAsid (s.tcb c off) ≠ m.asid ∧ !m.sup))) (hcnt : tcbCnt (s.tcb c off) ≠ 0) :
    s.armed m c off = (s.setTcb c off 1 none).after 0 (.fill ⟨m.src, [.scalar m.reg m.seq (BitVec.ofNat 64 0)]⟩) :=
  (if_neg (not_not.mpr h)).trans ((if_neg hok).trans (if_pos hcnt))

theorem armed_ready (h : tcbState (s.tcb c off) = 0)
    (hok : ¬ (tcbBad c (s.tcb c off) ∨ 2 ^ 20 ≤ tcbPc (s.tcb c off) ∨ (tcbAsid (s.tcb c off) ≠ m.asid ∧ !m.sup))) (hcnt : tcbCnt (s.tcb c off) = 0) :
    s.armed m c off =
      ((s.setTcb c off 2 none).enqueue c off (idOf c)).after 0 (.fill ⟨m.src, [.scalar m.reg m.seq (BitVec.ofNat 64 1)]⟩) :=
  (if_neg (not_not.mpr h)).trans ((if_neg hok).trans (if_neg (not_not.mpr hcnt)))

end

/-! ### What a decrement leaves -/

section
variable {s : State} {m : Decr} {c off : Nat}

theorem decremented_refused (h : 1 < tcbState (s.tcb c off) ∨ tcbCnt (s.tcb c off) = 0) (hkind : m.kind = .tdep) :
    s.decremented m c off = s.after 0 (.refusal m.src 21) := by
  rw [State.decremented, decrement_none h]
  exact if_pos hkind

theorem decremented_recorded (h : 1 < tcbState (s.tcb c off) ∨ tcbCnt (s.tcb c off) = 0) (hkind : m.kind ≠ .tdep) :
    SameMem s (s.decremented m c off) ∧ Recorded s (s.decremented m c off) c 34 1 := by
  let r : Rec := { cause := 34, cls := 1, slot := none, asid := m.asid, addr := m.tcb, aux := min (idOf c) 4096, toSup := true }
  have ht : s.decremented m c off = (s.raise c r).heard m := by
    rw [State.decremented, decrement_none h]
    exact if_neg hkind
  obtain ⟨hraised, hrec⟩ := raise_leaves s c (r := r) (show 1 < 3 by decide) (show 34 < 64 by decide)
  obtain ⟨hmem, hcores, -⟩ := heard_leaves (s.raise c r) m
  have hcore : ((s.raise c r).heard m).core c = (s.raise c r).core c := hcores c
  rw [ht]
  exact ⟨fun a => congrArg (memByte · a) (hmem.trans hraised.mem), recorded_congr hrec rfl (by rw [hcore])⟩

theorem decremented_counts (hcalm : Calm s c) (hst : tcbState (s.tcb c off) ≤ 1)
    (hcnt : 1 < tcbCnt (s.tcb c off) ∨ (tcbCnt (s.tcb c off) = 1 ∧ tcbState (s.tcb c off) = 0)) :
    let t := s.decremented m c off
    SameBut s t (tileKey c off) 2 ∧ tcbCnt (t.tcb c off) = tcbCnt (s.tcb c off) - 1 ∧ (t.core c).sched = (s.core c).sched ∧
      (m.kind = .tdep → Now s t (.acknowledgement m.src)) := by
  let u := s.writeTcb c off 0 (natLe 2 (tcbCnt (s.tcb c off) - 1))
  have ht : s.decremented m c off = u.heard m := by rw [State.decremented, decrement_counts hst hcnt]
  obtain ⟨hw, hbytes⟩ := writeCnt_leaves (off := off) hcalm (tcbCnt (s.tcb c off) - 1)
  obtain ⟨hmem, hcores, -, hack⟩ := heard_leaves u m
  have hcore : (u.heard m).core c = u.core c := hcores c
  have hlt : tcbCnt (s.tcb c off) < 65536 := Nat.mod_lt _ (by decide)
  rw [show u.now = s.now from hw.now] at hack
  simp only [ht, hcore]
  refine ⟨fun a ha => (congrArg (memByte · a) hmem).trans (hw.same a ha), ?_, hw.part c Core.sched fun _ _ => rfl, hack⟩
  rw [tcbCnt_tcb, State.bytes, hmem]
  exact (congrArg leNat hbytes).trans ((leNat_natLe_two _).trans (Nat.mod_eq_of_lt (by omega)))

/-- The last decrement of an Armed TCB makes it the first of the queue. -/
theorem counted_leaves {src : Nat} (hcalm : Calm s c) (hq : (s.core c).sched.ready = []) :
    let t := ((s.writeTcb c off 0 (natLe 2 0)).setTcb c off 2 none).enqueue c off src
    SameBut s t (tileKey c off) 12 ∧ tcbCnt (t.tcb c off) = 0 ∧ tcbState (t.tcb c off) = 2 ∧ (t.core c).sched.ready = [(off, s.now, src)] ∧
      t.now = s.now ∧ Now s t (.dispatch c) := by
  obtain ⟨hw, hbytes⟩ := writeCnt_leaves (off := off) hcalm 0
  have hready : ((s.writeTcb c off 0 (natLe 2 0)).core c).sched.ready = [] := (hw.part c (·.sched.ready) fun _ _ => rfl).trans hq
  obtain ⟨hsame, hstate, hjoined, hnow, hdispatch⟩ := readied_leaves (off := off) (src := src) (hw.calm hcalm) hready
  have hcount := bytes_of_sameBut (b := tileKey c off) (m := 2) hsame (.inl (by omega))
  rw [hw.now] at hjoined hnow
  rw [Now, hw.now] at hdispatch
  refine ⟨fun a ha => (hsame a (by omega)).trans (hw.same a (by omega)), ?_, hstate, hjoined, hnow, hdispatch⟩
  rw [tcbCnt_tcb, hcount, hbytes, leNat_natLe_two]

theorem decremented_readies (hcalm : Calm s c) (hst : tcbState (s.tcb c off) = 1) (hcnt : tcbCnt (s.tcb c off) = 1)
    (hq : (s.core c).sched.ready = []) :
    let t := s.decremented m c off
    SameBut s t (tileKey c off) 12 ∧ tcbCnt (t.tcb c off) = 0 ∧ tcbState (t.tcb c off) = 2 ∧
      (t.core c).sched.ready = [(off, s.now, min (idOf c) 4096)] ∧ Now s t (.dispatch c) ∧ (m.kind = .tdep → Now s t (.acknowledgement m.src)) := by
  intro t
  have ht : t = (((s.writeTcb c off 0 (natLe 2 0)).setTcb c off 2 none).enqueue c off (min (idOf c) 4096)).heard m := by
    simp only [t, State.decremented, decrement_readies hst hcnt]
  obtain ⟨hsame, hcount, hstate, hjoined, hnow, hdispatch⟩ := counted_leaves (off := off) (src := min (idOf c) 4096) hcalm hq
  generalize ((s.writeTcb c off 0 (natLe 2 0)).setTcb c off 2 none).enqueue c off (min (idOf c) 4096) = v at *
  obtain ⟨hmem, hcores, hkept, hack⟩ := heard_leaves v m
  have htcb : (v.heard m).tcb c off = v.tcb c off := by rw [State.tcb, State.bytes, hmem, State.tcb, State.bytes]
  rw [hnow] at hack
  rw [ht, htcb, hcores]
  exact ⟨fun a ha => (congrArg (memByte · a) hmem).trans (hsame a ha), hcount, hstate, hjoined, hkept _ hdispatch, hack⟩

end

/-! ### What the arming of a TCB leaves -/

theorem tcb_after (s : State) (d : Nat) (e : Event) (c off : Nat) : (s.after d e).tcb c off = s.tcb c off := rfl

section
variable {s : State} {c off : Nat} (e : Event)

theorem armed_leaves (h : Calm s c) : SameBut s ((s.setTcb c off 1 none).after 0 e) (tileKey c (off + 2)) 1 ∧
    tcbState (((s.setTcb c off 1 none).after 0 e).tcb c off) = 1 ∧ Now s ((s.setTcb c off 1 none).after 0 e) e := by
  obtain ⟨hw, hstate⟩ := setTcb_leaves (off := off) h 1
  rw [tileKey_add, tcb_after]
  exact ⟨fun a ha => by rw [State.after_mem]; exact hw.same a ha, hstate, now_after _ _ _ hw.now⟩

theorem armed_ready_leaves {src : Nat} (h : Calm s c) (hq : (s.core c).sched.ready = []) :
    SameBut s (((s.setTcb c off 2 none).enqueue c off src).after 0 e) (tileKey c (off + 2)) 10 ∧
      tcbState ((((s.setTcb c off 2 none).enqueue c off src).after 0 e).tcb c off) = 2 ∧
      ((((s.setTcb c off 2 none).enqueue c off src).after 0 e).core c).sched.ready = [(off, s.now, src)] ∧
      Now s (((s.setTcb c off 2 none).enqueue c off src).after 0 e) e ∧
      Now s (((s.setTcb c off 2 none).enqueue c off src).after 0 e) (.dispatch c) := by
  obtain ⟨hsame, hstate, hjoined, hnow, hdispatch⟩ := readied_leaves (off := off) (src := src) h hq
  rw [tileKey_add, tcb_after, State.core_after]
  exact ⟨fun a ha => by rw [State.after_mem]; exact hsame a ha, hstate, hjoined, now_after _ _ _ hnow, State.mem_agenda_after 0 _ hdispatch⟩

end

theorem claim_decrements : Claim.Decrements := by
  intro s m c off b hs hk
  refine ⟨fun hf => decrement_frozen rfl hs hk hf, fun hf hoff hkind => decrement_outside rfl rfl hs hk hf hoff hkind,
    fun cause hf hoff hw hkind => decrement_unreadable rfl rfl hs hk hf hoff (readCause_hole hw) hkind,
    fun hf hoff hw hp hkind => decrement_unreadable rfl rfl hs hk hf hoff (readCause_poison hw hp) hkind, fun hf hoff hw hp => ?_⟩
  have htaken := decrement_passed rfl rfl hs hk hf hoff (readCause_none hw hp)
  exact ⟨fun hno hkind => decremented_refused hno hkind ▸ htaken,
    fun hno hkind => happens_of_occurs htaken (decremented_recorded hno (by simp [hkind])),
    fun hst hcnt hcalm => happens_of_occurs htaken (decremented_counts hcalm hst hcnt),
    fun hst hcnt hcalm hq => happens_of_occurs htaken (decremented_readies hcalm hst hcnt hq)⟩

theorem claim_taskArming : Claim.TaskArming := by
  intro s m c off b status bad hs hk
  refine ⟨fun hf => arm_frozen rfl hs hk hf, fun hf hoff => arm_outside rfl rfl hs hk hf hoff,
    fun cause hf hoff hr => arm_unreadable rfl rfl hs hk hf hoff hr, fun hf hoff hw hp => ?_⟩
  have htaken := arm_passed rfl rfl hs hk hf hoff (readCause_none hw hp)
  refine ⟨fun hst => armed_full hst ▸ htaken, fun hst hbad => armed_bad hst (tcb_unfit_iff.mpr hbad) ▸ htaken, fun hst hok hcnt hcalm => ?_,
    fun hst hok hcnt hcalm hq => ?_⟩
  · rw [armed_waits hst (fun h => hok (tcb_unfit_iff.mp h)) hcnt] at htaken
    exact happens_of_occurs htaken (armed_leaves (.fill ⟨m.src, [.scalar m.reg m.seq 0#64]⟩) hcalm)
  · rw [armed_ready hst (fun h => hok (tcb_unfit_iff.mp h)) hcnt] at htaken
    exact happens_of_occurs htaken (armed_ready_leaves (.fill ⟨m.src, [.scalar m.reg m.seq 1#64]⟩) hcalm hq)

/-- Settles O48, each event by what the TCB's core finds: the queues, the state and count of the TCB, and where its fields lie. -/
theorem tasksAndDispatch : Obligations.TasksAndDispatch := ⟨claim_dispatching, claim_decrements, claim_taskArming⟩

end Sys2Proof.Machine
end

section
/-!
PROOFS. Banks, request flits at their home and control accesses from elsewhere (spec/05 R93 to R96, spec/10 R208, R218, spec/15 R350).
-/

open Sys2Proof Sys2Proof.Machine Sys2Proof.Claim

namespace Sys2Proof.Machine

theorem exec_bankAccess (s : State) : exec .bankAccess s = execBankAccess s := rfl
theorem exec_remoteRead (s : State) : exec .remoteRead s = execRemoteRead s := rfl
theorem exec_remoteWrite (s : State) : exec .remoteWrite s = execRemoteWrite s := rfl
theorem exec_remoteAtomic (s : State) : exec .remoteAtomic s = execRemoteAtomic s := rfl
theorem exec_serviceBuiltinAccess (s : State) : exec .serviceBuiltinAccess s = execServiceBuiltinAccess s := rfl

/-! ## What an access at a place leaves of its core -/

/-- What an access at a place leaves of a core: all but its dirty bits. -/
def Dirties (s t : State) : Prop := ∀ c, ∃ d, t.core c = { s.core c with dirty := d }

theorem dirties_writeAt (s : State) (a : Nat) (bs : List Byte) : Dirties s (s.writeAt a bs) := (writeAt_leaves s a bs).2

theorem dirties_mark (s : State) (a : Nat) (b : Bool) : Dirties s (s.mark a b) := core_markDirty (s.setPresent a b) a

/-- Loads and stores of a thread: what is performed at a place changes nothing of a core but its dirty bits. -/
theorem dirties_performAt {s t : State} {p : Place} {asid : Nat} {op : MemOp} {value tag : Word} {fr : Nat}
    (h : s.performAt p asid op = .done t value tag fr)
    (hop : (∃ n v, op = .store n v) ∨ ∃ n, op = .load n ∨ op = .loadFull n ∨ op = .loadFullClear n) : Dirties s t := by
  have hself : Dirties s s := fun _ => ⟨_, rfl⟩
  unfold State.performAt at h
  split at h
  · unfold State.performLine at h
    simp only at h
    split at h
    · cases h
    · obtain ⟨n, v, rfl⟩ | ⟨n, rfl | rfl | rfl⟩ := hop
      · cases h
      · simp only at h
        split at h <;> cases h
        exact hself
      · cases h
      · cases h
  · simp only at h
    split at h
    · cases h
    · obtain ⟨n, v, rfl⟩ | ⟨n, rfl | rfl | rfl⟩ := hop
      · cases h
        exact dirties_writeAt _ _ _
      · cases h
        exact hself
      · simp only at h
        split at h <;> cases h
        exact hself
      · simp only at h
        split at h <;> cases h
        exact dirties_mark _ _ _

theorem recheckAll_nil {s : State} {c : Nat} (h : (s.core c).waiting = []) : s.recheckAll c = s := by
  simp only [State.recheckAll, h, List.length_nil, State.recheck]

theorem Dirties.waiting {s t : State} (h : Dirties s t) (c : Nat) : (t.core c).waiting = (s.core c).waiting := by
  obtain ⟨d, hd⟩ := h c
  rw [hd]

theorem hookFor_calm {s : State} {c : Nat} (r : Req) (h : (s.core c).snapshot = none) : s.hookFor c r = s := by
  have hnone (off n : Nat) : s.beforeWrite c off n = s := by simp only [State.beforeWrite, State.pendingIn, h, List.foldl_nil]
  unfold State.hookFor
  split
  · simp only
    split
    · exact hnone ..
    · exact hnone ..
  · rfl

theorem hookFor_read {s : State} {c : Nat} {r : Req} (h : opWrites r.op = false) : s.hookFor c r = s := if_neg (by simp [h])

/-! ## A bank -/

section
variable {s : State} {c : Nat} {r : Req}

/-- A request of the core itself is judged by no list of admission (R100). -/
theorem serve_own (h : r.src.core = c) : s.serve c r = s.serveHere c r := by
  simp only [State.serve, h, true_or, if_true]

theorem serveHere_plain (hv : (∃ n v, r.op = .store n v) ∨ ∃ n, r.op = .load n ∨ r.op = .loadFull n ∨ r.op = .loadFullClear n)
    (hw : (s.core c).windowHole (offsetOf r.addr) = false) (hh : s.hookFor c r = s) :
    s.serveHere c r = match s.performAt (s.tilePlace c (offsetOf r.addr)) r.asid r.op with
      | .wait => none
      | .refuse cause => some (s.refuseReq c r cause)
      | .done t v tag fr => some (t.served c r v tag fr) := by
  unfold State.serveHere
  rw [if_neg (by obtain ⟨n, v, e⟩ | ⟨n, e | e | e⟩ := hv <;> simp [e]), if_neg (by simp [hw])]
  obtain ⟨n, v, e⟩ | ⟨n, e | e | e⟩ := hv <;> simp only [e, hh] <;> split <;> simp_all

theorem served_plain {v : Word} (he : r.engine = false) (hp : r.posted = false) (ho : r.ordered = false) :
    s.served c r v 0 0 = s.answerReq c r (s.doneParts r v 0 0) := by
  simp only [State.served, he, hp, ho, Bool.false_and, Bool.false_eq_true, if_false]

/-- The answer to an own thread's load goes out four cycles later (R110). -/
theorem answerReq_own_some (hs : r.src.core = c) (ps : List FillPart) : s.answerReq c r (some ps) = s.after (4 * Config.cycle) (.fill ⟨r.src, ps⟩) :=
  if_pos hs

/-- The acknowledgement of an own thread's store goes out at once (R110). -/
theorem answerReq_own_none (hs : r.src.core = c) : s.answerReq c r none = s.after 0 (.acknowledgement r.src) := if_pos hs

theorem answered_recheck {d : Nat} {ev : Event} (h : (s.core c).waiting = []) : (s.after d ev).recheckAll c = s.after d ev := recheckAll_nil h

theorem waits_first {k : Core} (r : Req) (h : k.waiting = []) : { k with waiting := k.waiting ++ [r] } = { k with waiting := [r] } := by rw [h]; rfl

end

theorem claim_bankAccess : Claim.BankAccess := by
  intro s c b x k r u p
  have hcore : u.core c = { k with bankq := k.bankq.drop b } := State.core_modCore_same ..
  have hclear : (s.core c).clearing = [] → ∀ off, (s.core c).clearingAt off = false := fun h off => by rw [Core.clearingAt, h, List.any_nil]
  refine ⟨fun hq => ?_, fun e hq hc hev => ?_, fun hq hc hwait hev hs heng hpost hord hhole => ?_⟩
  · refine occurs_of exec_bankAccess ?_
    simp only [show (s.core c).bankq.get [] b = [] from hq, List.filter_nil, pickReq, List.isEmpty_nil, if_true]
  · refine occurs_of exec_bankAccess ?_
    simp only [show (s.core c).bankq.get [] b = [x] from hq, hclear hc, hev, List.filter_cons, List.filter_nil, Bool.not_false, if_true,
      Bool.false_eq_true, if_false, pickReq, List.append_nil, List.isEmpty_nil]
    rfl
  · have hserved {t : State} (h : (match u.serveHere c r with | none => some (u.holdReq c r) | some t => some (t.recheckAll c)) = some t) :
        Occurs .bankAccess s (.bankAccess c b) t := by
      refine occurs_of exec_bankAccess ?_
      simp only [show (s.core c).bankq.get [] b = [x] from hq, hclear hc, hev, List.filter_cons, List.filter_nil, Bool.not_false, if_true,
        Bool.false_eq_true, if_false, pickReq, List.append_nil, List.isEmpty_nil, serve_own (show x.req.src.core = c from hs)]
      exact h
    have hw : (u.core c).windowHole (offsetOf r.addr) = false := by
      rw [hcore]
      exact hhole
    have hu : (u.core c).waiting = [] := by
      rw [hcore]
      exact hwait
    refine ⟨fun n v t value hop _ hdone hsnap => hserved ?_, fun n t value hop hdone => hserved ?_, fun n hop hwaits hslot => hserved ?_,
      fun n cause hop hrefuse => hserved ?_⟩
    · have hsn : (u.core c).snapshot = none := by
        rw [hcore]
        exact hsnap
      have hdirt := dirties_performAt hdone (.inl ⟨n, v, hop⟩)
      rw [serveHere_plain (.inl ⟨n, v, hop⟩) hw (hookFor_calm r hsn), hdone]
      simp only [served_plain heng hpost hord, State.doneParts, hop, opFills, Bool.false_eq_true, if_false, answerReq_own_none hs]
      rw [answered_recheck ((hdirt.waiting c).trans hu)]
    · have hread : opWrites r.op = false := by rcases hop with e | e | e <;> rw [e] <;> rfl
      have hdirt := dirties_performAt hdone (.inr ⟨n, hop⟩)
      rw [serveHere_plain (.inr ⟨n, hop⟩) hw (hookFor_read hread), hdone]
      rcases hop with e | e | e
      all_goals
        simp only [served_plain heng hpost hord, State.doneParts, e, opFills, if_true, answerReq_own_some hs]
        rw [answered_recheck ((hdirt.waiting c).trans hu)]
    · have hread : opWrites r.op = false := by rcases hop with e | e <;> rw [e] <;> rfl
      have hload : ∃ n, r.op = .load n ∨ r.op = .loadFull n ∨ r.op = .loadFullClear n := ⟨n, .inr hop⟩
      rw [serveHere_plain (.inr hload) hw (hookFor_read hread), hwaits]
      simp only [State.holdReq, hu]
      rw [if_neg fun h => hslot h.2, if_neg (by decide)]
      exact congrArg some (congrArg (u.setCore c) (waits_first r hu))
    · have hread : opWrites r.op = false := by rw [hop]; rfl
      rw [serveHere_plain (.inr ⟨n, .inl hop⟩) hw (hookFor_read hread), hrefuse]
      simp only [State.refuseReq, hs, if_true]
      rw [answered_recheck hu]

/-! ## Requests at their home core -/

section
variable {s : State} {c : Nat} {r : Req}

/-- The three kinds of request flit are taken alike. -/
theorem remote_alike {t : State} (h : s.remoteReq c r = t) : Occurs .remoteRead s (.remoteRead c r) t ∧ Occurs .remoteWrite s (.remoteWrite c r) t ∧
    Occurs .remoteAtomic s (.remoteAtomic c r) t :=
  ⟨occurs_of exec_remoteRead (congrArg some h), occurs_of exec_remoteWrite (congrArg some h), occurs_of exec_remoteAtomic (congrArg some h)⟩

/-- A request flit accesses a control register or window through `crd` or `cwr`. -/
def opIsCtl : MemOp → Bool
  | .ctlRead | .ctlWrite _ => true
  | _ => false

theorem opIsCtl_iff (op : MemOp) : opIsCtl op = true ↔ op = .ctlRead ∨ ∃ v, op = .ctlWrite v := by
  cases op <;> simp [opIsCtl]

/-- A message that stands for a cancelled store (R391). -/
def opOnlyCounts : MemOp → Bool
  | .store 0 _ => true
  | _ => false

theorem opOnlyCounts_iff (op : MemOp) : opOnlyCounts op = true ↔ ∃ v, op = .store 0 v := by
  constructor
  · intro h
    unfold opOnlyCounts at h
    split at h
    · exact ⟨_, rfl⟩
    · cases h
  · rintro ⟨v, rfl⟩
    rfl

/-- A posted write from another device, which the ordering table counts. -/
def isFar (r : Req) (c : Nat) : Bool := r.posted && devOf r.src.core != devOf c

theorem isFar_iff : isFar r c = true ↔ r.posted = true ∧ devOf r.src.core ≠ devOf c := by simp [isFar]

theorem remoteReq_eq : s.remoteReq c r =
    if opOnlyCounts r.op then s.countPosted (devOf c) r
    else if isFar r c && !(s.hub (devOf c)).roomToCount r then s.send c r.src.core (.busy (.req r))
    else if decide (2 ^ 20 ≤ offsetOf r.addr) && !opIsCtl r.op && !(r.sup && !isCompute r.src.core) then s.refuseReq c r 6
    else if (s.core c).frozen || (!opIsCtl r.op && decide (64 ≤ (s.core c).service.length)) then s.send c r.src.core (.busy (.req r))
    else if opIsCtl r.op then s.superCtl c r
    else (if isFar r c then s.modHub (devOf c) fun h => h.reserveCount r else s).modCore c fun k =>
      ({ k with service := k.service ++ [Service.access r] }).ungate := rfl

end

theorem claim_remoteRequests : Claim.RemoteRequests := by
  intro s c r k far counts ctl roomy lies all busy
  have hcounts : ¬ counts → opOnlyCounts r.op = false := fun h => by simpa using mt (opOnlyCounts_iff r.op).mp h
  have hctl : ¬ ctl → opIsCtl r.op = false := fun h => by simpa using mt (opIsCtl_iff r.op).mp h
  have hroom : roomy → (isFar r c && !(s.hub (devOf c)).roomToCount r) = false := fun h => by
    cases hf : isFar r c with
    | false => rfl
    | true => simp [h.2 (isFar_iff.mp hf)]
  have hlies : lies → (decide (2 ^ 20 ≤ offsetOf r.addr) && !opIsCtl r.op && !(r.sup && !isCompute r.src.core)) = false := fun h => by
    rcases h with h | ⟨h1, h2⟩
    · rw [decide_eq_false (Nat.not_le.mpr h), Bool.false_and, Bool.false_and]
    · simp [h1, h2]
  refine ⟨fun h => ?_, fun hc hf hr => ?_, fun hro hl hc hfr hlen => ⟨fun hf => ?_, fun hf => ?_⟩, fun hro hl hc hfull => ?_, fun hro hc hfr => ?_,
    fun hro hc hfr => ?_, fun hro hl hc hs => ?_, fun rest hq => ?_⟩
  · refine (remote_alike ?_).2.1
    rw [remoteReq_eq, if_pos ((opOnlyCounts_iff r.op).mpr h)]
  · refine (remote_alike ?_).2.1
    rw [remoteReq_eq, if_neg (by simp [hcounts hc]), if_pos (by simp [isFar_iff.mpr hf, hr])]
  · refine remote_alike ?_
    have hfar : isFar r c = false := by simpa using mt isFar_iff.mp hf
    rw [remoteReq_eq, if_neg (by simp [hcounts hro.1]), if_neg (by simp [hroom hro]), if_neg (by simp only [hlies hl]; decide),
      if_neg (by simp [show (s.core c).frozen = false from hfr, show (s.core c).service.length < 64 from hlen]), if_neg (by simp [hctl hc]),
      if_neg (by simp [hfar])]
  · refine remote_alike ?_
    rw [remoteReq_eq, if_neg (by simp [hcounts hro.1]), if_neg (by simp [hroom hro]), if_neg (by simp only [hlies hl]; decide),
      if_neg (by simp [show (s.core c).frozen = false from hfr, show (s.core c).service.length < 64 from hlen]), if_neg (by simp [hctl hc]),
      if_pos (isFar_iff.mpr hf)]
  · refine remote_alike ?_
    rw [remoteReq_eq, if_neg (by simp [hcounts hro.1]), if_neg (by simp [hroom hro]), if_neg (by simp only [hlies hl]; decide),
      if_pos (by simpa [hctl hc] using hfull)]
  · refine remote_alike ?_
    rw [remoteReq_eq, if_neg (by simp [hcounts hro.1]), if_neg (by simp [hroom hro]), if_neg (by simp [(opIsCtl_iff r.op).mpr hc]),
      if_pos (by simp [show (s.core c).frozen = true from hfr])]
  · refine remote_alike ?_
    rw [remoteReq_eq, if_neg (by simp [hcounts hro.1]), if_neg (by simp [hroom hro]), if_neg (by simp [(opIsCtl_iff r.op).mpr hc]),
      if_neg (by simp [show (s.core c).frozen = false from hfr, (opIsCtl_iff r.op).mpr hc]), if_pos ((opIsCtl_iff r.op).mpr hc)]
  · refine (remote_alike ?_).2.1
    obtain ⟨hoff, hsup⟩ := not_or.mp hl
    have houtside : (r.sup && !isCompute r.src.core) = false := by simpa using hsup
    rw [remoteReq_eq, if_neg (by simp [hcounts hro.1]), if_neg (by simp [hroom hro]),
      if_pos (by rw [decide_eq_true (Nat.not_lt.mp hoff), hctl hc, houtside]; rfl), State.refuseReq, if_neg hs]
  · refine occurs_of exec_serviceBuiltinAccess ?_
    simp only [show (s.core c).service = Service.access r :: rest from hq]

/-! ## Control registers from elsewhere -/

theorem claim_controlAccess : Claim.ControlAccess := by
  intro s c r off back hs heng hpost hord
  have hfill (u : State) (ps : List FillPart) : u.answerReq c r (some ps) = u.send c r.src.core (.fill ⟨r.src, ps⟩) := if_neg hs
  have hack (u : State) : u.answerReq c r none = u.send c r.src.core (.acknowledgement r.src) := if_neg hs
  refine ⟨fun hop hal has => ?_, fun v hop hal has hne => ?_, fun hop => ⟨fun hal => ?_, fun hal has => ?_⟩⟩
  · simp only [State.superCtl, hop, opWidth]
    rw [if_neg (by simpa using hal), if_neg (by simpa using has), served_plain heng hpost hord]
    simp only [State.doneParts, hop, opFills, if_true, hfill]
    rfl
  · simp only [State.superCtl, hop, opWidth]
    rw [if_neg (by simpa using hal), if_neg (by simpa using has), if_neg hne, served_plain heng hpost hord]
    simp only [State.doneParts, hop, opFills, Bool.false_eq_true, if_false, hack]
    rfl
  · rcases hop with hop | ⟨v, hop⟩ <;> simp only [State.superCtl, hop, opWidth] <;> rw [if_pos (.inr hal), State.refuseReq, if_neg hs]
  · rcases hop with hop | ⟨v, hop⟩ <;> simp only [State.superCtl, hop, opWidth] <;>
      rw [if_neg (by simpa using hal), if_pos (by simpa using has), State.refuseReq, if_neg hs]

/-- Settles O43: what a bank grants, what a home core does with a request flit, and a control access judged there. -/
theorem bankAndRemoteAccess : Obligations.BankAndRemoteAccess := ⟨claim_bankAccess, claim_remoteRequests, claim_controlAccess⟩

end Sys2Proof.Machine
end

section
/-!
PROOFS. Ordered stores, replay and cancellation (spec/15 R350, spec/19 R391), and one access at its place (spec/05 R95, R96, spec/12 R270).
-/

open Sys2Proof Sys2Proof.Machine Sys2Proof.Claim

namespace Sys2Proof.Machine

theorem exec_orderedStore (s : State) : exec .orderedStore s = execOrderedStore s := rfl
theorem exec_orderedStoreRelease (s : State) : exec .orderedStoreRelease s = execOrderedStoreRelease s := rfl
theorem exec_journalReplay (s : State) : exec .journalReplay s = execJournalReplay s := rfl
theorem exec_journalCancel (s : State) : exec .journalCancel s = execJournalCancel s := rfl

/-! ## Ordered stores at their device -/

theorem countsMet_iff (h : Hub) (r : Req) (counts : List Nat) : h.countsMet r counts = true ↔
    (h.epochs.has (orderKey r.src.core r.src.slot) = false ∨ h.epochs.get 0 (orderKey r.src.core r.src.slot) = r.epoch) ∧
      ∀ p, p < 4 → counts.getD p 0 ≤ (((h.orders.find? fun o =>
        o.dev == devOf r.src.core && o.core == r.src.core && o.slot == r.src.slot && o.epoch == r.epoch && o.path == p).map (·.n)).getD 0) := by
  simp only [Hub.countsMet, Hub.inTurn, OrdEntry.counts, Bool.and_eq_true, Bool.or_eq_true, Bool.not_eq_true', beq_iff_eq, List.all_eq_true,
    List.mem_range]
  exact and_congr_right fun _ => forall₂_congr fun _ _ => decide_eq_true_iff

theorem setHub_setHub (s : State) (d : Nat) (h g : Hub) : (s.setHub d h).setHub d g = s.setHub d g := by
  simp only [State.setHub, Table.put_put]

/-- A hub that holds no ordered store releases none. -/
theorem releaseOrders_none {s : State} {d : Nat} {h : Hub} (hh : h.heldOrders = []) : (s.setHub d h).releaseOrders d = s.setHub d h := by
  obtain ⟨⟩ := h
  obtain rfl := hh
  simp only [State.releaseOrders, State.modHub, State.hub_setHub_same, setHub_setHub]
  rfl

section
variable {s : State} {d : Nat} {r : Req} {counts : List Nat}

theorem orderedStore_goes (h : (s.hub d).countsMet r counts = true) :
    Occurs .orderedStore s (.orderedStore d r counts) (s.after 0 (.orderedStoreRelease d r counts)) :=
  occurs_of exec_orderedStore (if_pos h)

theorem orderedStore_waits (h : (s.hub d).countsMet r counts = false) (hroom : (s.hub d).orders.length + (s.hub d).heldOrders.length < 256) :
    Occurs .orderedStore s (.orderedStore d r counts) (s.modHub d fun h => { h with heldOrders := h.heldOrders ++ [(r, counts)] }) :=
  occurs_of exec_orderedStore ((if_neg (by simp [h])).trans (if_neg (Nat.not_le.mpr hroom)))

theorem orderedStore_busy (h : (s.hub d).countsMet r counts = false) (hroom : 256 ≤ (s.hub d).orders.length + (s.hub d).heldOrders.length) :
    Occurs .orderedStore s (.orderedStore d r counts) (s.sendFar d (devOf r.src.core) (.busy (.ordered d r counts)) none none) :=
  occurs_of exec_orderedStore ((if_neg (by simp [h])).trans (if_pos hroom))

/-- The store goes on to its core as an ordinary one. -/
theorem orderedStoreRelease_sends (h : ∀ v, r.op ≠ .store 0 v) : Occurs .orderedStoreRelease s (.orderedStoreRelease d r counts)
    (s.send (hubOf d) (coreNamed r.addr) (.remoteWrite (coreNamed r.addr) { r with posted := false, ordered := true })) := by
  refine occurs_of exec_orderedStoreRelease ?_
  -- the rule's second case is taken where h excludes its first
  simp only

/-- The message that stands for a cancelled store ends its epoch. -/
theorem orderedStoreRelease_counts {v : Word} (h : r.op = .store 0 v) (hheld : (s.hub d).heldOrders = []) :
    Occurs .orderedStoreRelease s (.orderedStoreRelease d r counts) (s.modHub d fun h => { h with
      orders := h.orders.filter fun o => !(o.dev == devOf r.src.core && o.core == r.src.core && o.slot == r.src.slot && o.epoch == r.epoch)
      epochs := h.epochs.put (orderKey r.src.core r.src.slot) ((r.epoch + 1) % 16) }) := by
  refine occurs_of exec_orderedStoreRelease ?_
  simp only [h]
  exact congrArg some (releaseOrders_none hheld)

end

/-! ## Replay and cancellation -/

theorem setEntries_single {s : State} {c j st : Nat} {a : Acc} (h : a.jrn = some j) (h2 : a.jrn2 = none) :
    s.setEntries c a st = s.modCore c fun k => k.setJrn j (setField ((s.core c).jrn j) 1 2 st) := by
  simp only [State.setEntries, Acc.entries, h, h2]
  rfl

/-- A posted store of a journal entry goes out again on its terms (R391). -/
theorem resendEntry_device {s : State} {c j n : Nat} {a : Acc} (h : a.jrn = some j) :
    let e := (s.core c).jrn j
    let addr : Word := BitVec.ofNat 64 (field e 64 64)
    field e 9 3 = 0 → field e 12 2 ≠ 3 → homeOf c addr = .device → s.resendEntry c a n = s.send c (coreNamed addr) (.remoteWrite (coreNamed addr)
      { src := ⟨c, n, a.id⟩, asid := field e 32 14, sup := a.sup, addr := addr, op := .store (2 ^ field e 7 2) (BitVec.ofNat 64 (field e 128 64)),
        posted := true, epoch := field e 19 4, path := field e 23 2 }) := by
  intro e addr hop hord hhome
  simp only [State.resendEntry, h, Option.map_some, Option.getD_some]
  rw [show field ((s.core c).jrn j) 9 3 = 0 from hop]
  simp only [State.requestAgain, countsOf, State.entryOp]
  rw [if_neg hord, show homeOf c (BitVec.ofNat 64 (field ((s.core c).jrn j) 64 64)) = .device from hhome,
    show field ((s.core c).jrn j) 9 3 = 0 from hop]
  simp only [State.request]
  rw [show homeOf c (BitVec.ofNat 64 (field ((s.core c).jrn j) 64 64)) = .device from hhome]
  rfl

section
variable {s : State} {c j n : Nat} {a : Acc}

theorem replay_idle (h : field ((s.core c).jrn j) 1 2 ≠ 2) : Occurs .journalReplay s (.journalReplay c j) s :=
  occurs_of exec_journalReplay (if_pos (.inr h))

theorem cancel_idle (h : field ((s.core c).jrn j) 1 2 ≠ 3) : Occurs .journalCancel s (.journalCancel c j) s :=
  occurs_of exec_journalCancel (if_pos (.inr h))

/-- A replayed store of an access of one entry. -/
theorem replay_resends (ha : s.accOfEntry c j = some (n, a)) (hv : field ((s.core c).jrn j) 0 1 = 1) (hj : a.jrn = some j) (hj2 : a.jrn2 = none)
    (hst : field ((s.core c).jrn j) 1 2 = 2) (hop : field ((s.core c).jrn j) 9 3 = 0) (hord : field ((s.core c).jrn j) 12 2 ≠ 3)
    (hhome : homeOf c (BitVec.ofNat 64 (field ((s.core c).jrn j) 64 64)) = .device) :
    let e := (s.core c).jrn j
    let addr : Word := BitVec.ofNat 64 (field e 64 64)
    Occurs .journalReplay s (.journalReplay c j)
      ((s.modCore c fun k => k.setJrn j (setField e 1 2 2)).send c (coreNamed addr) (.remoteWrite (coreNamed addr)
        { src := ⟨c, n, a.id⟩, asid := field e 32 14, sup := a.sup, addr := addr, op := .store (2 ^ field e 7 2) (BitVec.ofNat 64 (field e 128 64)),
          posted := true, epoch := field e 19 4, path := field e 23 2 })) := by
  let e := (s.core c).jrn j
  let u := s.modCore c fun k => k.setJrn j (setField e 1 2 2)
  have hentry : (u.core c).jrn j = setField e 1 2 2 := by rw [State.core_modCore_same, Core.jrn_setJrn_same]
  have hkeep (lo m : Nat) (h : 3 ≤ lo) (hm : lo + m ≤ 256) : field (setField e 1 2 2) lo m = field e lo m :=
    field_setField_other _ _ _ _ _ _ (.inr h) hm
  have hsend := resendEntry_device (s := u) (c := c) (n := n) hj
  simp only [hentry] at hsend
  rw [hkeep 9 3 (by decide) (by decide), hkeep 12 2 (by decide) (by decide), hkeep 64 64 (by decide) (by decide), hkeep 32 14 (by decide) (by decide),
    hkeep 7 2 (by decide) (by decide), hkeep 128 64 (by decide) (by decide), hkeep 19 4 (by decide) (by decide), hkeep 23 2 (by decide) (by decide)] at hsend
  refine occurs_of exec_journalReplay ?_
  simp only [ha, setEntries_single hj hj2]
  rw [if_neg (by simp [hv, hst])]
  exact congrArg some (hsend hop hord hhome)

/-- A slot whose task has a store cancelled. -/
def withFault (a : Acc) (t : Slot) : Slot := if t.task && t.out.any (fun y => y.id == a.id) then { t with faultAtQuit := 3 } else t

theorem withFault_out (a : Acc) (t : Slot) : (withFault a t).out = t.out := by
  unfold withFault
  split <;> rfl

/-- A cancelled store of another core of the device performs nothing: its access ends, and a task faults at `quit` (R391). -/
theorem cancel_ends (ha : s.accOfEntry c j = some (n, a)) (hv : field ((s.core c).jrn j) 0 1 = 1) (hst : field ((s.core c).jrn j) 1 2 = 3)
    (hx : s.accOf ⟨c, n, a.id⟩ = some a) (hj : a.jrn = some j) (hh : a.hold = none) (ho : a.owed = 0) (hhome : a.home = .device) :
    Happens .journalCancel s (.journalCancel c j) fun t => (t.core c).jrn j = 0 ∧ SameMem s t ∧
      (t.slot c n).out = (s.slot c n).out.filter (fun y => y.id != a.id) ∧ ((s.slot c n).task = true → (t.slot c n).faultAtQuit = 3) := by
  let u := s.modSlot c n (withFault a)
  have hslot : u.slot c n = withFault a (s.slot c n) := State.slot_modSlot_same ..
  have hxu : u.accOf ⟨c, n, a.id⟩ = some a := (accOf_of_out (by rw [hslot, withFault_out])).trans hx
  have hend := ended_free hxu ho hh
  obtain ⟨st, why, mk, hs⟩ := hend.slot
  refine happens_of exec_journalCancel (t := u.complete ⟨c, n, a.id⟩) ?_ ⟨?_, fun b => hend.mem b, ?_, fun htask => ?_⟩
  · simp only [ha, hhome]
    rw [if_neg (by simp [hv, hst])]
    rfl
  · exact hend.freed j (by simp [Acc.entries, hj])
  · rw [hs, hslot, withFault_out]
  · have hmem := List.find?_some hx
    have hany : (s.slot c n).out.any (fun y => y.id == a.id) = true := List.any_eq_true.mpr ⟨a, List.mem_of_find?_eq_some hx, hmem⟩
    rw [hs, hslot, withFault, if_pos (by rw [htask, hany]; rfl)]

end

theorem claim_orderedStoresAndReplay : Claim.OrderedStoresAndReplay := by
  intro s
  refine ⟨?_, ?_⟩
  · intro d r counts h key reached
    have hmet : h.countsMet r counts = true ↔ reached := countsMet_iff h r counts
    have hunmet (hr : ¬ reached) : h.countsMet r counts = false := by simpa using mt hmet.mp hr
    exact ⟨fun hr => orderedStore_goes (hmet.mpr hr), fun hr hroom => orderedStore_waits (hunmet hr) hroom,
      fun hr hroom => orderedStore_busy (hunmet hr) hroom, fun hop => orderedStoreRelease_sends hop, fun v hop hheld => orderedStoreRelease_counts hop hheld⟩
  · intro c j n a e addr ha hv
    exact ⟨fun hj hj2 hst hop hord hhome => replay_resends ha hv hj hj2 hst hop hord hhome, fun h => replay_idle h,
      fun hst _ hx hj hh ho hhome => cancel_ends ha hv hst hx hj hh ho hhome, fun h => cancel_idle h⟩

/-! ## An access at its place -/

theorem natLe_length (n v : Nat) : (natLe n v).length = n := by
  induction n generalizing v with
  | zero => rfl
  | succ n ih => rw [natLe, List.length_cons, ih]

/-- The bytes of a number that do not fit are not written. -/
theorem natLe_mod (n v : Nat) : natLe n (v % 2 ^ (8 * n)) = natLe n v := by
  induction n generalizing v with
  | zero => rfl
  | succ n ih =>
    have hbyte : BitVec.ofNat 8 (v % 2 ^ (8 * (n + 1))) = BitVec.ofNat 8 v := by
      refine BitVec.eq_of_toNat_eq ?_
      rw [BitVec.toNat_ofNat, BitVec.toNat_ofNat, Nat.mod_mod_of_dvd _ (Nat.pow_dvd_pow 2 (by omega))]
    have hrest : v % 2 ^ (8 * (n + 1)) / 256 = v / 256 % 2 ^ (8 * n) := by
      rw [Nat.mul_succ, Nat.add_comm, pow_add, show (256 : Nat) = 2 ^ 8 from rfl, Nat.mod_mul_right_div_self]
    rw [natLe, natLe, hbyte, hrest, ih]

theorem natLe_congr {n x y : Nat} (h : x % 2 ^ (8 * n) = y % 2 ^ (8 * n)) : natLe n x = natLe n y := by rw [← natLe_mod n x, h, natLe_mod]

section
variable {a n : Nat}

theorem cellSize_eq (a : Nat) : (a < 2 ^ 50 ∧ cellSize a = 16) ∨ (2 ^ 50 ≤ a ∧ cellSize a = 8) := by
  by_cases h : a < 2 ^ 50
  · exact .inl ⟨h, if_pos h⟩
  · exact .inr ⟨Nat.not_lt.mp h, if_neg h⟩

/-- An aligned access of at most a word lies in one granule or word. -/
theorem cellsOf_aligned (hn : n = 1 ∨ n = 2 ∨ n = 4 ∨ n = 8) (ha : a % n = 0) : cellsOf a n = [a / cellSize a * cellSize a] := by
  have hlast : (a + n - 1) / cellSize a = a / cellSize a := by
    rcases cellSize_eq a with ⟨-, hz⟩ | ⟨-, hz⟩ <;> rw [hz] <;> rcases hn with rfl | rfl | rfl | rfl <;> omega
  simp only [cellsOf, hlast, Nat.add_sub_cancel_left, List.range_one, List.map_cons, List.map_nil, Nat.add_zero]

theorem cellKey_start (a : Nat) : cellKey (a / cellSize a * cellSize a) = cellKey a := by
  unfold cellKey
  rcases cellSize_eq a with ⟨h, hz⟩ | ⟨h, hz⟩
  · rw [hz, if_pos h, if_pos (by omega)]
    omega
  · rw [hz, if_neg (Nat.not_lt.mpr h), if_neg (by omega)]
    omega

end

theorem markDirty_cells (s : State) (a : Nat) : (s.markDirty a).pres = s.pres ∧ (s.markDirty a).poison = s.poison := by
  unfold State.markDirty
  split
  · exact ⟨rfl, rfl⟩
  · exact ⟨rfl, rfl⟩

theorem present_markDirty (s : State) (a : Nat) (d : Bool) (b : Nat) : (s.markDirty a).present d b = s.present d b := by
  rw [State.present, (markDirty_cells s a).1, State.present]

theorem poisoned_markDirty (s : State) (a b : Nat) : (s.markDirty a).poisoned b = s.poisoned b := by
  rw [State.poisoned, (markDirty_cells s a).2, State.poisoned]

theorem present_setPresent_same {s : State} {a b : Nat} (v d : Bool) (h : cellKey b = cellKey a) : (s.setPresent a v).present d b = v := by
  rw [State.present, h]
  exact Table.get_put_same ..

theorem present_setPresent_other {s : State} {a b : Nat} (v d : Bool) (h : cellKey b ≠ cellKey a) : (s.setPresent a v).present d b = s.present d b :=
  Table.get_put_other _ _ _ _ _ h

section
variable {s : State} {a n : Nat} (hn : n = 1 ∨ n = 2 ∨ n = 4 ∨ n = 8) (ha : a % n = 0)
include hn ha

theorem anyPoison_aligned : s.anyPoison a n = s.poisoned a := by
  rw [State.anyPoison, cellsOf_aligned hn ha, List.any_cons, List.any_nil, Bool.or_false, State.poisoned, cellKey_start, State.poisoned]

/-- An aligned write sets its cell full, and poisons none. -/
theorem writeAt_cells {bs : List Byte} (hb : bs.length = n) :
    (∀ d, (s.writeAt a bs).present d a = true) ∧ (∀ d b, cellKey b ≠ cellKey a → (s.writeAt a bs).present d b = s.present d b) ∧
      ∀ b, s.poisoned b = false → (s.writeAt a bs).poisoned b = false := by
  have hz : ¬ bs.length = 0 := by omega
  have hkey := cellKey_start a
  have hclean (u : State) (k b : Nat) (h : u.poisoned b = false) : (u.cleanse k).poisoned b = false := by
    simp only [State.poisoned, State.cleanse, List.contains_eq_mem, decide_eq_false_iff_not, List.mem_filter] at h ⊢
    exact fun hm => h hm.1
  simp only [State.writeAt]
  rw [if_neg hz, hb, cellsOf_aligned hn ha]
  simp only [List.foldl_cons, List.foldl_nil, present_markDirty, poisoned_markDirty]
  refine ⟨fun d => ?_, fun d b h => ?_, fun b h => ?_⟩
  · split <;> exact present_setPresent_same true d hkey.symm
  · split <;> exact present_setPresent_other true d (by rwa [hkey])
  · split
    · exact hclean _ _ _ h
    · exact h

theorem stored_writeAt (hok : MemOk s) (v : Nat) : Stored s (s.writeAt a (natLe n v)) a n v := by
  obtain ⟨hfull, hother, hsound⟩ := writeAt_cells (s := s) hn ha (natLe_length n v)
  have hw := writes_writeAt a (natLe n v) hok
  have hb := bytes_writeAt a (natLe n v) hok
  rw [natLe_length] at hw hb
  exact ⟨hb, hw.same, hfull, hother, hsound⟩

omit hn ha in
theorem stored_congr {t : State} {x y : Nat} (h : natLe n x = natLe n y) (hs : Stored s t a n x) : Stored s t a n y := by
  obtain ⟨hb, hrest⟩ := hs
  exact ⟨hb.trans h, hrest⟩

omit hn ha in
theorem onlyMarks_mark (s : State) (a : Nat) (full : Bool) : OnlyMarks s (s.mark a full) a full :=
  ⟨markDirty_mem .., (markDirty_cells ..).2, fun d => (present_markDirty ..).trans (present_setPresent_same full d rfl),
    fun d _ h => (present_markDirty ..).trans (present_setPresent_other full d h)⟩

end

/-! ### Atomics -/

theorem sval_toInt (n : Nat) (hn : 0 < n) (x : Word) : sval (8 * n) x.toNat = (x.setWidth (8 * n)).toInt := by
  rw [BitVec.toInt_eq_toNat_cond, BitVec.toNat_setWidth, sval]
  have hp : 2 ^ (8 * n) = 2 * 2 ^ (8 * n - 1) := by rw [← Nat.pow_succ']; congr 1; omega
  by_cases h : x.toNat % 2 ^ (8 * n) < 2 ^ (8 * n - 1)
  · rw [if_pos h, if_pos (by omega)]
  · rw [if_neg h, if_neg (by omega)]

theorem pick_mod (b : Prop) [Decidable b] (x y : Word) (m : Nat) : (if b then x else y).toNat % m = if b then x.toNat % m else y.toNat % m := by
  split <;> rfl

/-- What an atomic writes is its value by the statement, in the bits that it writes. -/
theorem amoVal_mod (k : AmoKind) {n : Nat} (hn : n = 1 ∨ n = 2 ∨ n = 4 ∨ n = 8) (u v : Word) :
    (amoVal k n u v).toNat % 2 ^ (8 * n) = amoNew k (8 * n) u v % 2 ^ (8 * n) := by
  have hpos : 0 < n := by omega
  have hdvd : 2 ^ (8 * n) ∣ 2 ^ 64 := Nat.pow_dvd_pow 2 (by omega)
  cases k with
  | swap => exact (Nat.mod_mod _ _).symm
  | add =>
    simp only [amoVal, amoNew, BitVec.toNat_add]
    rw [Nat.mod_mod_of_dvd _ hdvd, Nat.mod_mod, ← Nat.add_mod]
  | and => simp only [amoVal, amoNew, BitVec.toNat_and, ← Nat.and_mod_two_pow, Nat.mod_mod]
  | or => simp only [amoVal, amoNew, BitVec.toNat_or, ← Nat.or_mod_two_pow, Nat.mod_mod]
  | xor => simp only [amoVal, amoNew, BitVec.toNat_xor, ← Nat.xor_mod_two_pow, Nat.mod_mod]
  | min | max | minu | maxu =>
    simp only [amoVal, amoNew, sval_toInt n hpos, decide_eq_true_eq, pick_mod]
    split <;> rw [Nat.mod_mod]

/-! ### Each operation at a place that is no versioned line -/

section
variable {s : State} {p : Place} {asid n : Nat} {v : Word} (hline : p.line = none)
include hline

theorem performAt_poison {op : MemOp} (hop : opMeetsPoison op p.key = true) (hp : s.anyPoison p.key (opWidth op) = true) :
    s.performAt p asid op = .refuse 29 := by
  simp only [State.performAt, hline, hop, hp, Bool.and_self, if_true]

theorem performAt_setFull (hp : s.anyPoison p.key 1 = false) : s.performAt p asid .setFull = .done (s.mark p.key true) 0 0 0 := by
  simp [State.performAt, hline, opWidth, hp]

theorem performAt_setEmpty (hp : s.anyPoison p.key 1 = false) : s.performAt p asid .setEmpty = .done (s.mark p.key false) 0 0 0 := by
  simp [State.performAt, hline, opWidth, hp]

variable (hp : s.anyPoison p.key n = false)
include hp

theorem performAt_load : s.performAt p asid (.load n) = .done s (s.value p.key n) 0 0 := by
  simp [State.performAt, hline, opWidth, hp]

theorem performAt_store : s.performAt p asid (.store n v) = .done (s.writeAt p.key (natLe n v.toNat)) 0 0 0 := by
  simp [State.performAt, hline, opWidth, hp, lowBytes]

theorem performAt_amo (k : AmoKind) : s.performAt p asid (.amo k n v) =
    .done (s.writeAt p.key (natLe n (amoVal k n (s.value p.key n) v).toNat)) (s.value p.key n) 0 0 := by
  simp [State.performAt, hline, opWidth, hp, lowBytes]

theorem performAt_cas_hit {w : Word} (h : (s.value p.key n).toNat = w.toNat % 2 ^ (8 * n)) :
    s.performAt p asid (.cas n w v) = .done (s.writeAt p.key (natLe n v.toNat)) (s.value p.key n) 0 0 := by
  simp [State.performAt, hline, opWidth, hp, lowBytes, h]

theorem performAt_cas_miss {w : Word} (h : (s.value p.key n).toNat ≠ w.toNat % 2 ^ (8 * n)) :
    s.performAt p asid (.cas n w v) = .done (s.mark p.key true) (s.value p.key n) 0 0 := by
  simp [State.performAt, hline, opWidth, hp, h]

theorem performAt_loadFull (h : s.present p.dflt p.key = true) : s.performAt p asid (.loadFull n) = .done s (s.value p.key n) 0 0 := by
  simp [State.performAt, hline, opWidth, hp, h]

theorem performAt_loadFullClear (h : s.present p.dflt p.key = true) :
    s.performAt p asid (.loadFullClear n) = .done (s.mark p.key false) (s.value p.key n) 0 0 := by
  simp [State.performAt, hline, opWidth, hp, h]

theorem performAt_storeEmpty (h : s.present p.dflt p.key = false) :
    s.performAt p asid (.storeEmpty n v) = .done (s.writeAt p.key (natLe n v.toNat)) 0 0 0 := by
  simp [State.performAt, hline, opWidth, hp, lowBytes, h]

theorem performAt_storeEmpty_wait (h : s.present p.dflt p.key = true) : s.performAt p asid (.storeEmpty n v) = .wait := by
  simp [State.performAt, hline, opWidth, hp, h]

theorem performAt_loadFull_wait (h : s.present p.dflt p.key = false) :
    s.performAt p asid (.loadFull n) = .wait ∧ s.performAt p asid (.loadFullClear n) = .wait := by
  simp [State.performAt, hline, opWidth, hp, h]

end

theorem claim_accessAtItsPlace : Claim.AccessAtItsPlace := by
  intro s p asid n v hok hline hn ha a u answers
  have hp : s.anyPoison p.key n = s.poisoned p.key := anyPoison_aligned hn ha
  have hp1 : s.anyPoison p.key 1 = s.poisoned p.key := anyPoison_aligned (.inl rfl) (Nat.mod_one _)
  have hwrite (x : Nat) : Stored s (s.writeAt p.key (natLe n x)) p.key n x := stored_writeAt hn ha hok x
  refine ⟨fun hbad => ?_, fun hgood => ?_⟩
  · have hb := hp.trans hbad
    exact ⟨performAt_poison hline rfl hb, fun k => performAt_poison hline rfl hb, fun hlt => performAt_poison hline (decide_eq_true hlt) hb⟩
  · have hg := hp.trans hgood
    have hg1 := hp1.trans hgood
    refine ⟨⟨s, performAt_load hline hg, rfl⟩, ⟨_, performAt_store hline hg, hwrite v.toNat⟩, ⟨_, performAt_setFull hline hg1, onlyMarks_mark ..⟩,
      ⟨_, performAt_setEmpty hline hg1, onlyMarks_mark ..⟩, fun k => ?_, fun w => ⟨fun h => ?_, fun h => ?_⟩, fun hfull => ⟨?_, ?_, ?_⟩,
      fun hempty => ⟨?_, ?_, ?_⟩⟩
    · exact ⟨_, performAt_amo hline hg k, stored_congr (natLe_congr (amoVal_mod k hn u v)) (hwrite _)⟩
    · exact ⟨_, performAt_cas_hit hline hg h, hwrite v.toNat⟩
    · exact ⟨_, performAt_cas_miss hline hg h, onlyMarks_mark ..⟩
    · exact ⟨s, performAt_loadFull hline hg hfull, rfl⟩
    · exact ⟨_, performAt_loadFullClear hline hg hfull, onlyMarks_mark ..⟩
    · exact performAt_storeEmpty_wait hline hg hfull
    · exact (performAt_loadFull_wait hline hg hempty).1
    · exact (performAt_loadFull_wait hline hg hempty).2
    · exact ⟨_, performAt_storeEmpty hline hg hempty, hwrite v.toNat⟩

/-- Settles O42: what an ordered store waits for, what becomes of a journal entry, and each operation at its place. -/
theorem orderedStoresAndBanks : Obligations.OrderedStoresAndBanks := ⟨claim_orderedStoresAndReplay, claim_accessAtItsPlace⟩

end Sys2Proof.Machine
end

section
/-!
PROOFS. Held copies and streams tried again (spec/08 R155, R159, R311).
-/

open Sys2Proof Sys2Proof.Machine Sys2Proof.Claim

namespace Sys2Proof.Machine
theorem exec_copyAcceptance (s : State) : exec .copyAcceptance s = execCopyAcceptance s := rfl
theorem exec_cp (m : Mods) (o : OpCp) (s : State) : exec (.cp m o) s = execCp m o s := rfl
theorem exec_cpD (m : Mods) (o : OpCp) (s : State) : exec (.cpD m o) s = execCpD m o s := rfl
theorem exec_cpBv (m : Mods) (o : OpCpc) (s : State) : exec (.cpBv m o) s = execCpBv m o s := rfl
theorem exec_cpx (m : Mods) (o : OpCpc) (s : State) : exec (.cpx m o) s = execCpx m o s := rfl
theorem exec_cpxD (m : Mods) (o : OpCpc) (s : State) : exec (.cpxD m o) s = execCpxD m o s := rfl

/-! ## The checks of a copy form (R155, R159) -/

theorem shapeChecks_ok {c : Nat} {ks : List (Nat × Shape)} (r : Try State)
    (h : ∀ x ∈ ks, x.2.reachOk c = true ∧ x.2.base.toNat % x.2.size = 0 ∧ (isFabric x.2.base = true ∨ (isBulk x.2.base = true ∧ 8 ≤ x.2.size))) :
    shapeChecks c ks r = r := by
  have none (bad : Nat × Shape → Bool) (hb : ∀ x ∈ ks, bad x = false) : ks.find? bad = none := List.find?_eq_none.mpr fun x hx => by simp [hb x hx]
  simp only [shapeChecks]
  rw [none _ fun x hx => by simp [(h x hx).1], none _ fun x hx => by simp [(h x hx).2.1],
    none _ fun x hx => by rcases (h x hx).2.2 with hf | ⟨hf, -⟩ <;> simp [hf], none _ fun x hx => by rcases (h x hx).2.2 with hf | ⟨-, hf⟩ <;> simp [hf]]

theorem descTx_zeros : descTx (List.replicate 64 0) = 0 := by decide

theorem descTx_le {b : List Byte} (h : descOk b = true) : descTx b ≤ 3 := by
  simp only [descOk, Bool.and_eq_true, decide_eq_true_eq] at h
  exact h.1.1.1.1.1

/-- What is left of a copy form once its checks pass: it is accepted, or waits as a push. -/
theorem copyForm_checked {t : State} {p : CopyPlan} (hok : CopyOk t p) :
    t.copyForm p = t.pushing .copy p.instr (t.mayPush maskE && decide (t.myCore.copyq.length < 16) && (p.onDest || t.myCore.handleFree p.h.toNat))
      (.ok (copyTaken t p)) := by
  obtain ⟨hdesc, hplain, hkd, hks, hshape, hdest, hhandle, hview⟩ := hok
  have hshapes : ∀ x ∈ [(p.kd.toNat, t.myCore.shape p.kd.toNat), (p.ks.toNat, t.myCore.shape p.ks.toNat)], x.2.reachOk t.cur.core = true ∧
      x.2.base.toNat % x.2.size = 0 ∧ (isFabric x.2.base = true ∨ (isBulk x.2.base = true ∧ 8 ≤ x.2.size)) := by
    intro x hx
    refine hshape x.2 ?_
    simp only [List.mem_cons, List.not_mem_nil, or_false] at hx
    rcases hx with rfl | rfl <;> simp
  have hentry : t.entryOk (p.view.map fun v => (v, true)) = true := by
    cases hv : p.view with
    | none => rfl
    | some v => exact (hview v hv).1
  have hlines : (p.view.isNone || (t.myCore.shape p.kd.toNat).wholeLines) = true := by
    cases hv : p.view with
    | none => rfl
    | some v => simp [(hview v hv).2]
  have hbuf : (p.onDest && coreNamed (t.myCore.shape p.kd.toNat).base != t.cur.core || (t.myCore.handle p.h.toNat).buffer ||
      (t.myCore.handle p.h.toNat).tgt != 0) = true := by
    by_cases hfar : p.onDest = true ∧ coreNamed (t.myCore.shape p.kd.toNat).base ≠ t.cur.core
    · simp [hfar.1, hfar.2]
    · have := hhandle (by by_cases h : p.onDest = true <;> simp_all)
      rcases this with h | h <;> simp [h]
  have hto : (!p.onDest || isFabric (t.myCore.shape p.kd.toNat).base) = true := by
    cases h : p.onDest <;> simp [hdest, h]
  have hkdv : (t.myCore.shape p.kd.toNat).valid = true := decide_eq_true hkd
  have hksv : (t.myCore.shape p.ks.toNat).valid = true := decide_eq_true hks
  dsimp only at hdesc
  cases hd : p.desc with
  | none =>
    simp only [State.copyForm, hd, descTx_zeros, Option.getD_none, Option.isNone_none, Bool.true_or]
    refine (ensure_ok _ (by decide)).trans <| (ensure_ok _ (by decide)).trans <| (ensure_ok _ hkdv).trans <| (ensure_ok _ hksv).trans <|
      (ensure_ok _ (by simp [hplain hd])).trans <| (ensure_ok _ (by rfl)).trans <| (ensure_ok _ (by rfl)).trans <| (shapeChecks_ok _ hshapes).trans <|
      (ensure_ok _ hto).trans <| (ensure_ok _ hbuf).trans <| (ensure_ok _ hentry).trans <| (ensure_ok _ hlines).trans <| (ensure_ok _ (by rfl)).trans ?_
    simp only [copyTaken, copyOf, hd, State.fresh_name, State.me_fresh, State.fresh_cur, State.consume_cur, State.asid_consume, State.sup_consume]
    rfl
  | some v =>
    obtain ⟨halign, hin, hread, hgood, hsame, hraw, hpack, hmut⟩ := hdesc v hd
    have hmod : v.toNat % 2 ^ 20 = v.toNat := Nat.mod_eq_of_lt (by omega)
    have htx := descTx_le hgood
    have hbytes : ((t.myCore.shape p.kd.toNat).bytes == (t.myCore.shape p.ks.toNat).bytes || descTx (t.bytes (tileKey t.cur.core v.toNat) 64) == 1 ||
        descTx (t.bytes (tileKey t.cur.core v.toNat) 64) == 2) = true := by
      by_cases h : descTx (t.bytes (tileKey t.cur.core v.toNat) 64) = 0 ∨ descTx (t.bytes (tileKey t.cur.core v.toNat) 64) = 3
      · simp [hsame h]
      · have : descTx (t.bytes (tileKey t.cur.core v.toNat) 64) = 1 ∨ descTx (t.bytes (tileKey t.cur.core v.toNat) 64) = 2 := by omega
        rcases this with h | h <;> simp [h]
    simp only [State.copyForm, hd, Option.getD_some, Option.isNone_some, Bool.false_or, hmod]
    refine (ensure_ok _ (by simp [halign])).trans <| (ensure_ok _ (decide_eq_true hin)).trans <| (ensure_ok _ (by simp [hread])).trans <|
      (ensure_ok _ hgood).trans <| (ensure_ok _ hkdv).trans <| (ensure_ok _ hksv).trans <| (ensure_ok _ hbytes).trans <|
      (ensure_ok _ (by simpa [imp_iff_not_or] using hraw)).trans <| (ensure_ok _ (by simpa [imp_iff_not_or] using hpack)).trans <|
      (shapeChecks_ok _ hshapes).trans <| (ensure_ok _ hto).trans <| (ensure_ok _ hbuf).trans <| (ensure_ok _ hentry).trans <|
      (ensure_ok _ hlines).trans <| (ensure_ok _ (by simpa [imp_iff_not_or] using hmut)).trans ?_
    simp only [copyTaken, copyOf, hd, State.fresh_name, State.me_fresh, State.fresh_cur, State.consume_cur, State.asid_consume, State.sup_consume, beq_iff_eq]
    rfl

/-- A copy that the engine may take now. -/
theorem copyForm_ok {t : State} {p : CopyPlan} (hok : CopyOk t p) (hfree : CopyFree t p) : t.copyForm p = .ok (copyTaken t p) := by
  obtain ⟨hpush, hroom, hhandle⟩ := hfree
  have hcan : (t.mayPush maskE && decide (t.myCore.copyq.length < 16) && (p.onDest || t.myCore.handleFree p.h.toNat)) = true := by
    rw [show t.mayPush maskE = true from hpush, decide_eq_true hroom]
    rcases hhandle with h | h | h <;> simp [Core.handleFree, h]
  rw [copyForm_checked hok, pushing_ok _ hcan]

/-! ## A held copy or stream is tried again (R311) -/

/-- The forms that COPY_ACCEPTANCE tries again. -/
def Retried (i : Instr) : Prop :=
  (∃ m o, i = .cp m o ∨ i = .cpD m o) ∨ (∃ m o, i = .cpBv m o ∨ i = .cpx m o ∨ i = .cpxD m o) ∨ (∃ m o, i = .streamScalar m o) ∨
    (∃ m o, i = .streamVector m o)

/-- A push of the copy engine that is held, with the instruction as it was fetched. -/
structure HeldCopy (s : State) (c n : Nat) (i : Instr) (next : Nat) : Prop where
  push : (s.slot c n).push = some .copy
  stopped : (s.slot c n).stopped = false
  saving : (s.slot c n).saving = false
  pushed : (s.slot c n).pushed = some (i, next)

theorem copyAcceptance_idle {s : State} {c n : Nat} (h : (s.slot c n).push ≠ some .copy) : Occurs .copyAcceptance s (.copyAcceptance c n) s :=
  occurs_of exec_copyAcceptance (if_pos (.inl h))

/-- A retried form ends as its instruction does at the state of the retry. -/
theorem copyAcceptance_retried {s t : State} {c n next : Nat} {i : Instr} (hh : HeldCopy s c n i next) (hi : Retried i)
    (ht : exec i (retrying s c n next) = .next t) : Occurs .copyAcceptance s (.copyAcceptance c n) (t.afterRetry s c n) := by
  obtain ⟨hpush, hstop, hsave, hpushed⟩ := hh
  refine occurs_of exec_copyAcceptance ((if_neg (by simp [hpush, hstop, hsave])).trans ?_)
  simp only [retrying] at ht
  rcases hi with ⟨m, o, rfl | rfl⟩ | ⟨m, o, rfl | rfl | rfl⟩ | ⟨m, o, rfl⟩ | ⟨m, o, rfl⟩
  · simp only [hpushed, ← exec_cp, ht]
  · simp only [hpushed, ← exec_cpD, ht]
  · simp only [hpushed, ← exec_cpBv, ht]
  · simp only [hpushed, ← exec_cpx, ht]
  · simp only [hpushed, ← exec_cpxD, ht]
  · simp only [hpushed, ← exec_streamScalar, ht]
  · simp only [hpushed, ← exec_streamVector, ht]

/-- A held copy that the engine may take now is taken. -/
theorem retaken_of_body {s : State} {c n next : Nat} {i : Instr} {m : Mods} {p : CopyPlan} {body : State → Try State} (hh : HeldCopy s c n i next)
    (hi : Retried i) (hg : guardHolds m (retrying s c n next).me = true) (he : exec i (retrying s c n next) = (retrying s c n next).guarded m body)
    (hb : body (retrying s c n next).advance = (retrying s c n next).advance.copyForm p) : Retaken s c n (retrying s c n next) m p :=
  fun hok hfree => copyAcceptance_retried hh hi (ends_guarded he hg (hb.trans (copyForm_ok hok hfree)))

theorem myCore_retrying (s : State) (c n next : Nat) : ∃ t, (retrying s c n next).myCore = (s.core c).setSlot n t :=
  ⟨_, State.core_modCore_same s c fun k => k.setSlot n { s.slot c n with push := none, pushed := none, st := .ready, why := .none }⟩

theorem copyq_retrying (s : State) (c n next : Nat) : (retrying s c n next).myCore.copyq = (s.core c).copyq := by
  obtain ⟨t, ht⟩ := myCore_retrying s c n next
  rw [ht]
  rfl

theorem vreg_retrying (s : State) (c n next p : Nat) : (retrying s c n next).myCore.vreg p = (s.core c).vreg p := by
  obtain ⟨t, ht⟩ := myCore_retrying s c n next
  rw [ht]
  rfl

end Sys2Proof.Machine
end

section
/-!
PROOFS. Lines of a copy, refills of a stream, and pages without a frame (spec/05 R109, spec/08 R156, R157, R166).
-/

open Sys2Proof Sys2Proof.Machine Sys2Proof.Claim

namespace Sys2Proof.Machine

theorem exec_copyTransferLine (s : State) : exec .copyTransferLine s = execCopyTransferLine s := rfl
theorem exec_handleSubtraction (s : State) : exec .handleSubtraction s = execHandleSubtraction s := rfl
theorem exec_streamRefill (s : State) : exec .streamRefill s = execStreamRefill s := rfl
theorem exec_poolExhaustedTimeout (s : State) : exec .poolExhaustedTimeout s = execPoolExhaustedTimeout s := rfl

/-! ## A core without windows, snapshots, waiting requests, forwarding entries and poison -/

section
variable {s t : State} {c : Nat}

theorem plain_of_core (h : Plain s c) (hc : ∃ k, t.core c = k ∧ k.vwin = (s.core c).vwin ∧ k.snapshot = (s.core c).snapshot ∧
    k.waiting = (s.core c).waiting ∧ k.fwds = (s.core c).fwds) (hp : t.poison = s.poison) (hm : t.mem = s.mem) : Plain t c := by
  obtain ⟨hwin, hsnap, hwait, hpoison, hfwd, hok⟩ := h
  obtain ⟨k, rfl, h1, h2, h3, h4⟩ := hc
  exact ⟨h1.trans hwin, h2.trans hsnap, h3.trans hwait, hp.trans hpoison, h4.trans hfwd, by rw [MemOk, hm]; exact hok⟩

theorem homeNow_plain (h : Plain s c) (asid : Nat) : s.homeNow c asid = c := by
  obtain ⟨-, -, -, -, hfwd, -⟩ := h
  have hgate : ∀ d, (s.core c).gate c asid false ≠ .onward d := by
    intro d
    simp only [Core.gate, hfwd]
    split
    · simp
    · rw [List.find?_eq_none.mpr (by intro i _; simp [Table.get])]
      simp
  unfold State.homeNow
  cases s.cores.length with
  | zero => rfl
  | succ n =>
    rw [State.forwarded]
    split
    · next d hd => exact absurd hd (hgate d)
    · rfl

theorem windows_plain (h : Plain s c) : (s.core c).windows = [] := by
  simp [Core.windows, h.1, Table.get]

theorem windowHole_plain (h : Plain s c) (off : Nat) : (s.core c).windowHole off = false := by
  rw [Core.windowHole, windows_plain h, List.any_nil]

theorem tilePlace_plain (h : Plain s c) (off : Nat) : s.tilePlace c off = ⟨tileKey c off, false, none, true⟩ := by
  simp [State.tilePlace, Core.lineAt, windows_plain h]

theorem anyPoison_plain (h : Plain s c) (a n : Nat) : s.anyPoison a n = false := by
  simp [State.anyPoison, State.poisoned, h.2.2.2.1]

theorem beforeWrite_plain (h : Plain s c) (off n : Nat) : s.beforeWrite c off n = s := by
  simp only [State.beforeWrite, State.pendingIn, h.2.1, List.foldl_nil]

theorem coreNamed_lt (a : Word) : coreNamed a < 2 ^ 19 := by
  have h6 : bitsOf a.toNat 57 6 < 2 ^ 6 := Nat.mod_lt _ (by decide)
  have h12 : bitsOf a.toNat 45 12 < 2 ^ 12 := Nat.mod_lt _ (by decide)
  simp only [coreNamed, coreOf, Config.coresPerDevice]
  split <;> omega

section
variable {a : Word} {n : Nat}

theorem tileKey_lt (h : InTile c a n) : tileKey c (offsetOf a) + n ≤ 2 ^ 50 := by
  obtain ⟨-, hc, ho⟩ := h
  have := coreNamed_lt a
  rw [hc] at this
  simp only [tileKey]
  omega

/-- Where an engine's access of its own tile store stands. -/
theorem copyPlace_tile (h : Plain s c) (hi : InTile c a n) (hn : n ≠ 0) (asid : Nat) (sup write : Bool) :
    s.copyPlace c asid sup a write = .ok (⟨tileKey c (offsetOf a), false, none, true⟩, s) := by
  obtain ⟨hf, hc, ho⟩ := hi
  simp only [State.copyPlace, hf, if_true, hc, homeNow_plain h, windowHole_plain h, tilePlace_plain h, State.reaches, bne_self_eq_false, beq_self_eq_true,
    Bool.false_and, Bool.true_or, Bool.not_true, Bool.false_eq_true, false_or, or_false]
  rw [if_neg]
  omega

/-- An engine's read of a tile store. -/
theorem bulkRead_tile (h : Plain s c) (d : Nat) {key : Nat} (hk : key < 2 ^ 50) (n : Nat) (dflt live : Bool) :
    s.bulkRead d ⟨key, dflt, none, live⟩ n = (s.bytes key n, false, s) := by
  unfold State.bulkRead
  simp only
  rw [if_pos hk, anyPoison_plain h]

theorem readRuns_single {asid : Nat} {sup : Bool} {p : Place} {u : State} {bs : List Byte} (hp : s.copyPlace c asid sup a false = .ok (p, u))
    (hb : u.bulkRead c p n = (bs, false, u)) : s.readRuns c asid sup [(a, n)] = (bs, [], u) := by
  rw [State.readRuns, hp]
  dsimp only
  rw [hb]
  simp [State.readRuns]

theorem readRuns_tile (h : Plain s c) (hi : InTile c a n) (hn : n ≠ 0) (asid : Nat) (sup : Bool) :
    s.readRuns c asid sup [(a, n)] = (s.bytes (tileKey c (offsetOf a)) n, [], s) :=
  have hkey := tileKey_lt hi
  readRuns_single (copyPlace_tile h hi hn asid sup false) (bulkRead_tile h c (by omega) n false true)

theorem runFaults_tile (h : Plain s c) (hi : InTile c a n) (hn : n ≠ 0) (asid : Nat) (sup : Bool) :
    s.runFaults c asid sup none [(a, n)] = ([], s) := by
  have hsound (k : Nat) : s.poisoned k = false := by simp [State.poisoned, h.2.2.2.1]
  simp [State.runFaults, State.runFault, copyPlace_tile h hi hn, hsound]

theorem writeRuns_tile (h : Plain s c) (hi : InTile c a n) (hn : n ≠ 0) (asid : Nat) (sup : Bool) {bs : List Byte} (hb : bs.length = n) :
    s.writeRuns c asid sup none false [(a, n)] bs = s.writeAt (tileKey c (offsetOf a)) bs := by
  have hkey := tileKey_lt hi
  obtain ⟨-, -, ho⟩ := id hi
  have hlt : tileKey c (offsetOf a) < 2 ^ 50 := by omega
  have hdiv : tileKey c (offsetOf a) / 2 ^ 20 = c := by simp only [tileKey]; omega
  have htake : bs.take n = bs := List.take_of_length_le hb.le
  have hwait : ((s.writeAt (tileKey c (offsetOf a)) bs).core c).waiting = [] := (Dirties.waiting (dirties_writeAt _ _ _) c).trans h.2.2.1
  simp only [State.writeRuns, State.writeRun, copyPlace_tile h hi hn, if_pos hlt, hdiv, beforeWrite_plain h, htake, Bool.false_eq_true, if_false]
  exact recheckAll_nil hwait

end

end

/-! ## The presence of written bytes (R95) -/

theorem present_mono_cells {s : State} (a n : Nat) (ks : List Nat) (d : Bool) (b : Nat) (h : s.present d b = true ∨ ∃ k ∈ ks, cellKey k = cellKey b) :
    (ks.foldl (fun s k => let s := s.setPresent k true; if a ≤ k ∧ k + cellSize a ≤ a + n then s.cleanse k else s) s).present d b = true := by
  induction ks generalizing s with
  | nil => exact h.resolve_right (by simp)
  | cons k ks ih =>
    have hcleanse (u : State) : (if a ≤ k ∧ k + cellSize a ≤ a + n then u.cleanse k else u).present d b = u.present d b := by
      split <;> rfl
    refine ih ?_
    rw [hcleanse]
    by_cases hk : cellKey b = cellKey k
    · exact .inl (present_setPresent_same true d hk)
    · rw [present_setPresent_other true d hk]
      refine h.imp_right ?_
      rintro ⟨l, hl, he⟩
      rcases List.mem_cons.mp hl with rfl | hl
      · exact absurd he.symm hk
      · exact ⟨l, hl, he⟩

/-- Each byte of a write lies in one of its granules or words. -/
theorem cell_of_byte {a n i : Nat} (h : a + n ≤ 2 ^ 50) (hi : i < n) : ∃ k ∈ cellsOf a n, cellKey k = cellKey (a + i) := by
  have ha : a < 2 ^ 50 := by omega
  refine ⟨(a + i) / 16 * 16, ?_, ?_⟩
  · simp only [cellsOf, cellSize, if_pos ha, List.mem_map, List.mem_range]
    exact ⟨(a + i) / 16 - a / 16, by omega, by omega⟩
  · rw [cellKey, cellKey, if_pos (by omega), if_pos (by omega)]
    omega

theorem present_writeAt {s : State} {a : Nat} {bs : List Byte} {i : Nat} (d : Bool) (h : a + bs.length ≤ 2 ^ 50) (hi : i < bs.length) :
    (s.writeAt a bs).present d (a + i) = true := by
  unfold State.writeAt
  simp only
  rw [if_neg (by omega), present_markDirty, present_markDirty]
  exact present_mono_cells a bs.length _ d _ (.inr (cell_of_byte h hi))

/-! ## A line of a plain copy (R156) -/

theorem Shape.size_pos (k : Shape) : 0 < k.size := by
  unfold Shape.size eszBytes
  split
  · decide
  · exact Nat.two_pow_pos _

/-- The runs of n bytes are found with any fuel from n on. -/
theorem Shape.runs_enough (k : Shape) {f g i n : Nat} (hf : n ≤ f) (hg : n ≤ g) : k.runs f i n = k.runs g i n := by
  induction f generalizing g i n with
  | zero =>
    obtain rfl := Nat.le_zero.mp hf
    cases g <;> simp [Shape.runs]
  | succ f ih =>
    cases g with
    | zero =>
      obtain rfl := Nat.le_zero.mp hg
      simp [Shape.runs]
    | succ g =>
      rw [Shape.runs, Shape.runs]
      by_cases hn : n = 0
      · simp [hn]
      · have hoff : i % k.size < k.size := Nat.mod_lt _ k.size_pos
        rw [if_neg hn, if_neg hn]
        simp only
        rw [ih (g := g) (by omega) (by omega)]

/-- What a core keeps of its copies and of the copy queue, and what an event finds as it was. -/
structure HasCopy (s t : State) (c : Nat) (y : Copy) (q : List Nat) : Prop where
  plain : Plain t c
  mem : t.mem = s.mem
  pres : t.pres = s.pres
  now : t.now = s.now
  copies : (t.core c).copies = [y]
  queue : (t.core c).copyq = q
  agenda : ∀ e ∈ s.agenda, e ∈ t.agenda

section
variable {s t u : State} {c : Nat} {x y : Copy} {q : List Nat}

theorem hasCopy_modCopy (h : HasCopy s t c y q) (f : Copy → Copy) : HasCopy s (t.modCopy c y.id f) c (f y) q := by
  obtain ⟨hplain, hmem, hpres, hnow, hcopies, hqueue, hagenda⟩ := h
  have hcore : (t.modCopy c y.id f).core c = { t.core c with copies := [f y] } := by
    rw [State.modCopy, State.core_modCore_same, hcopies]
    simp
  exact ⟨plain_of_core hplain ⟨_, hcore, rfl, rfl, rfl, rfl⟩ rfl rfl, hmem, hpres, hnow, by rw [hcore], by rw [hcore]; exact hqueue, hagenda⟩

theorem hasCopy_after (h : HasCopy s t c y q) (d : Nat) (e : Event) : HasCopy s (t.after d e) c y q := by
  obtain ⟨hplain, hmem, hpres, hnow, hcopies, hqueue, hagenda⟩ := h
  exact ⟨plain_of_core hplain ⟨_, State.core_after .., rfl, rfl, rfl, rfl⟩ rfl rfl, hmem, hpres, hnow, hcopies, hqueue,
    fun e he => State.mem_agenda_after _ _ (hagenda e he)⟩
end

theorem State.soon_cells (s : State) (evs : List Event) : (s.soon evs).poison = s.poison ∧ (s.soon evs).pres = s.pres := by
  induction evs generalizing s with
  | nil => exact ⟨rfl, rfl⟩
  | cons e es ih => exact ih (s.after 0 e)

theorem State.kickAll_cells (s : State) (c : Nat) : (s.kickAll c).poison = s.poison ∧ (s.kickAll c).pres = s.pres := by
  obtain ⟨evs, he⟩ := State.kickAll_eq s c
  rw [he]
  exact State.soon_cells _ _

/-- The place of a copy in the queue is free again, and every slot looks again. -/
def State.dequeue (s : State) (c id : Nat) : State := (s.modCore c fun k => { k with copyq := k.copyq.filter (· != id) }).kickAll c

theorem core_dequeue (s : State) (c id : Nat) : ∃ ss r, (s.dequeue c id).core c =
    { s.core c with copyq := (s.core c).copyq.filter (· != id), slots := ss, running := r } := by
  obtain ⟨r, hr⟩ := State.core_kickAll_same (s.modCore c fun k => { k with copyq := k.copyq.filter (· != id) }) c
  refine ⟨Table.mapVals Slot.kick (s.core c).slots, r, hr.trans ?_⟩
  rw [State.core_modCore_same]

theorem dequeue_rest (s : State) (c id : Nat) : (s.dequeue c id).mem = s.mem ∧ (s.dequeue c id).poison = s.poison ∧ (s.dequeue c id).now = s.now ∧
    (s.dequeue c id).pres = s.pres ∧ ∀ e ∈ s.agenda, e ∈ (s.dequeue c id).agenda := by
  obtain ⟨hpoison, hpres⟩ := State.kickAll_cells (s.modCore c fun k => { k with copyq := k.copyq.filter (· != id) }) c
  exact ⟨State.kickAll_mem .., hpoison, State.kickAll_now .., hpres, fun e h => State.mem_agenda_kickAll c h⟩

section
variable {s t u : State} {c : Nat} {x y : Copy} {q : List Nat}

theorem hasCopy_dequeue (h : HasCopy s t c y q) (id : Nat) : HasCopy s (t.dequeue c id) c y (q.filter (· != id)) := by
  obtain ⟨hplain, hmem, hpres, hnow, hcopies, hqueue, hagenda⟩ := h
  obtain ⟨ss, r, hcore⟩ := core_dequeue t c id
  obtain ⟨dmem, dpoison, dnow, dpres, dagenda⟩ := dequeue_rest t c id
  exact ⟨plain_of_core hplain ⟨_, hcore, rfl, rfl, rfl, rfl⟩ dpoison dmem, dmem.trans hmem, dpres.trans hpres, dnow.trans hnow, by rw [hcore]; exact hcopies,
    by rw [hcore]; exact congrArg _ hqueue, fun e he => dagenda e (hagenda e he)⟩

end

/-- A copy once the line j of x, of these bytes, has been read. -/
def lineRead (x : Copy) (j : Nat) (bs : List Byte) (y : Copy) : Copy :=
  { y with next := j + 1, crc := crcBytes x.crc bs, outlen := x.outlen, failed := x.failed }

/-- The engine's step behind line j of a copy: to the next line, or to the end of its turns. -/
def State.turnOn (s : State) (c : Nat) (x : Copy) (j : Nat) : State :=
  if j + 1 = x.lines then s.dequeue c x.id else s.after 2 (.copyTransferLine c x.id (j + 1) true none)

/-- What the copy queue is once the engine has read line j of a copy. -/
def queueAfter (x : Copy) (j : Nat) (q : List Nat) : List Nat := if j + 1 = x.lines then q.filter (· != x.id) else q

section
variable {s t : State} {c : Nat} {x y : Copy} {a b : Word} {j n : Nat} {q : List Nat}

theorem hasCopy_turnOn (h : HasCopy s t c y q) (x : Copy) (j : Nat) : HasCopy s (t.turnOn c x j) c y (queueAfter x j q) := by
  unfold State.turnOn queueAfter
  split
  · exact hasCopy_dequeue h x.id
  · exact hasCopy_after h _ _

theorem find_copy (h : (t.core c).copies = [y]) : ((t.core c).copies.find? fun x => x.id == y.id) = some y := by
  rw [h]
  simp

/-- A line of a plain copy within its tile store is read whole, and without a fault. -/
theorem readLine_plain (h : Plain s c) (hdesc : x.desc = none) (hn : n = min 64 (x.kd.bytes - 64 * j)) (h0 : n ≠ 0)
    (hruns : x.ks.runs 70 (64 * j) n = [(b, n)]) (hb : InTile c b n) :
    s.readLine c x j true = (⟨64 * j, s.bytes (tileKey c (offsetOf b)) n, [], false, true⟩,
      s.modCopy c x.id (lineRead x j (s.bytes (tileKey c (offsetOf b)) n))) := by
  have hdata : s.lineData c x j = (s.bytes (tileKey c (offsetOf b)) n, [], x, s) := by
    simp only [State.lineData, hdesc, ← hn, hruns, readRuns_tile h hb h0]
  simp only [State.readLine, hdata, Bool.true_or, if_true, List.append_nil]
  rfl

theorem lineEnds_plain (h : Plain s c) (hd : InTile c x.kd.base 0) (hs : InTile c x.ks.base 0) : s.lineEnds c x = (c, c) := by
  obtain ⟨hdf, hdc, -⟩ := hd
  obtain ⟨hsf, hsc, -⟩ := hs
  simp only [State.lineEnds, hdf, hsf, if_true, hdc, hsc, homeNow_plain h]

/-- A transfer line that touches tile stores alone waits for no page. -/
theorem stallLine_none (hview : x.view = none) (htouch : ∀ v ∈ x.touches j, isFabric v = true) (e : Event) : s.stallLine c j x e = none := by
  simp only [State.stallLine, State.stalledAt, State.lineSpills, hview, List.append_nil, List.findSome?_eq_none_iff]
  intro z hz
  obtain ⟨v, hv, rfl⟩ := List.mem_map.mp hz
  simp [htouch v hv]

/-- The engine's turn at a line that is read, and stays in the tile store that it was read in. -/
theorem copyLine_turn {u : State} {l : LineData} {ok : Bool} (hx : ((s.core c).copies.find? fun z => z.id == x.id) = some x) (hnext : x.next = j)
    (hj : j < x.lines) (hp : x.packs = false) (hread : s.readLine c x j ok = (l, u)) (hends : (u.turnOn c x j).lineEnds c x = (c, c))
    (hy : (((u.turnOn c x j).core c).copies.find? fun z => z.id == x.id) = some y) : s.copyLine c x.id j ok = (u.turnOn c x j).landLine c y l := by
  unfold State.copyLine
  rw [hx]
  simp only
  rw [if_neg (by omega), if_neg (by omega), hp]
  simp only [Bool.false_eq_true, if_false, hread]
  unfold State.turnOn State.dequeue at hends hy ⊢
  rw [hends]
  simp only [true_or, if_true, hy]

/-- The engine reads line j of a plain copy and brings it to its own tile store at once. -/
theorem copyLine_plain (h : Plain s c) (hx : (s.core c).copies = [x]) (hdesc : x.desc = none) (hd : InTile c x.kd.base 0) (hs : InTile c x.ks.base 0)
    (hnext : x.next = j) (hj : j < x.lines) (hn : n = min 64 (x.kd.bytes - 64 * j)) (h0 : n ≠ 0) (hruns : x.ks.runs 70 (64 * j) n = [(b, n)])
    (hb : InTile c b n) :
    ∃ t, HasCopy s t c (lineRead x j (s.bytes (tileKey c (offsetOf b)) n) x) (queueAfter x j (s.core c).copyq) ∧
      (j + 1 < x.lines → ⟨s.now + 2, .copyTransferLine c x.id (j + 1) true none⟩ ∈ t.agenda) ∧
      s.copyLine c x.id j true = t.landLine c (lineRead x j (s.bytes (tileKey c (offsetOf b)) n) x)
        ⟨64 * j, s.bytes (tileKey c (offsetOf b)) n, [], false, true⟩ := by
  have hstart : HasCopy s s c x (s.core c).copyq := ⟨h, rfl, rfl, rfl, hx, rfl, fun _ he => he⟩
  have hturn := hasCopy_turnOn (hasCopy_modCopy hstart (lineRead x j (s.bytes (tileKey c (offsetOf b)) n))) x j
  refine ⟨_, hturn, fun hlt => ?_, ?_⟩
  · rw [State.turnOn, if_neg (by omega)]
    exact (mem_agendaAdd _ _ _).mpr (.inl rfl)
  · exact copyLine_turn (find_copy hx) hnext hj (by simp [Copy.packs, hdesc]) (readLine_plain h hdesc hn h0 hruns hb)
      (lineEnds_plain hturn.plain hd hs) (find_copy hturn.copies)

end

/-! ## A line at its destination -/

theorem writeAt_sound {s : State} (a : Nat) (bs : List Byte) (h : s.poison = []) : (s.writeAt a bs).poison = [] := by
  have hcells (u : State) (n : Nat) (ks : List Nat) (hu : u.poison = []) :
      (ks.foldl (fun s k => let s := s.setPresent k true; if a ≤ k ∧ k + cellSize a ≤ a + n then s.cleanse k else s) u).poison = [] := by
    induction ks generalizing u with
    | nil => exact hu
    | cons k ks ih =>
      refine ih _ ?_
      simp only
      split
      · simp [State.cleanse, State.setPresent, hu]
      · exact hu
  unfold State.writeAt
  simp only
  split
  · exact h
  · rw [(markDirty_cells ..).2, (markDirty_cells ..).2]
    exact hcells _ _ _ h

theorem plain_writeAt {s : State} {c : Nat} (h : Plain s c) (a : Nat) (bs : List Byte) : Plain (s.writeAt a bs) c := by
  obtain ⟨hwin, hsnap, hwait, hpoison, hfwd, hok⟩ := h
  have hw := writes_writeAt a bs hok
  exact ⟨(hw.part c Core.vwin fun _ _ => rfl).trans hwin, (hw.part c Core.snapshot fun _ _ => rfl).trans hsnap,
    (hw.part c Core.waiting fun _ _ => rfl).trans hwait, writeAt_sound a bs hpoison, (hw.part c Core.fwds fun _ _ => rfl).trans hfwd, hw.ok⟩

section
variable {s t u : State} {c : Nat} {x y : Copy} {a : Word} {j n : Nat} {q : List Nat} {bs : List Byte}

/-- The line is written, and dealt with. -/
theorem landLine_plain (h : Plain t c) (hdesc : y.desc = none) (hview : y.view = none) (hdest : y.onDest = false)
    (hruns : joinRuns (y.kd.runs 70 (64 * j) n) = [(a, n)]) (ha : InTile c a n) (h0 : n ≠ 0) (hn : n ≤ 64) (hb : bs.length = n) :
    t.landLine c y ⟨64 * j, bs, [], false, true⟩ = (t.writeAt (tileKey c (offsetOf a)) bs).lineDone c y.id n false := by
  have hbad : t.destHandleBad y = false := by simp [State.destHandleBad, hdest]
  have hpacks : y.packs = false := by simp [Copy.packs, hdesc]
  have hruns' : joinRuns (y.kd.runs 80 (64 * j) n) = [(a, n)] := by
    rw [y.kd.runs_enough (g := 70) (by omega) (by omega), hruns]
  have hwrite := writeRuns_tile h ha h0 y.asid y.sup hb
  unfold State.landLine
  simp only [hb, hruns', hview, runFaults_tile h ha h0, hbad, Bool.false_and, Bool.false_eq_true, if_false, List.append_nil, worstFault, List.foldl_nil,
    Option.map_none, Option.getD_none, beq_self_eq_true, Bool.true_or, if_true]
  exact congrArg (fun v : State => v.lineDone c y.id n false) hwrite

theorem hasCopy_writeAt (h : HasCopy s t c y q) (a : Nat) (bs : List Byte) : HasCopy (t.writeAt a bs) (t.writeAt a bs) c y q := by
  have hw := writes_writeAt a bs h.plain.2.2.2.2.2
  exact ⟨plain_writeAt h.plain a bs, rfl, rfl, rfl, (hw.part c Core.copies fun _ _ => rfl).trans h.copies,
    (hw.part c Core.copyq fun _ _ => rfl).trans h.queue, fun _ he => he⟩

/-- The bytes of a line are on their way to the handle. -/
theorem subtract_plain (h : Plain t c) (hpop : y.pop = none) (hcore : y.hcore = c) (n : Nat) :
    t.subtract c y n = t.after Config.cycle (.handleSubtraction c y.h n ⟨c, y.slot, y.id⟩ y.asid) := by
  simp only [State.subtract, hpop, Option.isSome_none, Bool.false_eq_true, if_false, hcore, homeNow_plain h]

/-- What a line that is dealt with leaves: its bytes leave PEND, and with the last one the copy is gone. -/
structure LineDone (s t : State) (c : Nat) (y : Copy) (n : Nat) (q : List Nat) : Prop where
  mem : t.mem = s.mem
  pres : t.pres = s.pres
  agenda : ∀ e ∈ s.agenda, e ∈ t.agenda
  subtraction : ⟨s.now + Config.cycle, .handleSubtraction c y.h n ⟨c, y.slot, y.id⟩ y.asid⟩ ∈ t.agenda
  more : y.landed + 1 ≠ y.lines → (t.core c).copies.length = 1
  last : y.landed + 1 = y.lines → (t.core c).copies = [] ∧ (t.core c).copyq = q.filter (· != y.id)

/-- The place of a copy in the engine is free again, and every slot looks again. -/
def State.dropCopy (s : State) (c id : Nat) : State :=
  (s.modCore c fun k => { k with copies := k.copies.filter fun y => y.id != id, copyq := k.copyq.filter (· != id) }).kickAll c

theorem endCopy_plain (h : Plain t c) (hdesc : y.desc = none) (hpop : y.pop = none) (hcore : y.hcore = c) (h0 : n ≠ 0) :
    t.endCopy c y n = (t.after Config.cycle (.handleSubtraction c y.h n ⟨c, y.slot, y.id⟩ y.asid)).dropCopy c y.id := by
  have hreturn (u : State) : u.returnPage c y = u := by
    simp only [State.returnPage, hdesc]
    exact if_neg (by simp)
  unfold State.endCopy
  simp only [hpop, hdesc, Option.isSome_none, Bool.false_eq_true, if_false, if_neg h0, subtract_plain h hpop hcore, hreturn]
  rfl

theorem core_dropCopy (s : State) (c id : Nat) : ∃ ss r, (s.dropCopy c id).core c = { s.core c with
    copies := (s.core c).copies.filter fun y => y.id != id, copyq := (s.core c).copyq.filter (· != id), slots := ss, running := r } := by
  obtain ⟨r, hr⟩ := State.core_kickAll_same
    (s.modCore c fun k => { k with copies := k.copies.filter fun y => y.id != id, copyq := k.copyq.filter (· != id) }) c
  refine ⟨Table.mapVals Slot.kick (s.core c).slots, r, hr.trans ?_⟩
  rw [State.core_modCore_same]

/-- One more line of a copy has landed. -/
def landedOne (y : Copy) : Copy := { y with landed := y.landed + 1 }

theorem lineDone_eq (h : (t.core c).copies = [y]) (hpacks : y.packs = false) (h0 : n ≠ 0) : t.lineDone c y.id n false =
    if y.landed + 1 = y.lines then (t.modCopy c y.id fun _ => landedOne y).endCopy c (landedOne y) n
    else (t.modCopy c y.id fun _ => landedOne y).subtract c (landedOne y) n := by
  have hpacks' : (landedOne y).packs = false := hpacks
  unfold State.lineDone
  rw [find_copy h]
  unfold landedOne at hpacks' ⊢
  simp only [hpacks', Bool.or_false, Bool.false_eq_true, if_false, h0, decide_false]

theorem lineDone_plain (h : HasCopy s t c y q) (hdesc : y.desc = none) (hpop : y.pop = none) (hcore : y.hcore = c) (h0 : n ≠ 0) :
    LineDone s (t.lineDone c y.id n false) c y n q := by
  have hnext := hasCopy_after (hasCopy_modCopy h fun _ => landedOne y) Config.cycle (.handleSubtraction c y.h n ⟨c, y.slot, y.id⟩ y.asid)
  have hsub : ⟨s.now + Config.cycle, .handleSubtraction c y.h n ⟨c, y.slot, y.id⟩ y.asid⟩ ∈
      ((t.modCopy c y.id fun _ => landedOne y).after Config.cycle (.handleSubtraction c y.h n ⟨c, y.slot, y.id⟩ y.asid)).agenda :=
    (mem_agendaAdd _ _ _).mpr (.inl (by rw [← h.now]; rfl))
  have hplain := (hasCopy_modCopy h fun _ => landedOne y).plain
  rw [lineDone_eq h.copies (by simp [Copy.packs, hdesc]) h0]
  split
  · next hlast =>
    have hend := endCopy_plain (y := landedOne y) hplain hdesc hpop hcore h0
    obtain ⟨ss, r, hk⟩ := core_dropCopy ((t.modCopy c y.id fun _ => landedOne y).after Config.cycle
      (.handleSubtraction c y.h n ⟨c, y.slot, y.id⟩ y.asid)) c y.id
    rw [hend]
    refine ⟨(State.kickAll_mem ..).trans hnext.mem, (State.kickAll_cells ..).2.trans hnext.pres, fun e he => State.mem_agenda_kickAll c (hnext.agenda e he),
      State.mem_agenda_kickAll c hsub, fun hne => absurd hlast hne, fun _ => ⟨?_, ?_⟩⟩
    · refine (congrArg Core.copies hk).trans ?_
      simp only [hnext.copies]
      simp [landedOne]
    · refine (congrArg Core.copyq hk).trans ?_
      simp only [hnext.queue]
  · next hmore =>
    rw [subtract_plain (y := landedOne y) hplain hpop hcore]
    exact ⟨hnext.mem, hnext.pres, hnext.agenda, hsub, fun _ => congrArg List.length hnext.copies, fun hlast => absurd hlast hmore⟩

end

/-! ## COPY_TRANSFER_LINE and HANDLE_SUBTRACTION -/

theorem copyTransferLine_idle {s : State} {c id : Nat} (j : Nat) (ok : Bool) (data : Option LineData) (h : ∀ x ∈ (s.core c).copies, x.id ≠ id) :
    Occurs .copyTransferLine s (.copyTransferLine c id j ok data) s := by
  have hfind : ((s.core c).copies.find? fun x => x.id == id) = none := List.find?_eq_none.mpr fun x hx => by simpa using h x hx
  refine occurs_of exec_copyTransferLine ?_
  simp only [hfind]

/-- The engine takes its turn where no page that the line touches rests compressed. -/
theorem copyTransferLine_turn {s : State} {c j : Nat} {x : Copy} (hx : (s.core c).copies = [x])
    (hstall : s.stallLine c j x (.copyTransferLine c x.id j true none) = none) :
    Occurs .copyTransferLine s (.copyTransferLine c x.id j true none) (s.copyLine c x.id j true) := by
  refine occurs_of exec_copyTransferLine ?_
  simp only [find_copy hx, hstall]

/-- What a line of a plain copy within one tile store leaves (R156, R157). -/
structure LineCopied (s t : State) (c : Nat) (x : Copy) (j : Nat) (a b : Word) (n : Nat) : Prop where
  bytes : t.bytes (tileKey c (offsetOf a)) n = s.bytes (tileKey c (offsetOf b)) n
  same : ∀ i, (i < tileKey c (offsetOf a) ∨ tileKey c (offsetOf a) + n ≤ i) → memByte t.mem i = memByte s.mem i
  full : ∀ i, i < n → t.present false (tileKey c (offsetOf a) + i) = true
  subtraction : ⟨s.now + Config.cycle, .handleSubtraction c x.h n ⟨c, x.slot, x.id⟩ x.asid⟩ ∈ t.agenda
  more : j + 1 < x.lines → ⟨s.now + 2, .copyTransferLine c x.id (j + 1) true none⟩ ∈ t.agenda ∧ (t.core c).copies.length = 1
  last : j + 1 = x.lines → (t.core c).copies = [] ∧ x.id ∉ (t.core c).copyq

theorem copyLine_copies {s : State} {c j n : Nat} {x : Copy} {a b : Word} (h : Plain s c) (hx : (s.core c).copies = [x]) (hdesc : x.desc = none)
    (hview : x.view = none) (hpop : x.pop = none) (hcore : x.hcore = c) (hdest : x.onDest = false) (hd : InTile c x.kd.base 0) (hs : InTile c x.ks.base 0)
    (hnext : x.next = j) (hland : x.landed = j) (hj : j < x.lines) (hn : n = min 64 (x.kd.bytes - 64 * j)) (h0 : n ≠ 0)
    (hto : joinRuns (x.kd.runs 70 (64 * j) n) = [(a, n)]) (hfrom : x.ks.runs 70 (64 * j) n = [(b, n)]) (ha : InTile c a n) (hb : InTile c b n) :
    LineCopied s (s.copyLine c x.id j true) c x j a b n := by
  obtain ⟨t, ht, hmore, he⟩ := copyLine_plain h hx hdesc hd hs hnext hj hn h0 hfrom hb
  have hlen : (s.bytes (tileKey c (offsetOf b)) n).length = n := bytes_length ..
  have hkey := tileKey_lt ha
  have hok : MemOk t := ht.plain.2.2.2.2.2
  have hw := writes_writeAt (tileKey c (offsetOf a)) (s.bytes (tileKey c (offsetOf b)) n) hok
  have hbytes := bytes_writeAt (tileKey c (offsetOf a)) (s.bytes (tileKey c (offsetOf b)) n) hok
  rw [hlen] at hw hbytes
  have hdone := lineDone_plain (hasCopy_writeAt ht (tileKey c (offsetOf a)) (s.bytes (tileKey c (offsetOf b)) n)) hdesc hpop hcore h0
  rw [he, landLine_plain (y := lineRead x j (s.bytes (tileKey c (offsetOf b)) n) x) ht.plain hdesc hview hdest hto ha h0 (by omega) hlen]
  refine ⟨?_, fun i hi => ?_, fun i hi => ?_, ?_, fun hlt => ⟨?_, hdone.more ?_⟩, fun hl => ?_⟩
  · rw [State.bytes, hdone.mem]
    exact hbytes
  · rw [hdone.mem, hw.same i hi, ht.mem]
  · rw [State.present, hdone.pres]
    exact present_writeAt false (by omega) (by omega)
  · have := hdone.subtraction
    rw [hw.now, ht.now] at this
    exact this
  · refine hdone.agenda _ ?_
    rw [hw.agenda]
    exact hmore hlt
  · change x.landed + 1 ≠ x.lines
    omega
  · obtain ⟨hnone, hq⟩ := hdone.last (show x.landed + 1 = x.lines by omega)
    refine ⟨hnone, ?_⟩
    rw [hq]
    simp [lineRead]

/-! ## STREAM_REFILL (R166) -/

theorem streamRefill_idle {s : State} {c id : Nat} (h : ∀ x ∈ (s.core c).streams, x.id ≠ id) : Occurs .streamRefill s (.streamRefill c id) s := by
  have hfind : ((s.core c).streams.find? fun x => x.id == id) = none := List.find?_eq_none.mpr fun x hx => by simpa using h x hx
  refine occurs_of exec_streamRefill ?_
  simp only [hfind]

/-- The engine has started on a stream: its place in the queue is free (R149). -/
def State.started (s : State) (c id : Nat) : State := if (s.core c).copyq.contains id then s.dequeue c id else s

section
variable {s t : State} {c : Nat} {x : Stream}

/-- What the start of a stream leaves: the memory, and of the core all but the queue, the slots' states and the clock. -/
structure Started (s t : State) (c : Nat) : Prop where
  mem : t.mem = s.mem
  poison : t.poison = s.poison
  core : ∃ q ss r, t.core c = { s.core c with copyq := q, slots := ss, running := r }
  saving : ∀ n, (t.slot c n).saving = (s.slot c n).saving

theorem started_leaves (s : State) (c id : Nat) : Started s (s.started c id) c := by
  unfold State.started
  split
  · obtain ⟨hmem, hpoison, -, -, -⟩ := dequeue_rest s c id
    obtain ⟨ss, r, hk⟩ := core_dequeue s c id
    refine ⟨hmem, hpoison, ⟨_, ss, r, hk⟩, fun n => ?_⟩
    rw [State.dequeue, State.slot_kickAll_same]
    obtain ⟨st, why, mk, he⟩ := Slot.kick_rest ((s.modCore c fun k => { k with copyq := k.copyq.filter (· != id) }).slot c n)
    rw [he, State.slot, State.core_modCore_same]
    rfl
  · exact ⟨rfl, rfl, ⟨_, _, _, rfl⟩, fun _ => rfl⟩

theorem Started.plain (h : Started s t c) (hp : Plain s c) : Plain t c := by
  obtain ⟨q, ss, r, hk⟩ := h.core
  exact plain_of_core hp ⟨_, hk, rfl, rfl, rfl, rfl⟩ h.poison h.mem

/-- A thread that waits for a stream's head changes no memory, and of its core slots and clock only. -/
theorem wakeReader_leaves (s : State) (c : Nat) (x : Stream) : (s.wakeReader c x).mem = s.mem ∧
    ∃ ss r, (s.wakeReader c x).core c = { s.core c with slots := ss, running := r } := by
  unfold State.wakeReader
  simp only
  generalize (if x.vec = true then _ else (s.slot c x.slot).filled x.reg false) = y
  refine ⟨State.kickAll_mem .., ?_⟩
  obtain ⟨r, hr⟩ := State.core_kickAll_same (s.modCore c fun k => (k.setSlot x.slot y).ungate) c
  obtain ⟨r', hr'⟩ := Core.ungate_eq ((s.core c).setSlot x.slot y)
  refine ⟨Table.mapVals Slot.kick (((s.core c).setSlot x.slot y).ungate).slots, r, hr.trans ?_⟩
  rw [State.core_modCore_same, hr']
  rfl

/-- A stream once its next element has entered the FIFO. -/
def elementRead (bs : List Byte) (y : Stream) : Stream := { y with fifo := y.fifo ++ [BitVec.ofNat 2048 (leNat bs)], fetched := y.fetched + 1 }

/-- What comes behind an element: the handle is full with the last one, and else the engine goes on while the FIFO has room (R166, R175). -/
def State.goOn (s : State) (c : Nat) (x : Stream) : State :=
  if x.fetched + 1 = x.total then
    (s.modCore c fun k => let y := k.handle x.h; k.setHandle x.h (if y.bst = 1 then y.fill else y)).evalHandle c x.h
  else if x.fifo.length + 1 < x.depth then s.after Config.cycle (.streamRefill c x.id)
  else s

theorem evalHandle_core (s : State) (c h d : Nat) : (s.evalHandle c h).core d = s.core d ∧ (s.evalHandle c h).mem = s.mem := by
  unfold State.evalHandle
  split <;> exact ⟨rfl, rfl⟩

theorem goOn_leaves (s : State) (c : Nat) (x : Stream) : (s.goOn c x).mem = s.mem ∧ ((s.goOn c x).core c).streams = (s.core c).streams ∧
    (x.fetched + 1 = x.total → ((s.core c).handle x.h).bst = 1 → ((s.goOn c x).core c).handle x.h = ((s.core c).handle x.h).fill) := by
  unfold State.goOn
  split
  · refine ⟨(evalHandle_core _ _ _ c).2.trans rfl, ?_, fun _ hb => ?_⟩ <;> rw [(evalHandle_core ..).1, State.core_modCore_same]
    · rfl
    · simp only
      rw [if_pos hb]
      exact Table.get_put_same _ _ _ _
  · next hmore =>
    split
    · exact ⟨rfl, rfl, fun hl => absurd hl hmore⟩
    · exact ⟨rfl, rfl, fun hl => absurd hl hmore⟩

/-- An element of a scalar stream that is read without a fault. -/
theorem refill_reads {bs : List Byte} (hx : ((s.core c).streams.find? fun y => y.id == x.id) = some x) (hvec : x.vec = false) (hdead : x.dead = false)
    (hsave : ((s.started c x.id).slot c x.slot).saving = false) (hroom : x.fifo.length < x.depth) (hleft : x.fetched < x.total)
    (hread : (s.started c x.id).readRuns c x.asid x.sup (x.shape.runs 260 (x.shape.size * x.fetched) x.shape.size) = (bs, [], s.started c x.id)) :
    s.refill c x.id = (((s.started c x.id).modCore c fun k => k.modStream x.id (elementRead bs)).goOn c x).wakeReader c x := by
  unfold State.refill
  rw [hx]
  unfold State.started State.dequeue at hsave hread ⊢
  simp only [hvec, hdead, hsave, hread, Bool.false_or, Bool.false_and, Bool.false_eq_true, if_false, Bool.or_eq_true, decide_eq_true_eq, Nat.not_le.mpr hroom,
    Nat.not_le.mpr hleft, or_self, worstFault, List.foldl_nil]
  rfl
end

/-- STREAM_REFILL where the element's bytes lie in a tile store. -/
theorem streamRefill_turn {s : State} {c n : Nat} {x : Stream} {a : Word} (hx : ((s.core c).streams.find? fun y => y.id == x.id) = some x)
    (hvec : x.vec = false) (hruns : x.shape.runs 260 (x.shape.size * x.fetched) x.shape.size = [(a, n)]) (hf : isFabric a = true) :
    Occurs .streamRefill s (.streamRefill c x.id) (s.refill c x.id) := by
  have hstall (e : Event) : s.stalled c x.asid [a] e = none := by simp [State.stalled, State.stalledAt, hf]
  refine occurs_of exec_streamRefill ?_
  simp only [hx, hvec, Bool.false_eq_true, if_false, hruns, List.map_cons, List.map_nil, hstall]

/-- What a refill of a scalar stream within one tile store leaves. -/
structure Refilled (s t : State) (c : Nat) (x : Stream) (a : Word) : Prop where
  same : SameMem s t
  streams : (t.core c).streams = [elementRead (s.bytes (tileKey c (offsetOf a)) x.shape.size) x]
  filled : x.fetched + 1 = x.total → ((s.core c).handle x.h).bst = 1 → (t.core c).handle x.h = ((s.core c).handle x.h).fill

theorem refill_refills {s : State} {c : Nat} {x : Stream} {a : Word} (h : Plain s c) (hx : (s.core c).streams = [x]) (hvec : x.vec = false)
    (hdead : x.dead = false) (hsave : (s.slot c x.slot).saving = false) (hroom : x.fifo.length < x.depth) (hleft : x.fetched < x.total)
    (hruns : x.shape.runs 260 (x.shape.size * x.fetched) x.shape.size = [(a, x.shape.size)]) (ha : InTile c a x.shape.size) :
    Refilled s (s.refill c x.id) c x a := by
  have hstart := started_leaves s c x.id
  have hread := readRuns_tile (hstart.plain h) ha x.shape.size_pos.ne' x.asid x.sup
  have hbytes : (s.started c x.id).bytes (tileKey c (offsetOf a)) x.shape.size = s.bytes (tileKey c (offsetOf a)) x.shape.size := by
    rw [State.bytes, hstart.mem, State.bytes]
  rw [hbytes] at hread
  obtain ⟨q, ss, r, hcore⟩ := hstart.core
  have hin : (((s.started c x.id).modCore c fun k => k.modStream x.id (elementRead (s.bytes (tileKey c (offsetOf a)) x.shape.size))).core c) =
      { s.core c with copyq := q, slots := ss, running := r, streams := [elementRead (s.bytes (tileKey c (offsetOf a)) x.shape.size) x] } := by
    rw [State.core_modCore_same, hcore, Core.modStream]
    simp [hx]
  obtain ⟨gmem, gstreams, ghandle⟩ := goOn_leaves
    ((s.started c x.id).modCore c fun k => k.modStream x.id (elementRead (s.bytes (tileKey c (offsetOf a)) x.shape.size))) c x
  rw [refill_reads (by simp [hx]) hvec hdead ((hstart.saving _).trans hsave) hroom hleft (by rw [hruns]; exact hread)]
  obtain ⟨wmem, ss', r', wcore⟩ := wakeReader_leaves
    (((s.started c x.id).modCore c fun k => k.modStream x.id (elementRead (s.bytes (tileKey c (offsetOf a)) x.shape.size))).goOn c x) c x
  refine ⟨fun i => ?_, ?_, fun hlast hb => ?_⟩
  · rw [wmem, gmem, State.modCore_mem, hstart.mem]
  · rw [wcore]
    refine gstreams.trans ?_
    rw [hin]
  · rw [wcore]
    rw [hin] at ghandle
    exact ghandle hlast hb

/-! ## POOL_EXHAUSTED_TIMEOUT (R109) -/

theorem poolTime_eq : poolTime = 64 * Config.us := rfl

/-- Whether a stall has waited for T in vain. -/
def Stall.over (x : Stall) (T now : Nat) : Bool := x.starved.any fun t => decide (t + T ≤ now)

theorem over_some {x : Stall} {t T now : Nat} (hs : x.starved = some t) : x.over T now = decide (t + T ≤ now) := by rw [Stall.over, hs]; rfl

theorem none_over {xs : List Stall} {frame T now : Nat} (h : ∀ x ∈ xs, x.frame = frame → ∀ t, x.starved = some t → now < t + T) :
    (xs.any fun x => x.frame == frame && x.over T now) = false := by
  refine List.any_eq_false.mpr fun x hx => ?_
  rw [Bool.and_eq_true, beq_iff_eq]
  rintro ⟨hf, ho⟩
  cases hs : x.starved with
  | none => simp [Stall.over, hs] at ho
  | some t =>
    rw [over_some hs, decide_eq_true_eq] at ho
    exact absurd (h x hx hf t hs) (Nat.not_lt.mpr ho)

theorem poolExhaustedTimeout_waits {s : State} {d frame : Nat}
    (h : ∀ x ∈ (s.hub d).expanding, x.frame = frame → ∀ t, x.starved = some t → s.now < t + 64 * Config.us) :
    Occurs .poolExhaustedTimeout s (.poolExhaustedTimeout d frame) s := by
  rw [← poolTime_eq] at h
  exact occurs_of exec_poolExhaustedTimeout (if_neg (Bool.eq_false_iff.mp (none_over h)))

theorem poolExhaustedTimeout_refuses {s : State} {d t : Nat} {x : Stall} {r : Req} (hx : (s.hub d).expanding = [x]) (hs : x.starved = some t)
    (ht : t + 64 * Config.us ≤ s.now) (hev : x.evs = [.translationRequest r]) : Occurs .poolExhaustedTimeout s (.poolExhaustedTimeout d x.frame)
      ((s.modHub d fun h => { h with expanding := h.expanding.filter fun e => e.frame != x.frame }).after 0 (.refusal r.src 11)) := by
  rw [← poolTime_eq] at ht
  have hover : ((s.hub d).expanding.any fun y => y.frame == x.frame && y.over poolTime s.now) = true := by
    simp only [hx, List.any_cons, List.any_nil, beq_self_eq_true, over_some hs, decide_eq_true ht, Bool.and_self, Bool.or_false]
  have hend : s.endStall d x.frame = ([.translationRequest r], s.modHub d fun h => { h with expanding := h.expanding.filter fun e => e.frame != x.frame }) := by
    rw [State.endStall, hx]
    simp [hev]
  refine occurs_of exec_poolExhaustedTimeout ((if_pos hover).trans ?_)
  simp only [hend, List.foldl_cons, List.foldl_nil, State.noFrame]

/-! ## The statement -/

theorem claim_copyEvents : Claim.CopyEvents := by
  intro s c
  refine ⟨fun n h => copyAcceptance_idle h, fun n i next hpush hstop hsave hpushed => ?_,
    fun id j ok data h => copyTransferLine_idle j ok data h, ?_, fun h n src asid => occurs_of exec_handleSubtraction rfl,
    fun id h => streamRefill_idle h, ?_, fun d frame h => poolExhaustedTimeout_waits h, fun d x t r hx hs ht hev => ?_⟩
  · have hh : HeldCopy s c n i next := ⟨hpush, hstop, hsave, hpushed⟩
    refine ⟨fun hi t ht => copyAcceptance_retried hh hi ht, fun m o hg => ⟨?_, ?_⟩, fun m o v hg hv => ⟨?_, ?_, ?_⟩, ?_, ?_⟩
    · rintro rfl
      exact retaken_of_body hh (.inl ⟨m, o, .inl rfl⟩) hg (exec_cp ..) rfl
    · rintro rfl
      exact retaken_of_body hh (.inl ⟨m, o, .inr rfl⟩) hg (exec_cpD ..) rfl
    · rintro rfl
      exact retaken_of_body hh (.inr (.inl ⟨m, o, .inl rfl⟩)) hg (exec_cpBv ..) (withReg_ok _ hv)
    · rintro rfl
      exact retaken_of_body hh (.inr (.inl ⟨m, o, .inr (.inl rfl)⟩)) hg (exec_cpx ..) (withReg_ok _ hv)
    · rintro rfl
      exact retaken_of_body hh (.inr (.inl ⟨m, o, .inr (.inr rfl)⟩)) hg (exec_cpxD ..) (withReg_ok _ hv)
    · rintro m o rfl hg hmode hok hesz hp hq
      rw [← copyq_retrying s c n next] at hq
      exact copyAcceptance_retried hh (.inr (.inr (.inl ⟨m, o, rfl⟩))) ((claim_streamForms _ m hg).1 o hmode hok hesz hp hq)
    · rintro m o p rfl hg hplace hup hnorm hok hbytes hp hq
      rw [← copyq_retrying s c n next] at hq
      rw [← vreg_retrying s c n next] at hnorm
      exact copyAcceptance_retried hh (.inr (.inr (.inr ⟨m, o, rfl⟩))) ((claim_streamForms _ m hg).2.1 o p hplace hup hnorm hok hbytes hp hq)
  · intro x j a b n hx h hdesc hview hpop hcore hdest hd hs hnext hland hj hn h0 hto hfrom htouch ha hb
    obtain ⟨hbytes, hsame, hfull, hsub, hmore, hlast⟩ := copyLine_copies h hx hdesc hview hpop hcore hdest hd hs hnext hland hj hn h0 hto hfrom ha hb
    exact happens_of_occurs (copyTransferLine_turn hx (stallLine_none hview htouch _)) ⟨hbytes, hsame, hfull, hsub, hmore, hlast⟩
  · intro x a hx h hvec hdead hsave hroom hleft hruns ha
    obtain ⟨hsame, hstreams, hfilled⟩ := refill_refills h hx hvec hdead hsave hroom hleft hruns ha
    refine happens_of_occurs (streamRefill_turn (by rw [hx]; simp) hvec hruns ha.1) ⟨hsame, hstreams, fun hl hb => ?_⟩
    rw [hfilled hl hb]
    exact ⟨rfl, rfl⟩
  · refine happens_of_occurs (poolExhaustedTimeout_refuses hx hs ht hev) ⟨fun _ => rfl, rfl, ?_, rfl, now_after s _ _ rfl⟩
    rw [State.hub, State.after_hubs]
    change ((s.modHub d _).hub d).expanding = []
    rw [State.modHub, State.hub_setHub_same, hx]
    simp

/-- Settles O46: a held copy is its form's own outcome at the retry; a line is what `copyLine` reads and `landLine` writes in a tile store without windows,
snapshots and poison; a refill reads one element and looks at the stream's end; a stalled page is timed out by its frame. -/
theorem copyAndStreamEvents : Obligations.CopyAndStreamEvents := claim_copyEvents

end Sys2Proof.Machine
end
